-- ==== Sys2Proof/Word.lean ====
section
/-! DEFINITION. The word types of the W3 and the plainest arithmetic on them. -/

namespace Sys2Proof

/-- A V register, an .b32 value (R119). -/
abbrev Reg := BitVec 32

/-- A register pair, a G register, an instruction word, a handle (R9, R119). -/
abbrev Quad := BitVec 64

/-- One byte of memory. -/
abbrev Byte := BitVec 8

/-- The field of bits `hi` to `lo` of `x` (R12: x[h:l]). -/
def field (x hi lo : Nat) : Nat := x / 2 ^ lo % 2 ^ (hi + 1 - lo)

/-- Bit `n` of `x`. -/
def bitAt (x n : Nat) : Bool := x / 2 ^ n % 2 == 1

end Sys2Proof
end

