-- ==== Sys2Proof/Config.lean ====
section
/-! DEFINITION. What an implementation fixes, and the free values the spec leaves open. Every constant without a body
is a free value: nothing in Lean can evaluate it or prove a value of it. -/

namespace Sys2Proof.Config

/-- The free choice of the `n`-th open selection (R63: which of the values ever written a broken invariant read
returns; R58: which entry a full translation cache gives up). Log entry 5. -/
opaque freePick : Nat → Nat

/-- SM3 of a byte string (R392, R424, R425): the hash function is a standard the spec names and does not state.
Log entry 6. -/
opaque sm3 : List Byte → BitVec 256

/-- Whether an SM2 signature of a hash checks against the vendor key (R392, R424). Log entry 6. -/
opaque sm2Checks : BitVec 256 → BitVec 512 → Bool

/-- The SM2 signature that the root of trust forms over a hash (R425). Log entry 6. -/
opaque sm2Sign : BitVec 256 → BitVec 512

/-- The measurement of the root of trust's ROM (R425, OBJ 3). Log entry 6. -/
opaque romMeasure : BitVec 256

/-- The site of the spare that takes over at the `n`-th retirement (R420, KIND 3 DATA). Log entry 7. -/
opaque spareSite : Nat → Nat

/-- The SEQ that an attestation report gives for the root of trust's ROM (argument 0) and for the kernel image of a launch
(its number): the spec names no SEQ of theirs (R425). Log entry 6. -/
opaque ownSeq : Nat → Nat

/-- The Ethernet port and half, as 2 * port + half, that carries a RoCEv2 connection (R214, R395, R423): the spec names the port
and does not say which. Log entry 10. -/
opaque ethPort : Nat → Nat

/-- The channel of its stack, modulo 32, on which an HBM address lies (R422): the spec maps addresses to stacks alone. Log
entry 67. -/
opaque hbmChannel : Nat → Nat

/-- The firmware threshold of a core's corrected errors (R420). Log entry 68. -/
opaque retireAt : Nat

/-- Active cores (R4). -/
def nCores : Nat := 256
/-- User slots of a core (R4, R269). -/
def nUserSlots : Nat := 2048
/-- All slots of a core (R4, R269). -/
def nSlots : Nat := 2112
/-- Bytes of one slice (R48). -/
def sliceBytes : Nat := 0x480000
/-- Instruction words of a core (R4, R33). -/
def nInstrWords : Nat := 32768
/-- Engine slots per class and core, pager slots per die (R70). -/
def nEngineSlots : Nat := 2048
/-- Task entries per die (R4). -/
def nEntries : Nat := 16384
/-- Wake records per die (R4, R361). -/
def nWake : Nat := 4096
/-- Conditions of the device (R256). -/
def nConds : Nat := 4096
/-- Records of a fault queue (R349). -/
def nFaultRecs : Nat := 256
/-- Entries of a commit queue (R261). -/
def nCommit : Nat := 32
/-- Entries of a translation cache (R58). -/
def nTlb : Nat := 512

/-- The bound of R314 on engine replies, in ticks. -/
def replyLimit : Nat := 65536
/-- Latency of a local access to the own slice, and to the partner slice (R52, R314). -/
def latOwn : Nat := 6
def latPartner : Nat := 14
/-- Granary latencies of R314: own die, far or device-wide, held in a tiller, and supervisor. -/
def latGran : Nat := 48
def latGranFar : Nat := 96
def latHeld : Nat := 4
def latSup : Nat := 24
/-- Table load latency (R179) and sub-array wake (R227). -/
def latTable : Nat := 11
def wakeCycles : Nat := 96

/-- The lowest physical address of the SRAM window and the step between slices (R54, R55). -/
def sramBase : Nat := 0x040000000000
def sliceStep : Nat := 0x800000

end Sys2Proof.Config
end

