-- ==== Sys2Proof/Syntax.lean ====
section
/-! DEFINITION. The steps of the W3 as syntax: one constructor per row of spec/opcode_table.json. An instruction row
carries the fields of its word. An event that comes from outside carries its operands; the unit in which an event of the
machine itself happens is named by `State.cur`, `State.sub` and `State.ix`. -/

namespace Sys2Proof

/-- The type codes of R115. -/
inductive Ty
  | b32 | b64 | s8 | s16 | s32 | s64 | n8 | n16 | n32 | n64 | s4 | n4 | f32 | f16 | bf16 | e5m2 | e4m3 | e2m1 | e8m0
  deriving DecidableEq, Repr

/-- The rounding codes of R101. -/
inductive Rm
  | rne | rz | rdn | rup
  deriving DecidableEq, Repr

/-- The fields of a full-form word (R113, R114), the opcode apart. -/
structure Full where
  d : BitVec 10
  a : BitVec 10
  b : BitVec 10
  g : BitVec 3
  ng : Bool
  fsel : Bool
  dsel : BitVec 2
  ty : Ty
  rm : Rm
  sat : Bool
  ub : Bool
  opx : BitVec 6
  deriving DecidableEq, Repr

/-- The fields of an immediate-form word (R123), the opcode apart. -/
structure Imm where
  d : BitVec 10
  a : BitVec 10
  g : BitVec 2
  imm : BitVec 32
  deriving DecidableEq, Repr

/-- Which half of a paired word (R120). -/
inductive Side
  | a | b
  deriving DecidableEq, Repr

/-- The fields of one half of a paired word (R120), the half-opcode apart. -/
structure Half where
  side : Side
  d : BitVec 10
  s : BitVec 10
  g : BitVec 2
  ng : Bool
  us : Bool
  deriving DecidableEq, Repr

/-- The memories of the service log's KIND 1 and 2 records (R417). -/
inductive ErrMem
  | registers | slice | accumulators | instructionStore | hbm
  deriving DecidableEq, Repr

/-- The measured values that one telemetry interval brings in from outside (R428, R429). -/
structure TelemInput where
  pwr : Nat
  tin : Nat
  flow : Nat
  tj : List Nat
  deriving DecidableEq, Repr

/-- A firmware image as the system cores write it (R424). -/
structure FwImage where
  bytes : List Byte
  seq : Nat
  sig : BitVec 512
  deriving DecidableEq, Repr

/-- The Plinth parameters of R388. -/
inductive Param
  | dlmax | escl | ghi | gdist | lmin | awin
  | qlim (die q : Nat) | predK | gating
  | bw (resource : Nat) | lroute (kind : Nat) | slice | powerCap | grace
  deriving DecidableEq, Repr

/-- What a rank on another device sends into a collective call (R231, R383): its join, with its call's shape and its source
bytes, or its withdrawal. -/
structure PeerMsg where
  device : Nat
  cid : Nat
  call : Nat
  rank : Nat
  cancel : Bool
  ranks : Nat
  op : Nat
  ty : Ty
  ofmt : Bool
  n : Nat
  data : List Byte
  deriving DecidableEq, Repr

/-- The steps of the W3, one per row of the opcode table. -/
inductive Instr
  /-- Copies a register, or a uniform operand, to Vd unchanged. (R134) -/
  | mov (f : Full)
  /-- Selects Va or Vb by a predicate named in OPX. (R134) -/
  | sel (f : Full)
  /-- Adds two 32-bit integers, wrapping or saturating. (R134) -/
  | add (f : Full)
  /-- Subtracts two 32-bit integers, wrapping or saturating. (R134) -/
  | sub (f : Full)
  /-- Multiplies two 32-bit integers, wrapping or saturating. (R134) -/
  | mul (f : Full)
  /-- Writes the high 32 bits of the exact product. (R134) -/
  | mulh (f : Full)
  /-- Writes a x b + d, wrapping or saturating. (R134) -/
  | mad (f : Full)
  /-- Divides with truncation toward zero, without trapping. (R135) -/
  | div (f : Full)
  /-- Writes the remainder of the truncating division. (R135) -/
  | rem (f : Full)
  /-- Writes the lesser of two integers under the type. (R134) -/
  | min (f : Full)
  /-- Writes the greater of two integers under the type. (R134) -/
  | max (f : Full)
  /-- Writes the absolute value of a signed integer. (R134) -/
  | abs (f : Full)
  /-- Writes the negation of a signed integer. (R134) -/
  | neg (f : Full)
  /-- Bitwise AND. (R136) -/
  | and (f : Full)
  /-- Bitwise OR. (R136) -/
  | or (f : Full)
  /-- Bitwise XOR. (R136) -/
  | xor (f : Full)
  /-- Writes x AND NOT y. (R136) -/
  | andn (f : Full)
  /-- Bitwise NOT. (R136) -/
  | not (f : Full)
  /-- Shifts left by a count from Vb bits 7:0. (R137) -/
  | shl (f : Full)
  /-- Shifts right logically. (R137) -/
  | shrl (f : Full)
  /-- Shifts right arithmetically. (R137) -/
  | shra (f : Full)
  /-- Rotates left. (R137) -/
  | rotl (f : Full)
  /-- Extracts a bit field, with zero or sign extension. (R138) -/
  | bfx (f : Full)
  /-- Inserts a bit field into Vd. (R138) -/
  | bfi (f : Full)
  /-- Builds each result byte from a byte or nibble of Va chosen by a 5-bit code. (R139) -/
  | perm (f : Full)
  /-- Counts leading zero bits. (R140) -/
  | clz (f : Full)
  /-- Counts one bits. (R140) -/
  | popc (f : Full)
  /-- Reverses the bit order. (R140) -/
  | brev (f : Full)
  /-- Writes Va + Vb x 2^s, wrapped to 32 bits. (R141) -/
  | lea (f : Full)
  /-- Adds two 64-bit pairs, wrapping. (R141) -/
  | addD (f : Full)
  /-- Writes a predicate from an integer comparison. (R143) -/
  | setp (f : Full)
  /-- ANDs two predicates, optionally negated. (R144) -/
  | pand (f : Full)
  /-- ORs two predicates, optionally negated. (R144) -/
  | por (f : Full)
  /-- XORs two predicates, optionally negated. (R144) -/
  | pxor (f : Full)
  /-- Writes the negation of a predicate. (R144) -/
  | pnot (f : Full)
  /-- Writes a 32-bit immediate to Vd. (R133) -/
  | movi (x : Imm)
  /-- Writes Va plus a signed 32-bit immediate, wrapped. (R133) -/
  | addi (x : Imm)
  /-- Transfers the thread to the target clause header. (R145) -/
  | bra (x : Imm)
  /-- Transfers to the target when Va compared with 0 meets the condition, and otherwise falls through. (R145) -/
  | brc (x : Imm)
  /-- Pushes the return header, spilling eight entries when the stack is full, and transfers to the target. (R145) -/
  | call (x : Imm)
  /-- Pushes the return header and transfers to the header in Va. (R145) -/
  | calli (f : Full)
  /-- Pops a return entry, filling eight from the stack area when none is held, and transfers to it. (R147) -/
  | ret (f : Full)
  /-- Loads a loop counter, and goes to the exit header when the count is zero. (R148) -/
  | loop (x : Imm)
  /-- Decrements the loop counter and repeats the body, or leaves the loop when the counter is at most 1. (R148) -/
  | lend (x : Imm)
  /-- Moves the thread to exited and releases its register storage. (R150) -/
  | exit (f : Full)
  /-- Has no effect. (R151) -/
  | nop (f : Full)
  /-- Reads and decodes the guest instruction at GPC into GIR, GOP, GA0 and GA1. (R155) -/
  | gfetch (f : Full)
  /-- Jumps to the handler-table entry for GOP, keyed by the handler address. (R157) -/
  | dispatchOp (f : Full)
  /-- Jumps to the handler for GOP, keyed by the handler address and the GPC as a guest tag. (R157) -/
  | dispatchPc (f : Full)
  /-- Advances GPC by the guest instruction length. (R158) -/
  | gnext (f : Full)
  /-- Sets GPC to Va. (R158) -/
  | gjmp (f : Full)
  /-- Adds Va to GPC. (R158) -/
  | gjmpRel (f : Full)
  /-- Adds Vb to GPC when Va meets the condition, and otherwise advances GPC by one guest instruction. (R158) -/
  | gbrc (f : Full)
  /-- Writes a guest register. (R159) -/
  | gset (f : Full)
  /-- Reads a guest register. (R159) -/
  | gget (f : Full)
  /-- Adds two FP32 values and rounds once. (R163) -/
  | fadd (f : Full)
  /-- Subtracts two FP32 values and rounds once. (R163) -/
  | fsub (f : Full)
  /-- Multiplies two FP32 values and rounds once. (R163) -/
  | fmul (f : Full)
  /-- Writes a x b + d in FP32 with one rounding. (R163) -/
  | ffma (f : Full)
  /-- Writes the lesser FP32 value, with NaN handling. (R165) -/
  | fmin (f : Full)
  /-- Writes the greater FP32 value, with NaN handling. (R165) -/
  | fmax (f : Full)
  /-- Writes a predicate from an FP32 comparison, with unordered handling. (R166) -/
  | fsetp (f : Full)
  /-- Writes a one-hot class mask of a float value. (R167) -/
  | fclass (f : Full)
  /-- Converts one value between float and integer types. (R168) -/
  | cvt (f : Full)
  /-- Converts and packs several registers into one register of narrow elements. (R170) -/
  | cvtpk (f : Full)
  /-- Unpacks the narrow elements of one register into consecutive registers, exactly. (R171) -/
  | cvtup (f : Full)
  /-- Converts an FP32 value with stochastic rounding. (R169) -/
  | cvtSr (f : Full)
  /-- Converts and packs FP32 values with stochastic rounding. (R170) -/
  | cvtpkSr (f : Full)
  /-- Adds two packed 16-bit float pairs. (R172) -/
  | padd2 (f : Full)
  /-- Multiplies two packed 16-bit float pairs. (R172) -/
  | pmul2 (f : Full)
  /-- Fused multiply-add on packed 16-bit float pairs. (R172) -/
  | pfma2 (f : Full)
  /-- Accumulates a dot product of two 16-bit element pairs. (R173) -/
  | dot2 (f : Full)
  /-- Accumulates a dot product of four 8-bit element pairs. (R173) -/
  | dot4 (f : Full)
  /-- Accumulates a dot product of eight 4-bit element pairs. (R173) -/
  | dot8 (f : Full)
  /-- Scales an FP32 value by an E8M0 code. (R174) -/
  | fmule (f : Full)
  /-- Correctly rounded reciprocal. (R175) -/
  | rcp (f : Full)
  /-- Correctly rounded reciprocal square root. (R175) -/
  | rsqrt (f : Full)
  /-- Correctly rounded square root. (R175) -/
  | sqrt (f : Full)
  /-- Correctly rounded 2^x. (R175) -/
  | exp2 (f : Full)
  /-- Correctly rounded log2 x. (R175) -/
  | log2 (f : Full)
  /-- Correctly rounded tanh x. (R175) -/
  | tanh (f : Full)
  /-- Correctly rounded sin x. (R175) -/
  | sin (f : Full)
  /-- Correctly rounded cos x. (R175) -/
  | cos (f : Full)
  /-- Evaluates the active activation table at x, reading it at issue. (R181) -/
  | tbl (f : Full)
  /-- Loads one table image from the slice into the inactive bank, once per sheaf. (R179) -/
  | tblld (f : Full)
  /-- Waits for earlier table loads to write, then inverts ACT, once per sheaf. (R180) -/
  | tblsw (f : Full)
  /-- Loads 1 to 8 bytes from a local address. (R184) -/
  | ld (f : Full)
  /-- Invariant load that may pass accesses on the other path. (R185) -/
  | ldI (f : Full)
  /-- Stores 1 to 8 bytes to a local address. (R184) -/
  | st (f : Full)
  /-- Store held until earlier accesses have committed and observed posted writes are performed. (R88) -/
  | stRel (f : Full)
  /-- Local atomic read-modify-write in one commit step, returning the old value. (R186) -/
  | atom (f : Full)
  /-- Sets a barrier's PEND and INIT and withdraws its waiters. (R189) -/
  | barInit (f : Full)
  /-- Subtracts a count from a barrier and returns a token. (R190) -/
  | barArrive (f : Full)
  /-- Waits for the phase named by a token to complete. (R191) -/
  | barWait (f : Full)
  /-- Waits for the phase and then for the arrivals' posted writes to be performed. (R191) -/
  | barWaitAcq (f : Full)
  /-- Arrives at a barrier and waits on that phase. (R192) -/
  | barArwt (f : Full)
  /-- Waits for a ring-slot tag to be EMPTY and claims it for n bytes. (R194) -/
  | slotClaim (f : Full)
  /-- Waits for a tag to be FULL and moves it to DRAINING. (R194) -/
  | slotTake (f : Full)
  /-- Returns a DRAINING tag to EMPTY. (R194) -/
  | slotFree (f : Full)
  /-- Waits for earlier accesses and masked engine classes to drain at a scope. (R89) -/
  | fence (f : Full)
  /-- Sleeps until the effective deadline, then writes DONE. (R197) -/
  | sleepu (f : Full)
  /-- Writes a deadline register. (R198) -/
  | dlset (f : Full)
  /-- Adds a clamped span to a deadline register. (R198) -/
  | dladd (f : Full)
  /-- Reads a deadline register. (R198) -/
  | dlget (f : Full)
  /-- Takes a value from another position of the active set. (R202) -/
  | shfl (f : Full)
  /-- Writes a ballot of a predicate over the active set, and an all, any or uniform result. (R203) -/
  | vote (f : Full)
  /-- Reduces Va over the active set. (R204) -/
  | redux (f : Full)
  /-- Writes an inclusive or exclusive prefix over the active set. (R204) -/
  | scan (f : Full)
  /-- Chooses a lane from member weights and a uniform value. (R205) -/
  | sample (f : Full)
  /-- Adds to the four counting-filter counters of a key and returns their minimum. (R207) -/
  | cntfAdd (f : Full)
  /-- Returns the minimum of a key's four counters. (R207) -/
  | cntfGet (f : Full)
  /-- Clears every counter of a filter, once per distinct base. (R207) -/
  | cntfClr (f : Full)
  /-- Starts a copy from global memory into the slice, with optional expansion and conversion. (R213) -/
  | copyIn (f : Full)
  /-- Starts a copy of slice bytes to global memory. (R213) -/
  | copyOut (f : Full)
  /-- Starts a copy whose write parts wait for the thread's earlier S and C effects. (R88) -/
  | copyRel (f : Full)
  /-- Starts one operation that performs a list of copy records. (R217) -/
  | ckick (f : Full)
  /-- Fills a weight buffer from the own slice. (R219) -/
  | wload (f : Full)
  /-- Streams activation rows from the slice through the matrix array into the accumulators. (R221) -/
  | mma (f : Full)
  /-- One matrix operation per sheaf with rows taken from the group's registers or the reuse latch. (R223) -/
  | mmaR (f : Full)
  /-- Streams register rows into both arrays of a pair as one operation. (R226) -/
  | mmap (f : Full)
  /-- Gathers embedding rows by index, with optional sum or mean pooling. (R229) -/
  | gather (f : Full)
  /-- Joins a collective call of a communicator. (R230) -/
  | coll (f : Full)
  /-- Performs one atomic at a global address, delivering the old value at completion. (R232) -/
  | ratom (f : Full)
  /-- Waits on a future and writes its status and summary. (R233) -/
  | fwait (f : Full)
  /-- Waits on a future and then for its posted writes to be performed. (R87) -/
  | fwaitAcq (f : Full)
  /-- Tests a future without waiting. (R233) -/
  | ftest (f : Full)
  /-- Asks the engine to withdraw an operation. (R234) -/
  | fcancel (f : Full)
  /-- Returns a copy's promise once the copy is accepted. (R235) -/
  | ftime (f : Full)
  /-- Sleeps until a copy's promise, under a deadline. (R236) -/
  | fsleep (f : Full)
  /-- Waits until an outstanding counter is at most a threshold. (R237) -/
  | waitn (f : Full)
  /-- Reads an outstanding counter and clears its FLT bit. (R238) -/
  | qrd (f : Full)
  /-- Waits for a task from the masked queues and returns its block. (R246) -/
  | taskTake (f : Full)
  /-- Creates a task from a descriptor, waiting for an entry and queue room. (R245) -/
  | taskPut (f : Full)
  /-- Ends the hold on a task, completing it and decrementing its successors. (R249) -/
  | taskDone (f : Full)
  /-- Adds a delta to a pending task's dependency counter. (R250) -/
  | taskDep (f : Full)
  /-- Hands out the next tuple of an index space. (R251) -/
  | taskCoord (f : Full)
  /-- Waits on a future, giving the slot up under a wake record when one is free. (R252) -/
  | taskWaitf (f : Full)
  /-- Creates a tiller on a condition with a probability. (R257) -/
  | spawn (f : Full)
  /-- Allocates a condition, waiting for one to free. (R256) -/
  | condNew (f : Full)
  /-- Resolves a condition to a value. (R260) -/
  | condSet (f : Full)
  /-- Reads a predictor site. (R264) -/
  | likeSite (f : Full)
  /-- Reads a task's likelihood and speculative state. (R264) -/
  | likeTask (f : Full)
  /-- Writes a predictor site and returns its old value. (R264) -/
  | likeSeed (f : Full)
  /-- Parks the thread with USER_TRAP. (R265) -/
  | trap (f : Full)
  /-- Parks the thread with BREAKPOINT. (R265) -/
  | bkpt (f : Full)
  /-- Marks its clause header as a pre-emption point with a liveness descriptor. (R266) -/
  | phint (f : Full)
  /-- Holds the thread at its next header for 16 x n cycles. (R267) -/
  | yield (f : Full)
  /-- Reads a special or group-uniform register. (R268) -/
  | sysr (f : Full)
  /-- Writes a special or group-uniform register. (R268) -/
  | sysw (f : Full)
  /-- Takes the oldest fault record from the core's queue, waiting when it is empty. (R270) -/
  | supPwait (f : Full)
  /-- Reads one item of a parked thread. (R271) -/
  | supPrd (f : Full)
  /-- Writes one item of a parked thread. (R271) -/
  | supPwr (f : Full)
  /-- Releases a parked thread by RETRY, SKIP or REDIRECT. (R352) -/
  | supResume (f : Full)
  /-- Moves a parked thread to exited and abandons its tasks. (R272) -/
  | supKill (f : Full)
  /-- Writes a parked thread's full image to the slice and saves the thread. (R273) -/
  | supSave (f : Full)
  /-- Restores a saved thread from its image as parked. (R273) -/
  | supLoad (f : Full)
  /-- Half 0x00: Vd := Vs. (R127) -/
  | pairedMovB32 (h : Half)
  /-- Half 0x01: Vd := Vd + Vs, wrapping. (R127) -/
  | pairedAddS32 (h : Half)
  /-- Half 0x02: Vd := Vd - Vs, wrapping. (R127) -/
  | pairedSubS32 (h : Half)
  /-- Half 0x03: Vd := low 32 bits of Vd x Vs. (R127) -/
  | pairedMulS32 (h : Half)
  /-- Half 0x04: signed minimum. (R127) -/
  | pairedMinS32 (h : Half)
  /-- Half 0x05: signed maximum. (R127) -/
  | pairedMaxS32 (h : Half)
  /-- Half 0x06: unsigned minimum. (R127) -/
  | pairedMinN32 (h : Half)
  /-- Half 0x07: unsigned maximum. (R127) -/
  | pairedMaxN32 (h : Half)
  /-- Half 0x08: bitwise AND. (R127) -/
  | pairedAndB32 (h : Half)
  /-- Half 0x09: bitwise OR. (R127) -/
  | pairedOrB32 (h : Half)
  /-- Half 0x0A: bitwise XOR. (R127) -/
  | pairedXorB32 (h : Half)
  /-- Half 0x0B: Vd AND NOT Vs. (R127) -/
  | pairedAndnB32 (h : Half)
  /-- Half 0x0C: Vd := NOT Vs. (R127) -/
  | pairedNotB32 (h : Half)
  /-- Half 0x0D: shift left. (R127) -/
  | pairedShlB32 (h : Half)
  /-- Half 0x0E: logical shift right. (R127) -/
  | pairedShrlB32 (h : Half)
  /-- Half 0x0F: arithmetic shift right. (R127) -/
  | pairedShraS32 (h : Half)
  /-- Half 0x10: rotate left. (R127) -/
  | pairedRotlB32 (h : Half)
  /-- Half 0x11: byte and nibble permute. (R127) -/
  | pairedPermB32 (h : Half)
  /-- Half 0x12: count leading zeros of Vs. (R127) -/
  | pairedClzB32 (h : Half)
  /-- Half 0x13: population count of Vs. (R127) -/
  | pairedPopcB32 (h : Half)
  /-- Half 0x14: bit reverse of Vs. (R127) -/
  | pairedBrevB32 (h : Half)
  /-- Half 0x15: negation of Vs. (R127) -/
  | pairedNegS32 (h : Half)
  /-- Half 0x16: absolute value of Vs. (R127) -/
  | pairedAbsS32 (h : Half)
  /-- Half 0x40: FP32 add with RNE. (R127) -/
  | pairedFaddF32 (h : Half)
  /-- Half 0x41: FP32 subtract with RNE. (R127) -/
  | pairedFsubF32 (h : Half)
  /-- Half 0x42: FP32 multiply with RNE. (R127) -/
  | pairedFmulF32 (h : Half)
  /-- Half 0x43: FP32 minimum. (R127) -/
  | pairedFminF32 (h : Half)
  /-- Half 0x44: FP32 maximum. (R127) -/
  | pairedFmaxF32 (h : Half)
  /-- Half 0x48: packed BF16 add. (R127) -/
  | pairedPadd2Bf16 (h : Half)
  /-- Half 0x49: packed BF16 multiply. (R127) -/
  | pairedPmul2Bf16 (h : Half)
  /-- Half 0x4A: packed FP16 add. (R127) -/
  | pairedPadd2F16 (h : Half)
  /-- Half 0x4B: packed FP16 multiply. (R127) -/
  | pairedPmul2F16 (h : Half)
  /-- Half 0x60: Pd := Pd AND Ps. (R127) -/
  | pairedPand (h : Half)
  /-- Half 0x61: Pd := Pd OR Ps. (R127) -/
  | pairedPor (h : Half)
  /-- Half 0x62: Pd := Pd XOR Ps. (R127) -/
  | pairedPxor (h : Half)
  /-- Half 0x63: Pd := NOT Ps. (R127) -/
  | pairedPnot (h : Half)
  /-- Half 0x64: Pd := (Vs = 0), signed. (R127) -/
  | pairedSetpEq (h : Half)
  /-- Half 0x65: Pd := (Vs /= 0). (R127) -/
  | pairedSetpNe (h : Half)
  /-- Half 0x66: Pd := (Vs < 0). (R127) -/
  | pairedSetpLt (h : Half)
  /-- Half 0x67: Pd := (Vs <= 0). (R127) -/
  | pairedSetpLe (h : Half)
  /-- Half 0x68: Pd := (Vs > 0). (R127) -/
  | pairedSetpGt (h : Half)
  /-- Half 0x69: Pd := (Vs >= 0). (R127) -/
  | pairedSetpGe (h : Half)
  /-- Half 0x6A: Pd := (Vs < +0.0) in FP32. (R127) -/
  | pairedFsetpLt (h : Half)
  /-- Half 0x6B: Pd := (Vs <= +0.0) in FP32. (R127) -/
  | pairedFsetpLe (h : Half)
  /-- Half 0x6C: Pd := (Vs = +0.0) in FP32. (R127) -/
  | pairedFsetpEq (h : Half)
  /-- A write of the die's pager completion register completes the matching pager future with DONE, or with FAULT when FAIL is set. (R364) -/
  | pagerCompletion (die : Nat) (v : Nat)
  /-- The Plinth retires a core on an uncorrectable error or an excessive corrected count: the team is saved and restored onto a spare. (R420) -/
  | coreRetirement (c : Nat) (hard : Bool)
  /-- A single-bit SECDED error is corrected on the read, written back and counted toward the corrected count. (R419) -/
  | singleBitError (unit : Nat) (m : ErrMem)
  /-- An uncorrectable error traps the thread with REGISTER_ERROR, faults the engine operation or MMA with UNCORRECTABLE, or kills the team. (R419) -/
  | doubleBitError (unit : Nat) (m : ErrMem) (victim : Nat)
  /-- A parity error in an instruction word stalls the sheaf while the word is fetched again from the kernel image. (R419) -/
  | ifetchParityError (c : Nat)
  /-- The refetched word arrives and issues, or the failed image read ends the team. (R419) -/
  | ifetchRefetchComplete (c : Nat) (ok : Bool)
  /-- A row past its corrected threshold is copied to a spare row, and its mapping is then switched in one step. (R422) -/
  | hbmRowSpare (stack : Nat) (chan : Nat) (bank : Nat) (row : Nat)
  /-- A channel past its threshold is copied row by row into the spare channel while traffic continues, each row switching in one step. (R422) -/
  | hbmChannelSpare (stack : Nat) (chan : Nat)
  /-- An Ethernet lane fails its error threshold, and the port retrains at the next narrower width. (R423) -/
  | laneFailure (port : Nat) (half : Nat)
  /-- The Plinth retests the lanes, finds them good and restores the port width. (R423) -/
  | laneRestore (port : Nat) (half : Nat) (lanes : Nat)
  /-- Every 1,200,000 ticks, TELEM is refreshed and the thermal and power limits step the arithmetic clock down or up by 50 MHz. (R428) -/
  | telemInterval (x : TelemInput)
  /-- A junction reaches 110 deg C, or the flow stays below 0.5 L/min for 1 s, and the module powers down the compute dies. (R429) -/
  | thermalShutdown (x : TelemInput)
  /-- The system cores write an image into the inactive firmware slot, which becomes LOADED with its SM3 measurement. (R424) -/
  | fwLoad (img : FwImage)
  /-- A write of ATTREQ with GO makes the root of trust write a signed attestation report, taken as one snapshot. (R425) -/
  | attreqGo (v : Nat)
  /-- At the first IEEE 1588 lock after power-up, OFFSET is set in one step and TSTAT.SET becomes 1. (R396) -/
  | ptpFirstLock (ptp : Nat)
  /-- A write to the notify aperture ORs its value into NLATCH. (R394) -/
  | notifyWrite (v : Nat)
  /-- A write of QTAIL advances the command queue's tail, or is ignored and sets ERR when it overfills the ring or moves backwards. (R367) -/
  | qtailWrite (q : Nat) (v : Nat)
  /-- A system-core write of MBV or MBC changes the mailbox, and can serve a waiting consumer or producer. (R373) -/
  | mailboxWrite (m : Nat) (full : Bool) (v : Nat)
  /-- Writing FCTL.GO latches FAGR as OFFER AND REQ, unless a launch is live. (R390) -/
  | featureGo (v : Nat)
  /-- A write of KICK enters a kick with a new sequence number into the slot's list, or is dropped with DROP set when the list is full. (R386) -/
  | kickWrite (sm : Nat) (v : Nat)
  /-- A read of KSTAT returns the kick status and clears DROP. (R386) -/
  | kstatRead (sm : Nat)
  /-- A write of the shootdown control register with GO starts dropping the launch's translations in the range. (R365) -/
  | shootdownGo (v : Nat)
  /-- A write of HALTR with GO starts a halt of a group, or of every group, at the next clause issue. (R398) -/
  | haltrGo (c : Nat) (v : Nat)
  /-- A read of TRDROP returns the count of dropped trace records and clears it. (R397) -/
  | trdropRead (c : Nat)
  /-- A read of a core's supervisor fault control word returns it and clears OVF. (R384) -/
  | svfaultCtlRead (c : Nat)
  /-- A write of any other hub register stores the value as its field map gives, with reserved and read-only fields ignored. (R366) -/
  | registerWrite (off : Nat) (v : Nat)
  /-- Plinth firmware writes a parameter such as DLMAX, QLIM, GHI, LMIN, k, B(r), the slice length or the power cap, which hardware stores clamped and applies at the point the table gives. (R388) -/
  | plinthParameterWrite (p : Param) (v : Nat)
  /-- A join, data or cancellation of a collective call from a rank on another device arrives over RoCEv2, which may complete the joining of the call or withdraw it. (R231) -/
  | collPeerArrival (x : PeerMsg)
  /-- A system core (driver, pager or debugger) loads or stores device memory such as translation tables, Stoleil ring words, command packets or barrier records, at its commit point. (R407) -/
  | systemCoreMemoryAccess (store : Bool) (addr : Nat) (size : Nat) (v : Nat)
  /-- When the issue slot is free, the winnower chooses a key (aged keys first, then the largest count) and issues a sheaf of up to 64 of its candidates at the clause header. (R30) -/
  | winnowerChoice
  /-- At the end of each 65,536-tick interval, the core writes a summary record for every other group that issued in the interval. (R409) -/
  | traceIntervalEnd
  /-- The window of the earliest held thread of a key expires, and every thread held at that header with that key is released. (R34) -/
  | gatherWindowExpiry
  /-- The earliest effective deadline among the waiting members passes, and the members present form one sheaf with status PARTIAL. (R38) -/
  | collectiveDeadlineExpiry
  /-- The effective deadline of a waiting instruction passes, and the wait ends with TIMEOUT, or with DONE for SLEEPU, or PARTIAL for an acquire step or a fence. (R41) -/
  | waitDeadlineExpiry
  /-- After 16 x n cycles, the YIELD hold ends and the thread becomes ready or waits on a flag. (R267) -/
  | yieldHoldExpiry
  /-- The oldest access of a path queue that the pass rules allow commits at its bank commit point, in coherence order. (R80) -/
  | directAccessCommit
  /-- The register result of a long-latency instruction lands, and the completion flag count that it set falls by one. (R17) -/
  | resultLands
  /-- Six cycles after a DISPATCH or a filling RET issues, the thread arrives at its target header once the table or stack reads land, and the header checks are made. (R157) -/
  | delayedTransferArrival
  /-- The filter unit serves one counting-filter row access in the first cycle in which no word uses that row's bank. (R313) -/
  | cntfRowServe
  /-- An engine accepts an operation once the issuing thread's earlier stores have committed, translates its pages, reserves bandwidth and records a copy's promise. (R214) -/
  | engineAccept
  /-- The die walker completes a page walk, and fills the translation cache or reports the fault cause. (R58) -/
  | translationWalk
  /-- A NOT_MAPPED fault posts a 32-byte request into the die's pager ring once the ring has room, and advances PRTAIL. (R363) -/
  | pagerRequestPost
  /-- One part of an engine operation is performed, posted or faulted, and counts its named barrier and tag. (R83) -/
  | enginePartPerformed
  /-- A posted write part is performed at the commit point of its memory channel, or is acknowledged by the remote completer for the aperture. (R84) -/
  | postedWritePerformed
  /-- An engine operation completes: its last bytes commit, its barriers and tags are counted, and its future slot takes its final state. (R67) -/
  | operationCompletion
  /-- An operation is reported to the issuing thread's outstanding counter, in issue order, once it and every older operation of its class have completed. (R72) -/
  | counterReport
  /-- TIME reaches the promise of a copy for which a thread sleeps in FSLEEP, and the thread wakes with DONE or takes PROMISE_MISSED. (R236) -/
  | promiseTimeReached
  /-- When 65,536 ticks pass after issue without an engine reply, FTIME writes 0 and FCANCEL writes ABSENT. (R314) -/
  | engineReplyLimit
  /-- A matrix sub-array that stays idle for the firmware's idle time gates itself, keeping its weights and accumulators. (R227) -/
  | subarrayGate
  /-- Ninety-six cycles after an operation meets a gated sub-array, the wake ends and the operation starts its first row. (R227) -/
  | subarrayWakeComplete
  /-- AWIN ticks after ReadyTime, a task with AMODE 1 becomes admissible to any taker on its die and to gleaning takers. (R247) -/
  | affinityWindowExpiry
  /-- Once the release conditions hold, a resolved tiller's held stores commit in one step and its held operations enter their engines in program order. (R93) -/
  | tillerCommit
  /-- A suspended tiller's deadline passes: its held items are discarded, its entry returns to queued, and the thread is detached. (R261) -/
  | tillerWithdrawal
  /-- A wake record fires on its awaited event or its deadline, and the saved thread is restored into a free slot with the status decided at firing. (R361) -/
  | wakeRecordFire
  /-- While a pre-emption request is pending, a thread that stands ready at a PHINT header is saved by its liveness descriptor. (R357) -/
  | phintSave
  /-- The grace deadline of a pre-emption request passes, and every thread not yet saved is saved in full. (R357) -/
  | graceDeadlineExpiry
  /-- Once every thread is saved and the team's engines have drained, the team state is written to the save area and the request completes DONE or PARTIAL. (R358) -/
  | teamDrainComplete
  /-- Once the logical core is free, the saved team state is placed back and the threads take new slots with raised GEN. (R360) -/
  | teamRestore
  /-- At each slice boundary, the Plinth issues SWITCH on every core of the time-shared partitions and restores the next tenant as cores free. (R427) -/
  | timeSliceBoundary
  /-- A trapped thread's in-flight results have landed, and its 32-byte fault record is formed and offered to the core's fault queue. (R347) -/
  | parkComplete
  /-- A waiting fault record enters the core's fault queue in TIME order as room frees. (R349) -/
  | faultRecordEnqueue
  /-- The front end places a team: it zeroes the slice, loads code, data and preloads, resets the core state and places the threads. (R380) -/
  | teamPlacement
  /-- The team ends and frees its core once every thread has exited and every engine operation it issued has completed. (R150) -/
  | teamEnd
  /-- When every team of a launch has ended, its tillers are pruned, its entries, Maquettes and queues are released, and its writes are drained. (R382) -/
  | launchEnd
  /-- The port comes back up at its new width within 10 ms. (R423) -/
  | portRetrainComplete
  /-- After 1 s without any port, the TIME master goes on counting at the rate it last disciplined. (R423) -/
  | clockHoldoverExpiry
  /-- The loaded image's SM2 signature and SEQ are checked, and the slot becomes VERIFIED or is aborted. (R424) -/
  | fwVerify
  /-- The verified image starts running in the Plinth's shadow context, with its parameter writes going to shadow registers. (R424) -/
  | fwShadowStart
  /-- In one step, the shadow parameters load clamped, ACTIVE flips and the rollback counter rises to the image SEQ. (R424) -/
  | fwCommit
  /-- The inactive firmware slot is cleared and returns to IDLE, leaving the running image unaffected. (R424) -/
  | fwAbort
  /-- At power-up, TIME is set to 0, the root of trust chooses and checks a configuration block or falls back to the safe configuration, and the rollback counter is raised. (R393) -/
  | powerOnReset
  /-- The clock loses discipline and holds its last disciplined rate. (R396) -/
  | ptpLockLoss
  /-- The TIME master reaches a programmed IEEE 1588 instant and sets NLATCH.TIMEPT. (R394) -/
  | timept
  /-- A Plinth read of NLATCH returns the latch and clears it. (R394) -/
  | nlatchRead
  /-- The Plinth is woken whenever NLATCH is nonzero, including at its power-up. (R394) -/
  | plinthWake
  /-- The next packet of a queue whose conditions hold is read at system scope, consumes its mailbox if it names one, and starts. (R368) -/
  | packetStart
  /-- A packet's consume wait passes its deadline, and the packet completes TIMEOUT without executing. (R375) -/
  | consumeDeadlineExpiry
  /-- When a packet's work has completed, it produces PVAL into an empty mailbox and its completion record is written. (R375) -/
  | packetProduce
  /-- A produce wait passes its deadline, and the record carries PARTIAL with reason PRODUCE. (R375) -/
  | produceDeadlineExpiry
  /-- A NOP packet does nothing but its mailbox steps. (R370) -/
  | nopPacket
  /-- A LAUNCH packet is checked and receives a launch number, and its teams are placed. (R378) -/
  | launch
  /-- An MQLOAD packet checks a Maquette object and copies it into a Maquette slot bound to a launch. (R385) -/
  | mqload
  /-- An MQUNLOAD packet refuses new kicks, fails the waiting ones, and completes when the slot's last instance ends. (R385) -/
  | mqunload
  /-- An MQKICK packet enters a kick for a slot, as a KICK write does, and waits when the kick list is full. (R386) -/
  | mqkick
  /-- A PREEMPT packet issues a pre-emption request of a kind and a grace on a core, widened to its pair or its co-resident launch. (R356) -/
  | preempt
  /-- A RESTORE packet restores the saved team of a logical core once the core is free. (R370) -/
  | restore
  /-- A SUPPLACE packet kills any supervisor kernel on the named cores and places a new supervisor kernel there. (R384) -/
  | supplace
  /-- When instances and entries allow, the head kick leaves the list: its patch table is read and applied, and its tasks are instantiated or refused. (R387) -/
  | kickDepart
  /-- Every translation cache has dropped the range and every part translated by a dropped entry has been performed, so DONE reads 1. (R365) -/
  | shootdownDone
  /-- After a loss of discipline, the clock regains IEEE 1588 lock, TSTAT.LOCKED returns to 1, and the difference is removed by rate alone without a step. (R396) -/
  | ptpLockRegained
  /-- The save engine finishes writing or reading a thread image for SUP.SAVE or SUP.LOAD, the target becomes saved or parked, and the supervisor's wait ends DONE, or the transfer completes after a TIMEOUT. (R273) -/
  | supSaveLoadComplete
  deriving DecidableEq, Repr

end Sys2Proof
end

