-- ==== Sys2Proof/Machine/Legal.lean ====
section
/-! DEFINITION. Which fields each instruction accepts (R116, R117, R121, R123, R124, R128 and the encoding tables of
R133, R136, R141 to R144, R155 to R159, R161, R182, R209, R239), and where a word may stand (R16, R37, R200, R240). -/

namespace Sys2Proof.Machine

/-- The code of a type (R115). -/
def tyCode : Ty → Nat
  | .b32 => 0x00 | .b64 => 0x01 | .s8 => 0x02 | .s16 => 0x03 | .s32 => 0x04 | .s64 => 0x05 | .n8 => 0x06
  | .n16 => 0x07 | .n32 => 0x08 | .n64 => 0x09 | .s4 => 0x0A | .n4 => 0x0B | .f32 => 0x0C | .f16 => 0x0D
  | .bf16 => 0x0E | .e5m2 => 0x0F | .e4m3 => 0x10 | .e2m1 => 0x11 | .e8m0 => 0x12

/-- The type of a code, none for 0x13 and above (R115). -/
def tyOf : Nat → Option Ty
  | 0x00 => some .b32 | 0x01 => some .b64 | 0x02 => some .s8 | 0x03 => some .s16 | 0x04 => some .s32
  | 0x05 => some .s64 | 0x06 => some .n8 | 0x07 => some .n16 | 0x08 => some .n32 | 0x09 => some .n64
  | 0x0A => some .s4 | 0x0B => some .n4 | 0x0C => some .f32 | 0x0D => some .f16 | 0x0E => some .bf16
  | 0x0F => some .e5m2 | 0x10 => some .e4m3 | 0x11 => some .e2m1 | 0x12 => some .e8m0
  | _ => none

/-- The width of a type in bits (R94, R97, R99). -/
def tyBits : Ty → Nat
  | .b32 | .s32 | .n32 | .f32 => 32
  | .b64 | .s64 | .n64 => 64
  | .s16 | .n16 | .f16 | .bf16 => 16
  | .s8 | .n8 | .e5m2 | .e4m3 | .e8m0 => 8
  | .s4 | .n4 | .e2m1 => 4

/-- The floating-point types of R168's set F. -/
def isF : Ty → Bool
  | .f32 | .f16 | .bf16 | .e5m2 | .e4m3 | .e2m1 => true
  | _ => false

/-- The integer types of R168's set I. -/
def isI : Ty → Bool
  | .s8 | .n8 | .s16 | .n16 | .s32 | .n32 | .s64 | .n64 => true
  | _ => false

def isSigned : Ty → Bool
  | .s4 | .s8 | .s16 | .s32 | .s64 => true
  | _ => false

/-- What a register field of a full-form word names. -/
inductive RF
  /-- unused, zero -/
  | no
  | v
  | pair
  | pred
  /-- n consecutive registers from a multiple of `align` -/
  | blk (n align : Nat)
  /-- a literal up to `max` -/
  | lit (max : Nat)
  deriving DecidableEq, Repr

/-- How an instruction treats UB (R114, R117). -/
inductive UbRule
  | never | allowed | mustG | mustAny
  deriving DecidableEq, Repr

/-- The accepted fields of one full-form instruction. -/
structure Accepts where
  ty : Bool
  opx : Bool
  rm : Bool := false
  sat : Bool := false
  ub : UbRule := .never
  d : RF := .no
  a : RF := .no
  b : RF := .no
  dsel : Bool := false
  fsel : Bool := false

/-- A register, or a pair when the type is 64 bits wide. -/
def rv (t : Ty) : RF := if tyBits t = 64 then .pair else .v

def opxN (f : Full) : Nat := f.opx.toNat
def opxB (f : Full) (n : Nat) : Bool := f.opx.getLsbD n

/-- The second type that OPX bits 4:0 name, with bit 5 zero (R115, R161). -/
def ty2 (f : Full) : Option Ty := if opxN f < 32 then tyOf (opxN f) else none

def isTy (f : Full) (l : List Ty) : Bool := l.contains f.ty

/-- `.b32`, the code 0x00, stands for no type (R115). -/
def noTy (f : Full) : Bool := f.ty == .b32

/-- Pairs of types that CVT accepts (R168). -/
def cvtPair (src dst : Ty) : Bool := (isF src && (isF dst || isI dst)) || (isI src && isF dst)

/-- Pairs that CVTPK accepts (R170). -/
def cvtpkPair (src dst : Ty) : Bool :=
  (src == .f32 && [Ty.f16, .bf16, .e5m2, .e4m3, .e2m1].contains dst)
  || (src == .s32 && [Ty.s16, .n16, .s8, .n8, .s4, .n4].contains dst)

/-- Pairs that CVTUP accepts (R171). -/
def cvtupPair (src dst : Ty) : Bool :=
  (dst == .f32 && [Ty.f16, .bf16, .e5m2, .e4m3, .e2m1, .e8m0].contains src)
  || (dst == .s32 && [Ty.s16, .n16, .s8, .n8, .s4, .n4].contains src)

/-- Type pairs of the dot products (R173). -/
def dotPair (m : Nat) (x y : Ty) : Bool :=
  let fl := if m = 2 then [Ty.bf16, .f16] else if m = 4 then [Ty.e4m3, .e5m2] else [Ty.e2m1]
  let it := if m = 2 then [Ty.s16, .n16] else if m = 4 then [Ty.s8, .n8] else [Ty.s4, .n4]
  (fl.contains x && fl.contains y) || (it.contains x && it.contains y)

/-- Types of an atomic operation (R186). -/
def atomTys (op : Nat) : List Ty := if op ≤ 2 then [.s32, .n32] else [.b32, .b64]

/-- The operand of an atomic (R186, R232): CAS reads a compare value and a new value. -/
def atomB (op : Nat) (t : Ty) : RF :=
  if op = 7 then (if t = .b64 then .blk 4 4 else .blk 2 2) else rv t

/-- The matrix formats of R222. -/
def mxTys : List Ty := [.bf16, .f16, .e5m2, .e4m3, .e2m1, .s4, .n4]

/-- Registers that carry one activation row (R223). -/
def rowRegs (t : Ty) : Nat := 128 * tyBits t / 32

/-- The integer forms with two sources. -/
def accInt (f : Full) (tys : List Ty) (sat : Bool) : Accepts :=
  { ty := isTy f tys, opx := opxN f == 0, sat := sat, ub := .allowed, d := rv f.ty, a := rv f.ty, b := rv f.ty }

/-- The unary forms. -/
def accUn (f : Full) (tys : List Ty) (sat : Bool) (d : RF) : Accepts :=
  { ty := isTy f tys, opx := opxN f == 0, sat := sat, d := d, a := rv f.ty }

/-- The shifts: B names one 32-bit register whatever the type (R137). -/
def accShift (f : Full) (tys : List Ty) : Accepts :=
  { ty := isTy f tys, opx := opxN f == 0, ub := .allowed, d := rv f.ty, a := rv f.ty, b := .v }

def accFloat (f : Full) (rm : Bool) (tys : List Ty := [.f32]) : Accepts :=
  { ty := isTy f tys, opx := opxN f == 0, rm := rm, ub := .allowed, d := .v, a := .v, b := .v }

def accSfu (f : Full) : Accepts :=
  { ty := isTy f [.f32], opx := opxN f == 0, rm := true, d := .v, a := .v, fsel := true }

def accPlain (f : Full) (d a b : RF) (opx : Bool := opxN f == 0) : Accepts :=
  { ty := noTy f, opx := opx, d := d, a := a, b := b }

def accMem (f : Full) (load : Bool) : Accepts :=
  { ty := isTy f [.s8, .n8, .s16, .n16, .b32, .b64], opx := opxN f ≤ 1,
    ub := if opxN f = 1 then .allowed else .never, d := rv f.ty, a := .v,
    b := if opxN f = 1 then .v else .no, fsel := load }

def accCopy (f : Full) : Accepts :=
  { ty := if opxB f 5 then isTy f [.f32, .f16, .bf16, .e5m2, .e4m3, .e2m1, .s8, .n8] else noTy f,
    opx := !(opxB f 0) || !(opxB f 1 || opxB f 4 || opxB f 5),
    sat := opxB f 5 && f.ty == .e4m3,
    d := .pair, a := if opxB f 4 then .blk 4 4 else .pair,
    b := .blk (if opxB f 3 then 4 else if opxB f 2 then 3 else 2) 2 }

/-- Control registers of an MMA: Vb, V(b+1) and V(b+2) (R220, R309). -/
def accMmaR (f : Full) (opx : Bool) : Accepts :=
  { ty := isTy f mxTys, opx := opx, d := .pair, a := .blk (rowRegs f.ty + 1) 16, b := .blk 3 2, dsel := true }

def accTask (f : Full) (d a b : RF) (dsel fsel : Bool) (ub : UbRule := .never) (opx : Bool := opxN f == 0) : Accepts :=
  { ty := noTy f, opx := opx, ub := ub, d := d, a := a, b := b, dsel := dsel, fsel := fsel }

/-- Special registers: number, 64 bits wide, writable (R118, R351). -/
def sysRegs : List (Nat × Bool × Bool) :=
  [(0x100, false, false), (0x101, false, false), (0x102, false, false), (0x103, false, false), (0x104, false, false),
   (0x105, true, false), (0x106, false, true), (0x107, false, false), (0x108, false, false), (0x109, true, false),
   (0x10A, true, false), (0x10B, false, false), (0x10C, true, false), (0x10D, true, false), (0x10E, false, true),
   (0x110, false, true), (0x111, true, true), (0x112, false, true), (0x113, false, true), (0x114, false, true),
   (0x115, false, true), (0x116, false, true), (0x117, false, true), (0x118, false, true), (0x119, false, true),
   (0x11A, false, true), (0x120, false, true), (0x121, false, true),
   (0x180, false, false), (0x181, false, false), (0x182, false, false), (0x183, false, false), (0x184, true, false)]

def sysRegInfo (n : Nat) : Option (Bool × Bool) := (sysRegs.find? (·.1 == n)).map (·.2)

/-- A uniform number that a word may read: a G register or a register of R118 or R351 (R117). -/
def uniformOk (n : Nat) : Bool := n < 0x40 || (sysRegInfo n).isSome

/-- The registers that only supervisor threads may name (R117). -/
def isSupReg (n : Nat) : Bool := 0x180 ≤ n && n < 0x200

/-- A uniform number is 64 bits wide: G registers and the wide registers of R118. -/
def uniformWide (n : Nat) : Bool := n < 0x40 || ((sysRegInfo n).map (·.1)).getD false

/-- A uniform number that SYSW may write (R118, R199). -/
def uniformWritable (n : Nat) : Bool := n < 0x40 || ((sysRegInfo n).map (·.2)).getD false

/-- What a full-form instruction accepts; none for the other forms and the events. -/
def accepts : Instr → Option Accepts
  | .mov f => some { ty := isTy f [.b32, .b64], opx := opxN f == 0, ub := .allowed, d := rv f.ty,
                     a := if f.ub then .no else rv f.ty, b := .no }
  | .sel f => some { ty := isTy f [.b32, .b64], opx := opxN f < 16, ub := .allowed, d := rv f.ty, a := rv f.ty,
                     b := rv f.ty }
  | .add f | .sub f | .mul f | .mad f => some (accInt f [.s32, .n32] true)
  | .mulh f | .rem f | .min f | .max f => some (accInt f [.s32, .n32] false)
  | .div f => some (accInt f [.s32, .n32] (f.ty == .s32))
  | .abs f | .neg f => some (accUn f [.s32] true .v)
  | .and f | .or f | .xor f | .andn f => some (accInt f [.b32, .b64] false)
  | .not f | .brev f => some (accUn f [.b32, .b64] false (rv f.ty))
  | .clz f | .popc f => some (accUn f [.b32, .b64] false .v)
  | .shl f | .shrl f | .rotl f => some (accShift f [.b32, .b64])
  | .shra f => some (accShift f [.s32, .s64])
  | .bfx f => some (accInt f [.s32, .n32] false)
  | .bfi f | .perm f => some (accInt f [.b32] false)
  | .lea f => some { ty := noTy f, opx := opxN f < 4, ub := .allowed, d := .v, a := .v, b := .v }
  | .addD f => some { ty := noTy f, opx := opxN f == 0, ub := .allowed, d := .pair, a := .pair, b := .pair }
  | .setp f => some { ty := isTy f [.s32, .n32, .s64, .n64] || (isTy f [.b32, .b64] && opxN f ≤ 1), opx := opxN f ≤ 5,
                      ub := .allowed, d := .pred, a := rv f.ty, b := rv f.ty }
  | .pand f | .por f | .pxor f => some (accPlain f .pred .pred .pred (opxN f < 4))
  | .pnot f => some (accPlain f .pred .pred .no)
  | .calli f => some (accPlain f .no .v .no)
  | .ret f | .exit f | .nop f | .gnext f => some (accPlain f .no .no .no)
  | .gfetch f => some { ty := noTy f, opx := opxN f == 0, fsel := true }
  | .dispatchOp f => some (accPlain f .no .no .no (opxN f == 0))
  | .dispatchPc f => some (accPlain f .no .no .no (opxN f == 1))
  | .gjmp f => some (accPlain f .no .v .no (opxN f == 0))
  | .gjmpRel f => some (accPlain f .no .v .no (opxN f == 1))
  | .gbrc f => some { ty := noTy f, opx := opxN f ≤ 5, ub := .allowed, a := .v, b := .v }
  | .gset f => some (accPlain f .no (if opxN f = 1 then .pair else .v) .no (opxN f ≤ 10))
  | .gget f => some (accPlain f (if opxN f = 1 then .pair else .v) .no .no (opxN f ≤ 10))
  | .fadd f | .fsub f | .fmul f | .ffma f => some (accFloat f true)
  | .fmin f | .fmax f => some (accFloat f false)
  | .fsetp f => some { ty := isTy f [.f32], opx := opxN f % 8 ≤ 5 && opxN f < 16, ub := .allowed, d := .pred, a := .v,
                       b := .v }
  | .fclass f => some { ty := isTy f [.f32, .f16, .bf16, .e5m2, .e4m3, .e2m1], opx := opxN f == 0, d := .v, a := .v }
  | .cvt f => some { ty := true, opx := ((ty2 f).map (cvtPair · f.ty)).getD false, rm := true, sat := f.ty == .e4m3,
                     d := rv f.ty, a := ((ty2 f).map rv).getD .v }
  | .cvtpk f => some { ty := true, opx := ((ty2 f).map (cvtpkPair · f.ty)).getD false, rm := ty2 f == some .f32,
                       sat := f.ty == .e4m3, d := .v, a := .blk (32 / tyBits f.ty) (32 / tyBits f.ty) }
  | .cvtup f => some { ty := true, opx := ((ty2 f).map (cvtupPair · f.ty)).getD false,
                       d := .blk (32 / (((ty2 f).map tyBits).getD 32)) (32 / (((ty2 f).map tyBits).getD 32)), a := .v }
  | .cvtSr f => some { ty := isTy f [.f16, .bf16, .e5m2, .e4m3, .e2m1], opx := ty2 f == some .f32,
                       sat := f.ty == .e4m3, ub := .allowed, d := .v, a := .v, b := .v }
  | .cvtpkSr f => some { ty := isTy f [.f16, .bf16, .e5m2, .e4m3, .e2m1], opx := ty2 f == some .f32,
                         sat := f.ty == .e4m3, d := .v, a := .blk (32 / tyBits f.ty) (32 / tyBits f.ty),
                         b := .blk (32 / tyBits f.ty) (32 / tyBits f.ty) }
  | .padd2 f | .pmul2 f | .pfma2 f => some (accFloat f true [.bf16, .f16])
  | .dot2 f => some { ty := true, opx := ((ty2 f).map (dotPair 2 f.ty)).getD false, sat := !isF f.ty, ub := .allowed,
                      d := .v, a := .v, b := .v }
  | .dot4 f => some { ty := true, opx := ((ty2 f).map (dotPair 4 f.ty)).getD false, sat := !isF f.ty, ub := .allowed,
                      d := .v, a := .v, b := .v }
  | .dot8 f => some { ty := true, opx := ((ty2 f).map (dotPair 8 f.ty)).getD false, sat := !isF f.ty, ub := .allowed,
                      d := .v, a := .v, b := .v }
  | .fmule f => some { ty := isTy f [.f32], opx := opxN f < 4, rm := true, ub := .allowed, d := .v, a := .v, b := .v }
  | .rcp f | .rsqrt f | .sqrt f | .exp2 f | .log2 f | .tanh f | .sin f | .cos f => some (accSfu f)
  | .tbl f => some { ty := isTy f [.f32], opx := opxN f == 0, d := .v, a := .v, fsel := true }
  | .tblld f => some { ty := noTy f, opx := opxN f == 0, a := .v, fsel := true }
  | .tblsw f => some (accPlain f .no .no .no)
  | .ld f | .ldI f => some (accMem f true)
  | .st f | .stRel f => some (accMem f false)
  | .atom f => some { ty := isTy f (atomTys (opxN f)), opx := opxN f < 8,
                      ub := if opxN f < 7 then .allowed else .never, d := rv f.ty, a := .v,
                      b := atomB (opxN f) f.ty, fsel := true }
  | .barInit f => some (accPlain f .v .v .no)
  | .barArrive f => some (accTask f .pair .v .v false true .allowed)
  | .barWait f | .barWaitAcq f => some (accTask f .v .v .pair true false)
  | .barArwt f => some (accTask f .v .v .v true false .allowed)
  | .slotClaim f => some (accTask f .v .v .v true false .allowed)
  | .slotTake f => some (accTask f .v .v .no true false)
  | .slotFree f => some (accTask f .v .v .no false true)
  | .fence f => some (accTask f (.blk 2 1) (.lit 31) .no true false .never (opxN f ≤ 6))
  | .sleepu f => some (accTask f .v .no .no true false)
  | .dlset f | .dladd f => some (accTask f .no .pair .no true false)
  | .dlget f => some (accTask f .pair .no .no true false)
  | .shfl f => some { ty := isTy f [.b32, .b64], opx := opxN f < 8, ub := .allowed, d := rv f.ty, a := rv f.ty, b := .v,
                      dsel := true }
  | .vote f => some { ty := isTy f [.b64], opx := opxN f / 8 ≤ 2, d := .pair, a := .pred, b := .pred, dsel := true }
  | .redux f => some { ty := if opxN f / 8 ≤ 2 then isTy f [.s32, .n32, .f32] else isTy f [.b32], opx := opxN f / 8 ≤ 5,
                       sat := opxN f / 8 == 0 && f.ty != .f32, d := .v, a := .v, dsel := true }
  | .scan f => some { ty := isTy f [.s32, .n32, .f32], opx := opxN f / 8 ≤ 6 && opxN f / 8 != 3,
                      sat := (opxN f / 8 == 0 || opxN f / 8 == 4) && f.ty != .f32, d := .v, a := .v, dsel := true }
  | .sample f => some { ty := isTy f [.f32], opx := opxN f < 8, ub := .mustG, d := .pair, a := .v, b := .v,
                        dsel := true }
  | .cntfAdd f | .cntfGet f => some (accTask f .v .v .v false true .allowed)
  | .cntfClr f => some (accPlain f .no .v .no)
  | .copyIn f => some { accCopy f with opx := (accCopy f).opx && !(opxB f 0) }
  | .copyOut f => some { accCopy f with opx := (accCopy f).opx && opxB f 0 }
  | .copyRel f => some (accCopy f)
  | .ckick f => some (accPlain f .pair .v .v)
  | .wload f => some { ty := isTy f mxTys, opx := opxN f < 4, d := .pair, a := .v,
                       b := if opxB f 1 then .v else .no }
  | .mma f => some { ty := isTy f mxTys, opx := opxN f == 0, d := .pair, a := .v, b := .blk 3 2 }
  | .mmaR f => some (accMmaR f (opxB f 3 && opxN f < 32))
  | .mmap f => some (accMmaR f (!(opxB f 3) && opxN f < 32))
  | .gather f => some { ty := isTy f [.f32, .bf16, .f16, .e5m2, .e4m3, .s8, .n8], opx := opxN f ≤ 2, d := .pair,
                        a := .pair, b := .blk 4 4 }
  | .coll f => some { ty := isTy f [.f32, .bf16, .e5m2, .e4m3, .e2m1, .s8], opx := opxN f < 8, d := .pair, a := .pair,
                      b := .blk 4 4 }
  | .ratom f => some { ty := isTy f (atomTys (opxN f)), opx := opxN f < 8, d := .blk 4 4, a := .pair,
                       b := atomB (opxN f) f.ty }
  | .fwait f | .fwaitAcq f => some (accTask f (.blk 2 1) .pair .no true false)
  | .ftest f => some (accTask f (.blk 2 1) .pair .no false false)
  | .fcancel f => some (accTask f .v .pair .no false true)
  | .ftime f => some (accTask f .pair .pair .no false true)
  | .fsleep f => some (accTask f .v .pair .no true false)
  | .waitn f => some (accTask f .v .no .v true false .allowed (opxN f ≤ 4))
  | .qrd f => some (accTask f .v .no .no false false .never (opxN f ≤ 4))
  | .taskTake f => some (accTask f (.blk 8 8) .no .v true false .mustG)
  | .taskPut f => some (accTask f (.blk 2 2) .v .no true false)
  | .taskDone f => some (accTask f (.blk 2 2) .v .no false true)
  | .taskDep f => some (accTask f .v .v .v false true .allowed)
  | .taskCoord f => some (accTask f (.blk 4 4) .v .no false true)
  | .taskWaitf f => some (accTask f .v .pair .no true false)
  | .spawn f => some (accTask f (.blk 2 2) .v (.blk 2 2) true false .never (opxN f < 4))
  | .condNew f => some (accTask f (.blk 2 2) .no .no true false)
  | .condSet f => some (accTask f .v .v .v false true .allowed)
  | .likeSite f => some (accTask f .v .v .no false true .never (opxN f == 0))
  | .likeTask f => some (accTask f .v .v .no false true .never (opxN f == 1))
  | .likeSeed f => some (accTask f .v .v .v false true .allowed (opxN f == 2))
  | .trap f => some (accPlain f .no .v .no true)
  | .bkpt f => some (accPlain f .no .no .no true)
  | .phint f => some (accPlain f .no (.lit 1023) .no)
  | .yield f => some (accPlain f .no .no .no (opxN f ≤ 32))
  | .sysr f => some { ty := noTy f, opx := opxN f == 0, ub := .mustAny,
                      d := if uniformWide f.b.toNat then .pair else .v, b := .v }
  | .sysw f => some { ty := noTy f, opx := opxN f == 0 && uniformWritable f.b.toNat, ub := .mustAny,
                      a := if uniformWide f.b.toNat then .pair else .v, b := .v }
  | .supPwait f => some (accTask f (.blk 10 2) .no .no true false)
  | .supPrd f => some (accTask f (.blk 4 4) .v .v false true)
  | .supPwr f => some (accTask f .v .v (.blk 4 4) false true)
  | .supResume f => some (accTask f .v .v .v false true)
  | .supKill f => some (accTask f .v .v .no false true)
  | .supSave f | .supLoad f => some (accTask f .v .v .v true false)
  | _ => none

/-- Whether a register field holds what the word's description accepts, the declared count apart (R116). -/
def rfStatic : RF → Nat → Bool
  | .no, n => n == 0
  | .v, _ => true
  | .pair, n => n % 2 == 0
  | .pred, n => n < 8
  | .blk _ al, n => n % al == 0
  | .lit m, n => n ≤ m

/-- Whether every V register a field names lies below the declared count (R116, R119, R209). -/
def rfBound (nregs : Nat) : RF → Nat → Bool
  | .v, n => n < nregs
  | .pair, n => n + 1 < nregs
  | .blk k _, n => n + k ≤ nregs
  | _, _ => true

/-- The fields of a full-form word, those that depend on the thread apart (R128). -/
def fullOk (x : Accepts) (f : Full) : Bool :=
  x.ty && x.opx && (x.rm || f.rm == .rne) && (x.sat || !f.sat) && (x.dsel || f.dsel == 0) && (x.fsel || !f.fsel)
  && rfStatic x.d f.d.toNat && rfStatic x.a f.a.toNat
  && (match x.ub, f.ub with
      | .never, true => false
      | .mustG, false => false
      | .mustAny, false => false
      | .mustG, true => f.b.toNat < 0x40
      | _, true => uniformOk f.b.toNat
      | _, false => rfStatic x.b f.b.toNat)

/-- The class of a half-opcode's instruction (R127). -/
inductive HClass
  | x | y | zLogic | zCmp
  deriving DecidableEq, Repr

/-- The class and the half of an instruction of the paired form (R127). -/
def halfOf : Instr → Option (HClass × Half)
  | .pairedMovB32 h | .pairedAddS32 h | .pairedSubS32 h | .pairedMulS32 h | .pairedMinS32 h | .pairedMaxS32 h
  | .pairedMinN32 h | .pairedMaxN32 h | .pairedAndB32 h | .pairedOrB32 h | .pairedXorB32 h | .pairedAndnB32 h
  | .pairedNotB32 h | .pairedShlB32 h | .pairedShrlB32 h | .pairedShraS32 h | .pairedRotlB32 h | .pairedPermB32 h
  | .pairedClzB32 h | .pairedPopcB32 h | .pairedBrevB32 h | .pairedNegS32 h | .pairedAbsS32 h => some (.x, h)
  | .pairedFaddF32 h | .pairedFsubF32 h | .pairedFmulF32 h | .pairedFminF32 h | .pairedFmaxF32 h
  | .pairedPadd2Bf16 h | .pairedPmul2Bf16 h | .pairedPadd2F16 h | .pairedPmul2F16 h => some (.y, h)
  | .pairedPand h | .pairedPor h | .pairedPxor h | .pairedPnot h => some (.zLogic, h)
  | .pairedSetpEq h | .pairedSetpNe h | .pairedSetpLt h | .pairedSetpLe h | .pairedSetpGt h | .pairedSetpGe h
  | .pairedFsetpLt h | .pairedFsetpLe h | .pairedFsetpEq h => some (.zCmp, h)
  | _ => none

/-- One half on its own: its class may stand on its side, its predicate fields are 0 to 7 (R121). -/
def halfOk (c : HClass) (h : Half) : Bool :=
  (match c, h.side with
   | .x, _ => true
   | .y, s => s == .b
   | _, s => s == .a)
  && (match c with
      | .x | .y => true
      | .zLogic => h.d.toNat < 8 && h.s.toNat < 8 && !h.us
      | .zCmp => h.d.toNat < 8)
  && (!h.us || uniformOk h.s.toNat)

/-- The register-file banks that R121 counts for a half. -/
def halfBanks (c : HClass) (h : Half) : List Nat :=
  let s := if h.us then [] else [h.s.toNat % 4]
  match c with
  | .x | .y => (h.d.toNat % 4) :: s
  | .zCmp => s
  | .zLogic => []

def writesV : HClass → Bool
  | .x | .y => true
  | _ => false

/-- The rules of R121 that bear on both halves together. -/
def pairOk (ca : HClass) (a : Half) (cb : HClass) (b : Half) : Bool :=
  halfOk ca a && halfOk cb b && a.side == .a && b.side == .b
  && !(writesV ca && writesV cb && a.d == b.d)
  && !(a.us && b.us)
  && (List.range 4).all (fun k => (halfBanks ca a ++ halfBanks cb b).count k ≤ 2)

/-- The fields of an immediate-form word (R123, R124). -/
def immOk : Instr → Bool
  | .movi x => x.a == 0
  | .addi _ => true
  | .bra x | .call x => x.d == 0 && x.a == 0 && x.imm.toNat < 2 ^ 15
  | .brc x => x.d == 0 && x.imm.toNat < 2 ^ 18 && x.imm.toNat / 2 ^ 15 ≤ 5
  | .loop x => x.d.toNat ≤ 1 && x.imm.toNat < 2 ^ 15
  | .lend x => x.d.toNat ≤ 1 && x.a == 0 && x.imm.toNat < 2 ^ 15
  | _ => true

def immOf : Instr → Option Imm
  | .movi x | .addi x | .bra x | .brc x | .call x | .loop x | .lend x => some x
  | _ => none

/-- The full-form fields of an instruction. -/
def fullOf : Instr → Option Full
  | .mov f | .sel f | .add f | .sub f | .mul f | .mulh f | .mad f | .div f | .rem f | .min f | .max f | .abs f
  | .neg f | .and f | .or f | .xor f | .andn f | .not f | .shl f | .shrl f | .shra f | .rotl f | .bfx f | .bfi f
  | .perm f | .clz f | .popc f | .brev f | .lea f | .addD f | .setp f | .pand f | .por f | .pxor f | .pnot f
  | .calli f | .ret f | .exit f | .nop f | .gfetch f | .dispatchOp f | .dispatchPc f | .gnext f | .gjmp f
  | .gjmpRel f | .gbrc f | .gset f | .gget f | .fadd f | .fsub f | .fmul f | .ffma f | .fmin f | .fmax f | .fsetp f
  | .fclass f | .cvt f | .cvtpk f | .cvtup f | .cvtSr f | .cvtpkSr f | .padd2 f | .pmul2 f | .pfma2 f | .dot2 f
  | .dot4 f | .dot8 f | .fmule f | .rcp f | .rsqrt f | .sqrt f | .exp2 f | .log2 f | .tanh f | .sin f | .cos f
  | .tbl f | .tblld f | .tblsw f | .ld f | .ldI f | .st f | .stRel f | .atom f | .barInit f | .barArrive f
  | .barWait f | .barWaitAcq f | .barArwt f | .slotClaim f | .slotTake f | .slotFree f | .fence f | .sleepu f
  | .dlset f | .dladd f | .dlget f | .shfl f | .vote f | .redux f | .scan f | .sample f | .cntfAdd f | .cntfGet f
  | .cntfClr f | .copyIn f | .copyOut f | .copyRel f | .ckick f | .wload f | .mma f | .mmaR f | .mmap f | .gather f
  | .coll f | .ratom f | .fwait f | .fwaitAcq f | .ftest f | .fcancel f | .ftime f | .fsleep f | .waitn f | .qrd f
  | .taskTake f | .taskPut f | .taskDone f | .taskDep f | .taskCoord f | .taskWaitf f | .spawn f | .condNew f
  | .condSet f | .likeSite f | .likeTask f | .likeSeed f | .trap f | .bkpt f | .phint f | .yield f | .sysr f
  | .sysw f | .supPwait f | .supPrd f | .supPwr f | .supResume f | .supKill f | .supSave f | .supLoad f => some f
  | _ => none

/-- The fields of one instruction are accepted, whatever thread meets it (R128). An event has no word. -/
def staticOk (i : Instr) : Bool :=
  match fullOf i, immOf i, halfOf i with
  | some f, _, _ => (accepts i).elim false (fullOk · f)
  | _, some _, _ => immOk i
  | _, _, some (c, h) => halfOk c h
  | _, _, _ => true

/-- The registers an instruction names lie below the declared count (R116, R119, R121). -/
def regsOk (nregs : Nat) (i : Instr) : Bool :=
  match fullOf i, immOf i, halfOf i with
  | some f, _, _ => (accepts i).elim false fun x =>
      rfBound nregs x.d f.d.toNat && rfBound nregs x.a f.a.toNat && (f.ub || rfBound nregs x.b f.b.toNat)
  | _, some x, _ => match i with
      | .movi _ => x.d.toNat < nregs
      | .addi _ => x.d.toNat < nregs && x.a.toNat < nregs
      | .brc _ | .loop _ => x.a.toNat < nregs
      | _ => true
  | _, _, some (c, h) =>
      (match c with
       | .x | .y => h.d.toNat < nregs && (h.us || h.s.toNat < nregs)
       | .zCmp => h.us || h.s.toNat < nregs
       | .zLogic => true)
  | _, _, _ => true

/-- The uniform number that an instruction names, if it names one. -/
def uniformOf (i : Instr) : Option Nat :=
  match fullOf i, halfOf i with
  | some f, _ => if f.ub then some f.b.toNat else none
  | _, some (_, h) => if h.us then some h.s.toNat else none
  | _, _ => none

/-- The supervisor opcodes (R126). -/
def isSupOp : Instr → Bool
  | .supPwait _ | .supPrd _ | .supPwr _ | .supResume _ | .supKill _ | .supSave _ | .supLoad _ => true
  | _ => false

/-- A user thread meets neither a supervisor opcode nor a supervisor register (R117, R126). -/
def privOk (sup : Bool) (i : Instr) : Bool :=
  sup || (!isSupOp i && !((uniformOf i).elim false isSupReg))

/-- The words that stand only as the last word of their clause (R16, R240). -/
def isLast : Instr → Bool
  | .bra _ | .brc _ | .call _ | .calli _ | .ret _ | .loop _ | .lend _ | .dispatchOp _ | .dispatchPc _ | .exit _
  | .yield _ | .barWait _ | .barWaitAcq _ | .barArwt _ | .slotClaim _ | .slotTake _ | .fence _ | .sleepu _ | .fwait _
  | .fwaitAcq _ | .fsleep _ | .waitn _ | .taskTake _ | .taskPut _ | .taskWaitf _ | .spawn _ | .condNew _
  | .supPwait _ | .supSave _ | .supLoad _ => true
  | _ => false

/-- The cross-lane words, with the mask register they name (R200, R224). -/
def crossMask : Instr → Option Nat
  | .shfl f | .vote f | .redux f | .scan f | .sample f | .mmaR f | .mmap f => some (opxN f % 8)
  | _ => none

/-- A word may stand at index `w` of a clause of `len` words (R16, R37, R200, R240); `lead` is the mask register of the
clause's first word when that word is a cross-lane instruction. -/
def placeOk (i : Instr) (w len : Nat) (coll : Bool) (lead : Option Nat) : Bool :=
  (!isLast i || w == len)
  && (match i with | .phint _ => w == 1 | _ => true)
  && (match crossMask i with | some m => coll && lead == some m | none => true)

/-- The rows of the table that are events: they have no word. -/
def isEvent (i : Instr) : Bool := (fullOf i).isNone && (immOf i).isNone && (halfOf i).isNone

end Sys2Proof.Machine
end

