-- ==== Sys2Proof/WellFormed.lean ====
section
/-! DEFINITION. Well-formed instructions: the fields of each are ones its word may hold (R116, R128). -/

namespace Sys2Proof

/-- The fields of the instruction are accepted (R128). -/
def Instr.WellFormed (i : Instr) : Prop := Machine.staticOk i = true

/-- Two halves that may share a word (R121). -/
def pairWellFormed (a b : Instr) : Prop :=
  match Machine.halfOf a, Machine.halfOf b with
  | some (ca, ha), some (cb, hb) => Machine.pairOk ca ha cb hb = true
  | _, _ => False

end Sys2Proof
end

