-- ==== Sys2Proof/Decode.lean ====
section
/-! DEFINITION. From words to instructions and back: the four forms of R112, the fields of R113 to R125, the opcode maps
of R126 and R127. Decoding is total; what it refuses, it refuses by name. -/

namespace Sys2Proof

open Machine

/-- Why a word is no legal instruction, whatever thread meets it (R128). -/
inductive Reject
  /-- a header among a clause's words -/
  | header
  /-- an opcode that is not assigned -/
  | opcode (op : Nat)
  | immOpcode (iop : Nat)
  | halfOpcode (hop : Nat)
  /-- a type code that is not assigned (R115) -/
  | typeCode (code : Nat)
  /-- a field that the instruction does not accept (R116, R124) -/
  | fields
  /-- a rule of R121 -/
  | pairing
  deriving DecidableEq, Repr

/-- What a word holds: one instruction, or the two halves of a paired word. -/
inductive Decoded
  | one (i : Instr)
  | pair (a b : Instr)
  | bad (r : Reject)
  deriving DecidableEq, Repr

/-- The form of a word (R112). -/
def formOf (w : Nat) : Nat := field w 63 62

/-- The modifier and register fields of a full-form word (R113, R114). -/
def fullFields (w : Nat) : Option Full :=
  match tyOf (field w 14 10) with
  | none => none
  | some ty => some
    { d := BitVec.ofNat 10 (field w 51 42), a := BitVec.ofNat 10 (field w 41 32), b := BitVec.ofNat 10 (field w 31 22),
      g := BitVec.ofNat 3 (field w 21 19), ng := bitAt w 18, fsel := bitAt w 17,
      dsel := BitVec.ofNat 2 (field w 16 15), ty := ty, rm := rmOf (field w 9 8), sat := bitAt w 7, ub := bitAt w 6,
      opx := BitVec.ofNat 6 (field w 5 0) }
where
  /-- The rounding codes of R101. -/
  rmOf : Nat → Rm
    | 0 => .rne
    | 1 => .rz
    | 2 => .rdn
    | _ => .rup

/-- The fields of an immediate-form word (R123). -/
def immFields (w : Nat) : Imm :=
  { d := BitVec.ofNat 10 (field w 53 44), a := BitVec.ofNat 10 (field w 43 34), g := BitVec.ofNat 2 (field w 33 32),
    imm := BitVec.ofNat 32 (field w 31 0) }

/-- The fields of one half, its bits numbered within the half (R120). -/
def halfFields (side : Side) (h : Nat) : Half :=
  { side := side, d := BitVec.ofNat 10 (field h 23 14), s := BitVec.ofNat 10 (field h 13 4),
    g := BitVec.ofNat 2 (field h 3 2), ng := bitAt h 1, us := bitAt h 0 }

/-- The full-form opcode map (R126), with the rows that OPX tells apart (R157, R158, R209, R239). -/
def fullInstr (op : Nat) (f : Full) : Option Instr :=
  match op with
  | 0x000 => some (.mov f)
  | 0x001 => some (.sel f)
  | 0x002 => some (.add f)
  | 0x003 => some (.sub f)
  | 0x004 => some (.mul f)
  | 0x005 => some (.mulh f)
  | 0x006 => some (.mad f)
  | 0x007 => some (.div f)
  | 0x008 => some (.rem f)
  | 0x009 => some (.min f)
  | 0x00A => some (.max f)
  | 0x00B => some (.abs f)
  | 0x00C => some (.neg f)
  | 0x010 => some (.and f)
  | 0x011 => some (.or f)
  | 0x012 => some (.xor f)
  | 0x013 => some (.andn f)
  | 0x014 => some (.not f)
  | 0x018 => some (.shl f)
  | 0x019 => some (.shrl f)
  | 0x01A => some (.shra f)
  | 0x01B => some (.rotl f)
  | 0x01C => some (.bfx f)
  | 0x01D => some (.bfi f)
  | 0x01E => some (.perm f)
  | 0x01F => some (.clz f)
  | 0x020 => some (.popc f)
  | 0x021 => some (.brev f)
  | 0x028 => some (.lea f)
  | 0x029 => some (.addD f)
  | 0x030 => some (.setp f)
  | 0x031 => some (.pand f)
  | 0x032 => some (.por f)
  | 0x033 => some (.pxor f)
  | 0x034 => some (.pnot f)
  | 0x080 => some (.calli f)
  | 0x081 => some (.ret f)
  | 0x082 => some (.exit f)
  | 0x083 => some (.nop f)
  | 0x090 => some (.gfetch f)
  | 0x091 => some (if opxN f == 0 then .dispatchOp f else .dispatchPc f)
  | 0x092 => some (.gnext f)
  | 0x093 => some (if opxN f == 0 then .gjmp f else .gjmpRel f)
  | 0x094 => some (.gbrc f)
  | 0x095 => some (.gset f)
  | 0x096 => some (.gget f)
  | 0x100 => some (.fadd f)
  | 0x101 => some (.fsub f)
  | 0x102 => some (.fmul f)
  | 0x103 => some (.ffma f)
  | 0x104 => some (.fmin f)
  | 0x105 => some (.fmax f)
  | 0x106 => some (.fsetp f)
  | 0x107 => some (.fclass f)
  | 0x180 => some (.cvt f)
  | 0x181 => some (.cvtpk f)
  | 0x182 => some (.cvtup f)
  | 0x183 => some (.cvtSr f)
  | 0x184 => some (.cvtpkSr f)
  | 0x188 => some (.padd2 f)
  | 0x189 => some (.pmul2 f)
  | 0x18A => some (.pfma2 f)
  | 0x190 => some (.dot2 f)
  | 0x191 => some (.dot4 f)
  | 0x192 => some (.dot8 f)
  | 0x193 => some (.fmule f)
  | 0x1A0 => some (.rcp f)
  | 0x1A1 => some (.rsqrt f)
  | 0x1A2 => some (.sqrt f)
  | 0x1A3 => some (.exp2 f)
  | 0x1A4 => some (.log2 f)
  | 0x1A5 => some (.tanh f)
  | 0x1A6 => some (.sin f)
  | 0x1A7 => some (.cos f)
  | 0x1B0 => some (.tbl f)
  | 0x1B1 => some (.tblld f)
  | 0x1B2 => some (.tblsw f)
  | 0x200 => some (.ld f)
  | 0x201 => some (.ldI f)
  | 0x202 => some (.st f)
  | 0x203 => some (.stRel f)
  | 0x204 => some (.atom f)
  | 0x210 => some (.barInit f)
  | 0x211 => some (.barArrive f)
  | 0x212 => some (.barWait f)
  | 0x213 => some (.barWaitAcq f)
  | 0x214 => some (.barArwt f)
  | 0x218 => some (.slotClaim f)
  | 0x219 => some (.slotTake f)
  | 0x21A => some (.slotFree f)
  | 0x220 => some (.fence f)
  | 0x221 => some (.sleepu f)
  | 0x222 => some (.dlset f)
  | 0x223 => some (.dladd f)
  | 0x224 => some (.dlget f)
  | 0x230 => some (.shfl f)
  | 0x231 => some (.vote f)
  | 0x232 => some (.redux f)
  | 0x233 => some (.scan f)
  | 0x234 => some (.sample f)
  | 0x238 => some (.cntfAdd f)
  | 0x239 => some (.cntfGet f)
  | 0x23A => some (.cntfClr f)
  | 0x280 => some (if !(opxB f 0) then .copyIn f else .copyOut f)
  | 0x281 => some (.copyRel f)
  | 0x282 => some (.ckick f)
  | 0x288 => some (.wload f)
  | 0x289 => some (if !(opxB f 3) then .mma f else .mmaR f)
  | 0x28A => some (.mmap f)
  | 0x290 => some (.gather f)
  | 0x298 => some (.coll f)
  | 0x2A0 => some (.ratom f)
  | 0x2B0 => some (.fwait f)
  | 0x2B1 => some (.fwaitAcq f)
  | 0x2B2 => some (.ftest f)
  | 0x2B3 => some (.fcancel f)
  | 0x2B4 => some (.ftime f)
  | 0x2B5 => some (.fsleep f)
  | 0x2B6 => some (.waitn f)
  | 0x2B7 => some (.qrd f)
  | 0x300 => some (.taskTake f)
  | 0x301 => some (.taskPut f)
  | 0x302 => some (.taskDone f)
  | 0x303 => some (.taskDep f)
  | 0x304 => some (.taskCoord f)
  | 0x305 => some (.taskWaitf f)
  | 0x310 => some (.spawn f)
  | 0x311 => some (.condNew f)
  | 0x312 => some (.condSet f)
  | 0x313 => some (if opxN f == 0 then .likeSite f else if opxN f == 1 then .likeTask f else .likeSeed f)
  | 0x380 => some (.trap f)
  | 0x381 => some (.bkpt f)
  | 0x382 => some (.phint f)
  | 0x383 => some (.yield f)
  | 0x384 => some (.sysr f)
  | 0x385 => some (.sysw f)
  | 0x3C0 => some (.supPwait f)
  | 0x3C1 => some (.supPrd f)
  | 0x3C2 => some (.supPwr f)
  | 0x3C3 => some (.supResume f)
  | 0x3C4 => some (.supKill f)
  | 0x3C5 => some (.supSave f)
  | 0x3C6 => some (.supLoad f)
  | _ => none

/-- The immediate opcodes (R124). -/
def immInstr (iop : Nat) (x : Imm) : Option Instr :=
  match iop with
  | 0x00 => some (.movi x)
  | 0x01 => some (.addi x)
  | 0x10 => some (.bra x)
  | 0x11 => some (.brc x)
  | 0x12 => some (.call x)
  | 0x13 => some (.loop x)
  | 0x14 => some (.lend x)
  | _ => none

/-- The half-opcode map (R127). -/
def halfInstr (hop : Nat) (h : Half) : Option Instr :=
  match hop with
  | 0x00 => some (.pairedMovB32 h)
  | 0x01 => some (.pairedAddS32 h)
  | 0x02 => some (.pairedSubS32 h)
  | 0x03 => some (.pairedMulS32 h)
  | 0x04 => some (.pairedMinS32 h)
  | 0x05 => some (.pairedMaxS32 h)
  | 0x06 => some (.pairedMinN32 h)
  | 0x07 => some (.pairedMaxN32 h)
  | 0x08 => some (.pairedAndB32 h)
  | 0x09 => some (.pairedOrB32 h)
  | 0x0A => some (.pairedXorB32 h)
  | 0x0B => some (.pairedAndnB32 h)
  | 0x0C => some (.pairedNotB32 h)
  | 0x0D => some (.pairedShlB32 h)
  | 0x0E => some (.pairedShrlB32 h)
  | 0x0F => some (.pairedShraS32 h)
  | 0x10 => some (.pairedRotlB32 h)
  | 0x11 => some (.pairedPermB32 h)
  | 0x12 => some (.pairedClzB32 h)
  | 0x13 => some (.pairedPopcB32 h)
  | 0x14 => some (.pairedBrevB32 h)
  | 0x15 => some (.pairedNegS32 h)
  | 0x16 => some (.pairedAbsS32 h)
  | 0x40 => some (.pairedFaddF32 h)
  | 0x41 => some (.pairedFsubF32 h)
  | 0x42 => some (.pairedFmulF32 h)
  | 0x43 => some (.pairedFminF32 h)
  | 0x44 => some (.pairedFmaxF32 h)
  | 0x48 => some (.pairedPadd2Bf16 h)
  | 0x49 => some (.pairedPmul2Bf16 h)
  | 0x4A => some (.pairedPadd2F16 h)
  | 0x4B => some (.pairedPmul2F16 h)
  | 0x60 => some (.pairedPand h)
  | 0x61 => some (.pairedPor h)
  | 0x62 => some (.pairedPxor h)
  | 0x63 => some (.pairedPnot h)
  | 0x64 => some (.pairedSetpEq h)
  | 0x65 => some (.pairedSetpNe h)
  | 0x66 => some (.pairedSetpLt h)
  | 0x67 => some (.pairedSetpLe h)
  | 0x68 => some (.pairedSetpGt h)
  | 0x69 => some (.pairedSetpGe h)
  | 0x6A => some (.pairedFsetpLt h)
  | 0x6B => some (.pairedFsetpLe h)
  | 0x6C => some (.pairedFsetpEq h)
  | _ => none

/-- One half of a paired word: 31 bits. -/
def decodeHalf (side : Side) (h : Nat) : Option Instr := halfInstr (field h 30 24) (halfFields side h)

/-- The bits of half A and of half B (R120). -/
def halfABits (w : Nat) : Nat := field w 61 31
def halfBBits (w : Nat) : Nat := field w 30 0

/-- A full-form word (R128, first row). -/
def decodeFull (w : Nat) : Decoded :=
  match fullFields w with
  | none => .bad (.typeCode (field w 14 10))
  | some f =>
    match fullInstr (field w 61 52) f with
    | none => .bad (.opcode (field w 61 52))
    | some i => if staticOk i then .one i else .bad .fields

/-- An immediate-form word (R128, third row). -/
def decodeImm (w : Nat) : Decoded :=
  match immInstr (field w 61 54) (immFields w) with
  | none => .bad (.immOpcode (field w 61 54))
  | some i => if staticOk i then .one i else .bad .fields

/-- A paired word (R128, second row). -/
def decodePaired (w : Nat) : Decoded :=
  match decodeHalf .a (halfABits w), decodeHalf .b (halfBBits w) with
  | none, _ => .bad (.halfOpcode (field (halfABits w) 30 24))
  | _, none => .bad (.halfOpcode (field (halfBBits w) 30 24))
  | some a, some b =>
    match halfOf a, halfOf b with
    | some (ca, ha), some (cb, hb) => if pairOk ca ha cb hb then .pair a b else .bad .pairing
    | _, _ => .bad .pairing

/-- A word among a clause's words: what it says, or why it is illegal (R112, R128). -/
def decodeNat (w : Nat) : Decoded :=
  match formOf w with
  | 0 => decodeFull w
  | 1 => decodePaired w
  | 2 => decodeImm w
  | _ => .bad .header

def decodeWord (w : Quad) : Decoded := decodeNat w.toNat

/-- The fields of a clause header (R125); none where the word is no legal header (R33, R128). -/
def headerFields (w : Nat) : Option (Nat × Nat × Nat × Nat × Bool × Nat × Bool) :=
  let len := field w 61 57
  let set1 := field w 44 41
  let set2 := field w 40 37
  if formOf w == 3 && 1 ≤ len && len ≤ 24 && (set1 < 12 || set1 == 15) && (set2 < 12 || set2 == 15)
      && field w 31 0 == 0 then
    some (len, field w 56 45, set1, set2, bitAt w 36, field w 35 33, bitAt w 32)
  else none

/-- The guards that a word carries, as it stands: predicate number and negation, one for each instruction in it. A
header carries none (R129). -/
def rawGuards (w : Nat) : List (Nat × Bool) :=
  match formOf w with
  | 0 => [(field w 21 19, bitAt w 18)]
  | 1 => [(field (halfABits w) 3 2, bitAt (halfABits w) 1), (field (halfBBits w) 3 2, bitAt (halfBBits w) 1)]
  | 2 => [(field w 33 32, false)]
  | _ => []

/-! ### The encoder -/

def rmCode : Rm → Nat
  | .rne => 0
  | .rz => 1
  | .rdn => 2
  | .rup => 3

/-- The opcode of a full-form instruction (R126). -/
def opFull : Instr → Nat
  | .mov _ => 0x000
  | .sel _ => 0x001
  | .add _ => 0x002
  | .sub _ => 0x003
  | .mul _ => 0x004
  | .mulh _ => 0x005
  | .mad _ => 0x006
  | .div _ => 0x007
  | .rem _ => 0x008
  | .min _ => 0x009
  | .max _ => 0x00A
  | .abs _ => 0x00B
  | .neg _ => 0x00C
  | .and _ => 0x010
  | .or _ => 0x011
  | .xor _ => 0x012
  | .andn _ => 0x013
  | .not _ => 0x014
  | .shl _ => 0x018
  | .shrl _ => 0x019
  | .shra _ => 0x01A
  | .rotl _ => 0x01B
  | .bfx _ => 0x01C
  | .bfi _ => 0x01D
  | .perm _ => 0x01E
  | .clz _ => 0x01F
  | .popc _ => 0x020
  | .brev _ => 0x021
  | .lea _ => 0x028
  | .addD _ => 0x029
  | .setp _ => 0x030
  | .pand _ => 0x031
  | .por _ => 0x032
  | .pxor _ => 0x033
  | .pnot _ => 0x034
  | .calli _ => 0x080
  | .ret _ => 0x081
  | .exit _ => 0x082
  | .nop _ => 0x083
  | .gfetch _ => 0x090
  | .dispatchOp _ => 0x091
  | .dispatchPc _ => 0x091
  | .gnext _ => 0x092
  | .gjmp _ => 0x093
  | .gjmpRel _ => 0x093
  | .gbrc _ => 0x094
  | .gset _ => 0x095
  | .gget _ => 0x096
  | .fadd _ => 0x100
  | .fsub _ => 0x101
  | .fmul _ => 0x102
  | .ffma _ => 0x103
  | .fmin _ => 0x104
  | .fmax _ => 0x105
  | .fsetp _ => 0x106
  | .fclass _ => 0x107
  | .cvt _ => 0x180
  | .cvtpk _ => 0x181
  | .cvtup _ => 0x182
  | .cvtSr _ => 0x183
  | .cvtpkSr _ => 0x184
  | .padd2 _ => 0x188
  | .pmul2 _ => 0x189
  | .pfma2 _ => 0x18A
  | .dot2 _ => 0x190
  | .dot4 _ => 0x191
  | .dot8 _ => 0x192
  | .fmule _ => 0x193
  | .rcp _ => 0x1A0
  | .rsqrt _ => 0x1A1
  | .sqrt _ => 0x1A2
  | .exp2 _ => 0x1A3
  | .log2 _ => 0x1A4
  | .tanh _ => 0x1A5
  | .sin _ => 0x1A6
  | .cos _ => 0x1A7
  | .tbl _ => 0x1B0
  | .tblld _ => 0x1B1
  | .tblsw _ => 0x1B2
  | .ld _ => 0x200
  | .ldI _ => 0x201
  | .st _ => 0x202
  | .stRel _ => 0x203
  | .atom _ => 0x204
  | .barInit _ => 0x210
  | .barArrive _ => 0x211
  | .barWait _ => 0x212
  | .barWaitAcq _ => 0x213
  | .barArwt _ => 0x214
  | .slotClaim _ => 0x218
  | .slotTake _ => 0x219
  | .slotFree _ => 0x21A
  | .fence _ => 0x220
  | .sleepu _ => 0x221
  | .dlset _ => 0x222
  | .dladd _ => 0x223
  | .dlget _ => 0x224
  | .shfl _ => 0x230
  | .vote _ => 0x231
  | .redux _ => 0x232
  | .scan _ => 0x233
  | .sample _ => 0x234
  | .cntfAdd _ => 0x238
  | .cntfGet _ => 0x239
  | .cntfClr _ => 0x23A
  | .copyIn _ => 0x280
  | .copyOut _ => 0x280
  | .copyRel _ => 0x281
  | .ckick _ => 0x282
  | .wload _ => 0x288
  | .mma _ => 0x289
  | .mmaR _ => 0x289
  | .mmap _ => 0x28A
  | .gather _ => 0x290
  | .coll _ => 0x298
  | .ratom _ => 0x2A0
  | .fwait _ => 0x2B0
  | .fwaitAcq _ => 0x2B1
  | .ftest _ => 0x2B2
  | .fcancel _ => 0x2B3
  | .ftime _ => 0x2B4
  | .fsleep _ => 0x2B5
  | .waitn _ => 0x2B6
  | .qrd _ => 0x2B7
  | .taskTake _ => 0x300
  | .taskPut _ => 0x301
  | .taskDone _ => 0x302
  | .taskDep _ => 0x303
  | .taskCoord _ => 0x304
  | .taskWaitf _ => 0x305
  | .spawn _ => 0x310
  | .condNew _ => 0x311
  | .condSet _ => 0x312
  | .likeSite _ => 0x313
  | .likeTask _ => 0x313
  | .likeSeed _ => 0x313
  | .trap _ => 0x380
  | .bkpt _ => 0x381
  | .phint _ => 0x382
  | .yield _ => 0x383
  | .sysr _ => 0x384
  | .sysw _ => 0x385
  | .supPwait _ => 0x3C0
  | .supPrd _ => 0x3C1
  | .supPwr _ => 0x3C2
  | .supResume _ => 0x3C3
  | .supKill _ => 0x3C4
  | .supSave _ => 0x3C5
  | .supLoad _ => 0x3C6
  | _ => 0

def opImm : Instr → Nat
  | .movi _ => 0x00
  | .addi _ => 0x01
  | .bra _ => 0x10
  | .brc _ => 0x11
  | .call _ => 0x12
  | .loop _ => 0x13
  | .lend _ => 0x14
  | _ => 0

def opHalf : Instr → Nat
  | .pairedMovB32 _ => 0x00
  | .pairedAddS32 _ => 0x01
  | .pairedSubS32 _ => 0x02
  | .pairedMulS32 _ => 0x03
  | .pairedMinS32 _ => 0x04
  | .pairedMaxS32 _ => 0x05
  | .pairedMinN32 _ => 0x06
  | .pairedMaxN32 _ => 0x07
  | .pairedAndB32 _ => 0x08
  | .pairedOrB32 _ => 0x09
  | .pairedXorB32 _ => 0x0A
  | .pairedAndnB32 _ => 0x0B
  | .pairedNotB32 _ => 0x0C
  | .pairedShlB32 _ => 0x0D
  | .pairedShrlB32 _ => 0x0E
  | .pairedShraS32 _ => 0x0F
  | .pairedRotlB32 _ => 0x10
  | .pairedPermB32 _ => 0x11
  | .pairedClzB32 _ => 0x12
  | .pairedPopcB32 _ => 0x13
  | .pairedBrevB32 _ => 0x14
  | .pairedNegS32 _ => 0x15
  | .pairedAbsS32 _ => 0x16
  | .pairedFaddF32 _ => 0x40
  | .pairedFsubF32 _ => 0x41
  | .pairedFmulF32 _ => 0x42
  | .pairedFminF32 _ => 0x43
  | .pairedFmaxF32 _ => 0x44
  | .pairedPadd2Bf16 _ => 0x48
  | .pairedPmul2Bf16 _ => 0x49
  | .pairedPadd2F16 _ => 0x4A
  | .pairedPmul2F16 _ => 0x4B
  | .pairedPand _ => 0x60
  | .pairedPor _ => 0x61
  | .pairedPxor _ => 0x62
  | .pairedPnot _ => 0x63
  | .pairedSetpEq _ => 0x64
  | .pairedSetpNe _ => 0x65
  | .pairedSetpLt _ => 0x66
  | .pairedSetpLe _ => 0x67
  | .pairedSetpGt _ => 0x68
  | .pairedSetpGe _ => 0x69
  | .pairedFsetpLt _ => 0x6A
  | .pairedFsetpLe _ => 0x6B
  | .pairedFsetpEq _ => 0x6C
  | _ => 0

/-- A full-form word from its opcode and fields (R113, R114). -/
def fullWord (op : Nat) (f : Full) : Nat :=
  op * 2 ^ 52 + f.d.toNat * 2 ^ 42 + f.a.toNat * 2 ^ 32 + f.b.toNat * 2 ^ 22 + f.g.toNat * 2 ^ 19
    + f.ng.toNat * 2 ^ 18 + f.fsel.toNat * 2 ^ 17 + f.dsel.toNat * 2 ^ 15 + tyCode f.ty * 2 ^ 10
    + rmCode f.rm * 2 ^ 8 + f.sat.toNat * 2 ^ 7 + f.ub.toNat * 2 ^ 6 + f.opx.toNat

/-- An immediate-form word (R123). -/
def immWord (iop : Nat) (x : Imm) : Nat :=
  2 * 2 ^ 62 + iop * 2 ^ 54 + x.d.toNat * 2 ^ 44 + x.a.toNat * 2 ^ 34 + x.g.toNat * 2 ^ 32 + x.imm.toNat

/-- The 31 bits of one half (R120). -/
def halfCode (hop : Nat) (h : Half) : Nat :=
  hop * 2 ^ 24 + h.d.toNat * 2 ^ 14 + h.s.toNat * 2 ^ 4 + h.g.toNat * 2 ^ 2 + h.ng.toNat * 2 + h.us.toNat

/-- The word of an instruction of the full or the immediate form. -/
def encode (i : Instr) : Option Nat :=
  match fullOf i, immOf i with
  | some f, _ => some (fullWord (opFull i) f)
  | none, some x => some (immWord (opImm i) x)
  | none, none => none

/-- The word of two halves (R120). -/
def encodePair (a b : Instr) : Option Nat :=
  match halfOf a, halfOf b with
  | some (_, ha), some (_, hb) => some (2 ^ 62 + halfCode (opHalf a) ha * 2 ^ 31 + halfCode (opHalf b) hb)
  | _, _ => none

/-- The instruction that the decoder reads from a table word: its bits are the word's bits, the least significant
first, since a word is 64 bits stored least significant byte first (R9). Of a paired word, the instruction of half A. -/
def decodeTableWord (_nbits w : Nat) : Option Instr :=
  match decodeNat (w % 2 ^ 64) with
  | .one i => some i
  | .pair a _ => some a
  | .bad _ => none

end Sys2Proof
end

