-- ==== Sys2Proof/Machine/State.lean ====
section
/-! DEFINITION. The state of one W3-M module, from the hub's interface inward, as plain data, and the state after module
power-on reset. Times are ticks of TIME, cycles are cycles of the arithmetic clock (R8). A table keyed by number is a
list of pairs; a key that is not listed holds the default its docstring names. -/

namespace Sys2Proof.Machine

open Sys2Proof

/-- Memory: the bytes that do not read as an unlisted address does (zero, log entry 1), by physical address (R54). -/
abbrev Mem := List Host.Cell

/-- A table keyed by number. -/
abbrev Tbl (α : Type) := List (Nat × α)

/-! ### Threads -/

/-- The states of R26. A slot that no thread of the core's list names is free. -/
inductive TState
  | ready | inSheaf | flagWait | gather | collective | barrier | future | task | sleeping | parked | saved | exited
  deriving DecidableEq, Repr

/-- The trap causes of R344. -/
inductive Cause
  | illegal | breakpoint | guestBreakpoint | watchpoint | bounds | alignment | guestDescriptor | guestUndefined
  | returnOverflow | returnUnderflow | userTrap | engineFull | promiseMissed | deadlineEscalation | registerError | halt
  deriving DecidableEq, Repr

/-- The statuses of R42. -/
inductive Status
  | done | timeout | cancelled | fault | withdrawn | partialDone | stale | absent
  deriving DecidableEq, Repr

/-- The engine fault causes of R59. -/
inductive EFault
  | none | noncanonical | notMapped | malformed | permission | hole | badMeta | badFormat | bounds | uncorrectable
  deriving DecidableEq, Repr

/-- A fault record of R347, with the slot and GEN of the thread it names. -/
structure FaultRec where
  slot : Nat
  gen : Nat
  cause : Cause
  widx : Nat
  gm : Bool
  spec : Bool
  code : Nat
  hdr : Nat
  gpc : Reg
  gop : Reg
  arg : Quad
  time : Nat
  /-- the cycle in which its thread parked (R415) -/
  cyc : Nat
  deriving DecidableEq, Repr

/-- The guest registers of R152. -/
structure Guest where
  gpc : Reg
  gir : Quad
  gop : Reg
  ga0 : Reg
  ga1 : Reg
  gdd : Reg
  htb : Reg
  gbp0 : Reg
  gbp1 : Reg
  gbp2 : Reg
  gbp3 : Reg
  deriving DecidableEq, Repr

/-- The return stack of R146: entry 0 is the oldest that is held. -/
structure RStack where
  depth : Nat
  held : Nat
  ent : List Reg
  deriving DecidableEq, Repr

/-- The registers that software reads of one thread beside V, P and the guest registers (R118). -/
structure Special where
  sp : Reg
  cgs : Reg
  efc : Reg
  efa : Quad
  pgf : Quad
  fsr : Reg
  lc0 : Reg
  lc1 : Reg
  deriving DecidableEq, Repr

/-- An effective deadline (R41): a TIME, and in budget mode the resident ticks that remain. -/
structure Deadline where
  at_ : Nat
  left : Option Nat
  deriving DecidableEq, Repr

/-- A task descriptor's fields (R242). -/
structure Desc where
  kind : Nat
  prio : Nat
  queue : Nat
  acore : Nat
  amode : Nat
  dep : Nat
  entry : Nat
  arg0 : Quad
  arg1 : Quad
  succ : List Nat
  ovf : Nat
  ovfn : Nat
  ext0 : Nat
  ext1 : Nat
  ext2 : Nat
  oboff : Nat
  oblen : Nat
  deriving DecidableEq, Repr

/-- What a SPAWN names beside its descriptor (R257). -/
structure SpawnArg where
  cref : Nat
  p : Nat
  side : Bool
  site : Nat
  psrc : Bool
  learn : Bool
  /-- a bit that must be zero is set -/
  rsvd : Bool
  deriving DecidableEq, Repr

/-- What a thread waits for (R26, R42). -/
inductive WaitKind
  /-- SLEEPU (R197) -/
  | sleep
  /-- a waiting word whose access has not reached its commit point (R430) -/
  | access
  /-- BAR.WAIT, BAR.ARWT: the object, the phase and the count that a timeout withdraws (R191, R192) -/
  | barrier (obj ph cnt : Nat) (acq : Bool)
  /-- the acquire step of R87: the posted writes awaited, the operations that a release has ordered before it, and the WOBJ
  that the wait had before the step (R359) -/
  | acquire (ids ops : List Nat) (obj : Nat)
  /-- SLOT.CLAIM for n bytes, or SLOT.TAKE (R194) -/
  | tag (core tag : Nat) (claim : Option Nat)
  /-- FWAIT, FWAIT.acq, TASK.WAITF (R233, R252) -/
  | future (h : Quad) (acq task : Bool)
  /-- FSLEEP (R236); `begun` once it sleeps until the promise -/
  | fsleep (h : Quad) (begun : Bool)
  /-- WAITN (R237) -/
  | waitn (cls thr : Nat)
  /-- FENCE (R89): scope, class mask, the earlier accesses and the earlier operations -/
  | fence (scope mask : Nat) (accs ops : List Nat)
  /-- TASK.TAKE (R246) -/
  | take (mask : Quad)
  /-- TASK.PUT or SPAWN before its descriptor has been read and its release holds: the words read, the accesses and the
  posted writes before it (R245, R253, R257) -/
  | desc (x : Option SpawnArg) (ws : List Quad) (after posts : List Nat)
  /-- TASK.PUT (R245) -/
  | put (d : Desc)
  /-- SPAWN (R257) -/
  | spawn (d : Desc) (x : SpawnArg)
  /-- COND.NEW (R256) -/
  | condNew
  /-- SUP.PWAIT (R270) -/
  | supWait
  /-- SUP.SAVE and SUP.LOAD (R273): the target slot and the image's offset -/
  | supXfer (save : Bool) (target addr : Nat)
  /-- a suspended tiller (R261) -/
  | suspended
  /-- a DISPATCH or a filling RET on its way to its target (R147, R157), from the word index given -/
  | transit (w : Nat)
  deriving DecidableEq, Repr

/-- A wait under way: its kind, its effective deadline, the register of its status, the header that follows, its start. -/
structure Wait where
  kind : WaitKind
  dl : Deadline
  reg : Nat
  next : Nat
  start : Nat
  deriving DecidableEq, Repr

/-- A hold at a gather header (R34, R36) or of a YIELD (R267): until which cycle, and whether arrivals can release it. -/
structure Hold where
  until_ : Nat
  arrived : Nat
  yield_ : Bool
  deriving DecidableEq, Repr

/-- A member of an open gathering (R38): the mask it is judged by, its deadline, the gathering's number. -/
structure GatherWait where
  mask : Quad
  dl : Deadline
  num : Nat
  deriving DecidableEq, Repr

/-- What happens to a register result when it lands (R17, R314). -/
structure Result where
  at_ : Nat
  seq : Nat
  regs : List (Nat × Reg)
  guest : Option (Quad × Reg × Reg × Reg)
  fsr : Reg
  flag : Option Nat
  table : Option (List Byte)
  /-- a status other than TIMEOUT is among the registers: it returns the thread's count to zero as it is written (R44) -/
  status : Bool
  deriving DecidableEq, Repr

/-- A reply an engine still owes (FTIME, R235): the handle, the destination pair, the flag, the TIME and cycle of issue. -/
structure Reply where
  h : Quad
  dst : Nat
  flag : Option Nat
  issued : Nat
  cyc : Nat
  deriving DecidableEq, Repr

/-- An operation in its thread's issue record: class, number, and its status once it has completed (R72). -/
structure OpRef where
  cls : Nat
  op : Nat
  ended : Option Status
  deriving DecidableEq, Repr

/-- The paths of direct accesses (R77). -/
inductive Path
  | own | partner
  deriving DecidableEq, Repr

/-- What a direct access does at its commit point (R80, R81). -/
inductive AccKind
  /-- a load into register dst, sign-extended or not; 8 bytes fill a pair -/
  | load (dst : Nat) (sext : Bool)
  | store (v : Quad)
  /-- a local atomic (R186): operation, type, operand, compare value, destination -/
  | atom (op : Nat) (ty : Ty) (b cmp : Quad) (dst : Nat)
  | barInit (cnt : Nat)
  | barArrive (cnt dst : Nat)
  | barWait (ph cnt : Nat) (acq : Bool)
  | barArwt (cnt : Nat)
  | slotClaim (tag n : Nat)
  | slotTake (tag : Nat)
  | slotFree (tag dst : Nat)
  /-- a guest fetch under the GDD of its issue (R155) -/
  | gfetch (gdd : Reg)
  /-- the COUNT word and the entry word of a DISPATCH (R157) -/
  | dispCount
  | dispEntry
  /-- word j of a return-stack fill (R147) -/
  | fill (j : Nat)
  /-- a table image, and the slots whose flags clear with it (R179) -/
  | tblld (mates : List Nat)
  /-- word j of a task descriptor (R245) -/
  | desc (j : Nat)
  /-- row r of CNTF.ADD or CNTF.GET (R207): the key, the increment, the least value so far, the destination -/
  | cntf (add : Bool) (r key inc least dst : Nat)
  deriving DecidableEq, Repr

/-- A direct access that has issued and not committed (R80). -/
structure Access where
  id : Nat
  path : Path
  kind : AccKind
  phys : Nat
  size : Nat
  cyc : Nat
  inv : Bool
  rel : Bool
  flag : Option Nat
  /-- the cycle before which it does not commit, once an access that held it has (R317) -/
  after : Nat
  /-- the posted writes that a release waits for, fixed at its issue (R88) -/
  posts : List Nat
  deriving DecidableEq, Repr

/-- A DISPATCH or a filling RET under way (R147, R157). -/
structure Xfer where
  ret : Bool
  pcMode : Bool
  at_ : Nat
  cnt : Option Reg
  ent : Option Reg
  words : List Reg
  win : Option Nat
  /-- the guest opcode when DISPATCH issued (R157) -/
  gop : Reg
  deriving DecidableEq, Repr

/-- A Granary instruction that waits for its release condition (R253) or is held in a tiller (R263). -/
inductive GAct
  | done (ref dst : Nat)
  | dep (ref : Nat) (delta : Int) (dst : Nat)
  | condSet (ref : Nat) (v : Bool) (dst : Nat)
  | seed (site v : Nat)
  | put (die e : Nat)
  deriving DecidableEq, Repr

/-- A Granary instruction pending in its thread. -/
structure PendG where
  act : GAct
  flag : Option Nat
  /-- the accesses and the posted writes that it waits for (R253) -/
  after : List Nat
  posts : List Nat
  cyc : Nat
  deriving DecidableEq, Repr

/-- Whether the thread runs a tiller, or is detached from one (R261, R262): die, entry, SEQ, output buffer. -/
inductive Spec
  | plain
  | running (die e seq oboff oblen : Nat)
  | detached (die e seq oboff oblen : Nat) (pruned : Bool)
  deriving DecidableEq, Repr

/-- Who the thread is (R21, R23, R350). -/
structure Ident where
  slot : Nat
  gen : Nat
  sup : Bool
  launch : Nat
  tid : Nat
  tmx : Nat
  width : Nat
  nregs : Nat
  deriving DecidableEq, Repr

/-- Where the thread stands (R26 to R30, R352, R353). -/
structure Pos where
  st : TState
  since : Nat
  hdr : Nat
  widx : Nat
  gtag : Option Reg
  /-- the gathering mask that governs the thread's cross-lane words (R38, R201) -/
  gmask : Quad
  /-- the cycle before which no choice takes a thread that an arrival has released from its hold (R34) -/
  free : Nat
  /-- the cycle in which the thread arrived at its header, `none` after a placement (R25, R34) -/
  arr : Option Nat
  /-- the gathering that the thread has formed with, by number (R38) -/
  gid : Nat
  deriving DecidableEq, Repr

/-- An arrival at a barrier: object, phase, count, and the posted writes that it recorded (R87, R191). -/
structure Arrival where
  obj : Nat
  ph : Nat
  n : Nat
  ids : List Nat
  deriving DecidableEq, Repr

/-- What stops or marks the thread for the debug block (R354, R399 to R401). -/
structure DbgT where
  /-- skip-watch for the word at (header, index) -/
  skw : Option (Nat × Nat)
  /-- resumed while stepping: parks after one word -/
  step : Bool
  /-- the first position after a resume, at which comparators do not fire -/
  fresh : Bool
  /-- a halt is due (R399): at the thread's next position, or, when true, at its next header alone -/
  halt : Option Bool
  /-- the CODEs of the task boundaries that stop the thread at its next header (R404) -/
  ends : List Nat
  /-- HALTR with TB = 1 names the thread (R404) -/
  tb : Bool
  deriving DecidableEq, Repr

structure Thread where
  id : Ident
  pos : Pos
  v : List Reg
  p : BitVec 8
  dl : List Quad
  /-- counts of F0 to F11 (R316) -/
  flags : List Nat
  /-- Q0 to Q4 (R72) and the FLT bits of QRD (R238) -/
  q : List Nat
  flt : List Bool
  /-- the cycle in which FLT bits were last set, the bits as they stood before it, and those set in it (R11) -/
  fltNew : Nat × List Bool × List Bool
  rs : RStack
  gst : Guest
  sr : Special
  /-- count of consecutive TIMEOUTs, and a DEADLINE_ESCALATION due (R44) -/
  toc : Nat
  esc : Bool
  wait : Option Wait
  hold : Option Hold
  gw : Option GatherWait
  xfer : Option Xfer
  /-- path queues, oldest first (R77, R80) -/
  acc : List Access
  res : List Result
  replies : List Reply
  /-- engine operations issued and not yet reported, in issue order (R72) -/
  ops : List OpRef
  /-- operations whose completion the thread has observed and whose posted writes may be in flight (R88) -/
  seen : List Nat
  pend : List PendG
  spec : Spec
  /-- the record to be formed once every result has landed (R347) -/
  frec : Option FaultRec
  /-- arrivals at barriers that a timeout may still withdraw (R191) -/
  arr : List Arrival
  /-- tokens whose count a timed-out wait of the thread has withdrawn (R191) -/
  spent : List (Nat × Nat × Nat)
  /-- the tillers that the thread runs or is detached from beside that of `spec` (R261, R262) -/
  outer : List Spec
  /-- saved by a liveness descriptor: its number, and the stack ranges saved, by slice offset (R334, R358) -/
  cut : Option (Nat × List (Nat × List Byte))
  dbg : DbgT
  /-- the cycle of the newest landing, and the FSR bits that landings of that cycle have set (R11, R105) -/
  hot : Nat × Reg
  /-- the cycle in which results, old values and statuses last reached V registers, and those registers, each with the cycle in
  which its word issued (R315) -/
  late : Nat × List (Nat × Nat)
  deriving DecidableEq, Repr

/-! ### Cores -/

/-- The fields of a clause header (R125). -/
structure Header where
  len : Nat
  wait : Nat
  set1 : Nat
  set2 : Nat
  gth : Bool
  win : Nat
  coll : Bool
  deriving DecidableEq, Repr

/-- What a word of the first half of a paired word will write when the second half has read its sources (R122). -/
structure HalfWrite where
  slot : Nat
  reg : Option (Nat × Reg)
  pred : Option (Nat × Bool)
  fsr : Reg
  deriving DecidableEq, Repr

/-- What a thread's stalled word read at its slot cycle: V registers, guest registers, its uniform operand (R308). -/
structure Reading where
  slot : Nat
  v : List Reg
  gst : Guest
  uni : Quad
  deriving DecidableEq, Repr

/-- The sheaf that holds the issue slot (R31). -/
structure Issue where
  sup : Bool
  hdr : Nat
  head : Header
  /-- index of the word that issues next -/
  widx : Nat
  /-- the slots of the sheaf -/
  slots : List Nat
  /-- the index of the first word that this sheaf issues -/
  first : Nat
  /-- the cycle of the next word's slot -/
  next : Nat
  /-- the slots in which the word that has issued last wrote registers at once, each with those registers (R315) -/
  wrote : List (Nat × List Nat)
  /-- the word waits out its stall since a slot cycle, in which it has read its registers (R308) -/
  stalled : Option (List Reading)
  /-- half A of the word has executed, and its results wait (R122) -/
  half : Option (List HalfWrite)
  /-- stalls so far, and the TIME of the header's issue (R410) -/
  stalls : Nat
  start : Nat
  /-- what a full trace record takes at the header: positions of the selected group, GPC, threads (R410) -/
  mark : Option (Quad × Reg × Nat)
  /-- the user groups with a thread in the sheaf, by `groupKey` (R409, R410) -/
  groups : List Nat
  deriving DecidableEq, Repr

/-- A team that a core holds (R24). -/
structure Team where
  launch : Nat
  tmx : Nat
  paired : Bool
  deriving DecidableEq, Repr

/-- A ring-slot tag (R75): STATE 0 EMPTY, 1 FILLING, 2 FULL, 3 DRAINING. -/
structure Tag where
  st : Nat
  short : Bool
  stray : Bool
  count : Nat
  gen : Nat
  /-- operations with posted writes whose bytes have counted since the claim (R88) -/
  ops : List Nat
  deriving DecidableEq, Repr

/-- A bank of the activation table (R177, R178): its descriptor and its entries (unlisted: +0). -/
structure ActBank where
  desc : BitVec 128
  ent : Tbl Reg
  deriving DecidableEq, Repr

/-- A weight buffer (R218): format, weights by 128k + n (unlisted: +0), scales by 128b + n (unlisted: 127). -/
structure WBuf where
  fmt : Ty
  w : Tbl Nat
  sc : Tbl Nat
  deriving DecidableEq, Repr

/-- The reuse latch (R225): the group, the format, and per position a row of codes with its four scales. -/
structure Latch where
  sup : Bool
  gix : Nat
  ty : Ty
  rows : List (List Nat × List Nat)
  deriving DecidableEq, Repr

/-- The matrix array's state (R218, R227): sub-array k is gated when bit k is set. -/
structure Matrix where
  b0 : WBuf
  b1 : WBuf
  acc : Tbl Reg
  latch : Option Latch
  gated : BitVec 16
  /-- when the idle period began, and the gating idle time that was in force then (R388) -/
  idleAt : Nat
  idleFor : Nat
  waking : Option Nat
  deriving DecidableEq, Repr

/-- The outcome an engine slot keeps (R70): pending, accepted or ended with a status. -/
structure ESlot where
  cls : Nat
  slot : Nat
  seq : Nat
  used : Bool
  launch : Nat
  op : Nat
  accepted : Bool
  ended : Option Status
  endedAt : Nat
  cause : EFault
  fva : Nat
  summary : Reg
  promise : Option Nat
  pgf : Quad
  /-- what the release of a COPY.rel has ordered before it: operations, posted writes (R87) -/
  relOps : List Nat
  relPosts : List Nat
  deriving DecidableEq, Repr

/-- The debug block of a core (R397). -/
structure DbgBlock where
  haltr : Reg
  step : Reg
  tstopq : Quad
  trcfg : Quad
  trbase : Quad
  trptr : Nat
  trrd : Nat
  trdrop : Nat
  ibp : List Reg
  wp : List Quad
  /-- the selected group of R409, by `groupKey` -/
  sel : Option Nat
  /-- the groups that issued in the running interval: `groupKey`, ISSUES, WORDS, STALLS -/
  intv : List (Nat × Nat × Nat × Nat)
  intvEnd : Nat
  deriving DecidableEq, Repr

/-- A pre-emption request on a core (R356). -/
structure Preempt where
  kind : Nat
  grace : Nat
  /-- the packet that asked for it, and the cores it was widened to -/
  pk : Option Nat
  cores : List Nat
  /-- a thread was saved in full at the grace deadline (R358) -/
  full : Bool
  graceOver : Bool
  /-- the core's request is served: its save has been written -/
  saved : Bool
  /-- the core that the request names -/
  target : Nat
  /-- that core goes offline after the save, no spare being left (R420) -/
  off : Bool
  deriving DecidableEq, Repr

/-- A team in its save area (R358, R360): its slice lies in memory, the rest is kept here as well. -/
structure SavedTeam where
  team : Team
  kind : Nat
  area : Nat
  threads : List Thread
  recs : List FaultRec
  code : List Quad
  tags : Tbl Tag
  act : Bool
  bank0 : ActBank
  bank1 : ActBank
  mx : Matrix
  g : Tbl Quad
  es : List ESlot
  /-- the values written to the slice while the team was on its core, the latest first (R63) -/
  hist : List Host.Cell
  /-- a spare has taken the core's number, and its record follows the restore (R420) -/
  spared : Bool
  /-- its restore has been asked for, and follows once the core is free -/
  due : Bool
  deriving DecidableEq, Repr

/-- A supervisor kernel on a core (R350, R384): its words, its group width, where its image's code section lies. -/
structure SupKernel where
  code : List Quad
  width : Nat
  at_ : Nat
  deriving DecidableEq, Repr

/-- A transfer of the save engine for a supervisor thread (R273): its slot and GEN, the target's, save or load, the
image's offset. -/
structure SupXfer where
  by_ : Nat
  byGen : Nat
  target : Nat
  targetGen : Nat
  save : Bool
  addr : Nat
  deriving DecidableEq, Repr

/-- A cached translation (R58): launch, virtual page base, page bytes, physical base, the leaf's fields. -/
structure TlbEnt where
  space : Nat
  va : Nat
  bytes : Nat
  pa : Nat
  kind : Nat
  inv : Bool
  pr : Bool
  pw : Bool
  pa_ok : Bool
  deriving DecidableEq, Repr

structure Core where
  team : Option Team
  sup : Option SupKernel
  /-- the instruction store: words beyond the list are zero (R333) -/
  code : List Quad
  threads : List Thread
  /-- threads saved without a slot while their team is resident, each with the state it returns to (R46, R361) -/
  saved : List Thread
  /-- GEN of each slot (unlisted: 0) (R269) -/
  gen : Tbl Nat
  issue : Option Issue
  /-- G registers of a group, keyed by `Core.gKey` (unlisted: 0) (R199) -/
  g : Tbl Quad
  /-- unlisted: EMPTY with GEN 0 -/
  tags : Tbl Tag
  act : Bool
  bank0 : ActBank
  bank1 : ActBank
  /-- until which cycle the newest TBLLD holds the program port (R179, R312) -/
  portBusy : Nat
  mx : Matrix
  es : List ESlot
  faultQ : List FaultRec
  faultWait : List FaultRec
  tlb : List TlbEnt
  dbg : DbgBlock
  /-- supervisor fault block: record, VALID, SLOT, OVF (R384) -/
  svRec : Option FaultRec
  svOvf : Nat
  /-- saves and loads of parked threads under way (R273) -/
  supX : List SupXfer
  pre : Option Preempt
  /-- teams saved from the core, the oldest first -/
  savedTeams : List SavedTeam
  offline : Bool
  /-- the cores whose retirement is deferred until the team ends (R421) -/
  retireDue : List Nat
  /-- the Plinth is to retire the core, on an uncorrectable error when `true` (R420) -/
  retireWant : Option Bool
  /-- corrected errors counted, by the memory's code (unlisted: 0) (R417) -/
  corrected : Tbl Nat
  /-- a refetch under way, for which the sheaf stalls: privilege and index of the word, the cycle by which it ends (R419) -/
  refetch : Option (Bool × Nat × Nat)
  /-- the slots in which the word at issue reads a register with an uncorrectable error (R344, R419) -/
  regErr : List Nat
  /-- the banks that the core's words took, by cycle of issue: of its own slice, and of its partner's (R311, R313) -/
  portLog : List (Nat × List Nat × List Nat)
  /-- the debug block as it is in force, and the cycle by which writes made since come into force (R398) -/
  dbgNow : DbgBlock
  dbgDue : Option Nat
  /-- GO of HALTR has been written 1, and the halt has not started -/
  haltDue : Bool
  deriving DecidableEq, Repr

/-! ### Engines -/

/-- A part of an engine operation (R62): its bytes on the global side, its place and length in the request on the other. -/
structure Part where
  gva : Nat
  len : Nat
  off : Nat
  dlen : Nat
  /-- 0 S, 1 C, 2 N (R57) -/
  kind : Nat
  inv : Bool
  write : Bool
  cause : EFault
  fva : Nat
  /-- 0 waiting, 1 performed, or posted on a C or N page, 2 faulted, 3 cancelled -/
  st : Nat
  /-- a write on an S page that waits no longer for the engine but for its commit point (R84) -/
  posted : Bool
  deriving DecidableEq, Repr

/-- A failed walk (R59, R61, R62): the address, the cause, the span that takes the page's place, the pager future. -/
structure WalkFault where
  va : Nat
  cause : EFault
  lo : Nat
  bytes : Nat
  pgf : Quad
  deriving DecidableEq, Repr

/-- One record of a CKICK as fetched (R216). -/
structure KickRec where
  gaddr : Nat
  laddr : Nat
  bytes : Nat
  out : Bool
  inv : Bool
  rel : Bool
  bar : Option Nat
  tag : Option Nat
  bad : Bool
  parts : List Part
  /-- the translations under which it was accepted (R365), and whether one of them failed (R71) -/
  pages : List TlbEnt
  lost : Bool
  accepted : Bool
  promise : Option Nat
  ended : Option Status
  cause : EFault
  fva : Nat
  pgf : Quad
  deriving DecidableEq, Repr

/-- The operands of a COPY (R212). -/
structure CopyArg where
  out : Bool
  inv : Bool
  gaddr : Nat
  maddr : Nat
  laddr : Nat
  ctl : Reg
  bar : Option Nat
  tag : Option Nat
  xp : Bool
  cv : Bool
  ty : Ty
  sat : Bool
  deriving DecidableEq, Repr

/-- The operands of MMA, MMA.r and MMAP (R220 to R226); `rows` holds the register rows and scales by position. -/
structure MmaArg where
  ty : Ty
  ctl : Reg
  addr : Nat
  scaddr : Nat
  out : Nat
  fromRegs : Bool
  reuse : Bool
  paired : Bool
  /-- an MMAP on the leader of a pair whose partner path was open where it was issued (R226) -/
  reach : Bool
  gix : Nat
  sup : Bool
  width : Nat
  rows : List (List Nat × List Nat)
  deriving DecidableEq, Repr

inductive OpKind
  | copy (x : CopyArg)
  | ckick (base count : Nat) (recs : List KickRec)
  | wload (ty : Ty) (buf : Nat) (addr : Nat) (sc : Option Nat)
  | mma (x : MmaArg)
  | gather (ty : Ty) (pool : Nat) (table list out : Nat) (count rowlen rowcount : Nat) (rsvd : Bool)
  /-- COLL, and once it has joined its call: CID, call number, rank (R231) -/
  | coll (ty : Ty) (ofmt : Bool) (op : Nat) (src dst comm n : Nat) (call : Option (Nat × Nat × Nat))
  | ratom (op : Nat) (ty : Ty) (addr : Nat) (b cmp : Quad) (dst : Nat)
  deriving DecidableEq, Repr

/-- An engine operation not yet completed. -/
structure Op where
  id : Nat
  core : Nat
  cls : Nat
  slot : Nat
  seq : Nat
  launch : Nat
  sup : Bool
  /-- the TIDs of the threads it is counted in -/
  threads : List Nat
  kind : OpKind
  rel : Bool
  /-- the cycle of its issue: the accesses issued before it are its thread's earlier ones (R83, R88) -/
  cyc : Nat
  /-- its place in issue order: a held operation issues at its commit (R83, R93) -/
  iss : Nat
  /-- the open operations of its thread issued before it, and the posted writes of those complete by then (R88) -/
  relOps : List Nat
  relPosts : List Nat
  /-- held in a tiller's provisional store (R92) -/
  held : Bool
  accepted : Bool
  /-- its place among the operations that wait for acceptance, and once accepted among those accepted (R210, R226) -/
  order : Nat
  parts : List Part
  /-- the translations and the failed walks of its addresses -/
  pages : List TlbEnt
  faults : List WalkFault
  /-- the rows that a pooling GATHER has read, by their place in the unpooled output (R229) -/
  rows : List (Nat × List Byte)
  cause : EFault
  fva : Nat
  exc : Reg
  cancel : Bool
  promise : Option Nat
  pgf : Quad
  issued : Nat
  deriving DecidableEq, Repr

/-- A posted write in flight (R84): the operation, its thread, the bytes. -/
structure Posted where
  id : Nat
  op : Nat
  core : Nat
  tid : Nat
  launch : Nat
  cls : Nat
  kind : Nat
  /-- the virtual page that placed it, base and bytes (R365), and the promise of its operation (R215) -/
  page : Nat × Nat
  promise : Option Nat
  /-- the part that waits for it, on an S page, as `enginePartPerformed` numbers the parts (R84) -/
  part : Option Nat
  cells : List Host.Cell
  /-- it goes out over the external aperture, and over which Ethernet port and half (R395, R423) -/
  aperture : Bool
  link : Option Nat
  /-- the part that it moves, as `enginePartPerformed` numbers the parts -/
  num : Nat
  deriving DecidableEq, Repr

/-- A translation that a shootdown has dropped and that an operation had used: the operation, the record of a kick, the page
(R365). -/
structure Shot where
  op : Nat
  item : Nat
  va : Nat
  bytes : Nat
  deriving DecidableEq, Repr

/-- The posted writes that a barrier's phase has to do with: object, phase, the posted writes of its arrivals (R87), and the
operations with posted writes whose bytes have counted in it (R88). -/
structure BarPost where
  obj : Nat
  ph : Nat
  ids : List Nat
  ops : List Nat
  deriving DecidableEq, Repr

/-- One rank of a collective call that has joined (R231). -/
structure Joined where
  rank : Nat
  op : Option Nat
  shape : Nat × Nat × Ty × Bool × Nat
  data : List Byte
  deriving DecidableEq, Repr

structure CollCall where
  cid : Nat
  k : Nat
  ranks : Nat
  joined : List Joined
  withdrawn : Bool
  deriving DecidableEq, Repr

/-! ### The Granary -/

inductive EState
  | held | pending | queued | running | finished
  deriving DecidableEq, Repr

/-- An entry of a tiller's chain (R257): condition number, side wanted, probability. -/
structure Link where
  cond : Nat
  side : Bool
  p : Nat
  deriving DecidableEq, Repr

/-- What a tiller holds until its commit (R92, R93, R261). -/
inductive Held
  | store (a : Access)
  | op (id : Nat)
  /-- a Granary instruction, or the entry of a TASK.PUT, and a number below which its thread's earlier accesses lie -/
  | act (a : GAct) (id : Nat)
  deriving DecidableEq, Repr

/-- A holder of a task: its core, launch, team, privilege and TID (R249). -/
structure Holder where
  core : Nat
  launch : Nat
  tmx : Nat
  sup : Bool
  tid : Nat
  deriving DecidableEq, Repr

structure Entry where
  die : Nat
  ix : Nat
  seq : Nat
  st : EState
  launch : Nat
  desc : Desc
  dep : Nat
  readyAt : Nat
  born : Nat
  tiller : Bool
  holders : List Holder
  next : Nat
  gleaned : Bool
  chain : List Link
  /-- the tiller whose thread spawned it (R93) -/
  parent : Option (Nat × Nat × Nat)
  /-- what it holds, in program order; an item that its thread made while running other tillers too stands with each of
  those that hold it (R261) -/
  prov : List Held
  provCore : Nat
  pruned : Bool
  /-- every condition resolved for it, and the commit step not yet taken (R93) -/
  committing : Bool
  /-- its Maquette slot and live copy (R340) -/
  maq : Option (Nat × Nat)
  deriving DecidableEq, Repr

structure Cond where
  num : Nat
  seq : Nat
  launch : Nat
  live : Bool
  val : Option Bool
  /-- the tillers that its thread ran when it made it: die, entry, SEQ (R260) -/
  owners : List (Nat × Nat × Nat)
  /-- site and SIDE of the tillers spawned on it with LEARN, in spawn order (R259) -/
  learners : List (Nat × Bool)
  deriving DecidableEq, Repr

structure Wake where
  die : Nat
  core : Nat
  launch : Nat
  tid : Nat
  /-- the status decided at firing, while it cannot yet be placed (R361) -/
  fired : Option (Status × List (Nat × Reg))
  deriving DecidableEq, Repr

structure Granary where
  entries : List Entry
  /-- last SEQ of entry 16384 * die + ix (unlisted: 0) -/
  seqs : Tbl Nat
  conds : List Cond
  /-- the site predictor (unlisted: 128) (R259) -/
  pred : Tbl Nat
  wakes : List Wake
  /-- output buffers marked pruned: core, offset, length (R260) -/
  prunedBufs : List (Nat × Nat × Nat)
  deriving DecidableEq, Repr

/-! ### Launches and the hub -/

/-- The fields of a kernel image header (R332). -/
structure Image where
  addr : Nat
  paired : Bool
  entry : Nat
  coden : Nat
  regs : Nat
  group : Nat
  team : Nat
  stack : Nat
  nlive : Nat
  dbase : Nat
  dsize : Nat
  codeOff : Nat
  liveOff : Nat
  dataOff : Nat
  deriving DecidableEq, Repr

structure Launch where
  num : Nat
  img : Image
  root : Nat
  save : Nat
  teams : Nat
  part : Nat
  coresident : Bool
  qmask : Quad
  swbv : Quad
  plist : Nat
  pcount : Nat
  pk : Nat
  placed : Nat
  ended : Nat
  /-- the values that `State.hist` held when the launch started (R63) -/
  mark : Nat
  preloadFail : Bool
  /-- every team has ended and the launch's resources have been released; its posted writes are still awaited (R377) -/
  closing : Bool
  deriving DecidableEq, Repr

/-- A pager slot of a die (R61, R70): its future, the missing range it serves. -/
structure PSlot where
  die : Nat
  slot : Nat
  seq : Nat
  launch : Nat
  lo : Nat
  bytes : Nat
  va : Nat
  acc : Nat
  posted : Bool
  ended : Option Status
  endedAt : Nat
  deriving DecidableEq, Repr

structure CmdQueue where
  base : Nat
  log2n : Nat
  en : Bool
  err : Bool
  /-- the tick of the last rejection: a 1 written to ERR in that tick clears nothing (R11) -/
  errAt : Option Nat
  tail : Nat
  head : Nat
  done : Nat
  /-- the packet that is next to start, as it was read (R368) -/
  next : Option (List Quad)
  /-- a consume wait under way: its deadline and its start (R375) -/
  cwait : Option (Nat × Nat)
  /-- the packet that has not started in full: a LAUNCH before its first placement (R370), an MQKICK that waits for room
  in the kick list (R387) -/
  blocked : Option Nat
  deriving DecidableEq, Repr

inductive PkStage
  /-- started, its operation not yet carried out -/
  | started
  /-- its operation runs: a launch, a request, a restore, a kick, an unload -/
  | working
  /-- its work has completed; the produce step and the record follow -/
  | finished
  deriving DecidableEq, Repr

/-- A packet that has started and not completed (R368 to R371). -/
structure Packet where
  id : Nat
  q : Nat
  ws : List Quad
  stage : PkStage
  status : Status
  reason : Nat
  launch : Nat
  /-- the produce wait: its deadline and its start (R374, R375) -/
  pdl : Option (Nat × Nat)
  /-- the launch has started, and its ticks so far by class: FAULT, IO, OUT, EXEC (R412) -/
  counting : Bool
  fault : Nat
  io : Nat
  out : Nat
  exec : Nat
  deriving DecidableEq, Repr

structure Mailbox where
  val : Quad
  full : Bool
  /-- the TIME of its latest change, and the register writes that wait for a tick of their own: FULL's or not, the value
  (R376) -/
  at_ : Option Nat
  late : List (Bool × Nat)
  deriving DecidableEq, Repr

structure Kick where
  seq : Nat
  ptab : Nat
  bad : Bool
  pk : Option Nat
  deriving DecidableEq, Repr

/-- A loaded Maquette (R339, R385 to R387). -/
structure Maq where
  launch : Nat
  maxLive : Nat
  descs : List (List Quad)
  /-- the overflow words and their byte offset in the object -/
  ovf : List Nat
  ovfOff : Nat
  /-- live instances: number, and its rewritten overflow words (R340) -/
  live : List (Nat × List Nat)
  nextCopy : Nat
  kicks : List Kick
  unloading : Option Nat
  deriving DecidableEq, Repr

structure MaqSlot where
  obj : Option Maq
  kickReg : Quad
  kseq : Nat
  lastSeq : Nat
  status : Nat
  reason : Nat
  drop : Bool
  deriving DecidableEq, Repr

/-- The Plinth parameters in force (R388); B(r) and Lroute override the tables of R393 (unlisted: their values). -/
structure Plinth where
  dlmax : Nat
  escl : Nat
  ghi : Nat
  gdist : Nat
  lmin : Nat
  awin : Nat
  /-- keyed by 64 * die + queue (unlisted: 16,384) -/
  qlim : Tbl Nat
  predK : Nat
  /-- 0: never -/
  gating : Nat
  bw : Tbl Nat
  lroute : Tbl Nat
  slice : Nat
  sliceOrigin : Nat
  grace : Nat
  powerCap : Nat
  deriving DecidableEq, Repr

/-- A configuration block region of the hub's flash, as read (R392). -/
structure CfgBlock where
  bytes : List Byte
  hash : BitVec 256
  sig : BitVec 512
  device : Nat
  parts : List Nat
  shared : Nat
  ceiling : Nat
  split : Bool
  pciHost : Bool
  plinth : Plinth
  deriving DecidableEq, Repr

/-- The configuration in use (R392, R393). -/
structure CfgUse where
  device : Nat
  /-- core masks of the partitions; an empty mask is not configured -/
  parts : List Nat
  /-- bit k: partition k is time-shared (R427) -/
  shared : Nat
  ceiling : Nat
  split : Bool
  pciHost : Bool
  safe : Bool
  deriving DecidableEq, Repr

structure Hub where
  freq : Nat
  fagr : Nat
  queues : Tbl CmdQueue
  rr : Nat
  packets : List Packet
  nextPk : Nat
  mboxes : Tbl Mailbox
  maqs : Tbl MaqSlot
  svroot : Quad
  shootAddr : Quad
  shootLaunch : Nat
  shootCount : Nat
  shootDone : Bool
  /-- the dropped translations that operations have used and the posted writes, which a shootdown waits for -/
  shootOps : List Shot
  shootPosts : List Nat
  prbase : Tbl Nat
  prtail : Tbl Nat
  prhead : Tbl Nat
  pslots : List PSlot
  nlatch : Quad
  /-- the latch has woken the Plinth, which has not read it since (R394) -/
  plinthAwake : Bool
  windows : Tbl (BitVec 256)
  /-- the peer table: a device number and its connection, by entry (R383) -/
  peers : Tbl (Nat × Nat)
  cfg : CfgUse
  plinth : Plinth
  flashA : Option CfgBlock
  flashB : Option CfgBlock
  cfgRollback : Nat
  timeoff : Quad
  locked : Bool
  offsetSet : Bool
  nextSlice : Nat
  /-- cores whose request of the latest boundary waits for a request that is under way (R427) -/
  sliceDue : List Nat
  lastLaunch : Nat
  /-- what the last read of a hub register or of memory by a system core or the Plinth returned (model's own) -/
  lastRead : Quad
  deriving DecidableEq, Repr

/-- Firmware slots, the service log, ports, sparing, telemetry (R417 to R429). -/
structure Service where
  slbase : Nat
  slptr : Nat
  slrd : Nat
  slseq : Nat
  fwState : Nat
  fwActive : Bool
  fwA : FwImage
  fwB : FwImage
  fwMeasA : BitVec 256
  fwMeasB : BitVec 256
  fwRollback : Nat
  shadow : Plinth
  attnonce : BitVec 256
  attreq : Quad
  attSeq : Nat
  telem : BitVec 128
  clk : Nat
  nextTelem : Nat
  lowFlowSince : Option Nat
  /-- a junction has reached 100 °C and none has been seen below 95 °C everywhere since (R429) -/
  hot : Bool
  computeDown : Bool
  /-- lanes up of port half (2 * port + half), and whether it retrains (unlisted: 4, or 2 when split) -/
  lanes : Tbl Nat
  retrain : Tbl Nat
  holdover : Option Nat
  /-- spares used per die -/
  spares : Tbl Nat
  retired : Nat
  /-- spare rows used by stack, channel and bank; rows moved; spare channel of a stack in use -/
  rowSpares : List (Nat × Nat × Nat × Nat)
  chanSpare : Tbl Nat
  /-- failing channels, by stack and channel, for which the stack has no spare left (R422) -/
  badChans : List (Nat × Nat)
  hbmCorrected : Tbl Nat
  deriving DecidableEq, Repr

/-! ### The machine -/

/-- What moves next (log entry 2): an event, with the unit it happens in, an issue on a core, or a tick of TIME. -/
inductive Move
  | event (i : Instr) (cur sub ix : Nat)
  | issue (c : Nat)
  /-- the Granary acts for a word whose release condition has come to hold (R253, R254) -/
  | granary
  | tick
  deriving DecidableEq, Repr

structure State where
  time : Nat
  cycle : Nat
  /-- the part of a cycle that has passed, in units of 1/1200 tick (R8, R429) -/
  frac : Nat
  mem : Mem
  /-- the values written while a launch is live, the latest first (R63) -/
  hist : List Host.Cell
  cores : List Core
  ops : List Op
  nextOp : Nat
  posted : List Posted
  nextPosted : Nat
  barPost : List BarPost
  colls : List CollCall
  /-- the number of the latest call that a rank has joined on a communicator: CID, rank, number (R231) -/
  joins : List (Nat × Nat × Nat)
  /-- calls that a rank has withdrawn before it could join them: CID, rank, number (R231) -/
  skips : List (Nat × Nat × Nat)
  /-- Free(r) of each resource (unlisted: 0) (R214) -/
  free : Tbl Nat
  gran : Granary
  launches : List Launch
  hub : Hub
  svc : Service
  /-- the core whose word executes, or the core, die, queue, port or Maquette slot in which an event happens -/
  cur : Nat
  /-- the slot of the thread, or the port's half, that the event names -/
  sub : Nat
  /-- the access, result, part, operation, posted write, class, entry, launch or packet that the event names -/
  ix : Nat
  /-- the agent the default order looks at next -/
  turn : Nat
  /-- the rank of the latest move of the tick: what a tick brings comes in the order of ranks (R76, R78, R254) -/
  phase : Nat
  /-- inputs from outside and choices of order, consumed in this order before the default order applies -/
  moves : List Move
  /-- how many free values have been drawn -/
  freeCtr : Nat
  deriving DecidableEq, Repr

/-- Why the machine stops. A word that fails parks its thread and an operation that fails completes with FAULT, so
neither stops the machine. -/
inductive Fault
  /-- Raised by `step` alone, for a move that asks a core to issue after the module has powered its compute dies down
  (R429). Safe: the machine stops where nothing could have issued. -/
  | computeDiesDown
  deriving DecidableEq, Repr

/-- Why a step has no meaning. -/
inductive Refusal
  /-- Raised by an arm of `exec` that has no meaning yet. Safe: the machine stops. -/
  | notModelled (mnemonic : String)
  deriving DecidableEq, Repr

abbrev Out := Host.Outcome State Fault Refusal

/-! ### Reset -/

def Guest.zero : Guest := ⟨0, 0, 0, 0, 0, 0, 0, 0, 0, 0, 0⟩
def Special.zero : Special := ⟨0, 0, 0, 0, 0, 0, 0, 0⟩
def ActBank.zero : ActBank := ⟨0, []⟩
def WBuf.zero : WBuf := ⟨.bf16, [], []⟩

/-- The matrix state at team placement, awake (R218, R227). -/
def Matrix.zero : Matrix := ⟨WBuf.zero, WBuf.zero, [], none, 0, 0, 0, none⟩

/-- The matrix state that a team finds at its placement: every sub-array gated when an idle time is set (R227). -/
def Matrix.placed (now gating : Nat) : Matrix :=
  { Matrix.zero with gated := if gating = 0 then 0 else 0xFFFF, idleAt := now, idleFor := gating }

/-- The debug block after module reset (R397). -/
def DbgBlock.reset : DbgBlock :=
  { haltr := 0, step := 0, tstopq := 0, trcfg := 0, trbase := 0x0C00000000000#64, trptr := 0, trrd := 0, trdrop := 0,
    ibp := List.replicate 8 0, wp := List.replicate 4 0, sel := none, intv := [], intvEnd := 65536 }

/-- A core after module reset: no team, no thread. Both activation banks are zero and ACT is 0 (DESIGN CHOICE, log entry 100: R177
gives their state at a placement alone). -/
def Core.reset : Core :=
  { team := none, sup := none, code := [], threads := [], saved := [], gen := [], issue := none, g := [], tags := [],
    act := false, bank0 := ActBank.zero, bank1 := ActBank.zero, portBusy := 0, mx := Matrix.zero, es := [],
    faultQ := [], faultWait := [], tlb := [], dbg := DbgBlock.reset, svRec := none, svOvf := 0, supX := [], pre := none,
    savedTeams := [], offline := false, retireDue := [], retireWant := none, corrected := [], refetch := none, regErr := [],
    portLog := [],
    dbgNow := DbgBlock.reset, dbgDue := none, haltDue := false }

def Granary.reset : Granary := ⟨[], [], [], [], [], []⟩

/-- The reset values of R388; grace 0 and origin 0 (log entry 3). -/
def Plinth.reset : Plinth :=
  { dlmax := 12000000, escl := 16, ghi := 16384, gdist := 1, lmin := 0, awin := 0, qlim := [], predK := 4, gating := 0,
    bw := [], lroute := [], slice := 0, sliceOrigin := 0, grace := 0, powerCap := 3200 }

/-- The safe configuration of R393. -/
def CfgUse.safeCfg : CfgUse :=
  { device := 0, parts := [2 ^ 256 - 1], shared := 0, ceiling := 7, split := false, pciHost := false, safe := true }

def CmdQueue.reset : CmdQueue :=
  { base := 0, log2n := 4, en := false, err := false, errAt := none, tail := 0, head := 0, done := 0, next := none, cwait := none, blocked := none }

def Mailbox.reset : Mailbox := ⟨0, false, none, []⟩
def MaqSlot.reset : MaqSlot := ⟨none, 0, 0, 0, 0, 0, false⟩

/-- The hub after reset, with no valid configuration block in flash (log entry 3). -/
def Hub.reset : Hub :=
  { freq := 0, fagr := 0, queues := [], rr := 0, packets := [], nextPk := 1, mboxes := [], maqs := [], svroot := 0,
    shootAddr := 0, shootLaunch := 0, shootCount := 0, shootDone := true, shootOps := [], shootPosts := [], prbase := [], prtail := [],
    prhead := [], pslots := [], nlatch := 0, plinthAwake := false, windows := [], peers := [], cfg := CfgUse.safeCfg,
    plinth := Plinth.reset, flashA := none, flashB := none, cfgRollback := 0, timeoff := 0, locked := false,
    offsetSet := false, nextSlice := 0, sliceDue := [], lastLaunch := 0, lastRead := 0 }

def FwImage.empty : FwImage := ⟨[], 0, 0⟩

def Service.reset : Service :=
  { slbase := 0, slptr := 0, slrd := 0, slseq := 0, fwState := 0, fwActive := false, fwA := FwImage.empty,
    fwB := FwImage.empty, fwMeasA := 0, fwMeasB := 0, fwRollback := 0, shadow := Plinth.reset, attnonce := 0, attreq := 0, attSeq := 0,
    telem := 0, clk := 1200, nextTelem := 1200000, lowFlowSince := none, hot := false, computeDown := false, lanes := [], retrain := [],
    holdover := none, spares := [], retired := 0, rowSpares := [], chanSpare := [], badChans := [], hbmCorrected := [] }

/-- The module right after power-on reset: TIME 0 (R396), no team on any core, the hub's registers at their reset
values, memory with nothing listed. -/
def State.reset : State :=
  { time := 0, cycle := 0, frac := 0, mem := [], hist := [], cores := List.replicate Config.nCores Core.reset, ops := [],
    nextOp := 1, posted := [], nextPosted := 1, barPost := [], colls := [], joins := [], skips := [], free := [],
    gran := Granary.reset, launches := [], hub := Hub.reset, svc := Service.reset, cur := 0, sub := 0, ix := 0,
    turn := 0, phase := 0, moves := [],
    freeCtr := 0 }

end Sys2Proof.Machine
end

