-- ==== Sys2Proof/Machine/Ops.lean ====
section
/-! DEFINITION. The operations that the meanings share: memory, tables, cores and threads, registers and predicates,
guards, statuses, deadlines, parking (taking an exception) and resuming, arriving at a header, and how one word runs in
the threads of its sheaf. -/

namespace Sys2Proof.Machine

open Sys2Proof

/-! ### Memory (R9, R54): an unlisted byte reads zero (log entry 1) -/

def memGet : Mem → Nat → Byte
  | [], _ => 0
  | (x, b) :: r, a => if x = a then b else memGet r a

/-- One byte stored, in canonical form: addresses rising, no zero byte listed. -/
def memPut : Mem → Nat → Byte → Mem
  | [], a, v => if v = 0 then [] else [(a, v)]
  | (x, b) :: r, a, v =>
    if a < x then (if v = 0 then (x, b) :: r else (a, v) :: (x, b) :: r)
    else if a = x then (if v = 0 then r else (a, v) :: r)
    else (x, b) :: memPut r a v

/-- Every address listed lies above `lo`, addresses rise, and no byte listed is zero. -/
def memWfFrom (lo : Nat) : Mem → Bool
  | [] => true
  | (x, b) :: r => decide (lo ≤ x) && b != 0 && memWfFrom (x + 1) r

/-- The canonical form of memory. -/
def memWf (m : Mem) : Bool := memWfFrom 0 m

/-- `n` bytes from address `a` on, little-endian (R9). -/
def memRead (m : Mem) (a : Nat) : Nat → Nat
  | 0 => 0
  | n + 1 => (memGet m a).toNat + 256 * memRead m (a + 1) n

def memBytes (m : Mem) (a : Nat) : Nat → List Byte
  | 0 => []
  | n + 1 => memGet m a :: memBytes m (a + 1) n

def memPutAll (m : Mem) (a : Nat) : List Byte → Mem
  | [] => m
  | b :: r => memPutAll (memPut m a b) (a + 1) r

/-- The bytes from `lo` to `hi - 1` read zero. -/
def memClear (m : Mem) (lo hi : Nat) : Mem := m.filter fun x => x.1 < lo || hi ≤ x.1

/-- The bytes of a range that do not read zero, with their offsets. -/
def memCells (m : Mem) (lo len : Nat) : List Host.Cell :=
  (m.filter fun x => lo ≤ x.1 && x.1 < lo + len).map fun x => (x.1 - lo, x.2)

/-- A value written at an address is kept in `hist` while a launch is live (R63). -/
def noteByte (h : List Host.Cell) (a : Nat) (v : Byte) : List Host.Cell := (a, v) :: h

def noteBytes (h : List Host.Cell) (a : Nat) : List Byte → List Host.Cell
  | [] => h
  | b :: r => noteBytes (noteByte h a b) (a + 1) r

/-- Bytes commit at consecutive addresses. -/
def State.store (s : State) (a : Nat) (bs : List Byte) : State :=
  { s with mem := memPutAll s.mem a bs, hist := if s.launches.isEmpty then s.hist else noteBytes s.hist a bs }

/-- The mark in `hist` that slice `c` has been filled anew, beyond every address. -/
def refillMark (c : Nat) : Nat := 2 ^ 200 + c

/-- The slice of core `c` is filled anew for a team: what fills it is no party's write, and `old` are the values that the team
has written there before (R63, R360, R380). -/
def State.refill (s : State) (c : Nat) (old : List Host.Cell) (f : State → State) : State :=
  { f s with hist := if s.launches.isEmpty then s.hist else old ++ (refillMark c, 0) :: s.hist }

/-- Every byte of a range takes the value 0. -/
def State.clearRange (s : State) (lo hi : Nat) : State :=
  let old := (s.mem.map (·.1) ++ s.hist.map (·.1)).filter fun a => lo ≤ a && a < hi
  { s with mem := memClear s.mem lo hi,
           hist := if s.launches.isEmpty then s.hist else old.foldl (fun h a => noteByte h a 0) s.hist }

/-- `n` bytes of the value `v`, the least significant first (R9). -/
def leBytes : Nat → Nat → List Byte
  | 0, _ => []
  | n + 1, v => BitVec.ofNat 8 v :: leBytes n (v / 256)

def ofLe : List Byte → Nat
  | [] => 0
  | b :: r => b.toNat + 256 * ofLe r

def State.storeN (s : State) (a n v : Nat) : State := s.store a (leBytes n v)

/-- A launch by number. -/
def launchOf (s : State) (n : Nat) : Option Launch := s.launches.find? fun l => l.num == n

/-- What has been written since a launch started; a supervisor kernel is of no launch (R63). -/
def writtenSince (s : State) (launch : Nat) : List Host.Cell :=
  match launchOf s launch with
  | some l => s.hist.take (s.hist.length - l.mark)
  | none => []

/-- The writes, the latest first, that count for an address: in a slice those since it was filled anew. -/
def sinceRefill (a : Nat) (l : List Host.Cell) : List Host.Cell :=
  if Config.sramBase ≤ a && a < Config.sramBase + Config.nCores * Config.sliceStep then
    l.takeWhile fun x => x.1 != refillMark ((a - Config.sramBase) / Config.sliceStep)
  else l

/-- The values that one byte may read as in an invariant read of a launch: what it holds when nothing has been written to it
since the launch started, otherwise any value written since (R63), and those of `held`, stores of the reader that a tiller holds
(R185); the pick is free. -/
def invByte (s : State) (launch : Nat) (held : List Byte) (a : Nat) : Byte :=
  let ws := ((sinceRefill a (writtenSince s launch)).filter fun x => x.1 == a).map (·.2)
  let vs := held ++ if ws.isEmpty then [memGet s.mem a] else ws
  if vs.length = 1 then memGet s.mem a else vs.getD (Config.freePick (s.freeCtr + a) % vs.length) 0

/-! ### Tables keyed by number -/

def tblGet {α : Type} : Tbl α → Nat → α → α
  | [], _, d => d
  | (x, v) :: r, k, d => if x = k then v else tblGet r k d

/-- One entry set; keys rise. -/
def tblPut {α : Type} : Tbl α → Nat → α → Tbl α
  | [], k, v => [(k, v)]
  | (x, u) :: r, k, v => if k < x then (k, v) :: (x, u) :: r else if k = x then (k, v) :: r else (x, u) :: tblPut r k v

/-- The number after `n` among `m` values, 0 skipped. That a future's SEQ goes on at 1 after 2^40 - 1, so that it repeats after
2^40 - 1 uses, is the model's choice (DESIGN CHOICE, log entry 83): R70 has 2^40 uses, and SEQ 0 name nothing. -/
def nextSeq (n m : Nat) : Nat := if (n + 1) % m = 0 then 1 else (n + 1) % m

/-! ### Cores and threads -/

def State.core (s : State) (c : Nat) : Core := s.cores.getD c Core.reset

def State.withCore (s : State) (c : Nat) (k : Core) : State := { s with cores := s.cores.set c k }

def State.modCore (s : State) (c : Nat) (f : Core → Core) : State := s.withCore c (f (s.core c))

def threadAt (ts : List Thread) (sl : Nat) : Option Thread := ts.find? fun t => t.id.slot == sl

/-- The thread takes the place of the one in its slot. -/
def putThread (ts : List Thread) (t : Thread) : List Thread := ts.map fun u => if u.id.slot == t.id.slot then t else u

def State.thread (s : State) (c sl : Nat) : Option Thread := threadAt (s.core c).threads sl

def State.withThread (s : State) (c : Nat) (t : Thread) : State :=
  s.modCore c fun k => { k with threads := putThread k.threads t }

def State.modThread (s : State) (c sl : Nat) (f : Thread → Thread) : State :=
  s.modCore c fun k => { k with threads := k.threads.map fun t => if t.id.slot == sl then f t else t }

/-- Every thread of every core. -/
def State.mapThreads (s : State) (f : Nat → Thread → Thread) : State :=
  { s with cores := s.cores.mapIdx fun c k => { k with threads := k.threads.map (f c) } }

/-- The die of a core: cores 64d to 64d + 63 (R4). -/
def dieOf (c : Nat) : Nat := c / 64

/-- The other core of the pair (R4). -/
def partnerOf (c : Nat) : Nat := if c % 2 = 0 then c + 1 else c - 1

/-- Where a slice lies in the physical map (R55). -/
def sliceAt (c : Nat) : Nat := Config.sramBase + c * Config.sliceStep

/-- The partner path is open when the partner core holds a team of the same launch (R49). -/
def partnerOpen (s : State) (c : Nat) : Bool :=
  match (s.core c).team, (s.core (partnerOf c)).team with
  | some a, some b => a.launch == b.launch
  | _, _ => false

def live (t : Thread) : Bool := t.pos.st != .exited

/-- A TBLLD issued on the core has not yet written its bank: its image has not been read, or has been and is under way. -/
def tableLoads (k : Core) : Bool :=
  k.threads.any fun t => t.acc.any (fun a => match a.kind with | .tblld _ => true | _ => false) || t.res.any (·.table.isSome)

/-- The thread as the Granary names it (R249). -/
def holderOf (c : Nat) (t : Thread) : Holder := ⟨c, t.id.launch, t.id.tmx, t.id.sup, t.id.tid⟩

/-- The group of a thread within its team, and its position in it (R23). -/
def gixOf (t : Thread) : Nat := t.id.tid / t.id.width
def lanePos (t : Thread) : Nat := t.id.tid % t.id.width

def sameGroup (t u : Thread) : Bool := t.id.sup == u.id.sup && gixOf t == gixOf u

/-- The key of a G register in its core's table: supervisor groups lie above the user groups (R199). -/
def gKey (sup : Bool) (gix n : Nat) : Nat := ((if sup then 1024 else 0) + gix) * 64 + n

def readG (k : Core) (t : Thread) (n : Nat) : Quad := tblGet k.g (gKey t.id.sup (gixOf t) n) 0

/-! ### Registers and predicates (R119) -/

def readV (t : Thread) (n : Nat) : Reg := t.v.getD n 0

/-- The pair: Vn holds bits 31:0 and Vn+1 bits 63:32. -/
def readPair (t : Thread) (n : Nat) : Quad := readV t (n + 1) ++ readV t n

def writeV (t : Thread) (n : Nat) (x : Reg) : Thread := { t with v := t.v.set n x }

def writePair (t : Thread) (n : Nat) (x : Quad) : Thread :=
  writeV (writeV t n (x.setWidth 32)) (n + 1) ((x >>> 32).setWidth 32)

def writeVs (t : Thread) : List (Nat × Reg) → Thread
  | [] => t
  | (n, x) :: r => writeVs (writeV t n x) r

/-- P0 reads true. -/
def readP (t : Thread) (n : Nat) : Bool := n == 0 || t.p.getLsbD n

/-- A write to P0 is discarded. -/
def writeP (t : Thread) (n : Nat) (b : Bool) : Thread :=
  if n = 0 then t
  else { t with p := if b then t.p ||| (1#8 <<< n) else t.p &&& ~~~(1#8 <<< n) }

/-- Sticky flags are set (R105, R106). -/
def setFsr (t : Thread) (bits : Reg) : Thread := { t with sr := { t.sr with fsr := t.sr.fsr ||| bits } }

/-- The guard of an instruction: predicate and negation (R113, R120, R123). -/
def guardOf (i : Instr) : Nat × Bool :=
  match fullOf i, immOf i, halfOf i with
  | some f, _, _ => (f.g.toNat, f.ng)
  | _, some x, _ => (x.g.toNat, false)
  | _, _, some (_, h) => (h.g.toNat, h.ng)
  | _, _, _ => (0, false)

def guardHolds (t : Thread) (g : Nat × Bool) : Bool := readP t g.1 != g.2

/-! ### Deadlines (R40, R41) -/

def allOnes : Quad := 0xFFFFFFFFFFFFFFFF#64

/-- A deadline register as written: bit 62 stays only when all bits are ones (R40). -/
def dlStore (x : Quad) : Quad := if x == allOnes then x else x &&& 0xBFFFFFFFFFFFFFFF#64

def dlMode (x : Quad) : Bool := x.getLsbD 63
def dlValue (x : Quad) : Nat := x.toNat % 2 ^ 62

/-- The effective deadline of a wait that starts at TIME `now` (R41). -/
def effDl (now dlmax : Nat) (x : Quad) : Deadline :=
  if x == allOnes then ⟨now + dlmax, none⟩
  else if dlMode x then ⟨now + dlmax, some (dlValue x)⟩
  else ⟨min (dlValue x) (now + dlmax), none⟩

def dlPassed (now : Nat) (d : Deadline) : Bool := decide (d.at_ ≤ now) || d.left == some 0

def readDl (t : Thread) (n : Nat) : Quad := t.dl.getD n allOnes

/-! ### Statuses (R42, R44) -/

def statusCode : Status → Nat
  | .done => 0 | .timeout => 1 | .cancelled => 2 | .fault => 3 | .withdrawn => 4 | .partialDone => 5 | .stale => 6
  | .absent => 7

def statusReg (st : Status) : Reg := BitVec.ofNat 32 (statusCode st)

/-- The count of consecutive TIMEOUTs rises; above the limit an escalation is due at the next header (R44). -/
def countTimeout (lim : Nat) (t : Thread) : Thread :=
  if lim < t.toc + 1 then { t with toc := t.toc + 1, esc := true } else { t with toc := t.toc + 1 }

/-- The count after a status that an instruction writes (R44). -/
def countStatus (lim : Nat) (t : Thread) (st : Status) : Thread :=
  if st == .timeout then countTimeout lim t else { t with toc := 0 }

/-- A status is written in bits 3:0 of its register (R19), and counted. -/
def writeStatus (lim : Nat) (t : Thread) (reg : Nat) (st : Status) : Thread :=
  countStatus lim (writeV t reg (statusReg st)) st

/-! ### Code (R112, R125) -/

/-- The instruction store that a thread's privilege reads: the team's, or the supervisor kernel's (log entry 8). -/
def codeOf (k : Core) (sup : Bool) : List Quad := if sup then (k.sup.map (·.code)).getD [] else k.code

def wordAt (k : Core) (sup : Bool) (ix : Nat) : Quad := (codeOf k sup).getD ix 0

/-- The word at an index is a clause header: a word of form 0b11 in the store (R33, R112). -/
def isHeader (k : Core) (sup : Bool) (ix : Nat) : Bool :=
  decide (ix < Config.nInstrWords) && formOf (wordAt k sup ix).toNat == 3

def toHeader (w : Quad) : Option Header :=
  (headerFields w.toNat).map fun (len, wait, set1, set2, gth, win, coll) => ⟨len, wait, set1, set2, gth, win, coll⟩

/-- The mask register that a collective clause's lead word names; none when the first word is no cross-lane
instruction (R37). A cross-lane opcode with illegal fields makes none, so that the header is illegal, which R37 and R128 leave
open (log entry 74). -/
def leadMask (k : Core) (sup : Bool) (h : Nat) : Option Nat :=
  match decodeWord (wordAt k sup (h + 1)) with
  | .one i => crossMask i
  | _ => none

/-- The deadline register that the lead word names. -/
def leadDsel (k : Core) (sup : Bool) (h : Nat) : Nat := field (wordAt k sup (h + 1)).toNat 16 15

/-- The header of a clause that may issue: legal fields, its words inside the store, a cross-lane first word when it is
collective (R33, R37). -/
def headerAt (k : Core) (sup : Bool) (h : Nat) : Option Header :=
  match toHeader (wordAt k sup h) with
  | none => none
  | some x =>
    if h + x.len < Config.nInstrWords && (!x.coll || (leadMask k sup h).isSome) then some x else none

/-- The hold in cycles of a window code (R125). -/
def windowOf : Nat → Nat
  | 0 => 0
  | n + 1 => 8 * 2 ^ n

/-! ### Parking: taking an exception (R344 to R348) -/

def causeCode : Cause → Nat
  | .illegal => 0x01 | .breakpoint => 0x02 | .guestBreakpoint => 0x03 | .watchpoint => 0x04 | .bounds => 0x05
  | .alignment => 0x06 | .guestDescriptor => 0x07 | .guestUndefined => 0x08 | .returnOverflow => 0x09
  | .returnUnderflow => 0x0A | .userTrap => 0x0B | .engineFull => 0x0C | .promiseMissed => 0x0D
  | .deadlineEscalation => 0x0E | .registerError => 0x0F | .halt => 0x10

def guestMode (t : Thread) : Bool := t.gst.htb != 0

/-- The tillers that a thread runs or is detached from, the one that governs its words first: the one that it has taken or been
detached from last (R261, R262). -/
def specs (t : Thread) : List Spec := if t.spec == .plain then [] else t.spec :: t.outer

/-- A tiller that the thread runs: die, entry, SEQ. -/
def runKey : Spec → Option (Nat × Nat × Nat)
  | .running d x q _ _ => some (d, x, q)
  | _ => none

/-- The thread runs a tiller that is not yet resolved (R261). -/
def runsTiller (t : Thread) : Bool := (specs t).any fun y => (runKey y).isSome

def isDetached (t : Thread) : Bool := match t.spec with | .detached .. => true | _ => false

/-- What an arrival reads of the machine: TIME, the cycle, DLMAX. -/
structure Clock where
  now : Nat
  cyc : Nat
  dlmax : Nat
  escl : Nat
  deriving DecidableEq, Repr

def State.clock (s : State) : Clock := ⟨s.time, s.cycle, s.hub.plinth.dlmax, s.hub.plinth.escl⟩

/-- The fault record of a thread that traps at word `w` of its clause (R347). -/
def recordOf (ck : Clock) (t : Thread) (cause : Cause) (w code : Nat) (arg : Quad) : FaultRec :=
  let gm := guestMode t
  { slot := t.id.slot, gen := t.id.gen, cause := cause, widx := w, gm := gm, spec := runsTiller t, code := code,
    hdr := t.pos.hdr, gpc := if gm then t.gst.gpc else 0, gop := if gm then t.gst.gop else 0, arg := arg, time := ck.now, cyc := ck.cyc }

/-- The debug marks of a thread that parks: a step and a halt are over; a task-boundary stop stays due (R399, R404). -/
def parkMarks (d : DbgT) : DbgT := { d with step := false, fresh := false, halt := none }

/-- The debug marks of a thread that a stop parks on its arrival at a header: a task-boundary stop that falls there too is over
with it, and so is the halt with TB that it served (R399, R404). -/
def metEnds (d : DbgT) : DbgT := { d with ends := [], tb := d.tb && d.ends.isEmpty }

/-- Step 1 of parking (R347): the thread leaves its sheaf, its wait or its hold and counts as parked, the word has no
effect in it, and its record is due once its results have landed. -/
def park (ck : Clock) (t : Thread) (cause : Cause) (w code : Nat) (arg : Quad) : Thread :=
  { t with
    pos := { t.pos with st := .parked, widx := w, since := ck.now }, wait := none, hold := none, gw := none, xfer := none,
    frec := some (recordOf ck t cause w code arg), dbg := parkMarks t.dbg }

/-! ### Stops (R399 to R401) -/

/-- Comparator `n` names this position of a thread of this group (R397, R399). -/
def ibpHits (ibp : Reg) (gix hdr w : Nat) : Bool :=
  ibp.getLsbD 30 && field ibp.toNat 14 0 == hdr && field ibp.toNat 19 15 == w
    && (ibp.getLsbD 28 || field ibp.toNat 27 20 == gix)

/-- The lowest comparator that matches. -/
def ibpAt (k : Core) (t : Thread) (hdr w : Nat) : Option Nat :=
  (List.range 8).find? fun n => ibpHits (k.dbgNow.ibp.getD n 0) (gixOf t) hdr w

/-- The CODE of the stop that falls on a position of a thread, if one does: the lowest comparator (8 + n), else a step,
else a halt, which at a task boundary waits for a header (R399, R404). `first` says that the position is where the thread
stands after a resume (R400). -/
def stopAt (k : Core) (t : Thread) (hdr w : Nat) (first : Bool) : Option Nat :=
  if t.id.sup then none
  else
    match if first then none else ibpAt k t hdr w with
    | some n => some (8 + n)
    | none =>
      if t.dbg.step && !t.dbg.fresh then some 1
      else if t.dbg.halt.any fun late => !late || w == 0 then some 0
      else if w = 0 then t.dbg.ends.min?
      else none

/-- The thread is suspended in the middle of a clause, waiting on task (R26, R261). -/
def isSuspended (t : Thread) : Bool := match t.wait with
  | some w => w.kind == .suspended
  | none => false

/-- A halt is due in the thread: at its next position, or at the next header when it is suspended, since that is a wait
(R399). -/
def haltDueIn (t : Thread) : Thread :=
  { t with dbg := { t.dbg with halt := some (isSuspended t && t.dbg.halt != some false) } }

/-- A task boundary is to stop the thread with its CODE at its next header (R404). -/
def endWith (n : Nat) (t : Thread) : Thread := { t with dbg := { t.dbg with ends := t.dbg.ends ++ [n] } }

/-- HALTR names the thread. -/
def haltNames (v : Nat) (t : Thread) : Bool := !t.id.sup && (bitAt v 8 || field v 7 0 == gixOf t)

/-- The thread holds a task that has not ended (R404). -/
def holdsTask (s : State) (c : Nat) (t : Thread) : Bool :=
  s.gran.entries.any fun x => x.st != .finished && x.holders.contains (holderOf c t)

/-- A halt of HALTR's value `v` names the thread wherever it stands: it stops at its next position, and with TB at its next
task boundary if it holds a task (R399, R404). -/
def haltLate (s : State) (c v : Nat) (t : Thread) : Thread :=
  if !haltNames v t || t.pos.st == .exited then t
  else if bitAt v 9 then (if holdsTask s c t then { t with dbg := { t.dbg with tb := true } } else t)
  else if t.pos.st == .parked then t
  else haltDueIn t

/-- A thread that enters its core meets a halt under way (R398, R415). -/
def haltSeat (s : State) (c : Nat) (k : Core) (t : Thread) : Thread :=
  if k.dbgNow.haltr.getLsbD 10 then haltLate s c k.dbgNow.haltr.toNat t else t

/-! ### Arriving at a header (R27, R28, R34, R36, R38, R44) -/

/-- How a thread comes to a header. -/
inductive Arrive
  /-- by a branch, a call, a return or falling through -/
  | flow
  /-- by DISPATCH, with the window of its clause's header when that has the gather bit (R36) -/
  | dispatch (win : Option Nat)
  /-- after YIELD n (R267) -/
  | yielded (n : Nat)
  /-- resumed there, as though just arrived: no hold of its own (R352) -/
  | resumed
  /-- resumed past its clause or at another header: an arrival as any other, but for the comparators (R34, R352, R400) -/
  | sent
  deriving DecidableEq, Repr

/-- A flag that the header waits on is set, or a flag it sets stands above 231 (R316). -/
def flagHeld (t : Thread) (x : Header) : Bool :=
  (List.range 12).any (fun n => bitAt x.wait n && 0 < t.flags.getD n 0)
    || (x.set1 < 12 && 231 < t.flags.getD x.set1 0) || (x.set2 < 12 && 231 < t.flags.getD x.set2 0)

/-- The thread stands at its header without a hold: a candidate since now, or waiting on a flag (R26, R29). -/
def standReady (now : Nat) (k : Core) (t : Thread) : Thread :=
  match headerAt k t.id.sup t.pos.hdr with
  | none => { t with pos := { t.pos with st := .ready, since := now }, hold := none, gw := none }
  | some x =>
    { t with pos := { t.pos with st := if t.pos.widx == 0 && flagHeld t x then .flagWait else .ready, since := now },
             hold := none, gw := none }

/-- Threads of one group that stand at one header with one tag (R28). -/
def sameStand (t u : Thread) : Bool := sameGroup t u && t.pos.hdr == u.pos.hdr && t.pos.gtag == u.pos.gtag

/-- The gathering that is open where the thread stands, if one is: its mask and its number (R38). -/
def openMask (k : Core) (t : Thread) : Option (Quad × Nat) :=
  ((k.threads.filter fun u => sameStand t u && u.pos.st == .collective).findSome? (·.gw)).map fun g => (g.mask, g.num)

def widthMask (n : Nat) : Quad := BitVec.ofNat 64 (2 ^ n - 1)

/-- The number of the gathering that the thread in slot `sl` opens at TIME `now`. -/
def gatherNum (now sl : Nat) : Nat := 2 * (4096 * now + sl)

/-- The thread stands at a collective header: a member by the mask it is judged by waits, a non-member does not (R38). -/
def standCollective (now dlmax : Nat) (k : Core) (t : Thread) : Thread :=
  let (m, n) := (openMask k t).getD
    (readG k t ((leadMask k t.id.sup t.pos.hdr).getD 0) &&& widthMask t.id.width, gatherNum now t.id.slot)
  if m.getLsbD (lanePos t) then
    { t with pos := { t.pos with st := .collective, since := now, gmask := m }, hold := none,
             gw := some ⟨m, effDl now dlmax (readDl t (leadDsel k t.id.sup t.pos.hdr)), n⟩ }
  else standReady now k { t with pos := { t.pos with gmask := 0 } }

/-- The thread stands at its header, which is legal: collective, or ready (R27). -/
def stand (now dlmax : Nat) (k : Core) (t : Thread) (x : Header) : Thread :=
  if x.coll then standCollective now dlmax k t else standReady now k t

/-- The last word of the clause is a DISPATCH: its gather bit serves the arrival at the handler (R36). -/
def endsInDispatch (k : Core) (sup : Bool) (h : Nat) (x : Header) : Bool :=
  match decodeWord (wordAt k sup (h + x.len)) with
  | .one (.dispatchOp _) | .one (.dispatchPc _) => true
  | _ => false

/-- The hold that an arrival takes, in cycles (R34, R36, R267). `disp`: the header's clause ends in DISPATCH. A collective header
ignores its own gather bit (R38), not the hold that a DISPATCH brings (R36). -/
def holdOf (disp : Bool) (x : Header) : Arrive → Option Nat
  | .flow | .sent => if x.gth && !x.coll && !disp && windowOf x.win != 0 then some (windowOf x.win) else none
  | .dispatch (some w) => if windowOf w != 0 then some (windowOf w) else none
  | .dispatch none => none
  | .yielded n => if n = 0 then none else some (16 * n)
  | .resumed => none

/-- The thread arrives at header `h` with a guest tag (R27, R28). An escalation that is due (R44) comes before a stop, as R345
orders their codes; a stop sets aside the header's own fault (R399), which comes before an escalation otherwise (R129, R345).
Then comes the hold of the arrival. -/
def arriveAt (ck : Clock) (k : Core) (t0 : Thread) (h : Nat) (gtag : Option Reg) (how : Arrive) : Thread :=
  let t := { t0 with pos := { t0.pos with hdr := h, widx := 0, gtag := gtag, since := ck.now, arr := some ck.cyc }, wait := none,
                     hold := none, gw := none, xfer := none }
  let escalated := park ck { t with toc := 0, esc := false } .deadlineEscalation 0 0 0
  match stopAt k t h 0 (how == .resumed || how == .sent) with
  | some code => if t.esc then escalated else park ck { t with dbg := metEnds t.dbg } .halt 0 code 0
  | none =>
    match headerAt k t.id.sup h with
    | none => park ck t .illegal 0 0 0
    | some x =>
      if t.esc then escalated
      else
        match holdOf (endsInDispatch k t.id.sup h x) x how with
        | some n =>
          { t with pos := { t.pos with st := .gather },
                   hold := some ⟨ck.cyc + n, ck.cyc, match how with | .yielded _ => true | _ => false⟩ }
        | none => stand ck.now ck.dlmax k t x

/-- The length of the clause that the thread is in. -/
def clauseLen (k : Core) (t : Thread) : Nat := ((toHeader (wordAt k t.id.sup t.pos.hdr)).map (·.len)).getD 0

/-- The word index that follows the thread's clause (R145). -/
def nextHdr (k : Core) (t : Thread) : Nat := t.pos.hdr + clauseLen k t + 1

/-- Control falls through to the word after the clause; a word that is no header traps with index L + 1 (R33). -/
def fallThrough (ck : Clock) (k : Core) (t : Thread) (how : Arrive) : Thread :=
  if isHeader k t.id.sup (nextHdr k t) then arriveAt ck k t (nextHdr k t) none how
  else park ck t .illegal (clauseLen k t + 1) 0 0

/-- Registers have been written by a word that issued in cycle `seq`, in cycle `cyc` (R315). -/
def noteLate (cyc seq : Nat) (regs : List Nat) (t : Thread) : Thread :=
  { t with late := (cyc, (if t.late.1 = cyc then t.late.2 else []) ++ regs.map fun n => (n, seq)) }

/-- Of the registers that a word which issued in cycle `seq` writes in cycle `cyc`, those that no later-issued word has written in
that cycle (R315). -/
def notPassed (cyc seq : Nat) (t : Thread) (regs : List (Nat × Reg)) : List (Nat × Reg) :=
  regs.filter fun x => !(t.late.1 == cyc && t.late.2.any fun y => y.1 == x.1 && decide (seq < y.2))

/-- Registers that a word writes late, in this cycle. -/
def writeLate (cyc seq : Nat) (regs : List (Nat × Reg)) (t : Thread) : Thread :=
  let rs := notPassed cyc seq t regs
  noteLate cyc seq (rs.map (·.1)) (writeVs t rs)

/-- A wait ends with a status: it is written and counted, and the thread goes on to the next header (R27, R42). -/
def endWait (ck : Clock) (k : Core) (t : Thread) (w : Wait) (st : Status) (more : List (Nat × Reg)) : Thread :=
  fallThrough ck k (noteLate ck.cyc ck.cyc (w.reg :: more.map (·.1)) (writeStatus ck.escl (writeVs { t with wait := none } more) w.reg st))
    .flow

/-! ### Resuming: the return from an exception (R352 to R354) -/

inductive Resume
  | retry
  | skip
  | redirect (h : Nat)
  deriving DecidableEq, Repr

/-- The thread stands at the resume point of word `w` of its clause (R353). -/
def standResume (now : Nat) (t : Thread) (w : Nat) : Thread :=
  { t with pos := { t.pos with st := .ready, widx := w, since := now } }

/-- A parked thread goes on as the resume word says. `w` is its record's word index, `len` its clause's length. -/
def resume (ck : Clock) (k : Core) (t0 : Thread) (act : Resume) (skw stepping : Bool) : Thread :=
  let w := t0.pos.widx
  let len := clauseLen k t0
  let skip := if act == .retry && skw then some (t0.pos.hdr, w) else none
  let t := { t0 with frec := none,
                     dbg := { t0.dbg with skw := skip, step := stepping, fresh := true } }
  match act with
  | .retry =>
    if w = 0 then arriveAt ck k t t.pos.hdr t.pos.gtag .resumed
    else if w ≤ len then standResume ck.now t w
    else fallThrough ck k t .sent
  | .skip => if w < len then standResume ck.now t (w + 1) else fallThrough ck k t .sent
  | .redirect h =>
    if isHeader k t.id.sup h then arriveAt ck k t h none .sent else park ck t .illegal w 0 0

/-! ### Releases that an arrival, an exit or a landing can bring about -/

/-- The thread is held at a gather header by an arrival, not by YIELD (R34, R267). -/
def gatherHeld (t : Thread) : Bool := t.pos.st == .gather && match t.hold with | some h => !h.yield_ | none => false

/-- Two threads share a gather key: privilege, header, tag (R28). -/
def sameKey (t u : Thread) : Bool :=
  t.id.sup == u.id.sup && t.pos.hdr == u.pos.hdr && t.pos.gtag == u.pos.gtag

/-- The thread stands at the header of `t` with its key: held there, or having arrived in this cycle (R34). -/
def standsWith (cyc : Nat) (t u : Thread) : Bool :=
  sameKey t u && u.pos.widx == 0
    && (u.pos.st == .gather || (u.pos.arr == some cyc && [.ready, .flagWait, .collective].contains u.pos.st))

/-- Every live thread of the group of `t` stands where `t` does, a saved one among them does not (R34, R35). -/
def groupStands (k : Core) (cyc : Nat) (t : Thread) : Bool :=
  (k.threads.all fun u => !(sameGroup t u && live u) || standsWith cyc t u) && !(k.saved.any (sameGroup t))

/-- A held thread is released: it becomes ready, or waits on a flag (R34); at a collective header, to which a DISPATCH has brought
its hold (R36), it reads the mask now (log entry 63). -/
def release (ck : Clock) (k : Core) (t : Thread) : Thread :=
  match headerAt k t.id.sup t.pos.hdr with
  | some x => stand ck.now ck.dlmax k { t with hold := none } x
  | none => standReady ck.now k t

/-- DESIGN CHOICE: which 64 of more than 64 held threads R34 lets go when several arrive at once (log entry 90): earlier arrival
first, then the lower slot. -/
def heldBefore (t u : Thread) : Bool :=
  let a := (t.hold.map (·.arrived)).getD 0
  let b := (u.hold.map (·.arrived)).getD 0
  a < b || (a == b && t.id.slot ≤ u.id.slot)

def insertBy {α : Type} (le : α → α → Bool) (x : α) : List α → List α
  | [] => [x]
  | y :: r => if le x y then x :: y :: r else y :: insertBy le x r

def sortBy {α : Type} (le : α → α → Bool) : List α → List α
  | [] => []
  | x :: r => insertBy le x (sortBy le r)

/-- The slots that the release events of R34 let go: all of a key when a group stands there, 64 when 64 are held, and again 64
while so many are left. -/
def gatherLet (k : Core) (cyc : Nat) : List Nat :=
  let held := k.threads.filter gatherHeld
  let whole (t : Thread) : Bool := k.threads.any fun u => live u && sameKey t u && groupStands k cyc u
  let byGroup := held.filter whole
  let rest := held.filter fun t => !whole t
  let full := rest.filter fun t =>
    let same := sortBy heldBefore (rest.filter (sameKey t))
    (same.take (same.length / 64 * 64)).any fun u => u.id.slot == t.id.slot
  (byGroup ++ full).map (·.id.slot)

/-- The members that wait in the gathering of `t`. -/
def gathering (ts : List Thread) (t : Thread) : List Thread :=
  ts.filter fun u => sameStand t u && u.pos.st == .collective && u.gw.isSome

/-- Every live member that the gathering mask names stands at the header, none of its flags holding it (R38). -/
def gatheringWhole (k : Core) (t : Thread) : Bool :=
  match t.gw with
  | none => false
  | some g => (k.threads.all fun u =>
      !(sameGroup t u && live u && g.mask.getLsbD (lanePos u))
        || (sameStand t u && u.pos.st == .collective && u.gw.isSome
            && match headerAt k u.id.sup u.pos.hdr with | some x => !flagHeld u x | none => false))
    && !(k.saved.any fun u => sameGroup t u && g.mask.getLsbD (lanePos u))

def setCgs (t : Thread) (st : Status) (n : Nat) : Thread :=
  { t with sr := { t.sr with cgs := BitVec.ofNat 32 (statusCode st + n * 2 ^ 16) } }

/-- The number of the gathering that members form: threads that arrive together open one gathering (R38). -/
def formedNum (ms : List Thread) : Nat :=
  match ms.filterMap fun u => u.gw.map (·.num) with
  | [] => 0
  | n :: r => r.foldl min n

/-- A member leaves its gathering as a candidate, one of those in `ms`: CGS takes the status, the TIMEOUT count changes (R38,
R39, R44). -/
def formMember (ck : Clock) (ms : List Thread) (st : Status) (t : Thread) : Thread :=
  let t := setCgs t st ms.length
  let t := if st == .done then { t with toc := 0 } else countTimeout ck.escl t
  { t with pos := { t.pos with st := .ready, since := ck.now, gid := formedNum ms }, gw := none }

/-- A hold that an arrival has ended: no choice of this cycle takes the thread (R34, R300). -/
def releaseLate (ck : Clock) (k : Core) (t : Thread) : Thread :=
  let u := release ck k t
  { u with pos := { u.pos with free := ck.cyc + 1 } }

/-- One pass over a core: gather holds and whole gatherings that the present positions release (R34, R38). -/
def settleCore (ck : Clock) (k : Core) : Core :=
  let go := gatherLet k ck.cyc
  let k1 : Core := { k with threads := k.threads.map fun (t : Thread) => if go.contains t.id.slot then releaseLate ck k t else t }
  { k1 with threads := k1.threads.map fun (t : Thread) =>
      if t.pos.st == .collective && gatheringWhole k1 t then
        formMember ck (gathering k1.threads t) .done t
      else t }

def State.settle (s : State) (c : Nat) : State := s.modCore c (settleCore s.clock)

/-! ### How a word runs in its sheaf (R32) -/

/-- What a word reads beside its thread: the machine before it, its core, the sheaf, the cycle it issues at. -/
structure Env where
  s : State
  c : Nat
  k : Core
  is : Issue
  ck : Clock

/-- How a word ends in one thread: it completes, or it traps there. -/
inductive TRes
  | ok (t : Thread)
  | trap (cause : Cause) (code : Nat) (arg : Quad)

/-- The word may stand where it stands, and the thread may run it (R128, R129). -/
def legalHere (e : Env) (i : Instr) (t : Thread) : Bool :=
  staticOk i && regsOk t.id.nregs i && privOk t.id.sup i
    && placeOk i e.is.widx e.is.head.len e.is.head.coll (if e.is.head.coll then leadMask e.k e.is.sup e.is.hdr else none)

/-- The thread is one of the sheaf's. -/
def inSheaf (is : Issue) (t : Thread) : Bool := t.pos.st == .inSheaf && is.slots.contains t.id.slot

/-- The word has an effect in the thread: it is of the sheaf, and the guard holds (R32). -/
def takesWord (e : Env) (i : Instr) (t : Thread) : Bool := inSheaf e.is t && guardHolds t (guardOf i)

/-- A word that has completed in a thread, were it without effect there, ends the suppression of watchpoints on it (R354). -/
def wordDone (is : Issue) (t : Thread) : Thread :=
  if t.dbg.skw = some (is.hdr, is.widx) then { t with dbg := { t.dbg with skw := none } } else t

def endWord (e : Env) (t : Thread) : TRes → Thread
  | .ok u => wordDone e.is u
  | .trap cause code arg => park e.ck t cause e.is.widx code arg

/-- One thread meets the word: no effect when it takes no part, ILLEGAL_INSTRUCTION first, else its meaning (R32, R345). -/
def runThread (e : Env) (i : Instr) (f : Env → Thread → TRes) (t : Thread) : Thread :=
  if takesWord e i t then
    if legalHere e i t then endWord e t (f e t) else park e.ck t .illegal e.is.widx 0 0
  else t

/-- The word at issue on the current core, in the cycle in which it issues (R308). -/
def State.env (s : State) : Option Env :=
  ((s.core s.cur).issue).map fun is => ⟨s, s.cur, s.core s.cur, is, s.clock⟩

/-- A word that acts in each thread alone: every thread reads the state before the word (R32). -/
def wordMap (i : Instr) (f : Env → Thread → TRes) (s : State) : State :=
  match s.env with
  | none => s
  | some e => s.withCore e.c { e.k with threads := e.k.threads.map (runThread e i f) }

/-- The slots whose threads take part, in ascending order, after the illegal ones have parked. -/
def takers (e : Env) (i : Instr) : List Nat :=
  sortBy (fun a b => decide (a ≤ b)) ((e.k.threads.filter fun t => takesWord e i t && legalHere e i t).map (·.id.slot))

/-- The guard-true threads that meet an illegal word park. -/
def parkIllegal (e : Env) (i : Instr) : State :=
  e.s.withCore e.c { e.k with threads := e.k.threads.map fun (t : Thread) =>
    if (takesWord e i t && !legalHere e i t) = true then park e.ck t .illegal e.is.widx 0 0 else t }

/-- The thread in slot `sl` takes its turn in a word that acts beyond its thread, as what came before it in the word has left
it. -/
def foldTurn (f : Env → Thread → State → State) (e : Env) (s : State) (sl : Nat) : State :=
  match s.thread e.c sl with
  | some t => if inSheaf e.is t then f e t s else s
  | none => s

/-- A word that acts beyond its thread: thread by thread in slot order (R210). -/
def wordFold (i : Instr) (f : Env → Thread → State → State) (s : State) : State :=
  match s.env with
  | none => s
  | some e => (takers e i).foldl (foldTurn f e) (parkIllegal e i)

/-- A word that acts in each thread alone, but beyond its thread in one that runs a tiller (R92, R261): `f` in every
other thread, then `g` in the tillers' threads in slot order. -/
def wordMix (i : Instr) (f : Env → Thread → TRes) (g : Env → Thread → State → State) (s : State) : State :=
  match s.env with
  | none => s
  | some e =>
    let s1 := s.withCore e.c { e.k with threads := e.k.threads.map fun (t : Thread) =>
      if (runsTiller t && takesWord e i t && legalHere e i t) = true then t else runThread e i f t }
    ((takers e i).filter fun sl => match threadAt e.k.threads sl with
      | some t => runsTiller t
      | none => false).foldl (foldTurn g e) s1

/-- The word ends in a thread of a word that acts beyond its thread. -/
def State.endWordAt (s : State) (e : Env) (t : Thread) (r : TRes) : State := s.withThread e.c (endWord e t r)

/-- After the word, the releases that its arrivals bring about (R34, R38). -/
def settleWord (s : State) : State :=
  if (s.core s.cur).issue.isNone then s else s.settle s.cur

/-! ### Completion flags and late results (R17, R314 to R316) -/

/-- The flag that a long-latency word sets: SET1, or SET2 with FSEL (R17, R125). -/
def flagOf (is : Issue) (fsel : Bool) : Option Nat :=
  let n := if fsel then is.head.set2 else is.head.set1
  if n < 12 then some n else none

def addFlag (t : Thread) (fl : Option Nat) : Thread :=
  match fl with
  | none => t
  | some n => { t with flags := t.flags.set n (t.flags.getD n 0 + 1) }

def dropFlag (t : Thread) (fl : Option Nat) : Thread :=
  match fl with
  | none => t
  | some n => { t with flags := t.flags.set n (t.flags.getD n 0 - 1) }

/-- A result that lands `lat` cycles after issue; the word's flag is set (R314, R316). -/
def lateResult (e : Env) (t : Thread) (fsel : Bool) (lat : Nat) (regs : List (Nat × Reg)) (fsr : Reg) : Thread :=
  addFlag { t with res := t.res ++ [⟨e.ck.cyc + lat, e.ck.cyc, regs, none, fsr, flagOf e.is fsel, none, false⟩] }
    (flagOf e.is fsel)

/-- As `lateResult`, with a status that is not TIMEOUT in register `d` (R19, R44). -/
def lateStatus (e : Env) (t : Thread) (fsel : Bool) (lat d : Nat) (st : Status) (more : List (Nat × Reg)) : Thread :=
  addFlag { t with res := t.res ++
      [⟨e.ck.cyc + lat, e.ck.cyc, (d, statusReg st) :: more, none, 0, flagOf e.is fsel, none, true⟩] }
    (flagOf e.is fsel)

/-- A thread that stands at a header waits on a flag or is ready as its flags now say (R27). -/
def refreshFlags (ck : Clock) (k : Core) (t : Thread) : Thread :=
  match headerAt k t.id.sup t.pos.hdr with
  | none => t
  | some x =>
    if t.pos.st == .flagWait && !flagHeld t x then { t with pos := { t.pos with st := .ready, since := ck.now } } else t

end Sys2Proof.Machine
end

