-- ==== Sys2Proof/Machine/Flags.lean ====
section
/-! DEFINITION. The sticky flags of R105, and the narrowing of exact integers that sets IS (R98). -/

namespace Sys2Proof.Machine

open Sys2Proof

/-- The bits of FSR (R105). -/
def flagIV : Reg := 1
def flagDZ : Reg := 2
def flagOF : Reg := 4
def flagUF : Reg := 8
def flagNX : Reg := 16
def flagIS : Reg := 32

/-- FSR under a write: a 1 clears its bit; bits 31:6 stay zero (R105). -/
def fsrClear (fsr x : Reg) : Reg := fsr &&& ~~~x &&& 0x3F

/-- The least and greatest value of an integer type (R97). -/
def tyMin (ty : Ty) : Int := if isSigned ty then -(2 ^ (tyBits ty - 1) : Nat) else 0
def tyMax (ty : Ty) : Int := if isSigned ty then (2 ^ (tyBits ty - 1) : Nat) - 1 else (2 ^ tyBits ty : Nat) - 1

/-- The value of bits under an integer type: signed for .s types (R132). -/
def intOf (ty : Ty) (x : Nat) : Int :=
  let n := tyBits ty
  let v := x % 2 ^ n
  if isSigned ty && 2 ^ (n - 1) ≤ v then (v : Int) - (2 ^ n : Nat) else v

/-- WrapN of an exact integer, as bits (R98). -/
def wrapN (n : Nat) (z : Int) : Nat := (z % (2 ^ n : Nat)).toNat

/-- SatN under a type: the clamped value, and whether the clamp changed it (R98). -/
def satTo (ty : Ty) (z : Int) : Int × Bool :=
  if z < tyMin ty then (tyMin ty, true) else if tyMax ty < z then (tyMax ty, true) else (z, false)

/-- An exact result narrowed to a type: bits and flags (R98, R134). -/
def narrow (ty : Ty) (sat : Bool) (z : Int) : Nat × Reg :=
  if sat then
    let (y, cl) := satTo ty z
    (wrapN (tyBits ty) y, if cl then flagIS else 0)
  else (wrapN (tyBits ty) z, 0)

/-- A condition of R142 between two values of one order. -/
def condHolds (cc : Nat) (x y : Int) : Bool :=
  match cc with
  | 0 => x == y
  | 1 => x != y
  | 2 => x < y
  | 3 => x ≤ y
  | 4 => y < x
  | _ => y ≤ x

end Sys2Proof.Machine
end

