-- ==== Sys2Proof/Machine/Operands.lean ====
section
/-! DEFINITION. The operand forms: registers and pairs by type, uniform operands and special registers (R117, R118,
R132, R351), local addresses (R48 to R51), watchpoints (R403), and how an access enters its path queue (R80). -/

namespace Sys2Proof.Machine

open Sys2Proof

/-! ### Special registers -/

/-- RSD (R146). -/
def rsdOf (t : Thread) : Reg := BitVec.ofNat 32 (t.rs.depth % 2 ^ 16 + t.rs.held * 2 ^ 16)

/-- Wake records free on a die (R351, R361). -/
def wakeFree (s : State) (die : Nat) : Nat := Config.nWake - (s.gran.wakes.filter fun w => w.die == die).length

/-- A special register as a word reads it in a thread of core `c` (R118, R132, R351). Two of its values are the model's choice
(DESIGN CHOICE, log entry 84): a register of 32 bits is zero-extended where an operation of width 64 reads it, and SWB, which is
its launch's, reads 0 in a supervisor thread, which is of no launch. -/
def readSpecial (s : State) (c : Nat) (t : Thread) (n : Nat) : Quad :=
  let k := s.core c
  let w (x : Reg) : Quad := x.setWidth 64
  let q (x : Nat) : Quad := BitVec.ofNat 64 x
  match n with
  | 0x100 => q t.id.tid
  | 0x101 => q (gixOf t)
  | 0x102 => q t.id.tmx
  | 0x103 => q c
  | 0x104 => q (dieOf c)
  | 0x105 => q s.time
  | 0x106 => w t.sr.sp
  | 0x107 => w (rsdOf t)
  | 0x108 => w t.sr.cgs
  | 0x109 => q s.hub.plinth.dlmax
  | 0x10A => if t.id.sup then 0 else ((launchOf s t.id.launch).map (·.swbv)).getD 0
  | 0x10B => w t.sr.efc
  | 0x10C => t.sr.efa
  | 0x10D => t.sr.pgf
  | 0x10E => w t.sr.fsr
  | 0x110 => w t.gst.gpc
  | 0x111 => t.gst.gir
  | 0x112 => w t.gst.gop
  | 0x113 => w t.gst.ga0
  | 0x114 => w t.gst.ga1
  | 0x115 => w t.gst.gdd
  | 0x116 => w t.gst.htb
  | 0x117 => w t.gst.gbp0
  | 0x118 => w t.gst.gbp1
  | 0x119 => w t.gst.gbp2
  | 0x11A => w t.gst.gbp3
  | 0x120 => w t.sr.lc0
  | 0x121 => w t.sr.lc1
  | 0x180 => q (k.faultQ.length + k.faultWait.length * 2 ^ 9)
  | 0x181 => q s.hub.plinth.escl
  | 0x182 => q (wakeFree s (dieOf c))
  | 0x183 => q (match k.pre with | some p => if p.saved then 0 else 1 + p.kind * 2 | none => 0)
  | 0x184 => q (match k.pre with | some p => if p.saved then 0 else p.grace | none => 0)
  | _ => 0

/-- GBPn takes a value: a write of its reserved bits is ignored, and they read as zero (R11, R154). -/
def gbpBits (r : Reg) : Reg := r &&& 0xC07FFFFF

/-- A guest register takes a value (R152, R159). -/
def writeGuest (t : Thread) (n : Nat) (x : Quad) : Thread :=
  let r : Reg := x.setWidth 32
  let g := t.gst
  match n with
  | 0 => { t with gst := { g with gpc := r } }
  | 1 => { t with gst := { g with gir := x } }
  | 2 => { t with gst := { g with gop := r } }
  | 3 => { t with gst := { g with ga0 := r } }
  | 4 => { t with gst := { g with ga1 := r } }
  | 5 => { t with gst := { g with gdd := r } }
  | 6 => { t with gst := { g with htb := r } }
  | 7 => { t with gst := { g with gbp0 := gbpBits r } }
  | 8 => { t with gst := { g with gbp1 := gbpBits r } }
  | 9 => { t with gst := { g with gbp2 := gbpBits r } }
  | 10 => { t with gst := { g with gbp3 := gbpBits r } }
  | _ => t

/-- A special register takes a value, where software may write it (R118). A bit of FSR that a landing of this cycle has set stays
set (R11, R105). -/
def writeSpecial (cyc : Nat) (t : Thread) (n : Nat) (x : Quad) : Thread :=
  let r : Reg := x.setWidth 32
  let kept : Reg := if t.hot.1 = cyc then t.hot.2 else 0
  if n = 0x106 then { t with sr := { t.sr with sp := r } }
  else if n = 0x10E then { t with sr := { t.sr with fsr := fsrClear t.sr.fsr (r &&& ~~~kept) } }
  else if n = 0x120 then { t with sr := { t.sr with lc0 := r } }
  else if n = 0x121 then { t with sr := { t.sr with lc1 := r } }
  else if 0x110 ≤ n && n ≤ 0x11A then writeGuest t (n - 0x110) x
  else t

/-! ### Operands by type (R117, R132) -/

/-- What the thread's stalled word read at its slot cycle (R308). -/
def readingOf (is : Issue) (t : Thread) : Option Reading := is.stalled.bind fun l => l.find? fun r => r.slot == t.id.slot

/-- A uniform operand at its full width, as a stalled word read it at its slot cycle. -/
def readUniform (e : Env) (t : Thread) (n : Nat) : Quad :=
  match readingOf e.is t with
  | some r => r.uni
  | none => if n < 0x40 then readG e.k t n else readSpecial e.s e.c t n

/-- A register, or a pair when the type is 64 bits wide, as a 64-bit value. -/
def readT (t : Thread) (ty : Ty) (n : Nat) : Quad :=
  if tyBits ty = 64 then readPair t n else (readV t n).setWidth 64

def writeT (t : Thread) (ty : Ty) (n : Nat) (x : Quad) : Thread :=
  if tyBits ty = 64 then writePair t n x else writeV t n (x.setWidth 32)

def readA (t : Thread) (f : Full) : Quad := readT t f.ty f.a.toNat

/-- ReadB at the type's width: 32-bit operations read bits 31:0 of a uniform operand. -/
def readB (e : Env) (t : Thread) (f : Full) : Quad :=
  if f.ub then
    (if tyBits f.ty = 64 then readUniform e t f.b.toNat else ((readUniform e t f.b.toNat).setWidth 32).setWidth 64)
  else readT t f.ty f.b.toNat

/-- B as one 32-bit register, or bits 31:0 of the uniform operand. -/
def readB32 (e : Env) (t : Thread) (f : Full) : Reg :=
  if f.ub then (readUniform e t f.b.toNat).setWidth 32 else readV t f.b.toNat

/-- B as a pair, or all of the uniform operand. -/
def readB64 (e : Env) (t : Thread) (f : Full) : Quad :=
  if f.ub then readUniform e t f.b.toNat else readPair t f.b.toNat

/-! ### Local addresses (R48 to R51) -/

/-- A local address that has been checked: the physical address and the path, or the trap it raises. -/
inductive Addr
  | bad (c : Cause)
  | good (phys : Nat) (path : Path)
  deriving DecidableEq, Repr

def offsetOf (a : Reg) : Nat := field a.toNat 22 0

/-- Where a local address of core `c` lies, bounds and alignment apart. -/
def physOf (c : Nat) (a : Reg) : Nat :=
  (if a.getLsbD 31 then sliceAt (partnerOf c) else sliceAt c) + offsetOf a

/-- The address leaves its slice or names a closed path (R51). -/
def outOfBounds (s : State) (c : Nat) (a : Reg) (size : Nat) : Bool :=
  field a.toNat 30 23 != 0 || decide (Config.sliceBytes < offsetOf a + size) || (a.getLsbD 31 && !partnerOpen s c)

/-- CheckLocal: BOUNDS ahead of ALIGNMENT (R51). -/
def checkLocal (s : State) (c : Nat) (a : Reg) (size align : Nat) : Addr :=
  if outOfBounds s c a size then .bad .bounds
  else if offsetOf a % align ≠ 0 then .bad .alignment
  else .good (physOf c a) (if a.getLsbD 31 then .partner else .own)

/-- CheckLocal of an access that only the own slice serves: bit 31 set is out of bounds (R147, R157, R179). -/
def checkOwn (s : State) (c : Nat) (a : Reg) (size align : Nat) : Addr :=
  if a.getLsbD 31 then .bad .bounds else checkLocal s c a size align

/-! ### Watchpoints (R403) -/

/-- Watchpoint `w` watches a byte of an access of this kind. -/
def wpHits (w : Quad) (a : Reg) (size : Nat) (load store : Bool) : Bool :=
  let off := field w.toNat 22 0
  let len := field w.toNat 46 24
  let pos := field a.toNat 30 0
  w.getLsbD 49 && len != 0 && w.getLsbD 23 == a.getLsbD 31 && ((load && w.getLsbD 47) || (store && w.getLsbD 48))
    && decide (off < pos + size) && decide (pos < off + len)

/-- The watchpoint that an access hits, the lowest first; none in a supervisor thread, nor on the word of a skip-watch
(R354, R400). -/
def watchAt (e : Env) (t : Thread) (a : Reg) (size : Nat) (load store : Bool) : Option Nat :=
  if t.id.sup || t.dbg.skw == some (t.pos.hdr, e.is.widx) then none
  else (List.range 4).find? fun n => wpHits (e.k.dbgNow.wp.getD n 0) a size load store

/-- What a direct access meets before it takes effect: a watchpoint, then bounds, then alignment (R345). -/
inductive Checked
  | trap (cause : Cause) (code : Nat)
  | at_ (phys : Nat) (path : Path)
  deriving DecidableEq, Repr

def checkAcc (e : Env) (t : Thread) (a : Reg) (size align : Nat) (load store : Bool) : Checked :=
  match watchAt e t a size load store with
  | some n => .trap .watchpoint n
  | none =>
    match checkLocal e.s e.c a size align with
    | .bad c => .trap c 0
    | .good p w => .at_ p w

def checkAccOwn (e : Env) (t : Thread) (a : Reg) (size align : Nat) (load store : Bool) : Checked :=
  match watchAt e t a size load store with
  | some n => .trap .watchpoint n
  | none =>
    match checkOwn e.s e.c a size align with
    | .bad c => .trap c 0
    | .good p w => .at_ p w

/-! ### Path queues (R80) -/

/-- The number of the `j`-th access of the word at issue, apart from every other access of its thread. -/
def accId (e : Env) (j : Nat) : Nat := e.ck.cyc * 16 + j

/-- The posted writes of the operations whose completion the thread has observed, N pages apart (R88). -/
def seenPosts (s : State) (t : Thread) : List Nat :=
  (s.posted.filter fun p => t.seen.contains p.op && p.kind != 2).map (·.id)

/-- An access enters its thread's path queue; its flag is set (R17, R80). -/
def pushAcc (e : Env) (t : Thread) (j : Nat) (kind : AccKind) (phys size : Nat) (path : Path) (inv rel : Bool)
    (fl : Option Nat) : Thread :=
  addFlag { t with acc := t.acc ++ [⟨accId e j, path, kind, phys, size, e.ck.cyc, inv, rel, fl, 0, []⟩] } fl

/-! ### A tiller's own bytes (R92, R261, R262) -/

/-- The output buffer of the tiller that the thread runs, or ran: offset and length. -/
def outBuf (t : Thread) : Option (Nat × Nat) :=
  match t.spec with
  | .plain => none
  | .running _ _ _ o l => some (o, l)
  | .detached _ _ _ o l _ => some (o, l)

/-- The bytes lie wholly in the output buffer, which is in the own slice. -/
def inOutBuf (t : Thread) (a : Reg) (size : Nat) : Bool :=
  match outBuf t with
  | none => false
  | some (o, l) => !(a.getLsbD 31) && decide (o ≤ offsetOf a) && decide (offsetOf a + size ≤ o + l)

/-- The tillers that hold what the thread does now: `out` says of a thread that it lies outside its output buffer, and is asked
for each tiller that the thread runs, since every access in the span of a tiller belongs to it (R92, R261). A detached thread's
is discarded instead (R262). -/
def heldFor (out : Thread → Bool) (t : Thread) : List (Nat × Nat × Nat) :=
  if isDetached t && out t then [] else ((specs t).filter fun y => out { t with spec := y }).filterMap runKey

/-- The bytes at a local address lie outside the output buffer. -/
def outBy (a : Reg) (size : Nat) (t : Thread) : Bool := !inOutBuf t a size

/-- Every word of some kinds belongs to the tillers that the thread runs. -/
def anyWord (_ : Thread) : Bool := true

/-- A tiller's TASK.PUT that waits: its place in the commit queue is taken from its issue on. -/
def putWaits (t : Thread) : Bool :=
  runsTiller t && match t.wait with
    | some w => (match w.kind with | .desc none .. | .put _ => true | _ => false)
    | none => false

/-- Items that the tillers of a core hold: the entries of its commit queue in use (R261). An item that a thread's tillers share
takes one. -/
def commitUsed (s : State) (c : Nat) : Nat :=
  ((s.gran.entries.filter fun x => x.provCore == c).flatMap fun x => x.prov.map fun h => (x.holders, h)).eraseDups.length
    + ((s.core c).threads.filter putWaits).length

/-- An entry of the Granary by die and number. -/
def entryAt (s : State) (die ix : Nat) : Option Entry := s.gran.entries.find? fun x => x.die == die && x.ix == ix

def State.modEntry (s : State) (die ix : Nat) (f : Entry → Entry) : State :=
  { s with gran := { s.gran with entries := s.gran.entries.map fun x =>
      if x.die == die && x.ix == ix then f x else x } }

/-- The tiller that the thread runs, the one taken last: die, entry, SEQ. -/
def runOf (t : Thread) : Option (Nat × Nat × Nat) := (specs t).findSome? runKey

/-- The die and number of the tiller that the thread runs. -/
def tillerOf (t : Thread) : Option (Nat × Nat) := (runOf t).map fun x => (x.1, x.2.1)

/-- Items enter the provisional stores of tillers, on core `c`'s commit queue (R92, R261). -/
def State.hold (s : State) (c : Nat) (tillers : List (Nat × Nat × Nat)) (items : List Held) : State :=
  tillers.foldl (fun s x => s.modEntry x.1 x.2.1 fun y => { y with prov := y.prov ++ items, provCore := c }) s

/-- The thread suspends at the word: it leaves its sheaf before the word has any effect, and waits at the word's resume
point under DL3 (R261). -/
def suspend (e : Env) (t : Thread) : Thread :=
  { t with pos := { t.pos with st := .task, widx := e.is.widx, since := e.ck.now },
           wait := some ⟨.suspended, effDl e.ck.now e.ck.dlmax (readDl t 3), 0, 0, e.ck.now⟩ }

/-- A word that R92 suspends: suspended in a tiller's thread. -/
def suspendAt (e : Env) (t : Thread) (s : State) : State := s.withThread e.c (suspend e t)

/-- The items are held for the tillers when the commit queue has room for all of them, else the thread suspends (R261); `u` is
the thread as the word leaves it. -/
def holdOrSuspend (e : Env) (t u : Thread) (tillers : List (Nat × Nat × Nat)) (items : List Held) (s : State) : State :=
  if commitUsed s e.c + items.length ≤ Config.nCommit then
    (s.hold e.c tillers items).withThread e.c (wordDone e.is u)
  else suspendAt e t s

end Sys2Proof.Machine
end

