-- ==== Sys2Proof/Machine/Integer.lean ====
section
/-! DEFINITION. Moves, integer arithmetic, logic, shifts, bit fields, addresses and predicates (R133 to R144). Each is a
short word: its result is there for the next word of the thread (R131). -/

namespace Sys2Proof.Machine

open Sys2Proof

/-! ### The functions -/

/-- An exact integer operation on a, b and the accumulator, narrowed (R134). -/
def intWord (f : Full) (g : Int → Int → Int → Int) (e : Env) (t : Thread) : TRes :=
  let x := intOf f.ty (readA t f).toNat
  let y := intOf f.ty (readB e t f).toNat
  let acc := intOf f.ty (readT t f.ty f.d.toNat).toNat
  let z := narrow f.ty f.sat (g x y acc)
  .ok (setFsr (writeT t f.ty f.d.toNat (BitVec.ofNat 64 z.1)) z.2)

/-- Truncating division; by zero it gives all ones (R135). -/
def divInt (x y : Int) : Int := if y = 0 then -1 else x.tdiv y

/-- The remainder of the truncating division; by zero it gives x (R135). -/
def remInt (x y : Int) : Int := if y = 0 then x else x.tmod y

/-- The high 32 bits of the exact product (R134). -/
def mulhInt (x y : Int) : Int := x * y / (2 ^ 32 : Nat)

/-- A bitwise operation at the type's width (R136). -/
def bitWord (f : Full) (g : Quad → Quad → Quad) (e : Env) (t : Thread) : TRes :=
  .ok (writeT t f.ty f.d.toNat (g (readA t f) (readB e t f)))

/-- Shifts of an N-bit value by c (R137). -/
def shlN (n x c : Nat) : Nat := if c < n then x * 2 ^ c % 2 ^ n else 0
def shrlN (n x c : Nat) : Nat := if c < n then x % 2 ^ n / 2 ^ c else 0

/-- The arithmetic shift of a signed value: at or above the width, all sign bits (R137). -/
def shraN (n : Nat) (x : Int) (c : Nat) : Nat := if c < n then wrapN n (x / (2 ^ c : Nat)) else if x < 0 then 2 ^ n - 1 else 0

def rotlN (n x c : Nat) : Nat :=
  let r := c % n
  (x % 2 ^ n * 2 ^ r + x % 2 ^ n / 2 ^ (n - r)) % 2 ^ n

/-- The shift count: bits 7:0 of Vb or of the uniform operand (R137). -/
def shiftCount (e : Env) (t : Thread) (f : Full) : Nat := field (readB32 e t f).toNat 7 0

def shiftWord (f : Full) (g : Nat → Nat → Nat → Nat) (e : Env) (t : Thread) : TRes :=
  .ok (writeT t f.ty f.d.toNat (BitVec.ofNat 64 (g (tyBits f.ty) (readA t f).toNat (shiftCount e t f))))

/-- Position and effective length of a bit field (R138). -/
def fieldPos (b : Nat) : Nat := field b 4 0
def fieldLen (b : Nat) : Nat := min (min (field b 13 8) 32) (32 - fieldPos b)

/-- BFX: the field of `x`, sign-extended for .s32 (R138). -/
def bfxVal (signed : Bool) (x b : Nat) : Nat :=
  let l := fieldLen b
  let v := x / 2 ^ fieldPos b % 2 ^ l
  if l = 0 then 0
  else if signed && 2 ^ (l - 1) ≤ v then v + (2 ^ 32 - 2 ^ l) else v

/-- BFI: the low l bits of `x` replace the field of `d` (R138). -/
def bfiVal (d x : Reg) (b : Nat) : Reg :=
  let m : Reg := BitVec.ofNat 32 ((2 ^ fieldLen b - 1) * 2 ^ fieldPos b)
  (d &&& ~~~m) ||| ((x <<< fieldPos b) &&& m)

/-- One byte of PERM from its code (R139). -/
def permByte (x code : Nat) : Nat :=
  if code < 4 then x / 2 ^ (8 * code) % 256
  else if code < 12 then x / 2 ^ (4 * (code - 4)) % 16
  else if code < 20 then
    let n := x / 2 ^ (4 * (code - 12)) % 16
    if 8 ≤ n then n + 240 else n
  else if code = 21 then 255 else 0

def permVal (x b : Nat) : Nat :=
  permByte x (field b 4 0) + 256 * permByte x (field b 9 5) + 65536 * permByte x (field b 14 10)
    + 16777216 * permByte x (field b 19 15)

/-- Leading zero bits of an n-bit value (R140). -/
def clzN : Nat → Nat → Nat
  | 0, _ => 0
  | n + 1, x => if bitAt x n then 0 else clzN n x + 1

/-- One bits among the low n (R140). -/
def popcN : Nat → Nat → Nat
  | 0, _ => 0
  | n + 1, x => (if bitAt x n then 1 else 0) + popcN n x

/-- Bit k moves to bit n - 1 - k (R140). -/
def brevN : Nat → Nat → Nat
  | 0, _ => 0
  | n + 1, x => x % 2 * 2 ^ n + brevN n (x / 2)

/-! ### Moves and arithmetic (R133 to R135) -/

def movWord (f : Full) (e : Env) (t : Thread) : TRes :=
  .ok (writeT t f.ty f.d.toNat (if f.ub then readB e t f else readA t f))
def execMov (f : Full) (s : State) : Out := .next (wordMap (.mov f) (movWord f) s)

/-- The selecting predicate: OPX bits 2:0, negated by bit 3 (R133). -/
def selPred (t : Thread) (f : Full) : Bool := readP t (opxN f % 8) != opxB f 3
def selWord (f : Full) (e : Env) (t : Thread) : TRes :=
  .ok (writeT t f.ty f.d.toNat (if selPred t f then readA t f else readB e t f))
def execSel (f : Full) (s : State) : Out := .next (wordMap (.sel f) (selWord f) s)

def execAdd (f : Full) (s : State) : Out := .next (wordMap (.add f) (intWord f fun x y _ => x + y) s)
def execSub (f : Full) (s : State) : Out := .next (wordMap (.sub f) (intWord f fun x y _ => x - y) s)
def execMul (f : Full) (s : State) : Out := .next (wordMap (.mul f) (intWord f fun x y _ => x * y) s)
def execMulh (f : Full) (s : State) : Out := .next (wordMap (.mulh f) (intWord f fun x y _ => mulhInt x y) s)
def execMad (f : Full) (s : State) : Out := .next (wordMap (.mad f) (intWord f fun x y d => x * y + d) s)
def execDiv (f : Full) (s : State) : Out := .next (wordMap (.div f) (intWord f fun x y _ => divInt x y) s)
def execRem (f : Full) (s : State) : Out := .next (wordMap (.rem f) (intWord f fun x y _ => remInt x y) s)
def execMin (f : Full) (s : State) : Out := .next (wordMap (.min f) (intWord f fun x y _ => min x y) s)
def execMax (f : Full) (s : State) : Out := .next (wordMap (.max f) (intWord f fun x y _ => max x y) s)
def execAbs (f : Full) (s : State) : Out := .next (wordMap (.abs f) (intWord f fun x _ _ => (x.natAbs : Int)) s)
def execNeg (f : Full) (s : State) : Out := .next (wordMap (.neg f) (intWord f fun x _ _ => -x) s)

/-! ### Logic, shifts, bits (R136 to R140) -/

def execAnd (f : Full) (s : State) : Out := .next (wordMap (.and f) (bitWord f fun x y => x &&& y) s)
def execOr (f : Full) (s : State) : Out := .next (wordMap (.or f) (bitWord f fun x y => x ||| y) s)
def execXor (f : Full) (s : State) : Out := .next (wordMap (.xor f) (bitWord f fun x y => x ^^^ y) s)
def execAndn (f : Full) (s : State) : Out := .next (wordMap (.andn f) (bitWord f fun x y => x &&& ~~~y) s)
def execNot (f : Full) (s : State) : Out := .next (wordMap (.not f) (bitWord f fun x _ => ~~~x) s)
def execShl (f : Full) (s : State) : Out := .next (wordMap (.shl f) (shiftWord f shlN) s)
def execShrl (f : Full) (s : State) : Out := .next (wordMap (.shrl f) (shiftWord f shrlN) s)
def execShra (f : Full) (s : State) : Out :=
  .next (wordMap (.shra f) (shiftWord f fun n x c => shraN n (intOf f.ty x) c) s)
def execRotl (f : Full) (s : State) : Out := .next (wordMap (.rotl f) (shiftWord f rotlN) s)

def bfxWord (f : Full) (e : Env) (t : Thread) : TRes :=
  .ok (writeV t f.d.toNat
    (BitVec.ofNat 32 (bfxVal (isSigned f.ty) (readV t f.a.toNat).toNat (readB32 e t f).toNat)))
def execBfx (f : Full) (s : State) : Out := .next (wordMap (.bfx f) (bfxWord f) s)

def bfiWord (f : Full) (e : Env) (t : Thread) : TRes :=
  .ok (writeV t f.d.toNat (bfiVal (readV t f.d.toNat) (readV t f.a.toNat) (readB32 e t f).toNat))
def execBfi (f : Full) (s : State) : Out := .next (wordMap (.bfi f) (bfiWord f) s)

def permWord (f : Full) (e : Env) (t : Thread) : TRes :=
  .ok (writeV t f.d.toNat (BitVec.ofNat 32 (permVal (readV t f.a.toNat).toNat (readB32 e t f).toNat)))
def execPerm (f : Full) (s : State) : Out := .next (wordMap (.perm f) (permWord f) s)

/-- CLZ and POPC write one 32-bit register whatever the type (R140). -/
def countWord (f : Full) (g : Nat → Nat → Nat) (_ : Env) (t : Thread) : TRes :=
  .ok (writeV t f.d.toNat (BitVec.ofNat 32 (g (tyBits f.ty) (readA t f).toNat)))
def execClz (f : Full) (s : State) : Out := .next (wordMap (.clz f) (countWord f clzN) s)
def execPopc (f : Full) (s : State) : Out := .next (wordMap (.popc f) (countWord f popcN) s)

def brevWord (f : Full) (_ : Env) (t : Thread) : TRes :=
  .ok (writeT t f.ty f.d.toNat (BitVec.ofNat 64 (brevN (tyBits f.ty) (readA t f).toNat)))
def execBrev (f : Full) (s : State) : Out := .next (wordMap (.brev f) (brevWord f) s)

/-! ### Addresses (R141) -/

def leaWord (f : Full) (e : Env) (t : Thread) : TRes :=
  .ok (writeV t f.d.toNat (readV t f.a.toNat + (readB32 e t f <<< (opxN f % 4))))
def execLea (f : Full) (s : State) : Out := .next (wordMap (.lea f) (leaWord f) s)

def addDWord (f : Full) (e : Env) (t : Thread) : TRes :=
  .ok (writePair t f.d.toNat (readPair t f.a.toNat + readB64 e t f))
def execAddD (f : Full) (s : State) : Out := .next (wordMap (.addD f) (addDWord f) s)

/-! ### Predicates (R142 to R144) -/

def setpWord (f : Full) (e : Env) (t : Thread) : TRes :=
  .ok (writeP t f.d.toNat
    (condHolds (opxN f % 8) (intOf f.ty (readA t f).toNat) (intOf f.ty (readB e t f).toNat)))
def execSetp (f : Full) (s : State) : Out := .next (wordMap (.setp f) (setpWord f) s)

/-- Predicate logic: OPX bit 0 negates Pa, bit 1 negates Pb (R144). -/
def predWord (f : Full) (g : Bool → Bool → Bool) (_ : Env) (t : Thread) : TRes :=
  .ok (writeP t f.d.toNat (g (readP t f.a.toNat != opxB f 0) (readP t f.b.toNat != opxB f 1)))
def execPand (f : Full) (s : State) : Out := .next (wordMap (.pand f) (predWord f fun a b => a && b) s)
def execPor (f : Full) (s : State) : Out := .next (wordMap (.por f) (predWord f fun a b => a || b) s)
def execPxor (f : Full) (s : State) : Out := .next (wordMap (.pxor f) (predWord f fun a b => a != b) s)
def execPnot (f : Full) (s : State) : Out := .next (wordMap (.pnot f) (predWord f fun a _ => !a) s)

/-! ### Immediate forms (R133) -/

def moviWord (x : Imm) (_ : Env) (t : Thread) : TRes := .ok (writeV t x.d.toNat x.imm)
def execMovi (x : Imm) (s : State) : Out := .next (wordMap (.movi x) (moviWord x) s)

def addiWord (x : Imm) (_ : Env) (t : Thread) : TRes := .ok (writeV t x.d.toNat (readV t x.a.toNat + x.imm))
def execAddi (x : Imm) (s : State) : Out := .next (wordMap (.addi x) (addiWord x) s)

end Sys2Proof.Machine
end

