-- ==== Sys2Proof/Machine/Control.lean ====
section
/-! DEFINITION. Transfers, the return stack, loops, EXIT and NOP (R145 to R151). A transfer moves its thread to a header;
a target that is no header traps before any effect (R33, R145). -/

namespace Sys2Proof.Machine

open Sys2Proof

/-- The thread goes to a header, and its guest tag is cleared (R28, R145). -/
def goTo (e : Env) (t : Thread) (h : Nat) : TRes :=
  if isHeader e.k t.id.sup h then .ok (arriveAt e.ck e.k t h none .flow) else .trap .illegal 0 0

/-- The thread falls through: the step that ends the clause moves it on. -/
def stay (t : Thread) : TRes := .ok t

/-- Bits 14:0 of the immediate (R124). -/
def immTarget (x : Imm) : Nat := field x.imm.toNat 14 0

def braWord (x : Imm) (e : Env) (t : Thread) : TRes := goTo e t (immTarget x)
def execBra (x : Imm) (s : State) : Out := .next (settleWord (wordMap (.bra x) (braWord x) s))

def brcWord (x : Imm) (e : Env) (t : Thread) : TRes :=
  if condHolds (field x.imm.toNat 17 15) (intOf .s32 (readV t x.a.toNat).toNat) 0 then goTo e t (immTarget x) else stay t
def execBrc (x : Imm) (s : State) : Out := .next (settleWord (wordMap (.brc x) (brcWord x) s))

/-! ### The return stack (R146, R147) -/

/-- The header index that a call pushes (R145). A clause that ends at word 32,767 pushes 32,768, though R146 has bits 31:15 of an
entry zero (DESIGN CHOICE, log entry 99). -/
def nextOf (e : Env) : Reg := BitVec.ofNat 32 (e.is.hdr + e.is.head.len + 1)

def pushEntry (t : Thread) (a : Reg) : Thread :=
  { t with rs := ⟨t.rs.depth + 1, t.rs.held + 1, t.rs.ent.set t.rs.held a⟩ }

/-- SP after a spill (R147). -/
def spillBase (t : Thread) : Reg := t.sr.sp - 32

/-- The eight spill stores, the oldest entry lowest, as accesses of the thread (R147). -/
def spillStores (e : Env) (t : Thread) (phys : Nat) : List Access :=
  (List.range 8).map fun j =>
    ⟨accId e j, .own, .store ((t.rs.ent.getD j 0).setWidth 64), phys + 4 * j, 4, e.ck.cyc, false, false, none, 0, []⟩

/-- The stack after a spill: SP moves down, no entry is held. -/
def spilled (t : Thread) : Thread :=
  { t with sr := { t.sr with sp := spillBase t }, rs := { t.rs with held := 0 } }

/-- Push, then the transfer; `h` is the target, which is checked before the push (R145, R147). -/
def callTo (e : Env) (t : Thread) (h : Nat) : TRes :=
  if !isHeader e.k t.id.sup h then .trap .illegal 0 0
  else if t.rs.depth = 65535 then .trap .returnOverflow 0 0
  else if t.rs.held = 8 then
    match checkAccOwn e t (spillBase t) 32 4 false true with
    | .trap c code => .trap c code ((spillBase t).setWidth 64)
    | .at_ p _ =>
      let u := spilled t
      let u := if isDetached t && !inOutBuf t (spillBase t) 32 then u else { u with acc := u.acc ++ spillStores e t p }
      .ok (arriveAt e.ck e.k (pushEntry u (nextOf e)) h none .flow)
  else .ok (arriveAt e.ck e.k (pushEntry t (nextOf e)) h none .flow)

/-- In a tiller's thread, a spill outside its output buffer is held as eight stores or suspends (R92, R261). -/
def callTiller (e : Env) (t : Thread) (h : Nat) (s : State) : State :=
  match callTo e t h with
  | .ok u =>
    let xs := heldFor (outBy (spillBase t) 32) t
    if t.rs.held = 8 && !xs.isEmpty then
      holdOrSuspend e t { u with acc := t.acc } xs
        ((spillStores e t (physOf e.c (spillBase t))).map Held.store) s
    else s.endWordAt e t (.ok u)
  | r => s.endWordAt e t r

def callWord (x : Imm) (e : Env) (t : Thread) : TRes := callTo e t (immTarget x)
def execCall (x : Imm) (s : State) : Out :=
  .next (settleWord (wordMix (.call x) (callWord x) (fun e t => callTiller e t (immTarget x)) s))

/-- The target of CALLI: all of Va, which is no header when bits 31:15 are set (R145). -/
def calliTarget (t : Thread) (f : Full) : Nat := (readV t f.a.toNat).toNat
def calliWord (f : Full) (e : Env) (t : Thread) : TRes := callTo e t (calliTarget t f)
def execCalli (f : Full) (s : State) : Out :=
  .next (settleWord (wordMix (.calli f) (calliWord f) (fun e t => callTiller e t (calliTarget t f)) s))

/-- Pop of a held entry: the stack without it, and the entry. -/
def popEntry (t : Thread) : Thread × Reg :=
  ({ t with rs := { t.rs with depth := t.rs.depth - 1, held := t.rs.held - 1 } }, t.rs.ent.getD (t.rs.held - 1) 0)

/-- The thread waits for the reads of a DISPATCH or of a filling RET (R147, R157): waiting on future, since R26 and R27 name no
state for it (log entry 72). -/
def inTransit (e : Env) (t : Thread) (x : Xfer) : Thread :=
  { t with pos := { t.pos with st := .future, since := e.ck.now }, xfer := some x,
           wait := some ⟨.transit e.is.widx, ⟨0, none⟩, 0, 0, e.ck.now⟩ }

/-- The eight fill loads (R147). -/
def fillLoads (e : Env) (phys : Nat) : List Access :=
  (List.range 8).map fun j => ⟨accId e j, .own, .fill j, phys + 4 * j, 4, e.ck.cyc, false, false, none, 0, []⟩

def retWord (e : Env) (t : Thread) : TRes :=
  if t.rs.depth = 0 then .trap .returnUnderflow 0 0
  else if t.rs.held = 0 then
    match checkAccOwn e t t.sr.sp 32 4 true false with
    | .trap c code => .trap c code (t.sr.sp.setWidth 64)
    | .at_ p _ => .ok (inTransit e { t with acc := t.acc ++ fillLoads e p }
        ⟨true, false, e.ck.cyc + 6, none, none, List.replicate 8 0, none, 0⟩)
  else
    let (u, a) := popEntry t
    if isHeader e.k t.id.sup a.toNat then .ok (arriveAt e.ck e.k u a.toNat none .flow) else .trap .illegal 0 0
def execRet (f : Full) (s : State) : Out := .next (settleWord (wordMap (.ret f) retWord s))

/-! ### Loops (R148, R149) -/

def readLc (t : Thread) (n : Nat) : Reg := if n = 0 then t.sr.lc0 else t.sr.lc1
def writeLc (t : Thread) (n : Nat) (x : Reg) : Thread :=
  if n = 0 then { t with sr := { t.sr with lc0 := x } } else { t with sr := { t.sr with lc1 := x } }

def loopWord (x : Imm) (e : Env) (t : Thread) : TRes :=
  let v := readV t x.a.toNat
  let u := writeLc t x.d.toNat v
  if v = 0 then goTo e u (immTarget x) else stay u
def execLoop (x : Imm) (s : State) : Out := .next (settleWord (wordMap (.loop x) (loopWord x) s))

def lendWord (x : Imm) (e : Env) (t : Thread) : TRes :=
  let v := readLc t x.d.toNat
  if v.toNat ≤ 1 then stay (writeLc t x.d.toNat 0) else goTo e (writeLc t x.d.toNat (v - 1)) (immTarget x)
def execLend (x : Imm) (s : State) : Out := .next (settleWord (wordMap (.lend x) (lendWord x) s))

/-! ### EXIT and NOP (R150, R151) -/

/-- The thread is exited: it keeps its slot, its registers, return stack and loop counters are gone, its late register
results are discarded, its stores and table loads still take effect (R26, R150). -/
def exitThread (now : Nat) (t : Thread) : Thread :=
  { t with pos := { t.pos with st := .exited, since := now }, v := [], res := t.res.filter (fun r => r.table.isSome), replies := [], wait := none,
           hold := none, gw := none, xfer := none, frec := none, rs := ⟨0, 0, List.replicate 8 0⟩,
           sr := { t.sr with lc0 := 0, lc1 := 0 } }

/-- The reuse latch empties when a thread of its group is saved or exits (R225). -/
def dropLatch (k : Core) (t : Thread) : Core :=
  match k.mx.latch with
  | some l => if l.sup == t.id.sup && l.gix == gixOf t then { k with mx := { k.mx with latch := none } } else k
  | none => k

/-- The threads that have exited since the threads were `old` leave the latches of their groups (R225). -/
def dropLatches (old : List Thread) (k : Core) : Core :=
  (k.threads.filter fun t => t.pos.st == .exited && !(old.any fun u => u.id.slot == t.id.slot && u.pos.st == .exited)).foldl
    dropLatch k

def exitWord (e : Env) (t : Thread) : TRes := .ok (exitThread e.ck.now t)
def execExit (f : Full) (s : State) : Out :=
  .next (settleWord ((wordMap (.exit f) exitWord s).modCore s.cur (dropLatches (s.core s.cur).threads)))

def nopWord (_ : Env) (t : Thread) : TRes := .ok t
def execNop (f : Full) (s : State) : Out := .next (wordMap (.nop f) nopWord s)

end Sys2Proof.Machine
end

