-- ==== Sys2Proof/Machine/Waits.lean ====
section
/-! DEFINITION. Waits on the completion board: what a future's handle reads as, when a wait's event has happened, and the
pass that ends every wait whose event has (R42, R68 to R72, R86 to R89, R233 to R237). -/

namespace Sys2Proof.Machine

open Sys2Proof

/-! ### Starting a wait -/

/-- A last word that waits: the thread leaves its sheaf for a waiting state, under the deadline register it names (R27,
R41). -/
def waitWord (e : Env) (t : Thread) (kind : WaitKind) (st : TState) (dsel : BitVec 2) (reg : Nat) : Thread :=
  { t with pos := { t.pos with st := st, widx := 0, since := e.ck.now },
           wait := some ⟨kind, effDl e.ck.now e.ck.dlmax (readDl t dsel.toNat), reg, nextHdr e.k t, e.ck.now⟩ }

/-- A word that reports a status without waiting, or a waiting word that ends at once (R19). -/
def statusNow (e : Env) (t : Thread) (reg : Nat) (st : Status) : Thread := writeStatus e.ck.escl t reg st

/-! ### Handles (R68 to R70) -/

def hCls (h : Quad) : Nat := field h.toNat 63 60
def hCore (h : Quad) : Nat := field h.toNat 59 51
def hSlot (h : Quad) : Nat := field h.toNat 50 40
def hSeq (h : Quad) : Nat := field h.toNat 39 0

/-- The handle of an operation (R68). -/
def handleOf (cls core slot seq : Nat) : Quad :=
  BitVec.ofNat 64 (cls * 2 ^ 60 + core * 2 ^ 51 + slot * 2 ^ 40 + seq % 2 ^ 40)

/-- The outcome that a future keeps: operation, status, cause and first faulting address, summary, pager future. -/
structure Ended where
  op : Nat
  cls : Nat
  st : Status
  cause : EFault
  fva : Nat
  summary : Reg
  pgf : Quad
  /-- what its release has ordered before it: operations, posted writes (R87) -/
  relOps : List Nat
  relPosts : List Nat
  deriving DecidableEq, Repr

/-- What a handle reads as in a launch (R69, R70, R233). -/
inductive FutView
  | absent
  | stale
  | pending (cls op : Nat) (accepted : Bool) (promise : Option Nat)
  | ended (x : Ended) (promise : Option Nat)
  deriving DecidableEq, Repr

def eslotAt (k : Core) (cls slot : Nat) : Option ESlot := k.es.find? fun x => x.cls == cls && x.slot == slot

/-- The slot that a handle of the launch names on a core: with its team while that is saved (R47, R362), else the core's. -/
def slotOf (k : Core) (launch cls slot : Nat) : Option ESlot :=
  match k.savedTeams.find? fun y => y.team.launch == launch with
  | some y => y.es.find? fun x => x.cls == cls && x.slot == slot
  | none => eslotAt k cls slot

def viewSlot (x : ESlot) (launch seq : Nat) : FutView :=
  if seq = 0 || x.seq < seq || !x.used || x.launch != launch then .absent
  else if seq < x.seq then .stale
  else match x.ended with
    | none => .pending x.cls x.op x.accepted x.promise
    | some st => .ended ⟨x.op, x.cls, st, x.cause, x.fva, x.summary, x.pgf, x.relOps, x.relPosts⟩ x.promise

def viewPager (x : PSlot) (launch seq : Nat) : FutView :=
  if seq = 0 || x.seq < seq || x.launch != launch then .absent
  else if seq < x.seq then .stale
  else match x.ended with
    | none => .pending 5 0 true none
    | some st => .ended ⟨0, 5, st, .none, 0, 0, 0, [], []⟩ none

def viewFut (s : State) (launch : Nat) (h : Quad) : FutView :=
  if hCls h < 5 && hCore h < 256 then
    match slotOf (s.core (hCore h)) launch (hCls h) (hSlot h) with
    | some x => viewSlot x launch (hSeq h)
    | none => .absent
  else if hCls h = 5 && 256 ≤ hCore h && hCore h < 260 then
    match s.hub.pslots.find? fun x => x.die == hCore h - 256 && x.slot == hSlot h with
    | some x => viewPager x launch (hSeq h)
    | none => .absent
  else .absent

def efaultCode : EFault → Nat
  | .none => 0 | .noncanonical => 1 | .notMapped => 2 | .malformed => 3 | .permission => 4 | .hole => 5
  | .badMeta => 6 | .badFormat => 7 | .bounds => 8 | .uncorrectable => 9

/-- EFC and EFA, and PGF for NOT_MAPPED, as a wait or test that returns FAULT sets them (R59 to R61). -/
def noteFault (t : Thread) (x : Ended) : Thread :=
  if x.st == .fault && x.cls < 5 then
    { t with sr := { t.sr with efc := BitVec.ofNat 32 (efaultCode x.cause + x.cls * 2 ^ 8),
                               efa := BitVec.ofNat 64 x.fva,
                               pgf := if x.cause == .notMapped then x.pgf else t.sr.pgf } }
  else t

/-- All parts of an operation, its kick records' among them. -/
def allParts (o : Op) : List Part :=
  match o.kind with
  | .ckick _ _ recs => o.parts ++ recs.foldl (fun l r => l ++ r.parts) []
  | _ => o.parts

/-- Every record of a kick has its final status. -/
def recsEnded (o : Op) : Bool :=
  match o.kind with
  | .ckick _ _ recs => recs.all fun r => r.ended.isSome
  | _ => true

/-- An accepted operation with no part left to perform. -/
def opOver (o : Op) : Bool := o.accepted && (allParts o).all (fun p => p.st != 0) && recsEnded o

/-- The thread has observed the operation's completion, whose posted writes a release then covers (R88). -/
def noteSeen (s : State) (t : Thread) (op : Nat) : Thread :=
  if s.posted.any (fun p => p.op == op) && !t.seen.contains op then { t with seen := t.seen ++ [op] } else t

/-- The thread has observed a barrier or a tag in which operations have counted: it has observed the completion of those that
have completed, or do in this step (R67, R86, R88). -/
def sawOps (s : State) (t : Thread) (ops : List Nat) : Thread :=
  (ops.filter fun i => s.ops.all fun o => o.id != i || opOver o).foldl (noteSeen s) t

/-- What observing an ended future does to the thread: fault registers, the release set. -/
def observe (s : State) (t : Thread) (x : Ended) : Thread :=
  if x.st == .done || x.st == .fault then noteSeen s (noteFault t x) x.op else t

/-- The summary: the exception bits of a class 1, 2 or 3 operation that ended DONE or FAULT (R233). -/
def summaryOf (x : Ended) : Reg :=
  if 1 ≤ x.cls && x.cls ≤ 3 && (x.st == .done || x.st == .fault) then x.summary else 0

/-! ### Fences (R89, R195, R196) -/

/-- Operations of the thread of a class that have not completed. -/
def opsOpen (s : State) (c : Nat) (t : Thread) (cls : Nat) : Bool :=
  s.ops.any fun o => o.core == c && o.cls == cls && o.launch == t.id.launch && o.threads.contains t.id.tid

/-- The posted writes of a thread that are recorded in its set: those of S pages are not, which its operations wait for
(R84). -/
def ownPosts (s : State) (c : Nat) (t : Thread) : List Posted :=
  s.posted.filter fun p => p.core == c && p.tid == t.id.tid && p.launch == t.id.launch && p.part.isNone

/-- Posted writes of the thread's operations of a class that have not been performed. -/
def postedOpen (s : State) (c : Nat) (t : Thread) (cls : Nat) : Bool :=
  s.posted.any fun p => p.core == c && p.tid == t.id.tid && p.launch == t.id.launch && p.cls == cls

/-- The class is drained at the scope: its operations complete, and at die scope and beyond its posted writes performed;
at thread scope none is waited for, and the scopes between count slice writes, which are never posted (R84, R89, R196). -/
def drained (s : State) (c : Nat) (t : Thread) (scope cls : Nat) : Bool :=
  !opsOpen s c t cls && (scope < 4 || !postedOpen s c t cls)

/-- The thread has observed that its operations of the masked classes have completed (R88, R89). -/
def sawClasses (s : State) (c : Nat) (t : Thread) (mask : Nat) : Thread :=
  (((ownPosts s c t).filter fun p => bitAt mask p.cls).map (·.op)).foldl (noteSeen s) t

/-- The mask of drained classes among those masked. -/
def drainedMask (s : State) (c : Nat) (t : Thread) (scope mask : Nat) : Nat :=
  ((List.range 5).filter fun k => bitAt mask k && drained s c t scope k).foldl (fun m k => m + 2 ^ k) 0

/-- What the tillers that a thread runs hold. -/
def heldItems (s : State) (t : Thread) : List Held :=
  ((specs t).filterMap runKey).flatMap fun x => ((entryAt s x.1 x.2.1).map (·.prov)).getD []

/-- The thread's tillers hold no store and no operation (R92). -/
def heldClear (s : State) (t : Thread) : Bool :=
  (heldItems s t).all fun h => match h with | .act .. => true | _ => false

/-- Both conditions of R89, and in a tiller's thread that of R92. -/
def fenceDone (s : State) (c : Nat) (t : Thread) (scope mask : Nat) (accs : List Nat) : Bool :=
  heldClear s t && !(t.acc.any fun a => accs.contains a.id) && (List.range 5).all fun k => !bitAt mask k || drained s c t scope k

/-! ### The events that end a wait -/

def postedAny (s : State) (ids : List Nat) : Bool := s.posted.any fun p => ids.contains p.id

def postedOf (s : State) (op : Nat) : List Nat := (s.posted.filter fun p => p.op == op).map (·.id)

/-! ### Release sets (R87, R88) -/

/-- An operation may still touch a global page. -/
def touchesGlobal (o : Op) : Bool :=
  match o.kind with
  | .copy _ | .ckick .. | .gather .. | .coll .. | .ratom .. => true
  | _ => false

/-- The core whose slice holds a physical address of the SRAM window (R55). -/
def sliceCore (p : Nat) : Nat := (p - Config.sramBase) / Config.sliceStep

/-- WOBJ: the awaited object of a wait of a thread of core `c`, an object of the partner's with its PARTNER bit (R359). -/
def wobjOf (c : Nat) (w : WaitKind) : Nat :=
  let far (d : Nat) : Nat := if d = c then 0 else 2 ^ 31
  match w with
  | .future h _ _ | .fsleep h _ => h.toNat
  | .barrier o ph n _ =>
    (o - Config.sramBase) % Config.sliceStep + far (sliceCore o) + ph % 2 ^ 32 * 2 ^ 64 + n % 2 ^ 32 * 2 ^ 96
  | .tag d n _ => n + far d
  | .waitn c n => c + n % 2 ^ 32 * 2 ^ 64
  | .acquire _ _ x => x
  | _ => 0

/-- The translations of an operation, its kick records' among them. -/
def allPages (o : Op) : List TlbEnt :=
  match o.kind with
  | .ckick _ _ recs => recs.foldl (fun l r => l ++ r.pages) []
  | _ => o.pages

/-- An operation that touches an S or C page, as far as it is known: one that waits for acceptance may (R88). -/
def touchesSC (o : Op) : Bool := touchesGlobal o && (!o.accepted || (allPages o).any fun x => x.kind != 2)

/-- Some of a release set is not in place: an operation has not completed, or a posted write of it, or one named, has not
been performed; N pages are excepted (R88). -/
def relPending (s : State) (ops posts : List Nat) : Bool :=
  (s.ops.any fun p => ops.contains p.id && touchesSC p)
    || s.posted.any fun w => posts.contains w.id || (ops.contains w.op && w.kind != 2)

/-- The posted writes in flight of a thread, N pages apart; those of S pages count, whose operations may have been cancelled
(R84, R88). -/
def threadPosts (s : State) (c : Nat) (t : Thread) : List Nat :=
  (s.posted.filter fun p => p.core == c && p.tid == t.id.tid && p.launch == t.id.launch && p.kind != 2).map (·.id)

/-- A wait on a future sees that it has ended: with the acquire step when posted writes remain, its own or those that its
release has ordered before it (R87), else its status and, but for TASK.WAITF, its summary (R233, R252). -/
def endFuture (s : State) (ck : Clock) (k : Core) (t : Thread) (w : Wait) (acq task : Bool) (x : Ended) : Thread :=
  let u := observe s t x
  let more := if task then [] else [(w.reg + 1, summaryOf x)]
  let ids := postedOf s x.op ++ x.relPosts
  if acq && x.st == .done && (postedAny s ids || relPending s x.relOps []) then
    { writeVs u more with wait := some { w with kind := .acquire ids x.relOps (wobjOf 0 w.kind) } }
  else endWait ck k u w x.st more

/-- FWAIT on a handle: what the future's state makes of the thread (R233). -/
def pollFuture (s : State) (ck : Clock) (k : Core) (t : Thread) (w : Wait) (h : Quad) (acq task : Bool) : Thread :=
  let none' (st : Status) : Thread := endWait ck k t w st (if task then [] else [(w.reg + 1, 0)])
  match viewFut s t.id.launch h with
  | .absent => none' .absent
  | .stale => none' .stale
  | .pending .. => t
  | .ended x _ => endFuture s ck k t w acq task x

/-- FSLEEP acts as FWAIT does from here on (R236). The thread keeps sleeping until it ends, and its status register
alone is written. -/
def asWait (t : Thread) (w : Wait) (h : Quad) : Thread :=
  { t with wait := some { w with kind := .future h false true } }

/-- FSLEEP before and during its sleep (R236). -/
def pollSleep (s : State) (ck : Clock) (k : Core) (t : Thread) (w : Wait) (h : Quad) (begun : Bool) : Thread :=
  match viewFut s t.id.launch h with
  | .absent => endWait ck k t w .absent []
  | .stale => endWait ck k t w .stale []
  | .pending cls _ accepted promise =>
    if cls ≠ 0 then endWait ck k t w .absent []
    else if begun || !accepted then t
    else
      match promise with
      | none => asWait t w h
      | some p => if p ≤ ck.now then asWait t w h else { t with wait := some { w with kind := .fsleep h true } }
  | .ended x promise =>
    if x.cls ≠ 0 then endWait ck k t w .absent []
    else if x.st == .fault || x.st == .cancelled then endWait ck k (observe s t x) w x.st []
    else
      match promise with
      | some p =>
        if begun then t
        else if p ≤ ck.now then endWait ck k (observe s t x) w x.st []
        else { t with wait := some { w with kind := .fsleep h true } }
      | none => endWait ck k (observe s t x) w x.st []

/-- One thread's wait meets the present state of the completion board. -/
def settleThread (s : State) (c : Nat) (t : Thread) : Thread :=
  let ck := s.clock
  let k := s.core c
  match t.wait with
  | none => t
  | some w =>
    match w.kind with
    | .acquire ids ops _ => if postedAny s ids || relPending s ops [] then t else endWait ck k t w .done []
    | .future h acq task => pollFuture s ck k t w h acq task
    | .fsleep h begun => pollSleep s ck k t w h begun
    | .waitn cls thr => if t.q.getD cls 0 ≤ thr then endWait ck k t w .done [] else t
    | .fence scope mask accs _ =>
      if fenceDone s c t scope mask accs then endWait ck k (sawClasses s c t mask) w .done [(w.reg + 1, BitVec.ofNat 32 mask)]
      else t
    | _ => t

/-- Every wait of one core whose event has happened ends. -/
def settleWaitsCore (s : State) (c : Nat) (k : Core) : Core :=
  let ts := k.threads.map (settleThread s c)
  settleCore s.clock { k with threads := ts }

def State.settleWaitsAt (s : State) (c : Nat) : State := s.modCore c (settleWaitsCore s c)

/-- Every wait whose event has happened ends (R42, R86). -/
def State.settleWaits (s : State) : State := { s with cores := s.cores.mapIdx (settleWaitsCore s) }

end Sys2Proof.Machine
end

