-- ==== Sys2Proof/Machine/Local.lean ====
section
/-! DEFINITION. Loads, stores and atomics on the slices, deadline registers and SLEEPU, at issue (R184 to R186, R197,
R198). What an access does at its commit point is in Commit.lean. -/

namespace Sys2Proof.Machine

open Sys2Proof

/-- Bytes that a type moves (R184). -/
def tyBytes (ty : Ty) : Nat := tyBits ty / 8

/-- Va, plus the offset when OPX bit 0 is set, modulo 2^32 (R184). -/
def memAddr (f : Full) (e : Env) (t : Thread) : Reg :=
  if opxB f 0 then readV t f.a.toNat + readB32 e t f else readV t f.a.toNat

/-- The trap record of an access holds its local address (R347). -/
def addrArg (a : Reg) : Quad := a.setWidth 64

/-! ### Loads (R184, R185) -/

def loadSext (ty : Ty) : Bool := ty == .s8 || ty == .s16

def loadWord (f : Full) (inv : Bool) (e : Env) (t : Thread) : TRes :=
  let a := memAddr f e t
  let n := tyBytes f.ty
  match checkAcc e t a n n true false with
  | .trap c code => .trap c code (addrArg a)
  | .at_ p w => .ok (pushAcc e t 0 (.load f.d.toNat (loadSext f.ty)) p n w inv false (flagOf e.is f.fsel))
def execLd (f : Full) (s : State) : Out := .next (wordMap (.ld f) (loadWord f false) s)
def execLdI (f : Full) (s : State) : Out := .next (wordMap (.ldI f) (loadWord f true) s)

/-! ### Stores (R184, R88, R92) -/

/-- The store that the word makes in the thread: the low n bytes of Vd or Vd.d. -/
def storeAcc (f : Full) (rel : Bool) (e : Env) (t : Thread) (p : Nat) (w : Path) : Access :=
  ⟨accId e 0, w, .store (readT t f.ty f.d.toNat), p, tyBytes f.ty, e.ck.cyc, false, rel, none, 0,
    if rel then seenPosts e.s t else []⟩

/-- A store enters its path queue; a detached thread's store outside its output buffer is discarded (R262). -/
def storeWord (f : Full) (rel : Bool) (e : Env) (t : Thread) : TRes :=
  let a := memAddr f e t
  let n := tyBytes f.ty
  match checkAcc e t a n n false true with
  | .trap c code => .trap c code (addrArg a)
  | .at_ p w =>
    if isDetached t && !inOutBuf t a n then .ok t else .ok { t with acc := t.acc ++ [storeAcc f rel e t p w] }

/-- In a tiller's thread, a store outside the output buffer is held (R92, R261). -/
def storeTiller (f : Full) (rel : Bool) (e : Env) (t : Thread) (s : State) : State :=
  let a := memAddr f e t
  let n := tyBytes f.ty
  match checkAcc e t a n n false true with
  | .trap c code => s.endWordAt e t (.trap c code (addrArg a))
  | .at_ p w =>
    let xs := heldFor (outBy a n) t
    if xs.isEmpty then s.endWordAt e t (storeWord f rel e t)
    else holdOrSuspend e t t xs [.store (storeAcc f rel e t p w)] s
def execSt (f : Full) (s : State) : Out := .next (wordMix (.st f) (storeWord f false) (storeTiller f false) s)
def execStRel (f : Full) (s : State) : Out := .next (wordMix (.stRel f) (storeWord f true) (storeTiller f true) s)

/-! ### Local atomics (R186) -/

/-- The operand of an atomic, and for CAS the value compared: Vb then Vb+1, or the pairs Vb and V(b+2). -/
def atomOperands (f : Full) (e : Env) (t : Thread) : Quad × Quad :=
  let b := f.b.toNat
  if opxN f % 8 = 7 then
    if tyBits f.ty = 64 then (readPair t (b + 2), readPair t b)
    else ((readV t (b + 1)).setWidth 64, (readV t b).setWidth 64)
  else (readB e t f, 0)

def atomWord (f : Full) (e : Env) (t : Thread) : TRes :=
  let a := readV t f.a.toNat
  let n := tyBytes f.ty
  match checkAcc e t a n n true true with
  | .trap c code => .trap c code (addrArg a)
  | .at_ p w =>
    if isDetached t && !inOutBuf t a n then .ok t
    else
      let (b, cmp) := atomOperands f e t
      .ok (pushAcc e t 0 (.atom (opxN f % 8) f.ty b cmp f.d.toNat) p n w false false (flagOf e.is f.fsel))

/-- A tiller suspends at an atomic outside its output buffer (R92). -/
def atomTiller (f : Full) (e : Env) (t : Thread) (s : State) : State :=
  match atomWord f e t with
  | .trap c code arg => s.endWordAt e t (.trap c code arg)
  | .ok u => if (heldFor (outBy (readV t f.a.toNat) (tyBytes f.ty)) t).isEmpty then s.endWordAt e t (.ok u) else suspendAt e t s
def execAtom (f : Full) (s : State) : Out := .next (wordMix (.atom f) (atomWord f) (atomTiller f) s)

/-- The value an atomic leaves, from the old one (R186). -/
def atomNew (op : Nat) (ty : Ty) (old b cmp : Nat) : Nat :=
  let n := tyBits ty
  match op with
  | 0 => wrapN n (intOf ty old + intOf ty b)
  | 1 => wrapN n (min (intOf ty old) (intOf ty b))
  | 2 => wrapN n (max (intOf ty old) (intOf ty b))
  | 3 => (old &&& b) % 2 ^ n
  | 4 => (old ||| b) % 2 ^ n
  | 5 => (old ^^^ b) % 2 ^ n
  | 6 => b % 2 ^ n
  | _ => if old % 2 ^ n = cmp % 2 ^ n then b % 2 ^ n else old % 2 ^ n

/-- The old value of an atomic into its register or pair (R186). -/
def oldRegs (d : Nat) (ty : Ty) (v : Nat) : List (Nat × Reg) :=
  if tyBits ty = 64 then [(d, BitVec.ofNat 32 v), (d + 1, BitVec.ofNat 32 (v / 2 ^ 32))] else [(d, BitVec.ofNat 32 v)]

/-! ### Deadline registers and SLEEPU (R40, R197, R198) -/

def setDl (t : Thread) (n : Nat) (x : Quad) : Thread := { t with dl := t.dl.set n (dlStore x) }

def dlsetWord (f : Full) (_ : Env) (t : Thread) : TRes := .ok (setDl t f.dsel.toNat (readPair t f.a.toNat))
def execDlset (f : Full) (s : State) : Out := .next (wordMap (.dlset f) (dlsetWord f) s)

/-- VALUE moved by a signed span, between 0 and 2^62 - 1; MODE stays and bit 62 becomes 0 (R198). -/
def dlAdd (x : Quad) (span : Int) : Quad :=
  if x == allOnes then x
  else
    BitVec.ofNat 64 ((min (max ((dlValue x : Int) + span) 0) (2 ^ 62 - 1 : Nat)).toNat + if dlMode x then 2 ^ 63 else 0)

def dladdWord (f : Full) (_ : Env) (t : Thread) : TRes :=
  .ok { t with dl := t.dl.set f.dsel.toNat (dlAdd (readDl t f.dsel.toNat) (intOf .s64 (readPair t f.a.toNat).toNat)) }
def execDladd (f : Full) (s : State) : Out := .next (wordMap (.dladd f) (dladdWord f) s)

def dlgetWord (f : Full) (_ : Env) (t : Thread) : TRes := .ok (writePair t f.d.toNat (readDl t f.dsel.toNat))
def execDlget (f : Full) (s : State) : Out := .next (wordMap (.dlget f) (dlgetWord f) s)

/-- SLEEPU ends with DONE whenever its deadline passes (R197). -/
def sleepuWord (f : Full) (e : Env) (t : Thread) : TRes :=
  if dlPassed e.ck.now (effDl e.ck.now e.ck.dlmax (readDl t f.dsel.toNat)) then .ok (statusNow e t f.d.toNat .done)
  else .ok (waitWord e t .sleep .sleeping f.dsel f.d.toNat)
def execSleepu (f : Full) (s : State) : Out := .next (wordMap (.sleepu f) (sleepuWord f) s)

end Sys2Proof.Machine
end

