-- ==== Sys2Proof/Machine/Filter.lean ====
section
/-! DEFINITION. The counting filter at issue (R206, R207). A row's effect stands in Commit.lean. -/

namespace Sys2Proof.Machine

open Sys2Proof

def filterBytes : Nat := 32768

def hashMul : Nat → Nat
  | 0 => 0x9E3779B1 | 1 => 0x85EBCA77 | 2 => 0xC2B2AE3D | _ => 0x27D4EB2F

/-- h_r(k) (R206). -/
def filterHash (r key : Nat) : Nat := key * hashMul r % 2 ^ 32 / 2 ^ 20

/-- The offset of a key's counter of row r from the base. -/
def counterOff (r key : Nat) : Nat := 0x2000 * r + 2 * filterHash r key

/-- What the base meets: a watchpoint on one of the rows, then bounds and alignment of the whole filter (R206, R403). -/
def checkFilter (e : Env) (t : Thread) (a : Reg) (key : Nat) (store : Bool) : Checked :=
  let hit (n : Nat) : Bool := (List.range 4).any fun r =>
    watchAt e t (a + BitVec.ofNat 32 (counterOff r key)) 2 true store == some n
  match (List.range 4).find? hit with
  | some n => .trap .watchpoint n
  | none =>
    match checkLocal e.s e.c a filterBytes 256 with
    | .bad c => .trap c 0
    | .good p w => .at_ p w

/-- The four row accesses of a thread, in row order; the flag goes with the last (R207, R313). -/
def rowAccesses (f : Full) (add : Bool) (e : Env) (t : Thread) (p : Nat) (w : Path) : List Access :=
  let key := (readB32 e t f).toNat
  let inc := if add then field (readV t f.d.toNat).toNat 15 0 else 0
  (List.range 4).map fun r =>
    ⟨accId e r, w, .cntf add r key inc 0xFFFF f.d.toNat, p + counterOff r key, 2, e.ck.cyc, false, false,
      if r = 3 then flagOf e.is f.fsel else none, 0, []⟩

def cntfWord (f : Full) (add : Bool) (e : Env) (t : Thread) : TRes :=
  let a := readV t f.a.toNat
  match checkFilter e t a (readB32 e t f).toNat add with
  | .trap c code => .trap c code (addrArg a)
  | .at_ p w =>
    if add && isDetached t && !inOutBuf t a filterBytes then .ok t
    else .ok (addFlag { t with acc := t.acc ++ rowAccesses f add e t p w } (flagOf e.is f.fsel))

/-- The rows of CNTF.ADD are local atomics: a tiller suspends at them outside its output buffer (R92). -/
def cntfTiller (f : Full) (e : Env) (t : Thread) (s : State) : State :=
  match cntfWord f true e t with
  | .trap c code arg => s.endWordAt e t (.trap c code arg)
  | .ok u => if (heldFor (outBy (readV t f.a.toNat) filterBytes) t).isEmpty then s.endWordAt e t (.ok u) else suspendAt e t s
def execCntfAdd (f : Full) (s : State) : Out := .next (wordMix (.cntfAdd f) (cntfWord f true) (cntfTiller f) s)
def execCntfGet (f : Full) (s : State) : Out := .next (wordMap (.cntfGet f) (cntfWord f false) s)

/-! ### CNTF.CLR: once for each distinct base of the sheaf, as one store of zeros (R207) -/

/-- The thread's clear reaches memory at once: it may, and the filter is not left to a provisional store. -/
def clrActs (f : Full) (e : Env) (t : Thread) : Bool :=
  let a := readV t f.a.toNat
  takesWord e (.cntfClr f) t && legalHere e (.cntfClr f) t
    && (match checkLocal e.s e.c a filterBytes 256 with | .good .. => true | .bad _ => false)
    && (heldFor (outBy a filterBytes) t).isEmpty && (!isDetached t || inOutBuf t a filterBytes)

/-- A thread of a lower slot clears the same base. -/
def clrDone (f : Full) (e : Env) (t : Thread) : Bool :=
  e.k.threads.any fun u => decide (u.id.slot < t.id.slot) && clrActs f e u && readV u f.a.toNat == readV t f.a.toNat

/-- The clear of a filter: its 32 KiB of zeros commit as one store, which R207 leaves open (log entry 70). The other threads that
name the base queue a store of no bytes, which commits behind it (R80, R82). -/
def clrAccess (e : Env) (p : Nat) (w : Path) (bytes : Nat) : Access :=
  ⟨accId e 0, w, .store 0, p, bytes, e.ck.cyc, false, false, none, 0, []⟩

def cntfClrWord (f : Full) (e : Env) (t : Thread) : TRes :=
  let a := readV t f.a.toNat
  match checkLocal e.s e.c a filterBytes 256 with
  | .bad c => .trap c 0 (addrArg a)
  | .good p w =>
    if clrActs f e t then .ok { t with acc := t.acc ++ [clrAccess e p w (if clrDone f e t then 0 else filterBytes)] }
    else .ok t

def cntfClrTiller (f : Full) (e : Env) (t : Thread) (s : State) : State :=
  let a := readV t f.a.toNat
  match checkLocal e.s e.c a filterBytes 256 with
  | .bad c => s.endWordAt e t (.trap c 0 (addrArg a))
  | .good p w =>
    let xs := heldFor (outBy a filterBytes) t
    if xs.isEmpty then s.endWordAt e t (cntfClrWord f e t)
    else holdOrSuspend e t t xs [.store (clrAccess e p w filterBytes)] s
def execCntfClr (f : Full) (s : State) : Out := .next (wordMix (.cntfClr f) (cntfClrWord f) (cntfClrTiller f) s)

end Sys2Proof.Machine
end

