-- ==== Sys2Proof/Machine/Barrier.lean ====
section
/-! DEFINITION. Barrier objects (R73, R74, R187 to R192), ring-slot tags (R75, R76, R193, R194), what a barrier or SLOT
instruction does at its commit point (R430), and the words themselves, FENCE among them (R195). -/

namespace Sys2Proof.Machine

open Sys2Proof

/-! ### The object (R73) -/

def barPend (m : Mem) (a : Nat) : Nat := memRead m a 4
def barInit (m : Mem) (a : Nat) : Nat := memRead m (a + 4) 4
def barPhase (m : Mem) (a : Nat) : Nat := memRead m (a + 8) 4
/-- Bits 127:96: SHORT is bit 0 and OVER bit 1. -/
def barBits (m : Mem) (a : Nat) : Nat := memRead m (a + 12) 4

/-- The cores whose threads reach a slice: its own and the partner. -/
def reachers (p : Nat) : List Nat := [sliceCore p, partnerOf (sliceCore p)]

/-! ### Waiters -/

/-- Posted writes that the arrivals of a phase recorded (R87). -/
def barPosted (s : State) (obj ph : Nat) : List Nat :=
  ((s.barPost.find? fun x => x.obj == obj && x.ph == ph).map (·.ids)).getD []

/-- The operations with posted writes whose bytes have counted in a phase (R88). -/
def barCounted (s : State) (obj ph : Nat) : List Nat :=
  ((s.barPost.find? fun x => x.obj == obj && x.ph == ph).map (·.ops)).getD []

def State.putBarPost (s : State) (x : BarPost) : State :=
  { s with barPost := x :: s.barPost.filter fun y => !(y.obj == x.obj && y.ph == x.ph) }

/-- The thread has observed a phase, and with it the completions of the operations that counted in it and have completed (R86,
R88). -/
def sawPhase (s : State) (t : Thread) (obj ph : Nat) : Thread := sawOps s t (barCounted s obj ph)

/-- A wait record takes the status of a saved thread's wait (R361). -/
def State.fireWake (s : State) (c : Nat) (t : Thread) (st : Status) (regs : List (Nat × Reg)) : State :=
  { s with gran := { s.gran with wakes := s.gran.wakes.map fun w =>
      if w.core == c && w.launch == t.id.launch && w.tid == t.id.tid && w.fired.isNone then
        { w with fired := some (st, regs) }
      else w } }

/-- A barrier wait ends in a thread: with the acquire step when it has one and posted writes remain (R87). -/
def endBarThread (s : State) (c : Nat) (k : Core) (t0 : Thread) (w : Wait) (obj ph : Nat) (acq : Bool) (st : Status) : Thread :=
  let t := if st == .done || st == .fault then sawPhase s t0 obj ph else t0
  if acq && st == .done && postedAny s (barPosted s obj ph) then
    { t with wait := some { w with kind := .acquire (barPosted s obj ph) [] (wobjOf c w.kind) } }
  else endWait s.clock k t w st []

/-- Waiters on an object, judged by `f` from the phase they wait for: resident threads end their waits. -/
def endBarCore (s : State) (obj : Nat) (f : Nat → Option Status) (c : Nat) (k : Core) : Core :=
  let ts := k.threads.map fun (t : Thread) =>
    match t.wait with
    | some w => match w.kind with
      | .barrier o ph _ acq => if o = obj then (match f ph with | some st => endBarThread s c k t w obj ph acq st | none => t) else t
      | _ => t
    | none => t
  settleCore s.clock { k with threads := ts }

/-- A saved thread's barrier wait has its event: its record fires, or the acquire step goes on (R87, R361). -/
def fireBarrier (s0 : State) (c : Nat) (t : Thread) (w : Wait) (obj ph : Nat) (acq : Bool) (st : Status) : State :=
  let see (u : Thread) : Thread := if u.id.tid == t.id.tid && (st == .done || st == .fault) then sawPhase s0 u obj ph else u
  let s := s0.modCore c fun k => { k with saved := k.saved.map see }
  if acq && st == .done && postedAny s (barPosted s obj ph) then
    s.modCore c fun k => { k with saved := k.saved.map fun (u : Thread) =>
      if u.id.tid == t.id.tid then { u with wait := some { w with kind := .acquire (barPosted s obj ph) [] (wobjOf c w.kind) } } else u }
  else s.fireWake c t st []

/-- Saved threads of a resident team that wait on the object: their wake records fire (R361). -/
def fireSaved (obj : Nat) (f : Nat → Option Status) (s : State) (c : Nat) : State :=
  (s.core c).saved.foldl (fun s t =>
    match t.wait with
    | some w => match w.kind with
      | .barrier o ph _ acq => if o = obj then (match f ph with | some st => fireBarrier s c t w obj ph acq st | none => s) else s
      | _ => s
    | none => s) s

/-- Every waiter on the object for whom `f` gives a status ends its wait. -/
def State.endBarrier (s : State) (obj : Nat) (f : Nat → Option Status) : State :=
  (reachers obj).foldl (fun s c => fireSaved obj f (s.modCore c (endBarCore s obj f c)) c) s

/-- Arrivals of the object that no timeout can withdraw any more (R74, R189). -/
def dropArrivals (s : State) (obj : Nat) (f : Nat → Bool) : State :=
  (reachers obj).foldl (fun s c => s.modCore c fun k =>
    let g (t : Thread) : Thread :=
      { t with arr := t.arr.filter (fun x => !(x.obj == obj && f x.ph)), spent := t.spent.filter fun x => !(x.1 == obj && f x.2.1) }
    { k with threads := k.threads.map g, saved := k.saved.map g }) s

/-- After bytes of a slice have been written by stores: waits on an object whose INIT reads 0 end ABSENT (R74, R191). -/
def State.inertWaits (s : State) (p : Nat) : State :=
  let objs := ((reachers p).foldl (fun l c => l ++ (s.core c).threads ++ (s.core c).saved) []).filterMap fun t =>
    match t.wait with
    | some w => match w.kind with | .barrier o _ _ _ => some o | _ => none
    | none => none
  objs.foldl (fun s o => if barInit s.mem o = 0 then s.endBarrier o fun _ => some .absent else s) s

/-! ### Changes to the object (R74) -/

def setBits (m : Mem) (a : Nat) (short past : Bool) : Nat :=
  barBits m a / 4 * 4 + (if short then 1 else 0) + (if past then 2 else 0)

/-- The phase completes: waiters of the phase end, PHASE rises, PEND is reloaded, SHORT clears; `past` says that an
excess was discarded. -/
def State.completePhase (s : State) (a : Nat) (short past : Bool) : State :=
  let ph := barPhase s.mem a
  let past := past || bitAt (barBits s.mem a) 1
  let s1 := s.storeN a 16 (barInit s.mem a + barInit s.mem a * 2 ^ 32 + (ph + 1) % 2 ^ 32 * 2 ^ 64
    + setBits s.mem a false past * 2 ^ 96)
  dropArrivals (s1.endBarrier a fun p => if p = ph then some (if short then .fault else .done) else none) a (· == ph)

/-- A decrement of `d`, d > 0; `short` says that the bytes were never delivered. On an inert barrier it sets OVER alone, and
leaves SHORT, which R74 leaves open for undelivered bytes (log entry 73). -/
def State.decBarrier (s : State) (a d : Nat) (short : Bool) : State :=
  let pend := barPend s.mem a
  let sh := short || bitAt (barBits s.mem a) 0
  if barInit s.mem a = 0 then s.storeN (a + 12) 4 (setBits s.mem a (bitAt (barBits s.mem a) 0) true)
  else if d < pend then
    (s.storeN a 4 (pend - d)).storeN (a + 12) 4 (setBits s.mem a sh (bitAt (barBits s.mem a) 1))
  else s.completePhase a sh (decide (pend < d))

/-- The posted writes that an arrival of the thread records (R87). -/
def arrPosts (s : State) (c : Nat) (t : Thread) : List Nat := (ownPosts s c t).map (·.id)

/-- The posted writes of a thread are recorded for the phase it arrives in, once for each arrival (R87, R88). -/
def recordPosted (s : State) (c : Nat) (t : Thread) (obj ph : Nat) : State :=
  let mine := arrPosts s c t
  if mine.isEmpty then s else s.putBarPost ⟨obj, ph, barPosted s obj ph ++ mine, barCounted s obj ph⟩

/-- Bytes of an operation with posted writes are about to count in the barrier's present phase (R88). -/
def countedBy (s : State) (op obj : Nat) : State :=
  let ph := barPhase s.mem obj
  if !(s.posted.any fun p => p.op == op) || (barCounted s obj ph).contains op then s
  else s.putBarPost ⟨obj, ph, barPosted s obj ph, barCounted s obj ph ++ [op]⟩

/-- A thread arrives with count `n`: the machine after it, and the token's PH and CNT (R190). -/
def arriveBar (s : State) (c : Nat) (t : Thread) (a n : Nat) : State × Nat × Nat :=
  let ph := barPhase s.mem a
  if n = 0 then (s, ph, 0)
  else if barInit s.mem a = 0 then (s.decBarrier a n false, ph, 0)
  else
    let ids := arrPosts s c t
    let s := recordPosted s c t a ph
    if n < barPend s.mem a then
      ((s.decBarrier a n false).modThread c t.id.slot fun u => { u with arr := u.arr ++ [⟨a, ph, n, ids⟩] }, ph, n)
    else (s.decBarrier a n false, ph, 0)

/-- The thread has the arrival, not yet withdrawn. -/
def sameArr (x : Nat × Nat × Nat) (y : Arrival) : Bool := (y.obj, y.ph, y.n) == x

def hasArr (x : Nat × Nat × Nat) (t : Thread) : Bool := t.arr.any (sameArr x)

/-- The threads that hold the arrival, resident or saved with their team resident: core, launch, TID. -/
def arrMakers (s : State) (x : Nat × Nat × Nat) : List (Nat × Nat × Nat) :=
  (reachers x.1).foldl (fun l c => l ++ (((s.core c).threads ++ (s.core c).saved).filter (hasArr x)).map fun t =>
    (c, t.id.launch, t.id.tid)) []

/-- Whose arrival a timed-out wait of thread `t` withdraws: its own; else, for a token that another thread has handed on, that
of one that made it, unless the waiter has withdrawn it before (R191). -/
def arrivalOf (s : State) (c : Nat) (t : Thread) (x : Nat × Nat × Nat) : Option (Nat × Nat × Nat) :=
  let me := (c, t.id.launch, t.id.tid)
  let all := arrMakers s x
  if all.contains me then some me else if t.spent.contains x then none else all.head?

/-- An arrival of the timed-out wait of thread `t` is withdrawn, once, with the posted writes that it recorded (R74, R87,
R191). -/
def State.withdraw (s : State) (c : Nat) (t : Thread) (obj ph n : Nat) : State :=
  let x := (obj, ph, n)
  match arrivalOf s c t x with
  | none => s
  | some (c', la, tid) =>
    let is (u : Thread) : Bool := u.id.launch == la && u.id.tid == tid
    let f (u : Thread) : Thread := if is u then { u with arr := u.arr.eraseP (sameArr x) } else u
    let k := s.core c'
    let ids := (((k.threads ++ k.saved).find? is).bind fun u => u.arr.find? (sameArr x)).elim [] (·.ids)
    let s := s.modCore c' fun k => { k with threads := k.threads.map f, saved := k.saved.map f }
    let s := { s with barPost := s.barPost.map fun (b : BarPost) =>
        if b.obj == obj && b.ph == ph then { b with ids := ids.foldl List.erase b.ids } else b }
    let spend (u : Thread) : Thread :=
      if u.id.launch == t.id.launch && u.id.tid == t.id.tid then { u with spent := x :: u.spent } else u
    let s := s.modCore c fun k => { k with threads := k.threads.map spend, saved := k.saved.map spend }
    s.storeN obj 4 ((barPend s.mem obj + n) % 2 ^ 32)

/-! ### Waits of one thread -/

/-- The thread's wait ends with a status (R27, R42). -/
def State.endWaitAt (s : State) (c sl : Nat) (st : Status) (more : List (Nat × Reg)) : State :=
  (s.modThread c sl fun t => match t.wait with
    | some w => endWait s.clock (s.core c) t w st more
    | none => t).settle c

/-- The thread's wait goes on as another kind, counted from now. -/
def State.waitAs (s : State) (c sl : Nat) (kind : WaitKind) : State :=
  s.modThread c sl fun t => match t.wait with
    | some w => { t with wait := some { w with kind := kind, start := s.time } }
    | none => t

/-- The effective deadline of the thread's wait has passed. -/
def waitPassed (s : State) (t : Thread) : Bool := match t.wait with | some w => dlPassed s.time w.dl | none => false

/-- The wait of kind `kind` ends DONE, with the acquire step over the posted writes `ids` when any of them remains (R87). -/
def State.doneOrAcquire (s : State) (c sl : Nat) (acq : Bool) (ids : List Nat) (kind : WaitKind) : State :=
  if acq && postedAny s ids then s.waitAs c sl (.acquire ids [] (wobjOf c kind)) else s.endWaitAt c sl .done []

/-- A wait at a barrier meets its object at its commit point, the effect of the word apart (R191, R430). -/
def State.meetBarrier (s : State) (c : Nat) (t : Thread) (a ph n : Nat) (acq : Bool) : State :=
  let sl := t.id.slot
  if barInit s.mem a = 0 then s.endWaitAt c sl .absent []
  else if barPhase s.mem a ≠ ph then
    (s.modThread c sl fun u => sawPhase s u a ph).doneOrAcquire c sl acq (barPosted s a ph) (.barrier a ph n acq)
  else if waitPassed s t then (s.withdraw c t a ph n).endWaitAt c sl .timeout []
  else s.waitAs c sl (.barrier a ph n acq)

/-- BAR.INIT at its commit point (R189). Arrivals of the phase that it wipes can no longer be withdrawn by a timeout, so that a token
of theirs adds no count back, and the posted writes that they recorded still count for the phase's acquire step (DESIGN CHOICE,
log entry 93: R87 and R191 do not say). -/
def State.initBarrier (s : State) (a n : Nat) : State :=
  let s := (s.storeN a 8 (n + n * 2 ^ 32)).storeN (a + 12) 4 (setBits s.mem a false false)
  dropArrivals (s.endBarrier a fun _ => some .withdrawn) a fun _ => true

/-! ### Ring-slot tags (R75, R76) -/

def Tag.empty : Tag := ⟨0, false, false, 0, 0, []⟩
def tagAt (s : State) (c n : Nat) : Tag := tblGet (s.core c).tags n Tag.empty
def State.setTag (s : State) (c n : Nat) (x : Tag) : State := s.modCore c fun k => { k with tags := tblPut k.tags n x }

def claimed (x : Tag) (n : Nat) : Tag :=
  { x with st := if n = 0 then 2 else 1, short := false, stray := false, count := if n = 0 then x.count else n,
           gen := (x.gen + 1) % 2 ^ 32, ops := [] }

/-- What a waiter wants of a tag in this state: its new state and its status. -/
def tagServe (x : Tag) : Option Nat → Option (Tag × Status)
  | some n => if x.st = 0 then some (claimed x n, .done) else none
  | none => if x.st = 2 then some ({ x with st := 3 }, if x.short then .fault else .done) else none

/-- The waiters queued at a tag: core, slot, claim, in the order they came (R76). -/
def tagQueue (s : State) (c n : Nat) : List (Nat × Nat × Nat × Option Nat) :=
  let here (c' : Nat) := (s.core c').threads.filterMap fun t =>
    match t.wait with
    | some w => match w.kind with
      | .tag tc tn cl => if tc = c && tn = n then some (w.start, c', t.id.slot, cl) else none
      | _ => none
    | none => none
  sortBy (fun x y => decide (x.1 < y.1) || (x.1 == y.1 && ((x.2.1 == c && y.2.1 != c) || (x.2.1 == y.2.1 && decide (x.2.2.1 ≤ y.2.2.1)))))
    (here c ++ here (partnerOf c))

/-- Bytes of an operation with posted writes are about to count in the fill of a tag (R88). -/
def countedIn (s : State) (op c n : Nat) : State :=
  let x := tagAt s c n
  if x.st = 1 && (s.posted.any fun p => p.op == op) && !x.ops.contains op then s.setTag c n { x with ops := x.ops ++ [op] } else s

/-- The thread has taken or claimed the tag: a take observes the completions of the operations that filled it (R86, R88). -/
def State.sawFill (s : State) (c sl : Nat) (x : Tag) (claim : Option Nat) : State :=
  if claim.isNone then s.modThread c sl fun u => sawOps s u x.ops else s

/-- Waiters that the tag's present state serves take it, one change after another. -/
def State.settleTag (s : State) (c n : Nat) : Nat → State
  | 0 => s
  | fuel + 1 =>
    match (tagQueue s c n).findSome? fun q => (tagServe (tagAt s c n) q.2.2.2).map fun r => (q, r) with
    | none => s
    | some (q, x, st) =>
      (((s.sawFill q.2.1 q.2.2.1 x q.2.2.2).setTag c n x).endWaitAt q.2.1 q.2.2.1 st []).settleTag c n fuel

/-- Copy bytes, or a faulted or cancelled part's bytes, reach a tag (R76). -/
def State.countTag (s : State) (c n b : Nat) (short : Bool) : State :=
  let x := tagAt s c n
  if x.st = 1 then
    let y := { x with short := x.short || short, stray := x.stray || decide (x.count < b), count := x.count - b,
                      st := if x.count ≤ b then 2 else 1 }
    (s.setTag c n y).settleTag c n 4
  else s.setTag c n { x with stray := true }

/-- SLOT.CLAIM or SLOT.TAKE at its commit point (R76, R430). -/
def State.meetTag (s : State) (c : Nat) (t : Thread) (tc tag : Nat) (claim : Option Nat) : State :=
  match tagServe (tagAt s tc tag) claim with
  | some (x, st) => (((s.sawFill c t.id.slot x claim).setTag tc tag x).endWaitAt c t.id.slot st []).settleTag tc tag 4
  | none =>
    if waitPassed s t then s.endWaitAt c t.id.slot .timeout [] else s.waitAs c t.id.slot (.tag tc tag claim)

/-- SLOT.FREE at its commit point: the machine after it and the status (R194). -/
def State.freeTag (s : State) (tc tag : Nat) : State × Status :=
  let x := tagAt s tc tag
  if x.st = 3 then ((s.setTag tc tag { x with st := 0 }).settleTag tc tag 4, .done) else (s, .absent)

/-! ### The barrier words (R187 to R192) -/

/-- A barrier access outside the output buffer of the tiller that the thread is detached from has no effect (R262). -/
def barOut (t : Thread) (a : Reg) : Bool := isDetached t && !inOutBuf t a 16

/-- A barrier word: the 16-byte access `kind`; `out` is what the thread does when it is detached and the object lies
outside its output buffer. -/
def barWord (f : Full) (e : Env) (t : Thread) (push : Nat → Path → Thread) (out : Thread) : TRes :=
  let a := readV t f.a.toNat
  match checkAcc e t a 16 16 true true with
  | .trap c code => .trap c code (addrArg a)
  | .at_ p w => if barOut t a then .ok out else .ok (push p w)

/-- In a tiller's thread a barrier word suspends unless its object lies in the output buffer (R92). -/
def barTiller (f : Full) (g : Env → Thread → TRes) (e : Env) (t : Thread) (s : State) : State :=
  match g e t with
  | .trap c code arg => s.endWordAt e t (.trap c code arg)
  | .ok u => if (heldFor (outBy (readV t f.a.toNat) 16) t).isEmpty then s.endWordAt e t (.ok u) else suspendAt e t s

def barInitWord (f : Full) (e : Env) (t : Thread) : TRes :=
  barWord f e t (fun p w => pushAcc e t 0 (.barInit (readV t f.d.toNat).toNat) p 16 w false false none) t
def execBarInit (f : Full) (s : State) : Out :=
  .next (wordMix (.barInit f) (barInitWord f) (barTiller f (barInitWord f)) s)

def barArriveWord (f : Full) (e : Env) (t : Thread) : TRes :=
  barWord f e t (fun p w =>
    pushAcc e t 0 (.barArrive (readB32 e t f).toNat f.d.toNat) p 16 w false false (flagOf e.is f.fsel)) t
def execBarArrive (f : Full) (s : State) : Out :=
  .next (wordMix (.barArrive f) (barArriveWord f) (barTiller f (barArriveWord f)) s)

/-- A waiting word whose access has entered its path queue (R430). -/
def waitAccess (e : Env) (t : Thread) (st : TState) (f : Full) (kind : AccKind) (p n : Nat) (w : Path) : Thread :=
  waitWord e (pushAcc e t 0 kind p n w false false none) .access st f.dsel f.d.toNat

def barWaitWord (f : Full) (acq : Bool) (e : Env) (t : Thread) : TRes :=
  let tok := (readPair t f.b.toNat).toNat
  barWord f e t (fun p w => waitAccess e t .barrier f (.barWait (field tok 31 0) (field tok 63 32) acq) p 16 w)
    (statusNow e t f.d.toNat .withdrawn)
def execBarWait (f : Full) (s : State) : Out :=
  .next (settleWord (wordMix (.barWait f) (barWaitWord f false) (barTiller f (barWaitWord f false)) s))
def execBarWaitAcq (f : Full) (s : State) : Out :=
  .next (settleWord (wordMix (.barWaitAcq f) (barWaitWord f true) (barTiller f (barWaitWord f true)) s))

def barArwtWord (f : Full) (e : Env) (t : Thread) : TRes :=
  barWord f e t (fun p w => waitAccess e t .barrier f (.barArwt (readB32 e t f).toNat) p 16 w)
    (statusNow e t f.d.toNat .withdrawn)
def execBarArwt (f : Full) (s : State) : Out :=
  .next (settleWord (wordMix (.barArwt f) (barArwtWord f) (barTiller f (barArwtWord f)) s))

/-! ### The SLOT words (R193, R194) -/

/-- A tag reference names nothing that can be reached: bits 30:10, or a closed partner path. -/
def tagRefBad (e : Env) (a : Reg) : Bool := field a.toNat 30 10 != 0 || (a.getLsbD 31 && !partnerOpen e.s e.c)

def tagPath (a : Reg) : Path := if a.getLsbD 31 then .partner else .own

/-- Where tag accesses stand among the locations of R80: outside every slice. -/
def tagLoc (e : Env) (a : Reg) : Nat := (if a.getLsbD 31 then partnerOf e.c else e.c) * 1024 + field a.toNat 9 0

def slotWord (f : Full) (e : Env) (t : Thread) (bad : Bool) (push : Thread) (out : Thread) : TRes :=
  let a := readV t f.a.toNat
  if tagRefBad e a || bad then .trap .bounds 0 (addrArg a) else if isDetached t then .ok out else .ok push

/-- A tiller suspends at every SLOT instruction (R92). -/
def slotTiller (g : Env → Thread → TRes) (e : Env) (t : Thread) (s : State) : State :=
  match g e t with
  | .trap c code arg => s.endWordAt e t (.trap c code arg)
  | .ok u => if (heldFor anyWord t).isEmpty then s.endWordAt e t (.ok u) else suspendAt e t s

def slotClaimWord (f : Full) (e : Env) (t : Thread) : TRes :=
  let a := readV t f.a.toNat
  let n := (readB32 e t f).toNat
  slotWord f e t (decide (0x7FFFFF < n))
    (waitAccess e t .future f (.slotClaim (field a.toNat 9 0) n) (tagLoc e a) 0 (tagPath a))
    (statusNow e t f.d.toNat .withdrawn)
def execSlotClaim (f : Full) (s : State) : Out :=
  .next (settleWord (wordMix (.slotClaim f) (slotClaimWord f) (slotTiller (slotClaimWord f)) s))

def slotTakeWord (f : Full) (e : Env) (t : Thread) : TRes :=
  let a := readV t f.a.toNat
  slotWord f e t false
    (waitAccess e t .future f (.slotTake (field a.toNat 9 0)) (tagLoc e a) 0 (tagPath a))
    (statusNow e t f.d.toNat .withdrawn)
def execSlotTake (f : Full) (s : State) : Out :=
  .next (settleWord (wordMix (.slotTake f) (slotTakeWord f) (slotTiller (slotTakeWord f)) s))

def slotFreeWord (f : Full) (e : Env) (t : Thread) : TRes :=
  let a := readV t f.a.toNat
  slotWord f e t false
    (pushAcc e t 0 (.slotFree (field a.toNat 9 0) f.d.toNat) (tagLoc e a) 0 (tagPath a) false false (flagOf e.is f.fsel)) t
def execSlotFree (f : Full) (s : State) : Out :=
  .next (wordMix (.slotFree f) (slotFreeWord f) (slotTiller (slotFreeWord f)) s)

/-! ### FENCE (R89, R195, R196) -/

/-- The class mask is the literal in A, and the scope OPX bits 2:0. -/
def fenceWord (f : Full) (e : Env) (t : Thread) : TRes :=
  let scope := opxN f % 8
  let mask := f.a.toNat % 32
  let accs := t.acc.map (·.id)
  if fenceDone e.s e.c t scope mask accs then
    .ok (statusNow e (writeV (sawClasses e.s e.c t mask) (f.d.toNat + 1) (BitVec.ofNat 32 mask)) f.d.toNat .done)
  else .ok (waitWord e t (.fence scope mask accs []) .future f.dsel f.d.toNat)
def execFence (f : Full) (s : State) : Out := .next (settleWord (wordMap (.fence f) (fenceWord f) s))

end Sys2Proof.Machine
end

