-- ==== Sys2Proof/Machine/Translate.lean ====
section
/-! DEFINITION. The physical map (R54), translation walks and translation caches (R56 to R58, R405), pager futures and
requests (R61, R363). -/

namespace Sys2Proof.Machine

open Sys2Proof

/-! ### The physical map (R54, R55, R395) -/

inductive Region
  | hbm | second | sram | aperture | hole
  deriving DecidableEq, Repr

/-- Where a physical address lies, and the first address beyond its run of that kind. -/
def regionOf (p : Nat) : Region × Nat :=
  if p < 0x8000000000 then (.hbm, 0x8000000000)
  else if p < 0x20000000000 then (.hole, 0x20000000000)
  else if p < 0x40000000000 then (.second, 0x40000000000)
  else if p < 0x40080000000 then
    let base := Config.sramBase + sliceNo p * Config.sliceStep
    if p < base + Config.sliceBytes then (.sram, base + Config.sliceBytes) else (.hole, base + Config.sliceStep)
  else if p < 0x80000000000 then (.hole, 0x80000000000)
  else if p < 0x100000000000 then (.aperture, 0x100000000000)
  else (.hole, p + 2 ^ 44)
where
  sliceNo (p : Nat) : Nat := (p - Config.sramBase) / Config.sliceStep

/-- Feature `n` has been agreed (R390). -/
def agreed (s : State) (n : Nat) : Bool := bitAt s.hub.fagr n

/-- The Ethernet ports run as halves of their own (R391, R392). -/
def portsSplit (s : State) : Bool := s.hub.cfg.split && agreed s 7

/-- The port and half, as 2 * port + half, that carries a RoCEv2 connection (log entry 10). -/
def linkOf (s : State) (conn : Nat) : Nat :=
  if portsSplit s then Config.ethPort conn % 4 else Config.ethPort conn / 2 % 2 * 2

/-- The port half retrains (R423). -/
def linkDown (s : State) (key : Nat) : Bool := tblGet s.svc.retrain key 0 != 0

def windowReg (s : State) (w : Nat) : Nat := (tblGet s.hub.windows w 0).toNat

/-- Where the byte at a physical address lies in the model's memory: there, but for the external aperture, whose window names
the target byte at TBASE + o by its kind, connection and remote key, beyond every physical address (R395). -/
def busAt (s : State) (p : Nat) : Nat :=
  if (regionOf p).1 == .aperture then
    let o := p - 0x80000000000
    let r := windowReg s (o / 0x80000000)
    2 ^ 44 + ((field r 2 1 * 2 ^ 12 + field r 139 128) * 2 ^ 32 + field r 191 160) * 2 ^ 64
      + (field r 127 64 + o % 0x80000000) % 2 ^ 64
  else p

/-- What an access to an aperture address meets (R395). -/
def apertureFault (s : State) (p : Nat) (write : Bool) : EFault :=
  let r := windowReg s ((p - 0x80000000000) / 0x80000000)
  if !bitAt r 0 || 2 ≤ field r 2 1 || field r 63 4 != 0 || field r 159 140 != 0 || field r 255 192 != 0 then .hole
  else if write && !bitAt r 3 then .permission
  else .none

/-- The first offset of a physical run at which it meets a hole or an aperture fault, and the cause (R54, R55, R395). -/
def runFault (s : State) (write : Bool) : Nat → Nat → Nat → Nat → Option (Nat × EFault)
  | 0, _, _, _ => none
  | fuel + 1, p, len, off =>
    if len = 0 then none
    else
      let onward (e : Nat) : Option (Nat × EFault) :=
        if len ≤ e - p then none else runFault s write fuel e (len - (e - p)) (off + (e - p))
      match regionOf p with
      | (.hole, _) => some (off, .hole)
      | (.aperture, _) =>
        if apertureFault s p write == .none then onward (p + 0x80000000 - p % 0x80000000) else some (off, apertureFault s p write)
      | (_, e) => onward e

/-- Every byte of a physical range may be written: none lies in a hole, in a window that is not mapped, or in one with WR = 0
(R54, R395). -/
def mayWrite (s : State) (a n : Nat) : Bool := (runFault s true 1030 a n 0).isNone

/-- What the front end, the Granary or a ring's unit reads and writes at a physical address: an item of `n` bytes that lies in one
window. A write that the window does not permit leaves memory as it was (R395). -/
def busRead (s : State) (a n : Nat) : Nat := memRead s.mem (busAt s a) n
def State.busStore (s : State) (a n v : Nat) : State := if mayWrite s a n then s.storeN (busAt s a) n v else s

/-- Cells at physical addresses, those left out that may not be written (R395). -/
def busCells (s : State) (cs : List Host.Cell) : List Host.Cell :=
  (cs.filter fun x => mayWrite s x.1 1).map fun x => (busAt s x.1, x.2)

/-! ### The service log (R417, R418) -/

/-- A record of the service log. -/
def logBits (s : State) (kind unit launch data : Nat) : Nat :=
  s.svc.slseq % 2 ^ 64 + s.time % 2 ^ 64 * 2 ^ 64 + kind * 2 ^ 128 + unit % 2 ^ 16 * 2 ^ 136 + launch % 2 ^ 16 * 2 ^ 152
    + data % 2 ^ 88 * 2 ^ 168

/-- A record is made: written, with SLOG raised, or dropped when the ring is full; SEQ rises either way. -/
def State.logRec (s : State) (kind unit launch data : Nat) : State :=
  let v := s.svc
  let next : Service := { v with slseq := v.slseq + 1 }
  if 4096 < (v.slptr + 1 + 2 ^ 32 - v.slrd) % 2 ^ 32 then { s with svc := next }
  else
    { s.busStore (v.slbase + 32 * (v.slptr % 4096)) 32 (logBits s kind unit launch data) with
      svc := { next with slptr := (v.slptr + 1) % 2 ^ 32 }
      hub := { s.hub with nlatch := s.hub.nlatch ||| (1#64 <<< 60) } }

/-- A physical range in pieces of one window each. Each piece is an address and a length. -/
def windowRuns : Nat → Nat → Nat → List (Nat × Nat)
  | 0, _, _ => []
  | fuel + 1, a, n =>
    if n = 0 then []
    else if (regionOf a).1 == .aperture then
      let k := min n (0x80000000 - a % 0x80000000)
      (a, k) :: windowRuns fuel (a + k) (n - k)
    else [(a, n)]

/-- A physical range as it lies in the model's memory (R395). -/
def busRuns (s : State) (fuel a n : Nat) : List (Nat × Nat) := (windowRuns fuel a n).map fun r => (busAt s r.1, r.2)

/-- Its bytes. -/
def busBytes (s : State) (a n : Nat) : List Byte := (busRuns s 4 a n).flatMap fun r => memBytes s.mem r.1 r.2

/-- The port half over which an aperture address is reached, none when that is the PCI Express port (R383, R395). -/
def linkAt (s : State) (p : Nat) : Option Nat :=
  let r := windowReg s ((p - 0x80000000000) / 0x80000000)
  if (regionOf p).1 == .aperture && field r 2 1 == 1 then some (linkOf s (tblGet s.hub.peers (field r 139 128) (0, 0)).2)
  else none

/-! ### Walks (R53, R56, R57) -/

/-- The result of a walk: a page, or a cause and the span that takes its place. -/
inductive Walk
  | page (x : TlbEnt)
  | fail (cause : EFault) (lo bytes : Nat)
  deriving DecidableEq, Repr

/-- Bits of the virtual address that index a level, and what an entry of it spans. -/
def levelIndex (va : Nat) : Nat → Nat
  | 0 => field va 55 39 | 1 => field va 38 30 | 2 => field va 29 21 | _ => field va 20 16
def levelSpan : Nat → Nat
  | 0 => 2 ^ 39 | 1 => 2 ^ 30 | 2 => 2 ^ 21 | _ => 2 ^ 16

/-- An entry that maps a page, or points onward, is malformed (R57, R59). -/
def entryBad (e level : Nat) : Bool :=
  let leaf := bitAt e 1
  (leaf && level == 0) || (!leaf && level == 3) || (leaf && field e 3 2 == 3) || field e 11 8 != 0 || field e 63 44 != 0
    || (leaf && field e 43 12 * 4096 % levelSpan level != 0)

/-- One level after another from the table at `tab`. An entry with V = 0 is judged by V alone: NOT_MAPPED before MALFORMED,
which R59 leaves open where such an entry has a nonzero reserved bit (log entry 64). A table in the aperture is read at its
target (R395); one in a hole or in a window that is not mapped reads as the model's memory there (DESIGN CHOICE, log entry 94: R56
does not say). -/
def walkFrom (s : State) (space va : Nat) : Nat → Nat → Nat → Walk
  | 0, _, _ => .fail .malformed 0 0
  | fuel + 1, level, tab =>
    let e := busRead s (tab + 8 * levelIndex va level) 8
    let span := levelSpan level
    let lo := va / span * span
    if !bitAt e 0 then .fail .notMapped lo span
    else if entryBad e level then .fail .malformed lo span
    else if bitAt e 1 then
      .page ⟨space, lo, span, field e 43 12 * 4096, field e 3 2, bitAt e 4, bitAt e 5, bitAt e 6, bitAt e 7⟩
    else walkFrom s space va fuel (level + 1) (field e 43 12 * 4096)

def walk (s : State) (space root va : Nat) : Walk :=
  if 2 ^ 56 ≤ va then .fail .noncanonical (2 ^ 56) (2 ^ 72) else walkFrom s space va 4 0 root

/-! ### Spaces (R53, R405) -/

/-- The launch number that stands for the supervisor kernel of a core. -/
def supLaunch (c : Nat) : Nat := 65536 + c

/-- The root table of an operation's space: its launch's, or SVROOT's. -/
def rootOf (s : State) (o : Op) : Nat :=
  if o.sup then field s.hub.svroot.toNat 43 0 else ((launchOf s o.launch).map (·.root)).getD 0

/-! ### Pager futures (R61, R363) -/

/-- Pager slot of a die: the lowest unused one, else the one that ended first; with its next SEQ (R70). -/
def pickPager (s : State) (die : Nat) : Option (Nat × Nat) :=
  let mine := s.hub.pslots.filter fun x => x.die == die
  match (List.range Config.nEngineSlots).find? fun n => !mine.any fun x => x.slot == n with
  | some n => some (n, 1)
  | none =>
    match sortBy (fun a b => decide (a.endedAt < b.endedAt) || (a.endedAt == b.endedAt && decide (a.slot ≤ b.slot)))
        (mine.filter fun x => x.ended.isSome) with
    | [] => none
    | x :: _ => some (x.slot, nextSeq x.seq (2 ^ 40))

/-- The pager future of a NOT_MAPPED fault: a pending one of the die that covers the address, a new one, or none. Faults of two
launches at one address share none (DESIGN CHOICE, log entry 95: R61 names no launch). -/
def State.pagerFor (s : State) (die launch va lo bytes acc : Nat) : State × Quad :=
  match s.hub.pslots.find? fun x => x.die == die && x.launch == launch && x.ended.isNone && decide (x.lo ≤ va)
      && decide (va < x.lo + x.bytes) with
  | some x => (s, handleOf 5 (256 + die) x.slot x.seq)
  | none =>
    if tblGet s.hub.prbase die 0 = 0 then (s, 0)
    else
      match pickPager s die with
      | none => (s, 0)
      | some (n, q) =>
        let rest := s.hub.pslots.filter fun x => !(x.die == die && x.slot == n)
        ({ s with hub := { s.hub with pslots := ⟨die, n, q, launch, lo, bytes, va, acc, false, none, 0⟩ :: rest } },
          handleOf 5 (256 + die) n q)

/-- The request of a pager slot (R363). -/
def pagerRequest (x : PSlot) : Nat :=
  x.va % 2 ^ 64 + x.launch % 2 ^ 16 * 2 ^ 64 + x.die * 2 ^ 80 + x.slot * 2 ^ 82 + x.acc * 2 ^ 93 + x.seq % 2 ^ 40 * 2 ^ 96

/-- The request of pager slot `ix` of die `cur` enters the die's ring, when the ring has room (R363). -/
def execPagerRequestPost (s : State) : Out :=
  .next (match s.hub.pslots.find? fun x => x.die == s.cur && x.slot == s.ix with
    | none => s
    | some x =>
      let base := tblGet s.hub.prbase s.cur 0
      let tail := tblGet s.hub.prtail s.cur 0
      if x.posted || x.ended.isSome || base = 0 || (tail + 2 ^ 32 - tblGet s.hub.prhead s.cur 0) % 2 ^ 32 = 4096 then s
      else
        let s1 := s.busStore (base + 32 * (tail % 4096)) 32 (pagerRequest x)
        let mark (y : PSlot) : PSlot := if y.die == x.die && y.slot == x.slot then { y with posted := true } else y
        { s1 with hub := { s1.hub with
            prtail := tblPut s.hub.prtail s.cur ((tail + 1) % 2 ^ 32), pslots := s.hub.pslots.map mark } })

/-! ### Pages of an operation -/

def covers (lo bytes va : Nat) : Bool := decide (lo ≤ va) && decide (va < lo + bytes)

/-- The page that holds an address, as the operation's walks found it. -/
def pageAt (o : Op) (va : Nat) : Option TlbEnt := o.pages.find? fun x => covers x.va x.bytes va
def failAt (o : Op) (va : Nat) : Option WalkFault := o.faults.find? fun x => covers x.lo x.bytes va

/-- The first address beyond the page, or the span in its place, that holds `va`; none before its walk. -/
def pageEnd (o : Op) (va : Nat) : Option Nat :=
  match pageAt o va, failAt o va with
  | some x, _ => some (x.va + x.bytes)
  | none, some x => some (x.lo + x.bytes)
  | none, none => none

/-- The first address of a range that no walk has decided yet. -/
def undecided (o : Op) : Nat → Nat → Nat → Option Nat
  | 0, _, _ => none
  | fuel + 1, va, stop =>
    if stop ≤ va then none
    else match pageEnd o va with
      | none => some va
      | some e => undecided o fuel e stop

/-- The first undecided address of several ranges (base, length). -/
def firstUndecided (o : Op) : List (Nat × Nat) → Option Nat
  | [] => none
  | (lo, n) :: r => match undecided o (n / 65536 + 3) lo (lo + n) with
    | some va => some va
    | none => firstUndecided o r

/-- The physical address of a translated one. -/
def physAt (o : Op) (va : Nat) : Nat := match pageAt o va with | some x => x.pa + (va - x.va) | none => 0

def State.modOp (s : State) (id : Nat) (f : Op → Op) : State :=
  { s with ops := s.ops.map fun o => if o.id = id then f o else o }

def opAt (s : State) (id : Nat) : Option Op := s.ops.find? fun o => o.id == id

/-- A translation enters a full cache in the place of one that is free to choose (R58, log entry 5). -/
def tlbInsert (pick : Nat) (l : List TlbEnt) (x : TlbEnt) : List TlbEnt :=
  if l.length < Config.nTlb then l ++ [x] else l.set (pick % l.length) x

/-- One translation of an operation: from the core's cache, or by a walk that the cache then holds (R58). -/
def State.translate (s : State) (o : Op) (va acc : Nat) : State :=
  let k := s.core o.core
  match k.tlb.find? fun x => x.space == o.launch && covers x.va x.bytes va with
  | some x => s.modOp o.id fun o => { o with pages := o.pages ++ [x] }
  | none =>
    match walk s o.launch (rootOf s o) va with
    | .page x =>
      let s1 := s.withCore o.core { k with tlb := tlbInsert (Config.freePick s.freeCtr) k.tlb x }
      { s1 with freeCtr := s.freeCtr + 1 }.modOp o.id fun o => { o with pages := o.pages ++ [x] }
    | .fail cause lo bytes =>
      let (s1, pgf) := if cause == .notMapped && !o.sup then s.pagerFor (dieOf o.core) o.launch va lo bytes acc
        else (s, 0)
      s1.modOp o.id fun o => { o with faults := o.faults ++ [⟨va, cause, lo, bytes, pgf⟩] }

/-! ### Looking ahead: what a walk would find now -/

/-- The page or the failed walk that an address meets now, by the core's cache or by a walk, which changes nothing. -/
def lookAt (s : State) (o : Op) (va : Nat) : Op :=
  match (s.core o.core).tlb.find? fun x => x.space == o.launch && covers x.va x.bytes va with
  | some x => { o with pages := o.pages ++ [x] }
  | none =>
    match walk s o.launch (rootOf s o) va with
    | .page x => { o with pages := o.pages ++ [x] }
    | .fail cause lo bytes => { o with faults := o.faults ++ [⟨va, cause, lo, bytes, 0⟩] }

/-- The operation with the addresses of the ranges translated as they would be now. -/
def foresee (s : State) (rs : List (Nat × Nat)) (o : Op) : Op :=
  go (rs.foldl (fun n r => n + r.2 / 65536 + 3) 0) o
where
  go : Nat → Op → Op
    | 0, o => o
    | fuel + 1, o => match firstUndecided o rs with
      | some va => go fuel (lookAt s o va)
      | none => o

/-- What a write of translated addresses reaches lies wholly in the output buffer of the thread's tiller; a page that is not
mapped is not written (R92). -/
def vaInBuf (t : Thread) (o : Op) : Nat → Nat → Nat → Bool
  | 0, _, _ => true
  | fuel + 1, va, n =>
    if n = 0 then true
    else
      let k := match pageEnd o va with | some e => min n (e - va) | none => n
      ((pageAt o va).isNone || match outBuf t with
        | some (b, l) => decide (sliceAt o.core + b ≤ physAt o va) && decide (physAt o va + k ≤ sliceAt o.core + b + l)
        | none => false) && vaInBuf t o fuel (va + k) (n - k)

/-- A range of virtual addresses, as it translates now, lies in the output buffer. -/
def rangeInBuf (s : State) (t : Thread) (o : Op) (va n : Nat) : Bool :=
  vaInBuf t (foresee s [(va, n)] o) (n / 65536 + 3) va n

/-! ### Access checks of a translated run -/

/-- What an access needs of its page: read, write, atomic. -/
inductive Need
  | read | write | atomic
  deriving DecidableEq, Repr

def permits (x : TlbEnt) : Need → Bool
  | .read => x.pr | .write => x.pw | .atomic => x.pa_ok

/-- The fault of a run that begins at `va`, judged page by page: cause, faulting address, pager future. -/
def runCause (s : State) (o : Op) (need : Need) : Nat → Nat → Nat → Option (EFault × Nat × Quad)
  | 0, _, _ => none
  | fuel + 1, va, len =>
    if len = 0 then none
    else match failAt o va, pageAt o va with
      | _, some x =>
        let n := min len (x.va + x.bytes - va)
        if !permits x need then some (.permission, va, 0)
        else match runFault s (need != .read) 1030 (x.pa + (va - x.va)) n 0 with
          | some (off, c) => some (c, va + off, 0)
          | none => runCause s o need fuel (va + n) (len - n)
      | some f, none => some (f.cause, va, f.pgf)
      | none, none => none

/-- Bytes of a range of translated addresses, page by page. -/
def readVa (s : State) (o : Op) : Nat → Nat → List Byte
  | _, 0 => []
  | va, n + 1 => memGet s.mem (busAt s (physAt o va)) :: readVa s o (va + 1) n

end Sys2Proof.Machine
end

