-- ==== Sys2Proof/Machine/Engine.lean ====
section
/-! DEFINITION. Engine operations in common: slots and handles (R68 to R70), issue (R210), acceptance (R83), completion
(R67), reports (R72), promises met or missed (R236), posted writes (R84). -/

namespace Sys2Proof.Machine

open Sys2Proof

/-! ### Slots (R70) -/

/-- The slot and SEQ of a new operation: the lowest unused slot, else the completed one that completed first. -/
def allocSlot (k : Core) (cls : Nat) : Option (Nat × Nat) :=
  let mine := k.es.filter fun x => x.cls == cls
  match (List.range Config.nEngineSlots).find? fun n => !mine.any fun x => x.slot == n with
  | some n => some (n, 1)
  | none =>
    match sortBy (fun a b => decide (a.endedAt < b.endedAt) || (a.endedAt == b.endedAt && decide (a.slot ≤ b.slot)))
        (mine.filter fun x => x.ended.isSome) with
    | [] => none
    | x :: _ => some (x.slot, nextSeq x.seq (2 ^ 40))

/-- The slot of an operation changes, in its core or with its saved team. -/
def State.modSlot (s : State) (o : Op) (f : ESlot → ESlot) : State :=
  let g (x : ESlot) : ESlot := if x.cls == o.cls && x.slot == o.slot && x.op == o.id then f x else x
  s.modCore o.core fun k => { k with
    es := k.es.map g, savedTeams := k.savedTeams.map fun y => { y with es := y.es.map g } }

/-- The operation enters its thread's issue record and its class's count (R69, R72). -/
def addRef (t : Thread) (cls id : Nat) (ended : Option Status) : Thread :=
  { t with ops := t.ops ++ [⟨cls, id, ended⟩], q := t.q.set cls (t.q.getD cls 0 + 1) }

/-- Earlier operations of a thread that have issued and not completed: one that a tiller holds has not issued (R88, R93). -/
def openRefs (s : State) (t : Thread) : List Nat :=
  (t.ops.filter fun r => r.ended.isNone && !(s.ops.any fun o => o.id == r.op && o.held)).map (·.op)

/-- What an issue asks for: class, kind, release, the TIDs it is counted in. -/
structure Ask where
  cls : Nat
  kind : OpKind
  rel : Bool
  tids : List Nat

/-- An operation as it issues: number `id`, slot `n` at SEQ `q`. -/
def freshOp (s : State) (c cyc : Nat) (t : Thread) (x : Ask) (id n q : Nat) (held : Bool) : Op :=
  { id := id, core := c, cls := x.cls, slot := n, seq := q, launch := t.id.launch, sup := t.id.sup, threads := x.tids,
    kind := x.kind, rel := x.rel, cyc := cyc, iss := id, relOps := openRefs s t, relPosts := threadPosts s c t, held := held,
    accepted := false, order := id, parts := [], pages := [], faults := [], rows := [], cause := .none, fva := 0, exc := 0,
    cancel := false, promise := none, pgf := 0, issued := s.time }

/-- A new operation of thread `t`: its slot taken, `held` in a tiller or `dead` from the start (R92, R262). The machine
after it, its number and its handle; none when the class has no free slot (R210). -/
def State.newOp (s : State) (c cyc : Nat) (t : Thread) (x : Ask) (held dead : Bool) : Option (State × Nat × Quad) :=
  match allocSlot (s.core c) x.cls with
  | none => none
  | some (n, q) =>
    let id := s.nextOp
    let slot : ESlot :=
      { cls := x.cls, slot := n, seq := q, used := true, launch := t.id.launch, op := id, accepted := false,
        ended := if dead then some .cancelled else none, endedAt := s.time, cause := .none, fva := 0, summary := 0,
        promise := none, pgf := 0, relOps := [], relPosts := [] }
    let o := freshOp s c cyc t x id n q held
    let s1 := s.modCore c fun k =>
      { k with es := slot :: k.es.filter fun y => !(y.cls == x.cls && y.slot == n) }
    some ({ s1 with ops := if dead then s1.ops else s1.ops ++ [o], nextOp := id + 1 }, id, handleOf x.cls c n q)

/-- The thread as the issuing word leaves it: the handle in Vd.d, the counter raised (R210). -/
def issued (t : Thread) (d cls id : Nat) (h : Quad) (ended : Option Status) : Thread :=
  writePair (addRef t cls id ended) d h

/-- An operation of one thread issues (R210). `outside` says of a thread that a write part lies outside its output buffer: then
a tiller holds it and a detached thread's is cancelled (R92, R262). -/
def issueOp (e : Env) (t : Thread) (d : Nat) (x : Ask) (outside : Thread → Bool) (s : State) : State :=
  let xs := heldFor outside t
  let held := !xs.isEmpty
  let dead := isDetached t && outside t
  if held && Config.nCommit < commitUsed s e.c + 1 then suspendAt e t s
  else
    match s.newOp e.c e.ck.cyc t x held dead with
    | none => s.endWordAt e t (.trap .engineFull 0 (BitVec.ofNat 64 x.cls))
    | some (s1, id, h) =>
      let s2 := s1.hold e.c xs [.op id]
      s2.endWordAt e t (.ok (issued t d x.cls id h (if dead then some .cancelled else none)))

/-! ### Acceptance (R83, R210, R214) -/

/-- The threads that an operation is counted in. -/
def opThreads (s : State) (o : Op) : List Thread :=
  (s.core o.core).threads.filter fun t => t.id.launch == o.launch && o.threads.contains t.id.tid

/-- The direct stores and atomics that acceptance waits for (R83). The barrier words that change their object are counted among
them (DESIGN CHOICE, log entry 92: R83 does not name them). -/
def isStoring : AccKind → Bool
  | .store _ | .atom .. | .barInit _ | .barArrive .. | .barArwt _ => true
  | .cntf add .. => add
  | _ => false

/-- Every store and atomic that its threads made before it has committed (R83). -/
def storesDone (s : State) (o : Op) : Bool :=
  (opThreads s o).all fun t => t.acc.all fun a => !(decide (a.cyc < o.cyc) && isStoring a.kind)

/-- Every direct access that its threads made before it has committed (R88). -/
def accessesDone (s : State) (o : Op) : Bool :=
  (opThreads s o).all fun t => t.acc.all fun a => !decide (a.cyc < o.cyc)

/-- No operation of its class and core that came earlier waits for acceptance (R210). -/
def firstInLine (s : State) (o : Op) : Bool :=
  s.ops.all fun p => !(p.core == o.core && p.cls == o.cls && !p.held && !p.accepted && decide (p.order < o.order))

def mayAccept (s : State) (o : Op) : Bool := !o.held && !o.accepted && firstInLine s o && storesDone s o

/-- FTIME replies that wait for the handle land (R235). -/
def landReplies (s : State) (h : Quad) (v : Quad) : State :=
  s.mapThreads fun _ t =>
    let (go, stay) := t.replies.partition fun r => r.h == h
    if go.isEmpty then t
    else { t with replies := stay, res := t.res ++ go.map fun r =>
      ⟨s.cycle, r.cyc, [(r.dst, v.setWidth 32), (r.dst + 1, (v >>> 32).setWidth 32)], none, 0, r.flag, none, false⟩ }

def opHandle (o : Op) : Quad := handleOf o.cls o.core o.slot o.seq

def promiseReg (p : Option Nat) : Quad := BitVec.ofNat 64 (p.getD 0)

/-- The operation is accepted, with its parts and its promise (R71, R214). -/
def State.accept (s : State) (o : Op) (f : Op → Op) (promise : Option Nat) : State :=
  let s1 := (s.modOp o.id fun p => { f p with accepted := true, order := s.nextOp, promise := promise }).modSlot o
    fun x => { x with accepted := true, promise := promise }
  (landReplies { s1 with nextOp := s.nextOp + 1 } (opHandle o) (promiseReg promise)).settleWaits

/-! ### Completion (R67) and reports (R72) -/

def markEnded (o : Op) (st : Status) (t : Thread) : Thread :=
  if t.id.launch = o.launch then
    { t with ops := t.ops.map fun r => if r.op = o.id then { r with ended := some st } else r }
  else t

/-- Steps 3 and 4's start of a completion: the slot takes its final state, the issue records see it (R67). -/
def State.complete (s : State) (o : Op) (st : Status) : State :=
  let bad := st == .fault
  let s1 := s.modSlot o fun x =>
    { x with ended := some st, endedAt := s.time, cause := if bad then o.cause else .none, fva := if bad then o.fva else 0,
             summary := o.exc, pgf := if bad then o.pgf else 0, relOps := if o.rel then o.relOps else [],
             relPosts := if o.rel then o.relPosts else [] }
  let s2 := s1.modCore o.core fun k =>
    { k with threads := k.threads.map (markEnded o st), saved := k.saved.map (markEnded o st),
             savedTeams := k.savedTeams.map fun y => { y with threads := y.threads.map (markEnded o st) } }
  (landReplies { s2 with ops := s2.ops.filter fun p => p.id != o.id } (opHandle o) (promiseReg o.promise)).settleWaits

def endStatus (o : Op) : Status := if o.cancel then .cancelled else if o.cause == .none then .done else .fault

def State.finishIfOver (s : State) (id : Nat) : State :=
  match opAt s id with
  | some o => if opOver o then s.complete o (endStatus o) else s
  | none => s

/-- Operation `ix`, of which no part remains, completes (R67). -/
def execOperationCompletion (s : State) : Out := .next (s.finishIfOver s.ix)

/-- The oldest unreported operation of a class. -/
def oldestRef (t : Thread) (cls : Nat) : Option OpRef := t.ops.find? fun r => r.cls == cls

/-- An operation of a class has failed: FLT is set, and is new in this cycle (R11, R238). -/
def setFlt (cyc cls : Nat) (t : Thread) : Thread :=
  let (was, new) := if t.fltNew.1 = cyc then t.fltNew.2 else (t.flt, [])
  { t with flt := t.flt.set cls true, fltNew := (cyc, was, (List.range 5).map fun j => new.getD j false || j == cls) }

/-- The oldest operation of a class is reported, when it has completed: the thread has observed its completion (R72, R88,
R238). -/
def reportOne (s : State) (t : Thread) (cls : Nat) : Thread :=
  match oldestRef t cls with
  | none => t
  | some r =>
    match r.ended with
    | none => t
    | some st =>
      let u := noteSeen s t r.op
      { (if st == .fault || st == .cancelled then setFlt s.cycle cls u else u) with
          ops := t.ops.erase r, q := t.q.set cls (t.q.getD cls 0 - 1) }

/-- The next report of class `ix` to thread `sub` of core `cur`. -/
def execCounterReport (s : State) : Out :=
  .next ((s.modThread s.cur s.sub fun t => reportOne s t s.ix).settleWaitsAt s.cur)

/-! ### Promises (R236) and reply limits (R235, R314) -/

/-- What the promise's TIME makes of a thread that sleeps for it. -/
def wakeAtPromise (s : State) (c : Nat) (t : Thread) (w : Wait) (h : Quad) : Thread :=
  let ck := s.clock
  let k := s.core c
  let late (p : Nat) (u : Thread) (ended : Option Status) : Thread :=
    if s.time < p || w.dl.at_ < p then t
    else match ended with
      | some st => endWait ck k u w st []
      | none =>
        if dlPassed s.time w.dl then endWait ck k t w .timeout []
        else park ck t .promiseMissed (clauseLen k t) 0 h
  match viewFut s t.id.launch h with
  | .ended x (some p) => late p (observe s t x) (some x.st)
  | .pending _ _ _ (some p) => late p t none
  | _ => t

/-- The promise that thread `sub` of core `cur` sleeps for is reached. -/
def execPromiseTimeReached (s : State) : Out :=
  .next ((s.modThread s.cur s.sub fun t =>
    match t.wait with
    | some w => match w.kind with
      | .fsleep h true => wakeAtPromise s s.cur t w h
      | _ => t
    | none => t).settle s.cur)

/-- The bound on an engine's reply is reached: FTIME writes 0 (R314). -/
def execEngineReplyLimit (s : State) : Out :=
  .next (s.modThread s.cur s.sub fun t =>
    match t.replies[s.ix]? with
    | none => t
    | some r =>
      if s.time < r.issued + Config.replyLimit then t
      else { t with replies := t.replies.eraseIdx s.ix,
                    res := t.res ++ [⟨s.cycle, r.cyc, [(r.dst, 0), (r.dst + 1, 0)], none, 0, r.flag, none, false⟩] })

/-! ### Posted writes (R84) -/

def memPutCells (m : Mem) : List Host.Cell → Mem
  | [] => m
  | (a, v) :: r => memPutCells (memPut m a v) r

def State.storeCells (s : State) (cs : List Host.Cell) : State :=
  { s with mem := memPutCells s.mem cs,
           hist := if s.launches.isEmpty then s.hist else cs.foldl (fun h x => noteByte h x.1 x.2) s.hist }

def cellsOf (a : Nat) : List Byte → List Host.Cell
  | [] => []
  | b :: r => (a, b) :: cellsOf (a + 1) r

/-- Completions that no posted write of theirs remains of leave the release sets (R88). -/
def dropSeen (s : State) : State :=
  let gone (op : Nat) : Bool := !s.posted.any fun p => p.op == op
  let s1 := s.mapThreads fun _ t => if t.seen.isEmpty then t else { t with seen := t.seen.filter fun o => !gone o }
  { s1 with barPost := s1.barPost.filter fun b => postedAny s b.ids || b.ops.any fun i => !gone i }

end Sys2Proof.Machine
end

