-- ==== Sys2Proof/Machine/Granary.lean ====
section
/-! DEFINITION. The Granary: references and descriptors (R241, R242, R256), queues and choices (R244 to R248), successors
(R249), conditions, chains and the predictor (R256 to R259), resolution, prune and commit (R93, R260), and the pass in
which everything that waits on the Granary meets its present state (R253, R254). -/

namespace Sys2Proof.Machine

open Sys2Proof

/-! ### References (R241, R256) -/

def refEntry (r : Nat) : Nat := field r 13 0
def refDie (r : Nat) : Nat := field r 15 14
def refSeq (r : Nat) : Nat := field r 31 16

def taskRef (x : Entry) : Reg := BitVec.ofNat 32 (x.ix + x.die * 2 ^ 14 + x.seq % 2 ^ 16 * 2 ^ 16)

/-- What a task reference names. -/
inductive RefView
  | none
  | stale
  | entry (x : Entry)

def lastSeq (s : State) (die ix : Nat) : Nat := tblGet s.gran.seqs (Config.nEntries * die + ix) 0

def viewRef (s : State) (r : Nat) : RefView :=
  if refSeq r = 0 then .none
  else if lastSeq s (refDie r) (refEntry r) ≠ refSeq r then .stale
  else match entryAt s (refDie r) (refEntry r) with
    | some x => .entry x
    | none => .none

inductive CondView
  | absent
  | stale
  | live (n : Nat)
  | resolved (v : Bool)
  deriving DecidableEq, Repr

/-- What a condition reference names for a launch (R256, R260). -/
def viewCond (s : State) (launch r : Nat) : CondView :=
  match s.gran.conds.find? fun c => c.num == field r 11 0 with
  | none => .absent
  | some c =>
    if field r 31 12 = 0 then .absent
    else if c.seq ≠ field r 31 12 then .stale
    else if c.launch ≠ launch then .absent
    else if c.live then .live c.num
    else match c.val with
      | some v => .resolved v
      | none => .absent

/-! ### Descriptors (R242) -/

/-- The 512 bits of a descriptor, its first word lowest. -/
def joinWords : List Quad → Nat
  | [] => 0
  | w :: r => w.toNat + 2 ^ 64 * joinWords r

def descOf (v : Nat) : Desc :=
  { kind := field v 2 0, prio := field v 5 3, queue := field v 11 6, acore := field v 20 12, amode := field v 22 21,
    dep := field v 39 24, entry := field v 54 40, arg0 := BitVec.ofNat 64 (field v 127 64),
    arg1 := BitVec.ofNat 64 (field v 191 128), succ := [field v 223 192, field v 255 224, field v 287 256, field v 319 288],
    ovf := field v 383 320, ovfn := field v 399 384, ext0 := field v 415 400, ext1 := field v 431 416,
    ext2 := field v 447 432, oboff := field v 470 448, oblen := field v 493 471 }

def malformed (v : Nat) : Bool :=
  let d := descOf v
  bitAt v 23 || field v 63 55 != 0 || field v 511 494 != 0 || decide (2 < d.kind)
    || (d.kind == 1 && d.ext0 == 0) || (d.kind != 1 && (d.ext0 != 0 || d.ext1 != 0 || d.ext2 != 0))
    || (d.kind == 2 && (d.dep != 0 || decide (Config.sliceBytes < d.oboff + d.oblen)))
    || (d.kind != 2 && (d.oboff != 0 || d.oblen != 0))

/-- The index space: an extent of 0 is read as 1 (R242, R251). -/
def extent1 (d : Desc) : Nat := if d.ext1 = 0 then 1 else d.ext1
def extent2 (d : Desc) : Nat := if d.ext2 = 0 then 1 else d.ext2
def spaceSize (d : Desc) : Nat := d.ext0 * extent1 d * extent2 d

def exhausted (x : Entry) : Bool := decide (spaceSize x.desc ≤ x.next)

/-! ### Queues and entries (R243, R244) -/

def qmaskOf (s : State) (launch : Nat) : Quad := ((launchOf s launch).map (·.qmask)).getD 0

/-- The launch holds the queue (R381). -/
def holdsQ (s : State) (launch q : Nat) : Bool := (qmaskOf s launch).getLsbD q

def partMask (s : State) (launch : Nat) : Nat :=
  match launchOf s launch with
  | some l => s.hub.cfg.parts.getD l.part 0
  | none => 0

def queueCount (s : State) (die q : Nat) : Nat := (s.gran.entries.filter fun x => x.die == die && x.desc.queue == q).length

def qlimOf (s : State) (die q : Nat) : Nat := tblGet s.hub.plinth.qlim (64 * die + q) 16384

/-- The least number from `n` on that the list lacks. -/
def firstFree (used : List Nat) : Nat → Nat → Nat
  | 0, n => n
  | fuel + 1, n => if used.contains n then firstFree used fuel (n + 1) else n

/-- The lowest free entry of a die. -/
def freeEntryIx (s : State) (die : Nat) : Option Nat :=
  let used := (s.gran.entries.filter fun x => x.die == die).map (·.ix)
  let n := firstFree used used.length 0
  if n < Config.nEntries && die < 4 then some n else none

/-- The die of a new task (R244). -/
def taskDie (d : Desc) (own : Nat) : Nat := if d.amode = 0 then own else dieOf d.acore

/-- A new entry as TASK.PUT and SPAWN make it. -/
def newEntry (s : State) (die ix launch : Nat) (d : Desc) (st : EState) : Entry :=
  { die := die, ix := ix, seq := nextSeq (lastSeq s die ix) (2 ^ 16), st := st, launch := launch, desc := d, dep := d.dep,
    readyAt := s.time, born := s.time, tiller := false, holders := [], next := 0, gleaned := false, chain := [], parent := none,
    prov := [], provCore := 0, pruned := false, committing := false, maq := none }

def State.addEntry (s : State) (x : Entry) : State :=
  { s with gran := { s.gran with entries := s.gran.entries ++ [x],
                                 seqs := tblPut s.gran.seqs (Config.nEntries * x.die + x.ix) x.seq } }

/-- The target die has a free entry and its queue holds fewer than QLIM. -/
def canPut (s : State) (d : Desc) (own : Nat) : Option (Nat × Nat) :=
  let die := taskDie d own
  match freeEntryIx s die with
  | some ix => if queueCount s die d.queue < qlimOf s die d.queue then some (die, ix) else none
  | none => none

/-- The state in which a task stands when nothing holds it back. -/
def openState (dep : Nat) : EState := if dep = 0 then .queued else .pending

def sameEntry (x : Entry) (die ix : Nat) : Bool := x.die == die && x.ix == ix

/-- The instance of a Maquette ends with the last of its entries (R340). -/
def dropCopy (s : State) (x : Entry) : State :=
  match x.maq with
  | none => s
  | some (m, cp) =>
    if s.gran.entries.any fun y => y.maq == some (m, cp) then s
    else
      let slot := tblGet s.hub.maqs m MaqSlot.reset
      let less (o : Maq) : Maq := { o with live := o.live.filter fun y => y.1 != cp }
      let slot1 : MaqSlot := { slot with obj := slot.obj.map less }
      { s with hub := { s.hub with maqs := tblPut s.hub.maqs m slot1 } }

/-- The entry becomes free (R243). -/
def State.freeEntry (s : State) (die ix : Nat) : State :=
  match entryAt s die ix with
  | none => s
  | some x =>
    dropCopy { s with gran := { s.gran with entries := s.gran.entries.filter fun y => !(sameEntry y die ix) } } x

/-! ### Successors (R249) -/

/-- One decrement: skipped when the reference is stale or names no pending entry. -/
def State.decSucc (s : State) (r : Nat) : State :=
  match viewRef s r with
  | .entry x =>
    if x.st ≠ .pending then s
    else s.modEntry x.die x.ix fun y =>
      { y with dep := y.dep - 1, st := openState (y.dep - 1), readyAt := if y.dep - 1 = 0 then s.time else y.readyAt }
  | _ => s

/-- A byte that the Granary reads through a launch's translation. -/
def granByte (s : State) (launch va : Nat) : EFault ⊕ Nat :=
  match walk s launch (((launchOf s launch).map (·.root)).getD 0) va with
  | .fail c _ _ => .inl c
  | .page x =>
    let p := x.pa + (va - x.va)
    if !x.pr then .inl .permission
    else match runFault s false 2 p 1 0 with
      | some (_, c) => .inl c
      | none => .inr (memGet s.mem (busAt s p)).toNat

/-- The `n` bytes at an address, or the first cause. -/
def granBytes (s : State) (launch va : Nat) : Nat → EFault ⊕ Nat
  | 0 => .inr 0
  | n + 1 =>
    match granByte s launch va with
    | .inl c => .inl c
    | .inr b => match granBytes s launch (va + 1) n with
      | .inl c => .inl c
      | .inr v => .inr (b + 256 * v)

/-- The overflow list from reference `j` on: decrements until one cannot be read. -/
def decList (launch ovf : Nat) : Nat → Nat → State → State × Option EFault
  | 0, _, s => (s, none)
  | n + 1, j, s =>
    match granBytes s launch (ovf + 4 * j) 4 with
    | .inl c => (s, some c)
    | .inr r => decList launch ovf n (j + 1) (s.decSucc r)

/-- The overflow list of a Maquette's task: its instance's rewritten copy (R340). -/
def maqList (s : State) (x : Entry) : Option (List Nat) :=
  match x.maq with
  | none => none
  | some (m, cp) =>
    match (tblGet s.hub.maqs m MaqSlot.reset).obj with
    | none => some []
    | some o => some (((((o.live.find? fun y => y.1 == cp).map (·.2)).getD []).drop ((x.desc.ovf - o.ovfOff) / 4)).take x.desc.ovfn)

/-- Every successor of a completed task is decremented, then the entry is freed; the cause when the overflow list could not
be read (R249). -/
def State.completeTask (s : State) (x : Entry) : State × Option EFault :=
  let s0 := x.desc.succ.foldl State.decSucc s
  let (s1, c) := match maqList s x with
    | some l => (l.foldl State.decSucc s0, none)
    | none => decList x.launch x.desc.ovf x.desc.ovfn 0 s0
  (s1.freeEntry x.die x.ix, c)

/-! ### Likelihood and the predictor (R258, R259) -/

/-- The likelihood of a chain. -/
def chainLike (chain : List Link) : Nat := chain.foldl (fun l x => l * x.p / 256) 65535

def predOf (s : State) (site : Nat) : Nat := tblGet s.gran.pred site 128

/-- One update of a site towards an outcome. -/
def predStep (k q : Nat) (hit : Bool) : Nat := ((q : Int) + (((if hit then 256 else 0 : Int) - q) / (2 ^ k : Nat))).toNat

/-- Every tiller spawned on the condition with LEARN updates its site, in spawn order (R259). -/
def learnAll (s : State) (v : Bool) (l : List (Nat × Bool)) : State :=
  l.foldl (fun s x =>
    { s with gran := { s.gran with pred := tblPut s.gran.pred x.1 (predStep s.hub.plinth.predK (predOf s x.1) (v == x.2)) } }) s

/-! ### Choices (R246, R247) -/

def awinOver (s : State) (x : Entry) : Bool := decide (x.readyAt + s.hub.plinth.awin ≤ s.time)

/-- Admits: whether a taker on core `c` may take the task. -/
def admits (s : State) (x : Entry) (c : Nat) : Bool :=
  match x.desc.amode with
  | 0 => true
  | 1 => c == x.desc.acore || awinOver s x
  | 2 => dieOf c == x.die
  | _ => c == x.desc.acore

/-- A queued task of the taker's launch in its mask that admits it. -/
def eligible (s : State) (c launch : Nat) (mask : Quad) (x : Entry) : Bool :=
  x.st == .queued && x.launch == launch && mask.getLsbD x.desc.queue && admits s x c && !(x.desc.kind == 1 && exhausted x)

def taskBefore (x y : Entry) : Bool :=
  decide (y.desc.prio < x.desc.prio)
    || (x.desc.prio == y.desc.prio && (decide (x.readyAt < y.readyAt) || (x.readyAt == y.readyAt && decide (x.ix ≤ y.ix))))

def dieGap (a b : Nat) : Nat := (a - b) + (b - a)

def queuedOn (s : State) (die q : Nat) : Nat :=
  (s.gran.entries.filter fun x => x.die == die && x.desc.queue == q && x.st == .queued).length

/-- A taker on another die may glean the task. -/
def gleanable (s : State) (die : Nat) (x : Entry) : Bool :=
  x.die != die && decide (x.desc.amode ≤ 1) && decide (dieGap x.die die ≤ s.hub.plinth.gdist)
    && decide (s.hub.plinth.ghi < queuedOn s x.die x.desc.queue)

def gleanBefore (die : Nat) (x y : Entry) : Bool :=
  let a := dieGap x.die die
  let b := dieGap y.die die
  if a ≠ b then decide (a < b) else if x.die ≠ y.die then decide (x.die < y.die) else taskBefore x y

def tillerBefore (x y : Entry) : Bool :=
  let a := chainLike x.chain
  let b := chainLike y.chain
  if a ≠ b then decide (b < a)
  else if x.born ≠ y.born then decide (x.born < y.born)
  else if x.die ≠ y.die then decide (x.die < y.die) else decide (x.ix ≤ y.ix)

/-- Choose (R246): the task, and whether it is gleaned. -/
def chooseTask (s : State) (c launch : Nat) (mask : Quad) : Option (Entry × Bool) :=
  let all := s.gran.entries.filter (eligible s c launch mask)
  let own := all.filter fun x => !x.tiller && x.die == dieOf c
  let far := all.filter fun x => !x.tiller && gleanable s (dieOf c) x
  let till := all.filter fun x => x.tiller && decide (s.hub.plinth.lmin ≤ chainLike x.chain)
  match (sortBy taskBefore own).head?, (sortBy (gleanBefore (dieOf c)) far).head?, (sortBy tillerBefore till).head? with
  | some x, _, _ => some (x, false)
  | none, some x, _ => some (x, true)
  | none, none, some x => some (x, false)
  | none, none, none => none

/-! ### Takes (R248, R261) -/

/-- V(d+1) to V(d+7) of a take. -/
def takeRegs (d : Nat) (x : Entry) (gleaned : Bool) : List (Nat × Reg) :=
  let lo (q : Quad) : Reg := q.setWidth 32
  let hi (q : Quad) : Reg := (q >>> 32).setWidth 32
  [(d + 1, taskRef x), (d + 2, lo x.desc.arg0), (d + 3, hi x.desc.arg0), (d + 4, lo x.desc.arg1), (d + 5, hi x.desc.arg1),
   (d + 6, BitVec.ofNat 32 x.desc.entry),
   (d + 7, BitVec.ofNat 32 (x.desc.kind + x.desc.prio * 8 + x.desc.queue * 64 + (if x.tiller then 2 ^ 12 else 0)
      + (if gleaned then 2 ^ 13 else 0) + (if x.tiller then chainLike x.chain else 65535) * 2 ^ 16))]

/-- The entry as the taker leaves it (R246). -/
def takenEntry (who : Holder) (gleaned : Bool) (x : Entry) : Entry :=
  { x with st := if x.desc.kind == 1 then x.st else .running, gleaned := gleaned, provCore := who.core,
           holders := if x.holders.contains who then x.holders else x.holders ++ [who] }

def setSpecs (l : List Spec) (t : Thread) : Thread := { t with spec := l.headD .plain, outer := l.tail }

/-- The thread is detached from the tiller of reference (die, entry, SEQ). -/
def isOff (die ix seq : Nat) : Spec → Bool
  | .detached d x q _ _ _ => d == die && x == ix && q == seq
  | _ => false

/-- The thread runs the tiller that it has taken, afresh where it was detached from it (R261). -/
def runTiller (x : Entry) (t : Thread) : Thread :=
  if x.tiller then
    setSpecs (.running x.die x.ix x.seq x.desc.oboff x.desc.oblen :: (specs t).filter fun y => !isOff x.die x.ix x.seq y) t
  else t

/-- A task boundary of a queue stops the thread (R404). -/
def boundary (k : Core) (q n : Nat) (t : Thread) : Thread :=
  if !t.id.sup && (k.dbgNow.tstopq.getLsbD q || t.dbg.tb) then endWith n t else t

/-- A waiting taker receives its task. -/
def State.giveTask (s : State) (c : Nat) (t : Thread) (reg : Nat) (x : Entry) (gleaned : Bool) : State :=
  ((s.modEntry x.die x.ix (takenEntry (holderOf c t) gleaned)).modThread c t.id.slot fun u =>
    boundary (s.core c) x.desc.queue 2 (runTiller x u)).endWaitAt c t.id.slot
    .done (takeRegs reg x gleaned)

/-! ### Threads that suspended or ran a tiller (R261, R262) -/

def isRun (die ix : Nat) : Spec → Bool
  | .running d x _ _ _ => d == die && x == ix
  | _ => false

def runsEntry (die ix : Nat) (t : Thread) : Bool := (specs t).any (isRun die ix)

/-- A suspended thread becomes ready at the resume point of its word (R261). -/
def unsuspend (s : State) (t : Thread) : Thread :=
  match t.wait with
  | some w => match w.kind with
    | .suspended => { standResume s.time { t with wait := none } t.pos.widx with dbg := { t.dbg with fresh := true } }
    | _ => t
  | none => t

/-- The thread that runs the tiller is detached from it, and from then on its words act as R262 says (R260, R261). -/
def detach (s : State) (die ix : Nat) (pruned : Bool) (t : Thread) : Thread :=
  let off : Spec → Option Spec
    | .running d x q o l => if d = die ∧ x = ix then some (.detached d x q o l pruned) else none
    | _ => none
  if runsEntry die ix t then unsuspend s (setSpecs ((specs t).filterMap off ++ (specs t).filter fun y => !isRun die ix y) t) else t

/-- The thread no longer runs the tiller. -/
def leaveTiller (die ix : Nat) (t : Thread) : Thread := setSpecs ((specs t).filter fun y => !isRun die ix y) t

/-- The thread that runs the tiller goes on as non-speculative (R260). -/
def freeRunner (s : State) (die ix : Nat) (t : Thread) : Thread :=
  if runsEntry die ix t then unsuspend s (leaveTiller die ix t) else t

/-- Threads of a core, resident or saved, change. -/
def State.modAll (s : State) (c : Nat) (f : Thread → Thread) : State :=
  s.modCore c fun k => { k with threads := k.threads.map f, saved := k.saved.map f,
                                savedTeams := k.savedTeams.map fun y => { y with threads := y.threads.map f } }

/-! ### Prune (R93, R260) -/

/-- Held items are discarded: the futures of held operations read CANCELLED, and the entries of held TASK.PUTs are freed. -/
def State.dropHeld (s : State) (items : List Held) : State :=
  items.foldl (fun s h => match h with
    | .op id => match opAt s id with
      | some o => if o.held then s.complete o .cancelled else s
      | none => s
    | .act (.put d n) _ => if ((entryAt s d n).map (·.st)) == some .held then s.freeEntry d n else s
    | _ => s) s

def markBuf (s : State) (x : Entry) : State :=
  if x.desc.oblen = 0 || x.holders.isEmpty then s
  else { s with gran := { s.gran with prunedBufs := s.gran.prunedBufs ++ [(x.provCore, x.desc.oboff, x.desc.oblen)] } }

def entryKey (x : Entry) : Nat × Nat × Nat := (x.die, x.ix, x.seq)

/-- Conditions that the tiller's holder made while running it are freed without a value: their numbers. -/
def ownedConds (s : State) (x : Entry) : List Nat :=
  (s.gran.conds.filter fun c => c.live && c.owners.contains (entryKey x)).map (·.num)

def freeConds (s : State) (ns : List Nat) : State :=
  let free (c : Cond) : Cond := if c.live && ns.contains c.num then { c with live := false, val := none, owners := [], learners := [] } else c
  { s with gran := { s.gran with conds := s.gran.conds.map free } }

/-- Items leave the provisional stores of a thread's tillers: those of a tiller, and of the others that its thread ran. -/
def State.takeItems (s : State) (x : Entry) (items : List Held) : State :=
  let f (z : Entry) : Entry := if z.holders == x.holders then { z with prov := z.prov.filter fun h => !items.contains h } else z
  { s with gran := { s.gran with entries := s.gran.entries.map f } }

/-- What a tiller holds goes, also from the tillers that hold it with it (R261). -/
def State.dropStore (s : State) (x : Entry) : State := (s.dropHeld x.prov).takeItems x x.prov

/-- The tiller itself goes, with all that it holds. Its chain stays for LIKE.task until its entry is freed (R264). -/
def State.pruneOne (s : State) (x : Entry) : State :=
  let s1 := (markBuf (s.dropStore x) x).modEntry x.die x.ix fun y =>
    { y with pruned := true, committing := false }
  match x.st with
  | .running => s1.modAll x.provCore (detach s1 x.die x.ix true)
  | _ => s1.freeEntry x.die x.ix

def chainHas (x : Entry) (n : Nat) : Bool := x.chain.any fun l => l.cond == n

/-- Prune: the tiller, then every tiller on the conditions it owned (R260). -/
def State.prune : Nat → List (Nat × Nat) → State → State
  | 0, _, s => s
  | _ + 1, [], s => s
  | fuel + 1, (die, ix) :: rest, s =>
    match entryAt s die ix with
    | none => State.prune fuel rest s
    | some x =>
      if x.pruned || !x.tiller then State.prune fuel rest s
      else
        let owned := ownedConds s x
        let more := (s.gran.entries.filter fun y => y.tiller && !y.pruned && owned.any (chainHas y)).map fun y => (y.die, y.ix)
        State.prune fuel (rest ++ more) (freeConds (s.pruneOne x) owned)

def State.pruneAll (s : State) (l : List (Nat × Nat)) : State :=
  s.prune ((s.gran.entries.length + 1) * (s.gran.entries.length + l.length + 1)) l

/-! ### Commit (R93, R260, R263) -/

/-- The release conditions of R88 hold for a store with its release: the posted writes that it waits for have been performed. -/
def releaseHolds (s : State) (a : Access) : Bool := !postedAny s a.posts

/-- A store's bytes reach the slice, and a wait on a barrier that they make inert ends (R74, R81). -/
def State.storeAcc (s : State) (a : Access) : State :=
  match a.kind with
  | .store v =>
    if 8 < a.size then (s.clearRange a.phys (a.phys + a.size)).inertWaits a.phys
    else (s.storeN a.phys a.size v.toNat).inertWaits a.phys
  | _ => s

/-- Work that a commit or a resolution sets off, in order. -/
inductive GWork
  | resolve (cond : Nat) (v : Bool)
  | commit (die ix : Nat)
  | act (launch : Nat) (a : GAct)
  /-- a finished tiller's task completes, behind what it held -/
  | complete (die ix : Nat)
  deriving DecidableEq, Repr

/-- TASK.DEP at the Granary: the machine after it and the status (R250). -/
def State.depTask (s : State) (r : Nat) (delta : Int) : State × Status :=
  match viewRef s r with
  | .none => (s, .absent)
  | .stale => (s, .stale)
  | .entry x =>
    if x.st ≠ .pending then (s, .absent)
    else
      let n : Int := (x.dep : Int) + delta
      if n < 0 || 65535 < n then (s, .fault)
      else (s.modEntry x.die x.ix fun y =>
        { y with dep := n.toNat, st := openState n.toNat, readyAt := if n = 0 then s.time else y.readyAt }, .done)

def State.seedSite (s : State) (site v : Nat) : State :=
  { s with gran := { s.gran with pred := tblPut s.gran.pred site (v % 256) } }

/-- The thread that ran the tiller, wherever its team stands. -/
def runnerOf (s : State) (x : Entry) : Option Thread :=
  let k := s.core x.provCore
  (k.threads ++ k.saved).find? fun t => x.holders.contains (holderOf x.provCore t)

/-- The release conditions of an item that a tiller holds: its thread's accesses below `id` have committed, and the posted
writes whose operations' completion it has observed have been performed (R88). -/
def itemClear (s : State) (x : Entry) (id : Nat) : Bool :=
  match runnerOf s x with
  | some t => !(t.acc.any fun b => decide (b.id < id)) && (seenPosts s t).isEmpty
  | none => true

/-- Another tiller that the thread ran and that has not committed holds the item too: it waits for that one's commit (R261). -/
def heldElsewhere (s : State) (x : Entry) (h : Held) : Bool :=
  s.gran.entries.any fun z => z.tiller && !z.pruned && z.holders == x.holders && !sameEntry z x.die x.ix
    && z.prov.contains h

/-- What the commit of a tiller releases. -/
def releasedItems (s : State) (x : Entry) : List Held := x.prov.filter fun h => !heldElsewhere s x h

/-- The held stores with a release and the held release forms of R253 wait for their thread (R88, R93, R253). -/
def releasesHold (s : State) (x : Entry) (items : List Held) : Bool :=
  items.all fun h => match h with
    | .store a => !a.rel || itemClear s x a.id
    | .act (.seed ..) _ => true
    | .act _ id => itemClear s x id
    | .op _ => true

/-- The tiller whose thread spawned this one does not wait for its own commit step: ancestors come first (R93). -/
def ancestorsDone (s : State) (x : Entry) : Bool :=
  match x.parent with
  | none => true
  | some p => s.gran.entries.all fun y => !(entryKey y == p && y.committing)

/-- The core that ran the tiller has its team resident (R362). -/
def residentOf (s : State) (x : Entry) : Bool :=
  x.holders.isEmpty || (s.core x.provCore).savedTeams.all fun y => y.team.launch != x.launch

/-- The thread that issued an operation, wherever its core keeps it. -/
def issuerOf (s : State) (o : Op) : Option Thread :=
  let k := s.core o.core
  (k.threads ++ k.saved).find? fun t => t.id.launch == o.launch && o.threads.contains t.id.tid

/-- An MMAP that issues now finds its partner path as it stands (R226). -/
def reachNow (s : State) (o : Op) : OpKind :=
  match o.kind with
  | .mma x => .mma { x with reach := x.paired && o.core % 2 == 0 && partnerOpen s o.core }
  | k => k

/-- A held operation enters its queue as though it were issued now (R93). -/
def issuedNow (s : State) (o : Op) : Op :=
  let t := issuerOf s o
  { o with held := false, kind := reachNow s o, cyc := s.cycle + 1, order := s.nextOp, iss := s.nextOp, relOps := (t.map (openRefs s)).getD [],
           relPosts := (t.map (threadPosts s o.core)).getD [] }

/-- Held stores commit and held operations enter their queues, in program order (R93). -/
def State.releaseItem (s : State) (h : Held) : State :=
  match h with
  | .store a => s.storeAcc a
  | .op id => { s.modOp id (issuedNow s) with nextOp := s.nextOp + 1 }
  | .act .. => s

def heldActs (launch : Nat) (l : List Held) : List GWork :=
  l.filterMap fun h => match h with | .act a _ => some (.act launch a) | _ => none

/-- The entry of a held TASK.PUT becomes pending or queued (R263). -/
def State.openHeld (s : State) (die ix : Nat) : State :=
  s.modEntry die ix fun y => if y.st == .held then { y with st := openState y.dep, readyAt := s.time } else y

/-- The entry and the thread of a tiller whose commit step has been taken (R260): what it held acts in program order, and then a
finished task completes (R263). -/
def State.committed (s : State) (x : Entry) (acts : List GWork) : State × List GWork :=
  let done (f : Entry → Entry) : State := s.modEntry x.die x.ix fun y => f { y with prov := [], tiller := false, committing := false }
  match x.st with
  | .finished => (done id, acts ++ [.complete x.die x.ix])
  | .running => ((done id).modAll x.provCore (freeRunner s x.die x.ix), acts)
  | _ => (done fun y => { y with readyAt := s.time }, acts)

/-- The commit of one tiller: done now, or left pending until its releases hold; and the work it sets off. -/
def State.commitOne (s : State) (x : Entry) : State × List GWork :=
  let items := releasedItems s x
  if !(releasesHold s x items && ancestorsDone s x && residentOf s x) then
    (s.modEntry x.die x.ix fun y => { y with committing := true }, [])
  else ((items.foldl State.releaseItem s).takeItems x items).committed x (heldActs x.launch items)

/-! ### Resolution (R260) -/

/-- One resolution: prunes, then the chains, the predictor, the condition; the tillers to commit, in spawn order, which
`inTurn` then orders. -/
def State.resolveOne (s : State) (n : Nat) (v : Bool) : State × List GWork :=
  let touched := s.gran.entries.filter fun x => x.tiller && !x.pruned && chainHas x n
  let learn := ((s.gran.conds.find? fun c => c.num == n && c.live).map (·.learners)).getD []
  let against := touched.filter fun x => x.chain.any fun l => l.cond == n && l.side != v
  let s1 := s.pruneAll (against.map fun x => (x.die, x.ix))
  let drop (x : Entry) : Entry :=
    { x with chain := if x.tiller then x.chain.filter fun l => l.cond != n else x.chain }
  let s2 := { s1 with gran := { s1.gran with entries := s1.gran.entries.map drop } }
  let s3 := learnAll s2 v learn
  let close (c : Cond) : Cond := if c.num = n && c.live then { c with live := false, val := some v, owners := [], learners := [] } else c
  let s4 := { s3 with gran := { s3.gran with conds := s3.gran.conds.map close } }
  let ready := (s4.gran.entries.filter fun x => x.tiller && !x.pruned && x.chain.isEmpty && touched.any fun y => sameEntry y x.die x.ix)
  (s4, ready.map fun x => .commit x.die x.ix)

/-- The tiller of key `key` is an ancestor of `x` (R257). -/
def descends (s : State) (key : Nat × Nat × Nat) : Nat → Entry → Bool
  | 0, _ => false
  | fuel + 1, x => match x.parent with
    | none => false
    | some p => p == key || match s.gran.entries.find? fun y => entryKey y == p with
      | some y => descends s key fuel y
      | none => false

/-- The cycle in which the first of a tiller's held items was issued. -/
def firstHeld (s : State) (x : Entry) : Option Nat :=
  match x.prov.head? with
  | some (.store a) => some a.cyc
  | some (.act _ id) => some (id / 16)
  | some (.op id) => (opAt s id).map (·.cyc)
  | none => none

/-- Of two tillers that commit in one resolution `y` comes before `x`: its ancestor; or of those that one thread ran, the one that
held the earlier item, so that what they hold is released in program order (R93). -/
def commitsBefore (s : State) (y x : Entry) : Bool :=
  let n := s.gran.entries.length
  descends s (entryKey y) n x
    || (y.holders == x.holders && !descends s (entryKey x) n y && match firstHeld s y, firstHeld s x with
      | some a, some b => decide (a < b)
      | _, _ => false)

/-- The tillers of a list in the order of their commits, and else in the order of the list. -/
def commitTurns (s : State) : Nat → List Entry → List Entry
  | 0, _ => []
  | fuel + 1, l => match (l.find? fun x => !l.any fun y => commitsBefore s y x).or l.head? with
    | some x => x :: commitTurns s fuel (l.filter fun y => entryKey y != entryKey x)
    | none => []

/-- The commits that a resolution sets off, in their order. -/
def inTurn (s : State) (l : List GWork) : List GWork :=
  let xs := l.filterMap fun w => match w with | .commit die ix => entryAt s die ix | _ => none
  (commitTurns s xs.length xs).map fun x => .commit x.die x.ix

/-- Resolutions, commits and held actions one after another. -/
def granRun : Nat → List GWork → State → State
  | 0, _, s => s
  | _ + 1, [], s => s
  | fuel + 1, w :: ws, s =>
    match w with
    | .resolve n v => let (s1, more) := s.resolveOne n v; granRun fuel (inTurn s1 more ++ ws) s1
    | .commit die ix =>
      (match entryAt s die ix with
      | some x => let (s1, more) := s.commitOne x; granRun fuel (more ++ ws) s1
      | none => granRun fuel ws s)
    | .act launch a =>
      match a with
      | .dep r delta _ => granRun fuel ws (s.depTask r delta).1
      | .seed site v => granRun fuel ws (s.seedSite site v)
      | .condSet r v _ =>
        (match viewCond s launch r with
        | .live n => granRun fuel (.resolve n v :: ws) s
        | _ => granRun fuel ws s)
      | .put d e => granRun fuel ws (s.openHeld d e)
      | .done .. => granRun fuel ws s
    | .complete die ix =>
      (match entryAt s die ix with
      | some x => granRun fuel ws (s.completeTask x).1
      | none => granRun fuel ws s)

/-- Enough steps for any chain of resolutions and commits. -/
def granFuel (s : State) : Nat :=
  8 + 4 * (s.gran.entries.length + s.gran.conds.length + s.gran.entries.foldl (fun n x => n + x.prov.length) 0)

def State.granWork (s : State) (l : List GWork) : State := granRun (granFuel s) l s

/-! ### TASK.DONE (R249, R260 to R263) -/

/-- TASK.DONE of thread `t` at the Granary: the machine after it, the status, and the cause of a list that could not be
read. -/
def State.doneTask (s : State) (c : Nat) (t : Thread) (r : Nat) : State × Status × Option EFault :=
  let me := holderOf c t
  let leave (f : Spec → Bool) (s : State) : State := s.modThread c t.id.slot fun u => setSpecs ((specs u).filter fun y => !f y) u
  let mark (x : Entry) (s : State) : State := s.modThread c t.id.slot (boundary (s.core c) x.desc.queue 3)
  let from_ (y : Spec) : Option Bool := match y with
    | .detached _ _ _ _ _ pr => if isOff (refDie r) (refEntry r) (refSeq r) y then some pr else none
    | _ => none
  let off := (specs t).findSome? from_
  match off, viewRef s r with
  | some pr, v =>
    let s1 := match v with | .entry x => if pr && x.pruned then s.freeEntry x.die x.ix else s | _ => s
    (leave (fun y => (from_ y).isSome) s1, .withdrawn, none)
  | none, .entry x =>
    if !x.holders.contains me || x.st == .finished then (s, .absent, none)
    else if x.pruned then (s.freeEntry x.die x.ix, .withdrawn, none)
    else if x.tiller then
      let s1 := s.modEntry x.die x.ix fun y => { y with st := .finished }
      (mark x (leave (isRun x.die x.ix) s1), .done, none)
    else if x.desc.kind = 1 then
      let y := { x with holders := x.holders.erase me }
      if exhausted y && y.holders.isEmpty then
        let (s1, cause) := s.completeTask x
        (if cause.isSome then s1 else mark x s1, if cause.isSome then .fault else .done, cause)
      else (mark x (s.modEntry x.die x.ix fun _ => y), .done, none)
    else
      let (s1, cause) := s.completeTask x
      (if cause.isSome then s1 else mark x s1, if cause.isSome then .fault else .done, cause)
  | none, _ => (s, .absent, none)

/-! ### Conditions (R256) -/

/-- The lowest free condition and its next SEQ. -/
def freeCond (s : State) : Option (Nat × Nat) :=
  let used := (s.gran.conds.filter (·.live)).map (·.num)
  let n := firstFree used used.length 0
  if n < Config.nConds then
    some (n, nextSeq (((s.gran.conds.find? fun c => c.num == n).map (·.seq)).getD 0) (2 ^ 20))
  else none

def State.addCond (s : State) (x : Cond) : State :=
  { s with gran := { s.gran with conds := x :: s.gran.conds.filter fun c => c.num != x.num } }

/-! ### Words that wait on the Granary (R245, R253, R256, R257) -/

/-- The release conditions of R253: the accesses before the word have committed, and the posted writes whose operations'
completion the thread had observed have been performed. -/
def relOk (s : State) (t : Thread) (after posts : List Nat) : Bool :=
  !(t.acc.any fun a => after.contains a.id) && !postedAny s posts

def isDescRead (a : Access) : Bool := match a.kind with | .desc _ => true | _ => false

/-- Word `j` of a descriptor has been read. -/
def takeDescWord (j : Nat) (v : Quad) (t : Thread) : Thread :=
  match t.wait with
  | some w => match w.kind with
    | .desc x ws after posts => { t with wait := some { w with kind := .desc x (ws.set j v) after posts } }
    | _ => t
  | none => t

def regOf (n : Nat) : Reg := BitVec.ofNat 32 n

/-- The wait of the thread becomes another one, its deadline and its start unchanged. -/
def State.waitKind (s : State) (c sl : Nat) (kind : WaitKind) : State :=
  s.modThread c sl fun t => match t.wait with
    | some w => { t with wait := some { w with kind := kind } }
    | none => t

/-- A thread that has been detached while it waited gets no entry and no condition (R262). -/
def State.refuseDetached (s : State) (c : Nat) (t : Thread) (f : Option State) : Option State :=
  if isDetached t then some (s.endWaitAt c t.id.slot .withdrawn []) else f

/-- TASK.PUT meets the queues (R245); in a tiller's thread its entry is held, as an item of the tiller's (R263): none when it
goes on waiting. -/
def State.tryPut (s : State) (c : Nat) (t : Thread) (reg : Nat) (d : Desc) : Option State :=
  s.refuseDetached c t (match canPut s d (dieOf c) with
    | none => none
    | some (die, ix) =>
      let x := newEntry s die ix t.id.launch d (if runsTiller t then .held else openState d.dep)
      some (((s.addEntry x).hold c (heldFor anyWord t) [.act (.put die ix) (16 * s.cycle)]).endWaitAt c t.id.slot .done [(reg + 1, taskRef x)]))

/-- The chain of a SPAWN without the entry of a condition already resolved for its side (R257). -/
def parentChain (s : State) (t : Thread) : List Link :=
  match tillerOf t with
  | none => []
  | some (d, x) => ((entryAt s d x).map (·.chain)).getD []

/-- A tiller spawned on a condition with LEARN will update its site (R259). -/
def State.learnFrom (s : State) (on : Option Nat) (site : Nat) (side : Bool) : State :=
  let f (c : Cond) : Cond := if c.live && on == some c.num then { c with learners := c.learners ++ [(site, side)] } else c
  { s with gran := { s.gran with conds := s.gran.conds.map f } }

/-- SPAWN meets its condition and the queues (R257): none when it goes on waiting. -/
def State.trySpawn (s : State) (c : Nat) (t : Thread) (reg : Nat) (d : Desc) (x : SpawnArg) : Option State :=
  let p := if x.psrc then predOf s x.site else x.p
  let put (chain : List Link) (on : Option Nat) : Option State :=
    match canPut s d (dieOf c) with
    | none => none
    | some (die, ix) =>
      let y := { newEntry s die ix t.id.launch d .queued with tiller := !chain.isEmpty, chain := chain, parent := runOf t }
      some (((s.addEntry y).learnFrom (if x.learn then on else none) x.site x.side).endWaitAt c t.id.slot .done
        [(reg + 1, taskRef y)])
  s.refuseDetached c t <| match viewCond s t.id.launch x.cref with
  | .stale => some (s.endWaitAt c t.id.slot .stale [])
  | .absent => some (s.endWaitAt c t.id.slot .absent [])
  | .resolved v => if v == x.side then put (parentChain s t) none else some (s.endWaitAt c t.id.slot .absent [])
  | .live n => put (parentChain s t ++ [⟨n, x.side, p⟩]) (some n)

/-- COND.NEW takes the lowest free condition (R256). -/
def State.tryCond (s : State) (c : Nat) (t : Thread) (reg : Nat) : Option State :=
  s.refuseDetached c t <| match freeCond s with
  | none => none
  | some (n, q) =>
    some ((s.addCond ⟨n, q, t.id.launch, true, none, (specs t).filterMap runKey, []⟩).endWaitAt c t.id.slot .done
      [(reg + 1, regOf (n + q * 2 ^ 12))])

/-- The chain that a SPAWN asks for holds more than 8 entries. -/
def chainTooLong (s : State) (t : Thread) (x : SpawnArg) : Bool :=
  let more := match viewCond s t.id.launch x.cref with | .resolved v => if v == x.side then 0 else 1 | _ => 1
  decide (8 < (parentChain s t).length + more)

/-- ACORE names a core of the launch's partition, or is not used (R245). -/
def acoreOk (s : State) (launch : Nat) (d : Desc) : Bool := d.amode == 0 || bitAt (partMask s launch) d.acore

/-- A descriptor has been read: its faults, or the wait for an entry (R245, R257). -/
def State.judgeDesc (s : State) (c : Nat) (t : Thread) (w : Wait) (x : Option SpawnArg) (v : Nat) : State :=
  let d := descOf v
  let bad (n : Nat) : State := s.endWaitAt c t.id.slot .fault [(w.reg + 1, regOf n)]
  if isDetached t then s.endWaitAt c t.id.slot .withdrawn []
  else match x with
  | none =>
    if malformed v || d.kind == 2 then bad 7
    else if !acoreOk s t.id.launch d || !holdsQ s t.id.launch d.queue then bad 8
    else s.waitKind c t.id.slot (.put d)
  | some a =>
    if malformed v || d.kind != 2 || a.rsvd then bad 7
    else if chainTooLong s t a || !holdsQ s t.id.launch d.queue then bad 8
    else s.waitKind c t.id.slot (.spawn d a)

/-! ### Pending words (R253) -/

/-- The latency of a reply from an entry or a condition (R314). -/
def granLat (c : Nat) (a : GAct) : Nat :=
  match a with
  | .done r _ | .dep r _ _ => if refDie r = dieOf c then Config.latGran else Config.latGranFar
  | _ => Config.latGranFar

/-- The pending word of a thread takes effect, and its result is due. -/
def State.performPend (s : State) (c : Nat) (t : Thread) (p : PendG) : State :=
  let s0 := s.modThread c t.id.slot fun u => { u with pend := u.pend.tail }
  let reply (s : State) (regs : List (Nat × Reg)) : State :=
    s.modThread c t.id.slot fun u => { u with res := u.res ++ [⟨s.cycle + granLat c p.act, p.cyc, regs, none, 0, p.flag, none, true⟩] }
  match p.act with
  | .done r d =>
    let (s1, st, cause) := s0.doneTask c t r
    reply s1 ((d, statusReg st) :: match cause with | some x => [(d + 1, regOf (efaultCode x))] | none => [])
  | .dep r delta d => let (s1, st) := s0.depTask r delta; reply s1 [(d, statusReg st)]
  | .condSet r v d =>
    (match viewCond s0 t.id.launch r with
    | .live n => reply (s0.granWork [.resolve n v]) [(d, statusReg .done)]
    | .stale => reply s0 [(d, statusReg .stale)]
    | _ => reply s0 [(d, statusReg .absent)])
  | _ => s0

/-! ### The pass (R246, R253, R254) -/

def threadsFrom : Nat → List Core → List (Nat × Thread)
  | _, [] => []
  | c, k :: r => k.threads.map (fun t => (c, t)) ++ threadsFrom (c + 1) r

def everyThread (s : State) : List (Nat × Thread) := threadsFrom 0 s.cores

/-- Resolution steps first, then decrements, then the lower core and slot (R254). -/
def actRank : GAct → Nat
  | .condSet .. => 0 | .done .. => 1 | _ => 2

def lexBefore : List Nat → List Nat → Bool
  | [], _ => true
  | _ :: _, [] => false
  | x :: r, y :: q => if x = y then lexBefore r q else decide (x < y)

def firstBy {α : Type} (key : α → List Nat) (l : List α) : Option α :=
  l.foldl (fun m x => match m with
    | none => some x
    | some y => if lexBefore (key y) (key x) then some y else some x) none

/-- The rank of a move in its tick: its class, its kind, its core, its slot. What a tick brings comes in the order of ranks
(R76, R78, R81, R254): class 0 what has no stated time, class 1 and 2 accesses that commit in the own and the partner slice,
class 3 landings, class 4 delayed transfers, class 6 issue, class 7 filter rows, which look at the words issued, class 8
deadlines, behind every event of their tick (R43), class 10 the winnower's choices, class 11 fault records, which halts that
come with a choice can bring about (R398, R415), and behind them the deadlines of SUP.PWAIT (R43). Holds end before all of
these: a thread that arrives in the cycle in which a window expires comes too late for it (R300). -/
def tickRank (cls kind c sl : Nat) : Nat := ((cls * 4 + kind) * 256 + c) * 4096 + sl

/-- A pending word whose release condition holds. -/
def pendFree (s : State) (x : Nat × Thread) : Option (Nat × Thread × PendG) :=
  match x.2.pend with
  | p :: _ => if relOk s x.2 p.after p.posts then some (x.1, x.2, p) else none
  | [] => none

/-- A pending word acts when its turn in the tick has come; a word that issues now acts at once (R254). -/
def pendReady (s : State) (x : Nat × Thread) : Option (Nat × Thread × PendG) :=
  (pendFree s x).filter fun y => y.2.2.cyc == s.cycle || decide (tickRank 6 (actRank y.2.2.act) y.1 y.2.1.id.slot ≤ s.phase)

def descReady (s : State) (x : Nat × Thread) : Option (Nat × Thread × Wait × Option SpawnArg × Nat) :=
  match x.2.wait with
  | some w => match w.kind with
    | .desc a ws after posts => if !(x.2.acc.any isDescRead) && relOk s x.2 after posts then some (x.1, x.2, w, a, joinWords ws) else none
    | _ => none
  | none => none

/-- Threads that wait on the Granary. -/
def granWaits (t : Thread) : Bool :=
  !t.pend.isEmpty || match t.wait with
    | some w => match w.kind with
      | .desc .. | .put _ | .spawn .. | .condNew | .take _ => true
      | _ => false
    | none => false

def waitKey (x : Nat × Thread) : List Nat := [(x.2.wait.map (·.start)).getD 0, x.1, x.2.id.slot]

/-- A word that waits meets the Granary when the resolutions and completions that arrive in this tick have been taken; one that
issues in it does at its issue (R254). -/
def waitTurn (s : State) (x : Nat × Thread) : Bool :=
  x.2.wait.any fun w => w.start == s.time || decide (tickRank 6 2 0 0 ≤ s.phase)

/-- A wait for an entry or a condition that can end now. -/
def serveWait (s : State) (x : Nat × Thread) : Option State :=
  match x.2.wait with
  | some w => match w.kind with
    | .put d => s.tryPut x.1 x.2 w.reg d
    | .spawn d a => s.trySpawn x.1 x.2 w.reg d a
    | .condNew => s.tryCond x.1 x.2 w.reg
    | _ => none
  | none => none

/-- A taker that has a choice now. -/
def serveTake (s : State) (x : Nat × Thread) : Option State :=
  match x.2.wait with
  | some w => match w.kind with
    | .take mask =>
      (match chooseTask s x.1 x.2.id.launch mask with
      | some (y, gl) => some (s.giveTask x.1 x.2 w.reg y gl)
      | none => none)
    | _ => none
  | none => none

/-- The next thing the Granary does of its own. -/
def granNext (s : State) : Option State :=
  let all := (everyThread s).filter fun x => granWaits x.2
  match firstBy (fun x => [actRank x.2.2.act, x.1, x.2.1.id.slot]) (all.filterMap (pendReady s)) with
  | some (c, t, p) => some (s.performPend c t p)
  | none =>
    let now := all.filter (waitTurn s)
    match firstBy (fun x => [x.1, x.2.1.id.slot]) (now.filterMap (descReady s)) with
    | some (c, t, w, a, v) => some (s.judgeDesc c t w a v)
    | none =>
      let byAge := sortBy (fun x y => lexBefore (waitKey x) (waitKey y)) now
      match byAge.findSome? (serveWait s) with
      | some s1 => some s1
      | none => byAge.findSome? (serveTake s)

/-- The ranks of what the Granary has still to do in this tick: of the first pending word whose release condition holds, and of
the words that wait. -/
def granRank (s : State) : Option Nat :=
  let all := (everyThread s).filter fun x => granWaits x.2
  let late := all.any fun x => !waitTurn s x && ((descReady s x).isSome || (serveWait s x).isSome || (serveTake s x).isSome)
  (((all.filterMap (pendFree s)).map fun y => tickRank 6 (actRank y.2.2.act) y.1 y.2.1.id.slot)
    ++ if late then [tickRank 6 2 0 0] else []).min?

def granLoop : Nat → State → State
  | 0, s => s
  | fuel + 1, s => match granNext s with
    | some s1 => granLoop fuel s1
    | none => s

/-- The thread waits at a FENCE. -/
def atFence (t : Thread) : Bool :=
  match t.wait with
  | some w => match w.kind with | .fence .. => true | _ => false
  | none => false

/-- Everything that waits on the Granary meets its present state; and a FENCE looks whether its tiller's items have gone
(R92). -/
def State.settleGran (s : State) : State :=
  let n := ((everyThread s).filter fun x => granWaits x.2).foldl (fun n x => n + 2 + x.2.pend.length) 0
  let s1 := granLoop n s
  if (everyThread s1).any fun x => atFence x.2 then s1.settleWaits else s1

/-! ### Slots lent by TASK.WAITF (R252, R361) -/

/-- Nothing is in flight to the thread (R47). -/
def quiet (t : Thread) : Bool := t.res.isEmpty && t.acc.isEmpty && t.replies.isEmpty && t.pend.isEmpty

def hasWake (s : State) (c : Nat) (t : Thread) : Bool :=
  s.gran.wakes.any fun w => w.core == c && w.launch == t.id.launch && w.tid == t.id.tid

/-- A table image that is being read has still to clear the thread's flag, the lowest slot's or another's (R179). -/
def owesTable (k : Core) (t : Thread) : Bool :=
  k.threads.any fun u => u.acc.any fun a => match a.kind with | .tblld mates => mates.contains t.id.slot | _ => false

/-- The thread waits in TASK.WAITF under a wake record, and nothing is in flight to it. -/
def lends (s : State) (c : Nat) (t : Thread) : Bool :=
  quiet t && !owesTable (s.core c) t && hasWake s c t && match t.wait with
    | some w => match w.kind with | .future _ _ true => true | _ => false
    | none => false

/-- Threads that may lend their slots are saved in full (R252). -/
def State.lend (s : State) (c : Nat) : State :=
  let k := s.core c
  let go := k.threads.filter (lends s c)
  if go.isEmpty then s
  else
    s.withCore c (dropLatchesOf go { k with
      threads := k.threads.filter fun t => !lends s c t
      saved := k.saved ++ go })
where
  dropLatchesOf (go : List Thread) (k : Core) : Core := go.foldl dropLatch k

end Sys2Proof.Machine
end

