-- ==== Sys2Proof/Machine/Guest.lean ====
section
/-! DEFINITION. The guest interpreter's instructions (R152 to R159). -/

namespace Sys2Proof.Machine

open Sys2Proof

/-- The guest instruction's length: 2^ILEN (R153). -/
def gddLen (g : Reg) : Nat := 2 ^ field g.toNat 1 0

/-- The opcode's width: 0 means 8 (R153). -/
def gddOpw (g : Reg) : Nat := if field g.toNat 11 8 = 0 then 8 else field g.toNat 11 8

/-- A GDD that GFETCH refuses (R153). -/
def gddInvalid (g : Reg) : Bool :=
  let x := g.toNat
  decide (13 ≤ field x 11 8) || field x 31 30 != 0 || decide (64 < field x 7 2 + gddOpw g)
    || decide (64 < field x 17 12 + field x 22 18 + field x 28 24)

/-- A field of GIR, extended to 32 bits; 0 when its width is 0 (R155). -/
def guestField (v lo w : Nat) (signed : Bool) : Reg :=
  let x := v / 2 ^ lo % 2 ^ w
  BitVec.ofNat 32 (if w = 0 then 0 else if signed && 2 ^ (w - 1) ≤ x then x + (2 ^ 32 - 2 ^ w) else x)

/-- The four results of a fetch of `v`: GIR, GOP, GA0, GA1 (R155). -/
def guestDecode (g : Reg) (v : Nat) : Quad × Reg × Reg × Reg :=
  let x := g.toNat
  let a0 := field x 17 12
  let w0 := field x 22 18
  (BitVec.ofNat 64 v, guestField v (field x 7 2) (gddOpw g) false, guestField v a0 w0 (bitAt x 23),
    guestField v (a0 + w0) (field x 28 24) (bitAt x 29))

/-- A guest breakpoint that is armed at GPC (R154, R155). -/
def gbpHits (gpc g : Reg) : Bool :=
  g.getLsbD 30 && g.getLsbD 31 == gpc.getLsbD 31 && field g.toNat 22 0 == field gpc.toNat 22 0

def guestBreak (t : Thread) : Bool :=
  gbpHits t.gst.gpc t.gst.gbp0 || gbpHits t.gst.gpc t.gst.gbp1 || gbpHits t.gst.gpc t.gst.gbp2
    || gbpHits t.gst.gpc t.gst.gbp3

def gfetchWord (f : Full) (e : Env) (t : Thread) : TRes :=
  let n := gddLen t.gst.gdd
  if guestBreak t then .trap .guestBreakpoint 0 0
  else match checkAcc e t t.gst.gpc n n true false with
  | .trap c code => .trap c code (t.gst.gpc.setWidth 64)
  | .at_ p w =>
    if gddInvalid t.gst.gdd then .trap .guestDescriptor 0 0
    else .ok (pushAcc e t 0 (.gfetch t.gst.gdd) p n w false false (flagOf e.is f.fsel))
def execGfetch (f : Full) (s : State) : Out := .next (wordMap (.gfetch f) (gfetchWord f) s)

/-- The local address of the table entry of GOP, which may lie past 32 bits (R156). -/
def entryAddr (htb gop : Reg) : Nat := htb.toNat + 4 + 4 * gop.toNat

/-- The entry can be read: its four bytes lie in the own slice. -/
def entryInSlice (t : Thread) : Bool := decide (entryAddr t.gst.htb t.gst.gop + 4 ≤ Config.sliceBytes)

/-- The watchpoint that the read of the table entry hits. -/
def entryWatch (e : Env) (t : Thread) : Option Nat :=
  if entryInSlice t then watchAt e t (BitVec.ofNat 32 (entryAddr t.gst.htb t.gst.gop)) 4 true false else none

/-- DISPATCH at issue: the checks that need no read, then the two own-slice loads (R157). Of two watchpoints that its reads hit
the lower one is reported (R403). -/
def dispatchWord (pcMode : Bool) (e : Env) (t : Thread) : TRes :=
  let htb := t.gst.htb
  if htb = 0 then .trap .guestUndefined 0 0
  else match checkAccOwn e t htb 4 4 true false, entryWatch e t with
  | .trap .watchpoint m, some n =>
    if n < m then .trap .watchpoint n (BitVec.ofNat 64 (entryAddr htb t.gst.gop)) else .trap .watchpoint m (htb.setWidth 64)
  | .trap c code, _ => .trap c code (htb.setWidth 64)
  | .at_ _ _, some n => .trap .watchpoint n (BitVec.ofNat 64 (entryAddr htb t.gst.gop))
  | .at_ p _, none =>
    let u := pushAcc e t 0 .dispCount p 4 .own false false none
    let u := if entryInSlice t then
        pushAcc e u 1 .dispEntry (sliceAt e.c + entryAddr t.gst.htb t.gst.gop) 4 .own false false none
      else u
    .ok (inTransit e u ⟨false, pcMode, e.ck.cyc + 6, none, none, [], if e.is.head.gth then some e.is.head.win else none, t.gst.gop⟩)
def execDispatchOp (f : Full) (s : State) : Out := .next (wordMap (.dispatchOp f) (dispatchWord false) s)
def execDispatchPc (f : Full) (s : State) : Out := .next (wordMap (.dispatchPc f) (dispatchWord true) s)

/-! ### Moving GPC (R158) -/

def setGpc (t : Thread) (x : Reg) : Thread := { t with gst := { t.gst with gpc := x } }

def gnextPc (t : Thread) : Reg := t.gst.gpc + BitVec.ofNat 32 (gddLen t.gst.gdd)

def gnextWord (_ : Env) (t : Thread) : TRes := .ok (setGpc t (gnextPc t))
def execGnext (f : Full) (s : State) : Out := .next (wordMap (.gnext f) gnextWord s)

def gjmpWord (f : Full) (_ : Env) (t : Thread) : TRes := .ok (setGpc t (readV t f.a.toNat))
def execGjmp (f : Full) (s : State) : Out := .next (wordMap (.gjmp f) (gjmpWord f) s)

def gjmpRelWord (f : Full) (_ : Env) (t : Thread) : TRes := .ok (setGpc t (t.gst.gpc + readV t f.a.toNat))
def execGjmpRel (f : Full) (s : State) : Out := .next (wordMap (.gjmpRel f) (gjmpRelWord f) s)

def gbrcWord (f : Full) (e : Env) (t : Thread) : TRes :=
  .ok (setGpc t (if condHolds (opxN f % 8) (intOf .s32 (readV t f.a.toNat).toNat) 0 then t.gst.gpc + readB32 e t f
    else gnextPc t))
def execGbrc (f : Full) (s : State) : Out := .next (wordMap (.gbrc f) (gbrcWord f) s)

/-! ### Guest registers (R159) -/

def gsetWord (f : Full) (_ : Env) (t : Thread) : TRes :=
  .ok (writeGuest t (opxN f) (if opxN f = 1 then readPair t f.a.toNat else (readV t f.a.toNat).setWidth 64))
def execGset (f : Full) (s : State) : Out := .next (wordMap (.gset f) (gsetWord f) s)

def ggetWord (f : Full) (e : Env) (t : Thread) : TRes :=
  let x := readSpecial e.s e.c t (0x110 + opxN f)
  .ok (if opxN f = 1 then writePair t f.d.toNat x else writeV t f.d.toNat (x.setWidth 32))
def execGget (f : Full) (s : State) : Out := .next (wordMap (.gget f) (ggetWord f) s)

end Sys2Proof.Machine
end

