-- ==== Sys2Proof/Machine/Real.lean ====
section
/-! DEFINITION. Exact values and their rounding: the formats of R94 to R99, Round, Overflow and StochRound (R101 to R104),
exact sums and products (R96, R108, R109), SampleIndex (R110), and the special functions of R175 to a precision that
decides every rounding. -/

namespace Sys2Proof.Machine

open Sys2Proof

/-! ### Formats and values (R94, R95) -/

/-- An exact value: (-1)^neg x m x 2^e, an infinity, or NaN. -/
inductive FV
  | nan
  | inf (neg : Bool)
  | fin (neg : Bool) (m : Nat) (e : Int)
  deriving DecidableEq, Repr

def expBits : Ty → Nat
  | .f32 | .bf16 => 8 | .f16 | .e5m2 => 5 | .e4m3 => 4 | .e2m1 => 2 | _ => 8
def fracBits : Ty → Nat
  | .f32 => 23 | .f16 => 10 | .bf16 => 7 | .e5m2 => 2 | .e4m3 => 3 | .e2m1 => 1 | _ => 23
def biasOf : Ty → Nat
  | .f32 | .bf16 => 127 | .f16 | .e5m2 => 15 | .e4m3 => 7 | .e2m1 => 1 | _ => 127

/-- The format has infinities (R94). -/
def hasInf : Ty → Bool
  | .e4m3 | .e2m1 => false
  | _ => true

/-- The code of the greatest finite magnitude (R95). -/
def maxCode (ty : Ty) : Nat :=
  match ty with
  | .e4m3 => 0x7E
  | .e2m1 => 0x7
  | _ => (2 ^ expBits ty - 1) * 2 ^ fracBits ty - 1

/-- The canonical NaN (R95). E2M1 has none. -/
def nanCode (ty : Ty) : Nat :=
  match ty with
  | .e4m3 => 0x7F
  | .e2m1 => 0
  | _ => (2 ^ expBits ty - 1) * 2 ^ fracBits ty + 2 ^ (fracBits ty - 1)

def signBit (ty : Ty) (neg : Bool) : Nat := if neg then 2 ^ (tyBits ty - 1) else 0

def infCode (ty : Ty) (neg : Bool) : Nat := signBit ty neg + (2 ^ expBits ty - 1) * 2 ^ fracBits ty

/-- The value of a float code (R94). -/
def fvOf (ty : Ty) (x : Nat) : FV :=
  let neg := bitAt x (tyBits ty - 1)
  let ex := x / 2 ^ fracBits ty % 2 ^ expBits ty
  let fr := x % 2 ^ fracBits ty
  if hasInf ty && ex == 2 ^ expBits ty - 1 then (if fr = 0 then .inf neg else .nan)
  else if ty == .e4m3 && ex == 15 && fr == 7 then .nan
  else if ex = 0 then .fin neg fr (1 - biasOf ty - fracBits ty)
  else .fin neg (fr + 2 ^ fracBits ty) ((ex : Int) - biasOf ty - fracBits ty)

/-- The value of an element of any type: floats by R94, integers by R97, E8M0 by R99. -/
def elemVal (ty : Ty) (x : Nat) : FV :=
  if ty == .e8m0 then (if x % 256 = 255 then .nan else .fin false 1 ((x % 256 : Nat) - 127))
  else if isF ty then fvOf ty x
  else
    let z := intOf ty x
    .fin (z < 0) z.natAbs 0

def ofInt (z : Int) : FV := .fin (z < 0) z.natAbs 0

def fvIsNaN : FV → Bool
  | .nan => true
  | _ => false
def fvIsInf : FV → Bool
  | .inf _ => true
  | _ => false
def fvIsZero : FV → Bool
  | .fin _ 0 _ => true
  | _ => false
def fvNeg : FV → Bool
  | .nan => false
  | .inf n => n
  | .fin n _ _ => n
def fvMinus : FV → FV
  | .nan => .nan
  | .inf n => .inf !n
  | .fin n m e => .fin (!n) m e

/-! ### Rounding (R101 to R103) -/

/-- A float code with the flags that making it sets. -/
structure Rounded where
  code : Nat
  flags : Reg
  deriving DecidableEq, Repr

/-- Overflow (R102). -/
def overflow (ty : Ty) (rm : Rm) (sat neg : Bool) : Rounded :=
  let fl := flagOF ||| flagNX
  match ty with
  | .e4m3 => ⟨if sat then signBit ty neg + maxCode ty else 0x7F, fl⟩
  | .e2m1 => ⟨signBit ty neg + maxCode ty, fl⟩
  | _ =>
    let toInf := match rm with | .rne => true | .rz => false | .rup => !neg | .rdn => neg
    ⟨if toInf then infCode ty neg else signBit ty neg + maxCode ty, fl⟩

/-- How the part below the grid compares with half a unit. -/
inductive Below
  | exact | less | half | more
  deriving DecidableEq, Repr

/-- The grid of R102 for a magnitude m x 2^e, m > 0: the exponent of its unit. -/
def gridExp (ty : Ty) (m : Nat) (e : Int) : Int :=
  max ((Nat.log2 m : Int) + e) (1 - biasOf ty) - fracBits ty

/-- The magnitude in whole units of the grid, and what lies below; `sticky` says that a little more than m x 2^e is
meant, less than one in the last place of m. -/
def splitGrid (m : Nat) (e u : Int) (sticky : Bool) : Nat × Below :=
  if u ≤ e then (m * 2 ^ (e - u).toNat, if sticky then .less else .exact)
  else
    let sh := (u - e).toNat
    let r := m % 2 ^ sh
    let h := 2 ^ (sh - 1)
    (m / 2 ^ sh,
      if r = 0 && !sticky then .exact else if r < h then .less else if r = h && !sticky then .half else .more)

/-- The magnitude lies below the least normal one (R102). -/
def isTiny (ty : Ty) (m : Nat) (e : Int) : Bool := (Nat.log2 m : Int) + e < 1 - biasOf ty

/-- The code of `y` units of the grid `u`, sign apart. -/
def gridCode (ty : Ty) (y : Nat) (u : Int) : Nat := ((u + fracBits ty + biasOf ty - 1).toNat) * 2 ^ fracBits ty + y

/-- Round of a nonzero finite magnitude (R102). -/
def roundMag (ty : Ty) (rm : Rm) (sat neg : Bool) (m : Nat) (e : Int) (sticky : Bool) : Rounded :=
  let u := gridExp ty m e
  let (lo, b) := splitGrid m e u sticky
  let up := match rm, b with
    | _, .exact => false
    | .rne, .less => false
    | .rne, .more => true
    | .rne, .half => lo % 2 == 1
    | .rz, _ => false
    | .rup, _ => !neg
    | .rdn, _ => neg
  let y := if up then lo + 1 else lo
  let fl := if b == .exact then 0 else if isTiny ty m e then flagNX ||| flagUF else flagNX
  if maxCode ty < gridCode ty y u then
    let o := overflow ty rm sat neg
    ⟨o.code, o.flags ||| fl⟩
  else ⟨signBit ty neg + gridCode ty y u, fl⟩

/-- StochRound of a nonzero finite magnitude with random bits r (R104). -/
def stochMag (ty : Ty) (sat neg : Bool) (m : Nat) (e : Int) (r : Nat) : Rounded :=
  let u := gridExp ty m e
  let lo := (splitGrid m e u false).1
  let b := (splitGrid m e u false).2
  let k := if u ≤ e then 0 else m % 2 ^ (u - e).toNat * 2 ^ 32 / 2 ^ (u - e).toNat
  let y := if r < k then lo + 1 else lo
  let fl := if b == .exact then 0 else if isTiny ty m e then flagNX ||| flagUF else flagNX
  if maxCode ty < gridCode ty y u then
    let o := overflow ty .rne sat neg
    ⟨o.code, o.flags ||| fl⟩
  else ⟨signBit ty neg + gridCode ty y u, fl⟩

/-- The cases of R103 that do not round: zeros, infinities and NaNs into a float format. -/
def specialCode (ty : Ty) (sat : Bool) : FV → Rounded
  | .nan => if ty == .e2m1 then ⟨0, flagIV⟩ else ⟨nanCode ty, 0⟩
  | .inf neg =>
    if hasInf ty then ⟨infCode ty neg, 0⟩
    else if ty == .e4m3 && !sat then ⟨0x7F, flagIV⟩
    else ⟨signBit ty neg + maxCode ty, flagIV⟩
  | .fin neg _ _ => ⟨signBit ty neg, 0⟩

/-- Round of any value (R102, R103). -/
def roundTo (ty : Ty) (rm : Rm) (sat : Bool) (v : FV) : Rounded :=
  match v with
  | .fin neg (m + 1) e => roundMag ty rm sat neg (m + 1) e false
  | v => specialCode ty sat v

def stochTo (ty : Ty) (sat : Bool) (r : Nat) (v : FV) : Rounded :=
  match v with
  | .fin neg (m + 1) e => stochMag ty sat neg (m + 1) e r
  | v => specialCode ty sat v

/-- The integer nearest a finite value in a mode, and whether it is inexact (R103). -/
def roundInt (rm : Rm) (neg : Bool) (m : Nat) (e : Int) : Int × Bool :=
  let (lo, b) := splitGrid m e 0 false
  let up := match rm, b with
    | _, .exact => false
    | .rne, .less => false
    | .rne, .more => true
    | .rne, .half => lo % 2 == 1
    | .rz, _ => false
    | .rup, _ => !neg
    | .rdn, _ => neg
  let y : Int := if up then lo + 1 else lo
  (if neg then -y else y, b != .exact)

/-- A value into an integer type: rounded, then clamped (R103). -/
def toIntTy (ty : Ty) (rm : Rm) (v : FV) : Int × Reg :=
  match v with
  | .nan => (0, flagIV)
  | .inf neg => (if neg then tyMin ty else tyMax ty, flagIV)
  | .fin neg m e =>
    let (z, nx) := roundInt rm neg m e
    let (y, cl) := satTo ty z
    (y, if cl then flagIV else if nx then flagNX else 0)

/-! ### Exact sums and products (R96, R108) -/

/-- A finite value in units of 2^u, u at or below its exponent. -/
def scaled (u : Int) (neg : Bool) (m : Nat) (e : Int) : Int :=
  let x : Int := (m : Int) * (2 ^ (e - u).toNat : Nat)
  if neg then -x else x

/-- The least exponent of the finite values. -/
def leastExp : List FV → Option Int
  | [] => none
  | .fin _ (_ + 1) e :: r => some (match leastExp r with | some u => min e u | none => e)
  | _ :: r => leastExp r

/-- The exact sum of the finite values in units of 2^u. -/
def sumScaled (u : Int) : List FV → Int
  | [] => 0
  | .fin neg (m + 1) e :: r => scaled u neg (m + 1) e + sumScaled u r
  | _ :: r => sumScaled u r

/-- An exact sum with the cases of R108: NaN when an addend is, or when infinities of both signs meet (which raises IV);
an infinity; an exact zero by R96, where a sum of -0 alone keeps its sign and otherwise RDN alone gives -0. -/
def sumFV (rm : Rm) (l : List FV) : FV × Reg :=
  if l.any fvIsNaN then (.nan, 0)
  else
    let p := l.any fun v => v == .inf false
    let n := l.any fun v => v == .inf true
    if p && n then (.nan, flagIV)
    else if p then (.inf false, 0)
    else if n then (.inf true, 0)
    else
      match leastExp l with
      | none => (.fin (if l.all fvNeg then !l.isEmpty else rm == .rdn && l.any fvNeg) 0 0, 0)
      | some u =>
        let z := sumScaled u l
        (if z = 0 then .fin (rm == .rdn) 0 0 else .fin (z < 0) z.natAbs u, 0)

/-- A product; the flag says that a zero met an infinity (R164). -/
def mulFV (a b : FV) : FV × Bool :=
  match a, b with
  | .nan, .nan | .nan, .inf _ | .nan, .fin _ _ _ | .inf _, .nan | .fin _ _ _, .nan => (.nan, false)
  | .inf x, .inf y => (.inf (x != y), false)
  | .inf x, .fin y m _ => if m = 0 then (.nan, true) else (.inf (x != y), false)
  | .fin x m _, .inf y => if m = 0 then (.nan, true) else (.inf (x != y), false)
  | .fin x m e, .fin y k g => (.fin (x != y) (m * k) (e + g), false)

/-- A value times 2^k. -/
def shiftFV (k : Int) : FV → FV
  | .fin n m e => .fin n m (e + k)
  | v => v

/-- The sum of products and one addend, rounded once: the cases of R108. -/
def dotFV (prods : List (FV × FV)) (c : FV) : FV × Reg :=
  if prods.any (fun p => fvIsNaN p.1 || fvIsNaN p.2) || fvIsNaN c then (.nan, 0)
  else if prods.any fun p => (mulFV p.1 p.2).2 then (.nan, flagIV)
  else sumFV .rne (prods.map (fun p => (mulFV p.1 p.2).1) ++ [c])

/-- A rounded result, with the flags its exact value came with. -/
def roundWith (ty : Ty) (rm : Rm) (sat : Bool) (v : FV × Reg) : Rounded :=
  let r := roundTo ty rm sat v.1
  ⟨r.code, r.flags ||| v.2⟩

/-- a + b (R163, R164). -/
def addRound (ty : Ty) (rm : Rm) (a b : FV) : Rounded := roundWith ty rm false (sumFV rm [a, b])

/-- a x b (R163, R164). -/
def mulRound (ty : Ty) (rm : Rm) (a b : FV) : Rounded :=
  let (v, iv) := mulFV a b
  roundWith ty rm false (v, if iv then flagIV else 0)

/-- a x b + d with one rounding (R163, R164). -/
def fmaRound (ty : Ty) (rm : Rm) (a b d : FV) : Rounded :=
  let (v, iv) := mulFV a b
  if iv then ⟨nanCode ty, flagIV⟩ else roundWith ty rm false (sumFV rm [v, d])

/-! ### Order (R165, R166) -/

/-- An ordered key in which -0 and +0 agree: the sign of x - y for two values that are not NaN. -/
def cmpFV (a b : FV) : Int :=
  match a, b with
  | .inf x, .inf y => if x == y then 0 else if x then -1 else 1
  | .inf x, _ => if x then -1 else 1
  | _, .inf y => if y then 1 else -1
  | .fin n m e, .fin n' m' e' =>
    let u := min e e'
    scaled u n m e - scaled u n' m' e'
  | _, _ => 0

/-- The lesser of two codes, -0 below +0; one NaN gives the other operand (R165). -/
def minCode (ty : Ty) (x y : Nat) : Nat :=
  let a := fvOf ty x
  let b := fvOf ty y
  if fvIsNaN a then (if fvIsNaN b then nanCode ty else y)
  else if fvIsNaN b then x
  else if cmpFV a b < 0 then x
  else if 0 < cmpFV a b then y
  else if fvNeg a then x else y

def maxCodeOf (ty : Ty) (x y : Nat) : Nat :=
  let a := fvOf ty x
  let b := fvOf ty y
  if fvIsNaN a then (if fvIsNaN b then nanCode ty else y)
  else if fvIsNaN b then x
  else if cmpFV a b < 0 then y
  else if 0 < cmpFV a b then x
  else if fvNeg a then y else x

/-! ### SampleIndex (R110) -/

/-- The weights as they enter the sums: NaN and values at or below zero count zero. -/
def sampleWeight (x : Nat) : Nat :=
  let v := fvOf .f32 x
  if fvIsNaN v || fvIsZero v || fvNeg v then 0 else x

/-- The prefix sums, in lane order, one rounding a step. -/
def samplePrefix : Option Nat → List Nat → List Rounded
  | _, [] => []
  | p, w :: r =>
    let q := match p with
      | none => ⟨w, 0⟩
      | some p => addRound .f32 .rne (fvOf .f32 p) (fvOf .f32 w)
    q :: samplePrefix (some q.code) r

/-- The lane chosen, or none with status ABSENT, and the flags of its steps: IV for a NaN weight, and what Round sets in
the sums and in tau (R102). -/
def sampleIndex (ws : List Nat) (u : Nat) : Option Nat × Reg :=
  let vs := ws.map sampleWeight
  let ps := samplePrefix none vs
  let fl := (if ws.any fun w => fvIsNaN (fvOf .f32 w) then flagIV else 0) ||| ps.foldl (fun m p => m ||| p.flags) 0
  let total := (ps.map (·.code)).getLastD 0
  let tv := fvOf .f32 total
  if fvIsZero tv || fvIsInf tv then (none, fl)
  else
    let uv := fvOf .f32 u
    let uu := if fvIsNaN uv || cmpFV uv (.fin false 0 0) < 0 then .fin false 0 0 else uv
    let tau := mulRound .f32 .rne uu tv
    let i := match ps.findIdx? fun p => 0 < cmpFV (fvOf .f32 p.code) (fvOf .f32 tau.code) with
      | some i => i
      | none => vs.length - 1 - (vs.reverse.findIdx fun v => v != 0)
    (some i, fl ||| tau.flags)

/-! ### Special functions (R175, R176)

Values are fixed-point naturals in units of 2^-P. The exact value of a function at a FP32 operand lies on no rounding
boundary except where R176 names it exact, so a value within 2^-200 decides the rounding (log entry 9). -/

def fixP : Nat := 256
def fixOne : Nat := 2 ^ fixP

/-- pi in units of 2^-448. -/
def piFix : Nat :=
  0x3243f6a8885a308d313198a2e03707344a4093822299f31d0082efa98ec4e6c89452821e638d01377be5466cf34e90c6cc0ac29b7c97c50dd

/-- ln 2 in units of 2^-448. -/
def ln2Fix : Nat :=
  0xb17217f7d1cf79abc9e3b39803f2f6af40f343267298b62d8a0d175b8baafa2be7b876206debac98559552fb4afa1b10ed2eae35c1382144

/-- The sum of x^n / n! from a running term, for x below 1. -/
def expSum (x : Nat) : Nat → Nat → Nat → Nat
  | 0, _, _ => 0
  | k + 1, n, term => term + expSum x k (n + 1) (term * x / fixOne / n)

/-- e^x for 0 <= x < 1. -/
def expFix (x : Nat) : Nat := expSum x 70 1 fixOne

/-- 2^f for a fraction 0 <= f < 1. -/
def exp2Fix (f : Nat) : Nat := expFix (f * (ln2Fix / 2 ^ (448 - fixP)) / fixOne)

/-- The sum of z^(2n+1) / (2n+1). -/
def atanhSum (z2 : Nat) : Nat → Nat → Nat → Nat
  | 0, _, _ => 0
  | k + 1, n, term => term / n + atanhSum z2 k (n + 2) (term * z2 / fixOne)

/-- log2 of m / 2^s for 1 <= m / 2^s < 2. -/
def log2Fix (m s : Nat) : Nat :=
  let z := (m - 2 ^ s) * fixOne / (m + 2 ^ s)
  2 * atanhSum (z * z / fixOne) 90 1 z * 2 ^ 448 / ln2Fix

/-- The sum of alternating terms x^n / n!, n rising by 2. -/
def trigSum (x2 : Nat) : Nat → Nat → Nat → Bool → Int
  | 0, _, _, _ => 0
  | k + 1, n, term, neg =>
    (if neg then -(term : Int) else term) + trigSum x2 k (n + 2) (term * x2 / fixOne / (n * (n + 1))) (!neg)

/-- sin x and cos x for 0 <= x < pi / 2. -/
def sinFix (x : Nat) : Nat := (trigSum (x * x / fixOne) 50 2 x false).toNat
def cosFix (x : Nat) : Nat := (trigSum (x * x / fixOne) 50 1 fixOne false).toNat

/-- A fixed-point value with something below its last place, rounded. -/
def roundFix (rm : Rm) (neg : Bool) (x : Nat) (e : Int) : Rounded := roundMag .f32 rm false neg x (e - fixP) true

/-- A magnitude a little below m x 2^e, rounded. -/
def roundBelow (rm : Rm) (neg : Bool) (m : Nat) (e : Int) : Rounded :=
  roundMag .f32 rm false neg (m * 2 ^ 50 - 1) (e - 50) true

/-- A magnitude a little above m x 2^e, rounded. -/
def roundAbove (rm : Rm) (neg : Bool) (m : Nat) (e : Int) : Rounded :=
  roundMag .f32 rm false neg (m * 2 ^ 50) (e - 50) true

def nanIV : Rounded := ⟨nanCode .f32, flagIV⟩
def plainNaN : Rounded := ⟨nanCode .f32, 0⟩
def oneCode : Nat := 0x3F800000

/-- The magnitude m x 2^e lies below 2^-40. -/
def isSmall (m : Nat) (e : Int) : Bool := (Nat.log2 m : Int) + e < -40

/-- m x 2^e in units of 2^-P, rounded down. -/
def toFix (m : Nat) (e : Int) : Nat :=
  let k := e + fixP
  if 0 ≤ k then m * 2 ^ k.toNat else m / 2 ^ (-k).toNat

def rcpFn (rm : Rm) : FV → Rounded
  | .nan => plainNaN
  | .inf neg => ⟨signBit .f32 neg, 0⟩
  | .fin neg 0 _ => ⟨infCode .f32 neg, flagDZ⟩
  | .fin neg m e => roundMag .f32 rm false neg (2 ^ 100 / m) (-100 - e) (2 ^ 100 % m != 0)

/-- The greatest y with y x y at most n. -/
def isqrt (n : Nat) : Nat := go (Nat.log2 n / 2 + 1) 0
where
  /-- Bits from `k` down. -/
  go : Nat → Nat → Nat
    | 0, y => if (y + 1) * (y + 1) ≤ n then y + 1 else y
    | k + 1, y => go k (if (y + 2 ^ (k + 1)) * (y + 2 ^ (k + 1)) ≤ n then y + 2 ^ (k + 1) else y)

/-- m x 2^e with an even exponent. -/
def evenExp (m : Nat) (e : Int) : Nat × Int := if e % 2 = 0 then (m, e) else (2 * m, e - 1)

def sqrtFn (rm : Rm) : FV → Rounded
  | .nan => plainNaN
  | .inf neg => if neg then nanIV else ⟨infCode .f32 false, 0⟩
  | .fin neg 0 _ => ⟨signBit .f32 neg, 0⟩
  | .fin true _ _ => nanIV
  | .fin false m e =>
    let (m, e) := evenExp m e
    let y := isqrt (m * 2 ^ 120)
    roundMag .f32 rm false false y (e / 2 - 60) (y * y != m * 2 ^ 120)

def rsqrtFn (rm : Rm) : FV → Rounded
  | .nan => plainNaN
  | .inf neg => if neg then nanIV else ⟨0, 0⟩
  | .fin neg 0 _ => ⟨infCode .f32 neg, flagDZ⟩
  | .fin true _ _ => nanIV
  | .fin false m e =>
    let (m, e) := evenExp m e
    let y := isqrt (2 ^ 200 / m)
    roundMag .f32 rm false false y (-100 - e / 2) (m * (y * y) != 2 ^ 200)

/-- 2^x, x = (-1)^neg x m x 2^e, as a fixed-point fraction in [1, 2) and an exponent; the magnitude below 2^10. -/
def exp2Parts (neg : Bool) (x : Nat) : Nat × Int :=
  let n := x / fixOne
  let f := x % fixOne
  if !neg then (exp2Fix f, n) else if f = 0 then (fixOne, -(n : Int)) else (exp2Fix (fixOne - f), -(n : Int) - 1)

def exp2Fn (rm : Rm) : FV → Rounded
  | .nan => plainNaN
  | .inf neg => if neg then ⟨0, 0⟩ else ⟨infCode .f32 false, 0⟩
  | .fin _ 0 _ => ⟨oneCode, 0⟩
  | .fin neg m e =>
    if isSmall m e then (if neg then roundBelow rm false 1 0 else roundAbove rm false 1 0)
    else if 10 ≤ (Nat.log2 m : Int) + e then
      (if neg then roundMag .f32 rm false false 1 (-2000) true else roundMag .f32 rm false false 1 2000 false)
    else
      let x := toFix m e
      let (y, n) := exp2Parts neg x
      roundMag .f32 rm false false y (n - fixP) (x % fixOne != 0)

def log2Fn (rm : Rm) : FV → Rounded
  | .nan => plainNaN
  | .inf neg => if neg then nanIV else ⟨infCode .f32 false, 0⟩
  | .fin _ 0 _ => ⟨infCode .f32 true, flagDZ⟩
  | .fin true _ _ => nanIV
  | .fin false m e =>
    let k := (Nat.log2 m : Int) + e
    if m = 2 ^ Nat.log2 m then roundTo .f32 rm false (ofInt k)
    else
      let z : Int := k * (fixOne : Nat) + log2Fix m (Nat.log2 m)
      if z < 0 then roundMag .f32 rm false true (z.natAbs - 1) (-(fixP : Int)) true
      else roundFix rm false z.natAbs 0

def tanhFn (rm : Rm) : FV → Rounded
  | .nan => plainNaN
  | .inf neg => ⟨signBit .f32 neg + oneCode, 0⟩
  | .fin neg 0 _ => ⟨signBit .f32 neg, 0⟩
  | .fin neg m e =>
    if isSmall m e then roundBelow rm neg m e
    else if 6 ≤ (Nat.log2 m : Int) + e then roundBelow rm neg 1 0
    else
      let y := 2 * toFix m e * 2 ^ 448 / ln2Fix
      let (x, n) := exp2Parts false y
      let big := x * 2 ^ n.toNat
      roundFix rm neg ((big - fixOne) * fixOne / (big + fixOne)) 0

/-- The quadrant and the rest below pi / 2 of m x 2^e (exact argument reduction, R175). -/
def reduceArg (m : Nat) (e : Int) : Nat × Nat :=
  let x := if 0 ≤ e + 448 then m * 2 ^ (e + 448).toNat else m / 2 ^ (-(e + 448)).toNat
  let n := 2 * x / piFix
  (n % 4, (2 * x - n * piFix) / 2 ^ (449 - fixP))

def sinFn (rm : Rm) : FV → Rounded
  | .nan => plainNaN
  | .inf _ => nanIV
  | .fin neg 0 _ => ⟨signBit .f32 neg, 0⟩
  | .fin neg m e =>
    if isSmall m e then roundBelow rm neg m e
    else
      let (q, r) := reduceArg m e
      let v := if q % 2 = 0 then sinFix r else cosFix r
      roundFix rm (neg != (2 ≤ q : Bool)) v 0

def cosFn (rm : Rm) : FV → Rounded
  | .nan => plainNaN
  | .inf _ => nanIV
  | .fin _ 0 _ => ⟨oneCode, 0⟩
  | .fin _ m e =>
    if isSmall m e then roundBelow rm false 1 0
    else
      let (q, r) := reduceArg m e
      let v := if q % 2 = 0 then cosFix r else sinFix r
      roundFix rm (q == 1 || q == 2) v 0

end Sys2Proof.Machine
end

