-- ==== Sys2Proof/Machine/Float.lean ====
section
/-! DEFINITION. Float, conversion, packed, dot-product and special-function instructions (R161 to R176). -/

namespace Sys2Proof.Machine

open Sys2Proof

/-! ### Scalar float arithmetic (R163 to R167) -/

def f32Of (x : Reg) : FV := fvOf .f32 x.toNat

/-- A code into Vd, its flags into FSR (R106). -/
def putRounded (t : Thread) (d : Nat) (r : Rounded) : Thread := setFsr (writeV t d (BitVec.ofNat 32 r.code)) r.flags

/-- A FP32 function of a, b and d. -/
def fpWord (f : Full) (g : FV → FV → FV → Rounded) (e : Env) (t : Thread) : TRes :=
  .ok (putRounded t f.d.toNat
    (g (f32Of (readV t f.a.toNat)) (f32Of (readB32 e t f)) (f32Of (readV t f.d.toNat))))

def execFadd (f : Full) (s : State) : Out := .next (wordMap (.fadd f) (fpWord f fun a b _ => addRound .f32 f.rm a b) s)
def execFsub (f : Full) (s : State) : Out :=
  .next (wordMap (.fsub f) (fpWord f fun a b _ => addRound .f32 f.rm a (fvMinus b)) s)
def execFmul (f : Full) (s : State) : Out := .next (wordMap (.fmul f) (fpWord f fun a b _ => mulRound .f32 f.rm a b) s)
def execFfma (f : Full) (s : State) : Out := .next (wordMap (.ffma f) (fpWord f fun a b d => fmaRound .f32 f.rm a b d) s)

/-- FMIN and FMAX choose one of two codes and set no flag (R165). -/
def pickWord (f : Full) (g : Nat → Nat → Nat) (e : Env) (t : Thread) : TRes :=
  .ok (writeV t f.d.toNat (BitVec.ofNat 32 (g (readV t f.a.toNat).toNat (readB32 e t f).toNat)))
def execFmin (f : Full) (s : State) : Out := .next (wordMap (.fmin f) (pickWord f (minCode .f32)) s)
def execFmax (f : Full) (s : State) : Out := .next (wordMap (.fmax f) (pickWord f (maxCodeOf .f32)) s)

/-- A float comparison: the predicate and the flags (R166). -/
def fcompare (cc : Nat) (u : Bool) (a b : FV) : Bool × Reg :=
  if fvIsNaN a || fvIsNaN b then (u || cc == 1, if 2 ≤ cc then flagIV else 0)
  else (condHolds cc (cmpFV a b) 0, 0)

def fsetpWord (f : Full) (e : Env) (t : Thread) : TRes :=
  let r := fcompare (opxN f % 8) (opxB f 3) (f32Of (readV t f.a.toNat)) (f32Of (readB32 e t f))
  .ok (setFsr (writeP t f.d.toNat r.1) r.2)
def execFsetp (f : Full) (s : State) : Out := .next (wordMap (.fsetp f) (fsetpWord f) s)

/-- The class of a float code, as a bit number (R167). -/
def classBit (ty : Ty) (x : Nat) : Nat :=
  match fvOf ty x with
  | .nan => 8
  | .inf neg => if neg then 0 else 7
  | .fin neg m _ =>
    if m = 0 then (if neg then 3 else 4)
    else if m < 2 ^ fracBits ty then (if neg then 2 else 5)
    else if neg then 1 else 6

def fclassWord (f : Full) (_ : Env) (t : Thread) : TRes :=
  .ok (writeV t f.d.toNat (BitVec.ofNat 32 (2 ^ classBit f.ty (readV t f.a.toNat).toNat)))
def execFclass (f : Full) (s : State) : Out := .next (wordMap (.fclass f) (fclassWord f) s)

/-! ### Conversions (R168 to R171) -/

/-- The second type, OPX bits 4:0 (R115). -/
def srcTy (f : Full) : Ty := (ty2 f).getD .f32

/-- A narrow integer result fills its register by its sign (R168). -/
def extInt (ty : Ty) (z : Int) : Quad := BitVec.ofNat 64 (wrapN (max 32 (tyBits ty)) z)

def cvtWord (f : Full) (_ : Env) (t : Thread) : TRes :=
  let v := elemVal (srcTy f) (readT t (srcTy f) f.a.toNat).toNat
  if isF f.ty then .ok (putRounded t f.d.toNat (roundTo f.ty f.rm f.sat v))
  else
    let r := toIntTy f.ty f.rm v
    .ok (setFsr (writeT t f.ty f.d.toNat (extInt f.ty r.1)) r.2)
def execCvt (f : Full) (s : State) : Out := .next (wordMap (.cvt f) (cvtWord f) s)

/-- n results of width w packed from the low end, flags gathered (R100). -/
def packAll (w : Nat) : List Rounded → Rounded
  | [] => ⟨0, 0⟩
  | r :: rest => ⟨r.code + 2 ^ w * (packAll w rest).code, r.flags ||| (packAll w rest).flags⟩

/-- Elements per register (R100). -/
def perReg (ty : Ty) : Nat := 32 / tyBits ty

def cvtpkElem (f : Full) (t : Thread) (i : Nat) : Rounded :=
  let x := (readV t (f.a.toNat + i)).toNat
  if isF f.ty then roundTo f.ty f.rm f.sat (fvOf .f32 x)
  else
    let z := narrow f.ty true (intOf .s32 x)
    ⟨z.1, z.2⟩

def cvtpkWord (f : Full) (_ : Env) (t : Thread) : TRes :=
  .ok (putRounded t f.d.toNat (packAll (tyBits f.ty) ((List.range (perReg f.ty)).map (cvtpkElem f t))))
def execCvtpk (f : Full) (s : State) : Out := .next (wordMap (.cvtpk f) (cvtpkWord f) s)

/-- Element i of a register (R100). -/
def elemAt (w x i : Nat) : Nat := x / 2 ^ (w * i) % 2 ^ w

/-- One unpacked element: exact, no flag (R171). -/
def upElem (src dst : Ty) (x : Nat) : Reg :=
  if dst == .f32 then BitVec.ofNat 32 (roundTo .f32 .rne false (elemVal src x)).code
  else BitVec.ofNat 32 (wrapN 32 (intOf src x))

def cvtupWord (f : Full) (_ : Env) (t : Thread) : TRes :=
  let w := tyBits (srcTy f)
  let x := (readV t f.a.toNat).toNat
  .ok (writeVs t ((List.range (perReg (srcTy f))).map fun i => (f.d.toNat + i, upElem (srcTy f) f.ty (elemAt w x i))))
def execCvtup (f : Full) (s : State) : Out := .next (wordMap (.cvtup f) (cvtupWord f) s)

def cvtSrWord (f : Full) (e : Env) (t : Thread) : TRes :=
  .ok (putRounded t f.d.toNat (stochTo f.ty f.sat (readB32 e t f).toNat (f32Of (readV t f.a.toNat))))
def execCvtSr (f : Full) (s : State) : Out := .next (wordMap (.cvtSr f) (cvtSrWord f) s)

def cvtpkSrWord (f : Full) (_ : Env) (t : Thread) : TRes :=
  .ok (putRounded t f.d.toNat (packAll (tyBits f.ty) ((List.range (perReg f.ty)).map fun i =>
    stochTo f.ty f.sat (readV t (f.b.toNat + i)).toNat (f32Of (readV t (f.a.toNat + i))))))
def execCvtpkSr (f : Full) (s : State) : Out := .next (wordMap (.cvtpkSr f) (cvtpkSrWord f) s)

/-! ### Packed pairs (R172) -/

/-- Two 16-bit elements, each by itself. -/
def packedPair (ty : Ty) (g : FV → FV → FV → Rounded) (a b d : Nat) : Rounded :=
  packAll 16 ((List.range 2).map fun i =>
    g (fvOf ty (elemAt 16 a i)) (fvOf ty (elemAt 16 b i)) (fvOf ty (elemAt 16 d i)))

def packedWord (f : Full) (g : FV → FV → FV → Rounded) (e : Env) (t : Thread) : TRes :=
  .ok (putRounded t f.d.toNat
    (packedPair f.ty g (readV t f.a.toNat).toNat (readB32 e t f).toNat (readV t f.d.toNat).toNat))
def execPadd2 (f : Full) (s : State) : Out :=
  .next (wordMap (.padd2 f) (packedWord f fun a b _ => addRound f.ty f.rm a b) s)
def execPmul2 (f : Full) (s : State) : Out :=
  .next (wordMap (.pmul2 f) (packedWord f fun a b _ => mulRound f.ty f.rm a b) s)
def execPfma2 (f : Full) (s : State) : Out :=
  .next (wordMap (.pfma2 f) (packedWord f fun a b d => fmaRound f.ty f.rm a b d) s)

/-! ### Dot products and scaling (R173, R174) -/

/-- Floats: the m products and the accumulator, rounded once (R109, R173). -/
def dotFloat (tyA tyB : Ty) (m a b d : Nat) : Rounded :=
  roundWith .f32 .rne false (dotFV ((List.range m).map fun i =>
    (fvOf tyA (elemAt (tyBits tyA) a i), fvOf tyB (elemAt (tyBits tyB) b i))) (fvOf .f32 d))

/-- Integers: the exact sum, wrapped or saturated; the accumulator is signed when a or b is (R173). -/
def dotInt (tyA tyB : Ty) (sat : Bool) (m a b d : Nat) : Rounded :=
  let acc := if isSigned tyA || isSigned tyB then Ty.s32 else Ty.n32
  let z := ((List.range m).map fun i =>
    intOf tyA (elemAt (tyBits tyA) a i) * intOf tyB (elemAt (tyBits tyB) b i)).foldl (· + ·) (intOf acc d)
  let r := narrow acc sat z
  ⟨r.1, r.2⟩

def dotWord (f : Full) (m : Nat) (e : Env) (t : Thread) : TRes :=
  let a := (readV t f.a.toNat).toNat
  let b := (readB32 e t f).toNat
  let d := (readV t f.d.toNat).toNat
  .ok (putRounded t f.d.toNat
    (if isF f.ty then dotFloat f.ty (srcTy f) m a b d else dotInt f.ty (srcTy f) f.sat m a b d))
def execDot2 (f : Full) (s : State) : Out := .next (wordMap (.dot2 f) (dotWord f 2) s)
def execDot4 (f : Full) (s : State) : Out := .next (wordMap (.dot4 f) (dotWord f 4) s)
def execDot8 (f : Full) (s : State) : Out := .next (wordMap (.dot8 f) (dotWord f 8) s)

/-- a x 2^(e - 127), e an E8M0 code (R174). -/
def fmuleRound (rm : Rm) (a e : Nat) : Rounded :=
  let v := fvOf .f32 a
  if e = 255 || fvIsNaN v then plainNaN
  else if fvIsInf v || fvIsZero v then ⟨a, 0⟩
  else roundTo .f32 rm false (shiftFV ((e : Int) - 127) v)

def fmuleWord (f : Full) (e : Env) (t : Thread) : TRes :=
  .ok (putRounded t f.d.toNat
    (fmuleRound f.rm (readV t f.a.toNat).toNat (elemAt 8 (readB32 e t f).toNat (opxN f % 4))))
def execFmule (f : Full) (s : State) : Out := .next (wordMap (.fmule f) (fmuleWord f) s)

/-! ### Special functions (R175, R176): long-latency, in passes of 16 threads (R314) -/

/-- The latency of the SFU: 13 cycles and one a pass (R312, R314). -/
def sfuLatency (e : Env) (i : Instr) : Nat := 13 + ((e.k.threads.filter (takesWord e i)).length + 15) / 16

def sfuWord (i : Instr) (f : Full) (g : Rm → FV → Rounded) (e : Env) (t : Thread) : TRes :=
  let r := g f.rm (f32Of (readV t f.a.toNat))
  .ok (lateResult e t f.fsel (sfuLatency e i) [(f.d.toNat, BitVec.ofNat 32 r.code)] r.flags)
def execRcp (f : Full) (s : State) : Out := .next (wordMap (.rcp f) (sfuWord (.rcp f) f rcpFn) s)
def execRsqrt (f : Full) (s : State) : Out := .next (wordMap (.rsqrt f) (sfuWord (.rsqrt f) f rsqrtFn) s)
def execSqrt (f : Full) (s : State) : Out := .next (wordMap (.sqrt f) (sfuWord (.sqrt f) f sqrtFn) s)
def execExp2 (f : Full) (s : State) : Out := .next (wordMap (.exp2 f) (sfuWord (.exp2 f) f exp2Fn) s)
def execLog2 (f : Full) (s : State) : Out := .next (wordMap (.log2 f) (sfuWord (.log2 f) f log2Fn) s)
def execTanh (f : Full) (s : State) : Out := .next (wordMap (.tanh f) (sfuWord (.tanh f) f tanhFn) s)
def execSin (f : Full) (s : State) : Out := .next (wordMap (.sin f) (sfuWord (.sin f) f sinFn) s)
def execCos (f : Full) (s : State) : Out := .next (wordMap (.cos f) (sfuWord (.cos f) f cosFn) s)

end Sys2Proof.Machine
end

