-- ==== Sys2Proof/Machine/Table.lean ====
section
/-! DEFINITION. The activation table: TBL, TBLLD and TBLSW (R177 to R181). -/

namespace Sys2Proof.Machine

open Sys2Proof

/-! ### Evaluation (R181) -/

/-- X0 is NaN or infinite, or a reserved bit is set (R178). -/
def descInvalid (d : BitVec 128) : Bool :=
  let x := fvOf .f32 (field d.toNat 31 0)
  fvIsNaN x || fvIsInf x || field d.toNat 127 41 != 0

def actBank (k : Core) : ActBank := if k.act then k.bank1 else k.bank0

/-- The whole part of a value at or above 0. -/
def floorFV : FV → Nat
  | .fin _ m e => if 0 ≤ e then m * 2 ^ e.toNat else m / 2 ^ (-e).toNat
  | _ => 0

/-- u - k, exactly. -/
def fracFV (u : FV) (k : Nat) : FV := (sumFV .rne [u, ofInt (-(k : Int))]).1

/-- Segment and position within it, for a distance u from X0 in steps. -/
def tableSeg (clamp : Bool) (u : FV) : Nat × FV :=
  let zero : FV := .fin false 0 0
  if cmpFV u zero < 0 then (0, if clamp then zero else u)
  else if 0 ≤ cmpFV u (ofInt 1023) then (if clamp then (1023, zero) else (1022, fracFV u 1022))
  else (floorFV u, fracFV u (floorFV u))

/-- The value within a segment from e0 to e1, f not 0. -/
def tableBetween (f e0 e1 : FV) : Rounded :=
  if fvIsNaN e0 || fvIsNaN e1 then plainNaN
  else if fvIsInf e0 || fvIsInf e1 then nanIV
  else
    let diff := (sumFV .rne [e1, fvMinus e0]).1
    match f with
    | .inf neg => if fvIsZero diff then nanIV else ⟨infCode .f32 (neg != fvNeg diff), 0⟩
    | f => roundWith .f32 .rne false (sumFV .rne [e0, (mulFV f diff).1])

def tableVal (b : ActBank) (x : Nat) : Rounded :=
  let xv := fvOf .f32 x
  let d := b.desc.toNat
  if descInvalid b.desc then nanIV
  else if fvIsNaN xv then plainNaN
  else
    let u := shiftFV (-(intOf .s8 (field d 39 32))) (sumFV .rne [xv, fvMinus (fvOf .f32 (field d 31 0))]).1
    let (k, f) := tableSeg (bitAt d 40) u
    let ent (j : Nat) : Nat := (tblGet b.ent j 0).toNat
    if fvIsZero f then
      (if fvIsNaN (fvOf .f32 (ent k)) then plainNaN else ⟨ent k, 0⟩)
    else tableBetween f (fvOf .f32 (ent k)) (fvOf .f32 (ent (k + 1)))

def tblWord (f : Full) (e : Env) (t : Thread) : TRes :=
  let r := tableVal (actBank e.k) (readV t f.a.toNat).toNat
  .ok (lateResult e t f.fsel (sfuLatency e (.tbl f)) [(f.d.toNat, BitVec.ofNat 32 r.code)] r.flags)
def execTbl (f : Full) (s : State) : Out := .next (wordMap (.tbl f) (tblWord f) s)

/-! ### Loading and switching (R178 to R180) -/

def imageBytes : Nat := 4112

/-- The threads in which TBLLD does not trap; the lowest slot supplies the address. -/
def loadTakers (f : Full) (e : Env) : List Nat :=
  sortBy (fun a b => decide (a ≤ b)) ((e.k.threads.filter fun t =>
    takesWord e (.tblld f) t && legalHere e (.tblld f) t
      && match checkAccOwn e t (readV t f.a.toNat) imageBytes 16 true false with | .at_ .. => true | _ => false).map (·.id.slot))

def tblldWord (f : Full) (e : Env) (t : Thread) : TRes :=
  let a := readV t f.a.toNat
  match checkAccOwn e t a imageBytes 16 true false with
  | .trap c code => .trap c code (addrArg a)
  | .at_ p w =>
    let fl := flagOf e.is f.fsel
    if (loadTakers f e).head? = some t.id.slot then
      .ok (pushAcc e t 0 (.tblld (loadTakers f e)) p imageBytes w false false fl)
    else .ok (addFlag t fl)

/-- The bank is not yet written, and the program port is taken for six cycles (R179, R312). -/
def execTblld (f : Full) (s : State) : Out :=
  .next (match s.env with
    | none => s
    | some e =>
      (wordMap (.tblld f) (tblldWord f) s).modCore s.cur fun k =>
        if (loadTakers f e).isEmpty then k else { k with portBusy := e.ck.cyc + 6 })

/-- The word before this one in the sheaf's clause is a TBLLD that a thread takes. -/
def behindLoad (e : Env) : Bool :=
  decide (e.is.first < e.is.widx)
    && match decodeWord (wordAt e.k e.is.sup (e.is.hdr + e.is.widx - 1)) with
      | .one (.tblld f) => e.k.threads.any (takesWord e (.tblld f))
      | _ => false

/-- TBLSW is held until every earlier TBLLD of the core has written its bank, and acts in the cycle after (R180, R181);
directly behind the last TBLLD the hold ends after ten cycles, in the cycle that writes the bank. -/
def tableHeld (s : State) (i : Instr) : Bool :=
  match i, s.env with
  | .tblsw _, some e => e.k.threads.any (takesWord e i)
      && (tableLoads e.k || (e.k.portBusy != 0 && e.ck.cyc == e.k.portBusy + 5 && !behindLoad e))
  | _, _ => false

/-- ACT inverts once when any guard holds; while the word is held it has no effect. -/
def execTblsw (f : Full) (s : State) : Out :=
  .next (match s.env with
    | none => s
    | some e =>
      if tableHeld s (.tblsw f) then s
      else
        (wordMap (.tblsw f) nopWord s).modCore s.cur fun k =>
          if e.k.threads.any (fun t => takesWord e (.tblsw f) t && legalHere e (.tblsw f) t) then { k with act := !k.act }
          else k)

/-- A loaded image: descriptor, then 1,024 entries (R178). -/
def bankOf (bs : List Byte) : ActBank :=
  let rec go : Nat → Nat → List Byte → Tbl Reg
    | 0, _, _ => []
    | n + 1, j, bs =>
      let w := ofLe (bs.take 4)
      if w = 0 then go n (j + 1) (bs.drop 4) else (j, BitVec.ofNat 32 w) :: go n (j + 1) (bs.drop 4)
  ⟨BitVec.ofNat 128 (ofLe (bs.take 16)), go 1024 0 (bs.drop 16)⟩

/-- The inactive bank takes an image (R179). -/
def loadBank (k : Core) (bs : List Byte) : Core :=
  if k.act then { k with bank0 := bankOf bs } else { k with bank1 := bankOf bs }

end Sys2Proof.Machine
end

