-- ==== Sys2Proof/Machine/Commit.lean ====
section
/-! DEFINITION. Commit points of direct accesses (R80 to R82, R88, R184 to R194, R207), the landing of results (R17, R314,
R315) and the arrival of delayed transfers (R147, R157). -/

namespace Sys2Proof.Machine

open Sys2Proof

/-! ### Which access may commit (R80, R82, R88) -/

def isLoad : AccKind → Bool
  | .load .. | .gfetch _ | .fill _ | .dispCount | .dispEntry | .tblld _ | .desc _ => true
  | .cntf add .. => !add
  | _ => false

def isStoreOrAtom : AccKind → Bool
  | .store _ | .atom .. => true
  | .cntf add .. => add
  | _ => false

/-- The two accesses name no bank word in common. -/
def apart (a b : Access) : Bool :=
  decide ((a.phys + a.size + 7) / 8 ≤ b.phys / 8) || decide ((b.phys + b.size + 7) / 8 ≤ a.phys / 8)

/-- The table of R80, first row that matches. -/
def mayPass (later earlier : Access) : Bool :=
  if later.path == earlier.path then false
  else if later.inv then true
  else later.path == .own && isLoad later.kind && isStoreOrAtom earlier.kind && apart later earlier

/-- A store of the same word in a lower slot names some of the same bytes, or the clear of the same filter, and has not committed
(R184, R207). -/
def earlierTwin (k : Core) (t : Thread) (a : Access) : Bool :=
  match a.kind with
  | .store _ => k.threads.any fun u => decide (u.id.slot < t.id.slot) && u.acc.any fun b =>
      b.cyc == a.cyc && (match b.kind with | .store _ => true | _ => false)
        && decide (b.phys < a.phys + max 1 a.size) && decide (a.phys < b.phys + b.size)
  | _ => false

/-- The TBLLDs of a core act in issue order (R179). -/
def earlierTable (k : Core) (a : Access) : Bool :=
  match a.kind with
  | .tblld _ => k.threads.any fun u => u.acc.any fun b =>
      (match b.kind with | .tblld _ => true | _ => false) && decide (b.id < a.id)
  | _ => false

/-- The access at place `i` of the thread's queues may commit. -/
def canCommit (s : State) (c : Nat) (t : Thread) (i : Nat) : Bool :=
  match t.acc[i]? with
  | none => false
  | some a =>
    (t.acc.take i).all (mayPass a) && (!a.rel || (i == 0 && releaseHolds s a)) && !earlierTwin (s.core c) t a
      && !earlierTable (s.core c) a

def latOf (a : Access) : Nat := match a.path with | .own => Config.latOwn | .partner => Config.latPartner

/-! ### The program port (R311, R313) -/

/-- The bank words of an access; one to a tag or of no bytes has none. -/
def bankWords (a : Access) : List Nat :=
  let lo := a.phys / 8
  if a.size = 0 then [] else (List.range ((a.phys + a.size - 1) / 8 + 1 - lo)).map (lo + ·)

/-- The bank of a bank word: its place in the slice modulo 96 (R48). -/
def bankOfWord (w : Nat) : Nat := w % (Config.sliceStep / 8) % 96

def banksOf (a : Access) : List Nat := (bankWords a).map bankOfWord

/-- In the place of a bank: the whole program port, as a table image and the clear of a filter take it (R179, R207). -/
def wholePort : Nat := 96

/-- A bank is among those that words have taken in a cycle. -/
def takesBank (l : List Nat) (b : Nat) : Bool := l.contains b || l.contains wholePort

/-- The banks of its own slice that the core's words took in a cycle, and those of its partner's slice. -/
def ownBanks (k : Core) (cyc : Nat) : List Nat := (k.portLog.filter fun x => x.1 == cyc).flatMap (·.2.1)
def farBanks (k : Core) (cyc : Nat) : List Nat := (k.portLog.filter fun x => x.1 == cyc).flatMap (·.2.2)

/-- A partner access meets at the target, 7 cycles after its issue, a word of that core in one of its banks (R311). -/
def contended (s : State) (a : Access) : Bool :=
  a.path == .partner && (banksOf a).any (takesBank (ownBanks (s.core (sliceCore a.phys)) (a.cyc + 7)))

/-- The cycle at which an access commits when nothing holds it (R311, R313, R314). -/
def dueCycle (s : State) (a : Access) : Nat :=
  max a.after (match a.kind with
    | .cntf _ r .. => a.cyc + r + (if a.path == .own then 0 else 8)
    | .tblld _ => a.cyc + 5
    | _ => a.cyc + latOf a + (contended s a).toNat)

/-- No word uses in this cycle the bank of a filter's row in slice `c`: neither the core's, nor the partner's that reach it
now (R311, R313). -/
def rowFree (s : State) (a : Access) : Bool :=
  let c := sliceCore a.phys
  let far := s.core (partnerOf c)
  let late := (farBanks far (s.cycle - 8)).filter (takesBank (ownBanks (s.core c) (s.cycle - 1)))
  (banksOf a).all fun b => !takesBank (ownBanks (s.core c) s.cycle ++ farBanks far (s.cycle - 7) ++ late) b

/-- An own-slice access that stood behind a partner access commits in the cycle after that one at the earliest (R317). -/
def heldBehind (cyc : Nat) (x a : Access) : Access :=
  if x.path == .partner && a.path == .own && !mayPass a x then { a with after := max a.after (cyc + 1) } else a

/-- The queue once its access at place `i` has committed. -/
def queueAfter (cyc i : Nat) (x : Access) (l : List Access) : List Access :=
  l.take i ++ (l.drop (i + 1)).map (heldBehind cyc x)

/-! ### What a load sees (R81, R92) -/

/-- The stores that the thread's tillers hold and that come before an access, in program order. -/
def heldStores (s : State) (t : Thread) (id : Nat) : List Access :=
  sortBy (fun a b => decide (a.id ≤ b.id)) ((heldItems s t).filterMap fun h =>
    match h with | .store a => if a.id < id then some a else none | _ => none)

/-- The bytes a store writes. -/
def storeBytes (a : Access) : List Byte :=
  match a.kind with
  | .store v => leBytes a.size v.toNat
  | _ => []

/-- What the held stores that write a byte put there, the youngest first. -/
def heldBytes (held : List Access) (p : Nat) : List Byte :=
  (held.reverse.filter fun a => decide (a.phys ≤ p) && decide (p < a.phys + a.size)).map fun a =>
    if 8 < a.size then 0 else (storeBytes a).getD (p - a.phys) 0

/-- The bytes as a load of the thread sees them: the youngest held store's, else the bank's (R92). An LD.i may read any value
written, of a held store or in the bank, since it breaks the promise of R63 when it follows a store of its thread (R185, log entry 87). -/
def loadBytes (s : State) (t : Thread) (a : Access) : List Byte :=
  let held := heldStores s t a.id
  (List.range a.size).map fun j =>
    let p := a.phys + j
    let hs := heldBytes held p
    if a.inv then invByte s t.id.launch hs p else hs.headD (memGet s.mem p)

def loadVal (s : State) (t : Thread) (a : Access) : Nat := ofLe (loadBytes s t a)

/-- Register writes of a loaded value of n bytes (R184). -/
def loadRegs (d n : Nat) (sext : Bool) (v : Nat) : List (Nat × Reg) :=
  if n = 8 then [(d, BitVec.ofNat 32 v), (d + 1, BitVec.ofNat 32 (v / 2 ^ 32))]
  else if sext && 2 ^ (8 * n - 1) ≤ v then [(d, BitVec.ofNat 32 (v + (2 ^ 32 - 2 ^ (8 * n))))]
  else [(d, BitVec.ofNat 32 v)]

/-! ### Effects at the commit point -/

/-- The result of an access joins the thread's results, to land no sooner than its latency (R314). -/
def State.addResult (s : State) (c sl : Nat) (r : Result) : State :=
  s.modThread c sl fun t => { t with res := t.res ++ [r] }

/-- The result of access `a` with these registers, in the cycle of its commit or once its latency has passed. -/
def accResult (s : State) (a : Access) (regs : List (Nat × Reg)) : Result :=
  ⟨max s.cycle (a.cyc + latOf a), a.cyc, regs, none, 0, a.flag, none, false⟩

/-- The transfer of the thread takes a word it waits for. -/
def State.modXfer (s : State) (c sl : Nat) (f : Xfer → Xfer) : State :=
  s.modThread c sl fun t => { t with xfer := t.xfer.map f }

/-- A table image has been read: its bank is written, and the flags of its sheaf clear, 11 cycles after issue (R179). -/
def State.tableRead (s : State) (c sl : Nat) (a : Access) (mates : List Nat) (bs : List Byte) : State :=
  let r : Result := ⟨max s.cycle (a.cyc + Config.latTable), a.cyc, [], none, 0, a.flag, none, false⟩
  (mates.filter (· != sl)).foldl (fun s m => s.addResult c m r) (s.addResult c sl { r with table := some bs })

/-- A row of the filter: the counter after it, and the least value so far (R207). -/
def rowVals (add : Bool) (old inc least : Nat) : Nat × Nat :=
  let x := if add then min (old + inc) 0xFFFF else old
  (x, min least x)

/-- Row r of a filter word takes effect, and the last one gives the result (R207, R313). -/
def State.cntfCommit (s : State) (c : Nat) (t : Thread) (a : Access) (add : Bool) (r inc least dst : Nat) : State :=
  let (x, l) := rowVals add (loadVal s t a) inc least
  let s := if add then (s.storeN a.phys 2 x).inertWaits a.phys else s
  if r = 3 then
    s.addResult c t.id.slot ⟨s.cycle + 6, a.cyc, [(dst, BitVec.ofNat 32 l)], none, 0, a.flag, none, false⟩
  else
    s.modThread c t.id.slot fun u => { u with acc := u.acc.map fun b =>
      match b.kind with
      | .cntf ad q key i _ d => if b.id = a.id + 1 then { b with kind := .cntf ad q key i l d } else b
      | _ => b }

/-- What access `a` of thread `t` of core `c` does at its commit point, the access itself already out of its queue. -/
def State.commitAcc (s : State) (c : Nat) (t : Thread) (a : Access) : State :=
  let sl := t.id.slot
  match a.kind with
  | .load d sext =>
    let s' := if a.inv then { s with freeCtr := s.freeCtr + 2 ^ 44 } else s
    s'.addResult c sl (accResult s a (loadRegs d a.size sext (loadVal s t a)))
  | .store _ => s.storeAcc a
  | .atom op ty b cmp d =>
    let old := memRead s.mem a.phys a.size
    ((s.storeN a.phys a.size (atomNew op ty old b.toNat cmp.toNat)).inertWaits a.phys).addResult c sl
      (accResult s a (oldRegs d ty old))
  | .barInit n => s.initBarrier a.phys n
  | .barArrive n d =>
    let (s', ph, m) := arriveBar s c t a.phys n
    s'.addResult c sl (accResult s a [(d, BitVec.ofNat 32 ph), (d + 1, BitVec.ofNat 32 m)])
  | .barWait ph n acq => s.meetBarrier c t a.phys ph n acq
  | .barArwt n =>
    let (s', ph, m) := arriveBar s c t a.phys n
    s'.meetBarrier c t a.phys ph m false
  | .slotClaim tag n => s.meetTag c t (a.phys / 1024) tag (some n)
  | .slotTake tag => s.meetTag c t (a.phys / 1024) tag none
  | .slotFree tag d =>
    let (s', st) := s.freeTag (a.phys / 1024) tag
    s'.addResult c sl { accResult s a [(d, statusReg st)] with status := true }
  | .gfetch gdd =>
    s.addResult c sl { accResult s a [] with guest := some (guestDecode gdd (loadVal s t a)) }
  | .dispCount => s.modXfer c sl fun x => { x with cnt := some (BitVec.ofNat 32 (loadVal s t a)) }
  | .dispEntry => s.modXfer c sl fun x => { x with ent := some (BitVec.ofNat 32 (loadVal s t a)) }
  | .fill j => s.modXfer c sl fun x => { x with words := x.words.set j (BitVec.ofNat 32 (loadVal s t a)) }
  | .desc j => s.modThread c sl (takeDescWord j (BitVec.ofNat 64 (loadVal s t a)))
  | .tblld mates => s.tableRead c sl a mates (loadBytes s t a)
  | .cntf add r _ inc least d => s.cntfCommit c t a add r inc least d

def isCntf (a : Access) : Bool := match a.kind with | .cntf .. => true | _ => false

/-- The access leaves its queue and takes effect; then fences of its core look again, and the Granary (R89, R253). -/
def commitAt (s : State) (c : Nat) (t : Thread) (i : Nat) (a : Access) : State :=
  (((s.modThread c t.id.slot fun u => { u with acc := queueAfter s.cycle i a u.acc }).commitAcc c t a).settleWaitsAt c).settleGran.lend c

/-- The access `ix` of thread `sub` of core `cur`, when it may commit. -/
def ripeAccess (s : State) (filter : Bool) : Option (Thread × Access) :=
  match s.thread s.cur s.sub with
  | none => none
  | some t =>
    match t.acc[s.ix]? with
    | none => none
    | some a =>
      if canCommit s s.cur t s.ix && isCntf a == filter && decide (dueCycle s a ≤ s.cycle) && (!filter || rowFree s a) then
        some (t, a)
      else none

/-- Access `ix` of thread `sub` of core `cur` commits (R80, R81). -/
def execDirectAccessCommit (s : State) : Out :=
  .next (match ripeAccess s false with
    | some (t, a) => commitAt s s.cur t s.ix a
    | none => s)

/-- A row of CNTF.ADD or CNTF.GET is served (R207, R313). -/
def execCntfRowServe (s : State) : Out :=
  .next (match ripeAccess s true with
    | some (t, a) => commitAt s s.cur t s.ix a
    | none => s)

/-! ### Results (R17, R314 to R316) -/

/-- A result lands: registers, guest registers, flags of FSR, the count of R44, and its completion flag. -/
def landResult (cyc : Nat) (t : Thread) (r : Result) : Thread :=
  let t := setFsr (writeLate cyc r.seq r.regs t) r.fsr
  let t := match r.guest with
    | some (gir, gop, ga0, ga1) => { t with gst := { t.gst with gir := gir, gop := gop, ga0 := ga0, ga1 := ga1 } }
    | none => t
  dropFlag (if r.status then { t with toc := 0 } else t) r.flag

/-- The result is the next to land in its thread: the earliest, and of those the earliest issued (R315). -/
def nextResult (t : Thread) (i : Nat) : Bool :=
  match t.res[i]? with
  | none => false
  | some r => t.res.all fun q => decide (r.at_ < q.at_) || (r.at_ == q.at_ && decide (r.seq ≤ q.seq))

/-- A table image lands after those of the core's earlier TBLLDs (R179). -/
def tableTurn (k : Core) (r : Result) : Bool :=
  r.table.isNone || k.threads.all fun u => u.res.all fun q => q.table.isNone || decide (r.seq ≤ q.seq)

/-- Result `i` of the thread may land. -/
def canLand (s : State) (c : Nat) (t : Thread) (i : Nat) : Bool :=
  match t.res[i]? with
  | none => false
  | some r => nextResult t i && decide (r.at_ ≤ s.cycle) && tableTurn (s.core c) r

/-- The registers that a result writes: those that a word which issued no earlier than the result's cycle has written at once
keep what the word wrote (R315). -/
def landRegs (k : Core) (sl : Nat) (r : Result) : List (Nat × Reg) :=
  match k.issue with
  | none => r.regs
  | some is => if r.at_ < is.next then
      r.regs.filter fun x => !(is.wrote.any fun w => w.1 == sl && w.2.contains x.1)
    else r.regs

/-- The bits of FSR that landings of this cycle have set (R11, R105). -/
def heat (cyc : Nat) (bits : Reg) (t : Thread) : Thread :=
  { t with hot := (cyc, if t.hot.1 = cyc then t.hot.2 ||| bits else bits) }

/-- Result `i` of a thread lands. -/
def landAt (s : State) (c : Nat) (t : Thread) (i : Nat) (r0 : Result) : State :=
  let r := { r0 with regs := landRegs (s.core c) t.id.slot r0 }
  let s1 := s.modCore c fun k => match r.table with | some bs => loadBank k bs | none => k
  ((s1.modThread c t.id.slot fun u => refreshFlags s.clock (s.core c) (landResult s.cycle (heat s.cycle r.fsr { u with res := u.res.eraseIdx i }) r)).settle c).lend c

/-- Result `ix` of thread `sub` of core `cur` lands, once its cycle has come. -/
def execResultLands (s : State) : Out :=
  .next (match s.thread s.cur s.sub with
    | none => s
    | some t =>
      match t.res[s.ix]? with
      | none => s
      | some r => if canLand s s.cur t s.ix then landAt s s.cur t s.ix r else s)

/-! ### Delayed transfers (R147, R157) -/

/-- What a DISPATCH of opcode `gop` does once its words have been read, `none` for the entry when it lies past the slice:
the trap it takes, or the handler. -/
def dispatchTo (k : Core) (t : Thread) (gop cnt : Reg) (ent : Option Reg) : Cause ⊕ Nat :=
  if cnt.toNat ≤ gop.toNat then .inl .guestUndefined
  else
    match ent with
    | none => .inl .bounds
    | some e =>
      if field e.toNat 30 15 != 0 then .inl .illegal
      else if e.getLsbD 31 then .inl .guestUndefined
      else if isHeader k t.id.sup (field e.toNat 14 0) then .inr (field e.toNat 14 0) else .inl .illegal

/-- The stack after a fill and the pop of its newest entry, and that entry (R147). -/
def filled (t : Thread) (words : List Reg) : Thread × Reg :=
  popEntry { t with sr := { t.sr with sp := t.sr.sp + 32 }, rs := { t.rs with held := 8, ent := words } }

/-- The record names the opcode that the DISPATCH issued with (R348). -/
def recordOp (gop : Reg) (t : Thread) : Thread :=
  { t with frec := t.frec.map fun r => if r.gm then { r with gop := gop } else r }

/-- The thread's transfer ends: it stands at its target, or traps at the word it left from with nothing changed. -/
def arriveXfer (ck : Clock) (k : Core) (t : Thread) (x : Xfer) (w : Nat) : Thread :=
  if x.ret then
    let (u, a) := filled t x.words
    if isHeader k t.id.sup a.toNat then arriveAt ck k u a.toNat none .flow else park ck t .illegal w 0 0
  else
    match dispatchTo k t x.gop (x.cnt.getD 0) x.ent with
    | .inl c => recordOp x.gop (park ck t c w 0 (if c == .bounds then BitVec.ofNat 64 (entryAddr t.gst.htb x.gop) else 0))
    | .inr h => arriveAt ck k t h (if x.pcMode then some t.gst.gpc else none) (.dispatch x.win)

/-- Every word the transfer waits for has been read. -/
def xferRead (t : Thread) (x : Xfer) : Bool :=
  (x.ret || x.cnt.isSome) && t.acc.all fun a => match a.kind with
    | .dispCount | .dispEntry | .fill _ => false
    | _ => true

/-- The transfer of thread `sub` of core `cur` arrives. -/
def execDelayedTransferArrival (s : State) : Out :=
  .next (match s.thread s.cur s.sub with
    | none => s
    | some t =>
      match t.xfer, t.wait with
      | some x, some w =>
        (match w.kind with
        | .transit wx =>
          if xferRead t x && decide (x.at_ ≤ s.cycle) then
            (s.modThread s.cur s.sub fun t => arriveXfer s.clock (s.core s.cur) t x wx).settle s.cur
          else s
        | _ => s)
      | _, _ => s)

end Sys2Proof.Machine
end

