-- ==== Sys2Proof/Machine/Lane.lean ====
section
/-! DEFINITION. Cross-lane instructions: the active set, SHFL, VOTE, REDUX, SCAN and SAMPLE (R200 to R205). -/

namespace Sys2Proof.Machine

open Sys2Proof

/-! ### The active set (R201) -/

/-- The thread takes part in the word: of the sheaf, guard true, and named by the gathering mask. -/
def isActive (e : Env) (i : Instr) (u : Thread) : Bool := takesWord e i u && u.pos.gmask.getLsbD (lanePos u)

/-- The active threads of the group of `t`, in position order. -/
def actives (e : Env) (i : Instr) (t : Thread) : List Thread :=
  sortBy (fun a b => decide (lanePos a ≤ lanePos b)) (e.k.threads.filter fun u => sameGroup t u && isActive e i u)

/-! ### SHFL (R202) -/

/-- The source position: idx, up, down, xor. -/
def shflSource (sel pos : Nat) : Int :=
  let c := field sel 5 0
  match field sel 7 6 with
  | 0 => c
  | 1 => (pos : Int) - c
  | 2 => (pos : Int) + c
  | _ => ((pos ^^^ c : Nat) : Int)

/-- The thread of the active set at a position. -/
def activeAt (l : List Thread) (width : Nat) (q : Int) : Option Thread :=
  if 0 ≤ q && q < width then l.find? fun u => (lanePos u : Int) == q else none

def shflWord (f : Full) (e : Env) (t : Thread) : TRes :=
  let q := shflSource (field (readB32 e t f).toNat 7 0) (lanePos t)
  let u := (activeAt (actives e (.shfl f) t) t.id.width q).getD t
  .ok (writeT t f.ty f.d.toNat (readA u f))
def execShfl (f : Full) (s : State) : Out := .next (wordMap (.shfl f) (shflWord f) s)

/-! ### VOTE (R203) -/

def ballotOf (p : Nat) (l : List Thread) : Nat :=
  (l.filter fun u => readP u p).foldl (fun n u => n ||| 2 ^ lanePos u) 0

def voteMode (p : Nat) (l : List Thread) : Nat → Bool
  | 0 => l.all fun u => readP u p
  | 1 => l.any fun u => readP u p
  | _ => (l.all fun u => readP u p) || l.all fun u => !readP u p

def voteWord (f : Full) (e : Env) (t : Thread) : TRes :=
  let l := actives e (.vote f) t
  .ok (writeP (writePair t f.d.toNat (BitVec.ofNat 64 (ballotOf f.a.toNat l))) f.b.toNat
    (voteMode f.a.toNat l (field (opxN f) 5 3)))
def execVote (f : Full) (s : State) : Out := .next (wordMap (.vote f) (voteWord f) s)

/-! ### REDUX and SCAN (R204) -/

/-- A NaN result is the canonical one (R96). -/
def canonNaN (x : Nat) : Nat := if fvIsNaN (fvOf .f32 x) then nanCode .f32 else x

/-- The least or greatest of a set as FMIN and FMAX give it, from the identity when the set is empty (R165). -/
def foldFloat (g : Nat → Nat → Nat) (unit : Nat) : List Nat → Nat
  | [] => unit
  | x :: r => canonNaN (r.foldl g x)

def foldInt (g : Int → Int → Int) (unit : Int) : List Int → Int
  | [] => unit
  | x :: r => r.foldl g x

/-- Bitwise reduction with its identity. -/
def foldBits (g : Reg → Reg → Reg) (unit : Reg) (l : List Reg) : Reg := l.foldl g unit

/-- REDUX.add of floats: the exact sum rounded once (R108). -/
def reduxAddF (l : List Nat) : Rounded :=
  if l.isEmpty then ⟨0, 0⟩ else roundWith .f32 .rne false (sumFV .rne (l.map (fvOf .f32)))

/-- SCAN.add of floats: a running sum, one rounding a step, from the first value taken exactly (R164, R204). -/
def scanAddF : List Nat → Rounded
  | [] => ⟨0, 0⟩
  | x :: r => r.foldl (fun p v =>
      let q := addRound .f32 .rne (fvOf .f32 p.code) (fvOf .f32 v)
      ⟨q.code, q.flags ||| p.flags⟩) ⟨canonNaN x, 0⟩

/-- The operation 0 add, 1 min or 2 max over a list of operands, at a type. -/
def laneArith (scan : Bool) (ty : Ty) (sat : Bool) (op : Nat) (l : List Reg) : Rounded :=
  let xs := l.map (·.toNat)
  if isF ty then
    match op with
    | 0 => if scan then scanAddF xs else reduxAddF xs
    | 1 => ⟨foldFloat (minCode .f32) (infCode .f32 false) xs, 0⟩
    | _ => ⟨foldFloat (maxCodeOf .f32) (infCode .f32 true) xs, 0⟩
  else
    let zs := xs.map (intOf ty)
    match op with
    | 0 =>
      let r := narrow ty sat (zs.foldl (· + ·) 0)
      ⟨r.1, r.2⟩
    | 1 => ⟨wrapN 32 (foldInt min (tyMax ty) zs), 0⟩
    | _ => ⟨wrapN 32 (foldInt max (tyMin ty) zs), 0⟩

/-- REDUX over the active set. Over the empty one .xor gives 0, the identity of exclusive or (DEDUCED, log entry 101). -/
def reduxVal (f : Full) (l : List Reg) : Rounded :=
  match field (opxN f) 5 3 with
  | 3 => ⟨(foldBits (· &&& ·) (BitVec.allOnes 32) l).toNat, 0⟩
  | 4 => ⟨(foldBits (· ||| ·) 0 l).toNat, 0⟩
  | 5 => ⟨(foldBits (· ^^^ ·) 0 l).toNat, 0⟩
  | op => laneArith false f.ty f.sat op l

def reduxWord (f : Full) (e : Env) (t : Thread) : TRes :=
  let r := reduxVal f ((actives e (.redux f) t).map fun u => readV u f.a.toNat)
  .ok (setFsr (writeV t f.d.toNat (BitVec.ofNat 32 r.code)) r.flags)
def execRedux (f : Full) (s : State) : Out := .next (wordMap (.redux f) (reduxWord f) s)

/-- Codes 4 to 6 are the exclusive forms of 0 to 2. -/
def scanTakes (f : Full) (t u : Thread) : Bool :=
  if 4 ≤ field (opxN f) 5 3 then decide (lanePos u < lanePos t) else decide (lanePos u ≤ lanePos t)

def scanWord (f : Full) (e : Env) (t : Thread) : TRes :=
  let l := ((actives e (.scan f) t).filter (scanTakes f t)).map fun u => readV u f.a.toNat
  let r := laneArith true f.ty f.sat (field (opxN f) 5 3 % 4) l
  .ok (setFsr (writeV t f.d.toNat (BitVec.ofNat 32 r.code)) r.flags)
def execScan (f : Full) (s : State) : Out := .next (wordMap (.scan f) (scanWord f) s)

/-! ### SAMPLE (R205) -/

/-- The weight of each position: Va of an active thread, +0 elsewhere. -/
def laneWeights (f : Full) (l : List Thread) (width : Nat) : List Nat :=
  (List.range width).map fun p => match l.find? fun u => lanePos u == p with
    | some u => (readV u f.a.toNat).toNat
    | none => 0

/-- SAMPLE: each writing thread raises the flags of SampleIndex (R110). -/
def sampleWord (f : Full) (e : Env) (t : Thread) : TRes :=
  let r := sampleIndex (laneWeights f (actives e (.sample f) t) t.id.width) (readB32 e t f).toNat
  let (ix, st) := match r.1 with
    | some i => (BitVec.ofNat 32 i, Status.done)
    | none => (BitVec.allOnes 32, Status.absent)
  .ok (setFsr (statusNow e (writeV t f.d.toNat ix) (f.d.toNat + 1) st) r.2)
def execSample (f : Full) (s : State) : Out := .next (wordMap (.sample f) (sampleWord f) s)

end Sys2Proof.Machine
end

