-- ==== Sys2Proof/Machine/Copy.lean ====
section
/-! DEFINITION. COPY and CKICK: operands (R211 to R217), transformations on fill (R64, R65), parts (R62), promises (R214,
R431), and how parts are performed, counted and posted (R66, R67, R83 to R85, R213). -/

namespace Sys2Proof.Machine

open Sys2Proof

/-! ### Local ranges (R48 to R51, R193, R211) -/

/-- An engine's local range lies in a slice that the core reaches. -/
def localOk (s : State) (c a len : Nat) : Bool :=
  field a 30 23 == 0 && decide (field a 22 0 + len ≤ Config.sliceBytes) && (!bitAt a 31 || partnerOpen s c)

/-- The range lies in the own slice. -/
def ownOk (a len : Nat) : Bool := a < 2 ^ 31 && field a 30 23 == 0 && decide (field a 22 0 + len ≤ Config.sliceBytes)

/-- Where a local address lies (R55). -/
def localPhys (c a : Nat) : Nat := sliceAt (if bitAt a 31 then partnerOf c else c) + field a 22 0

def barOk (s : State) (c : Nat) : Option Nat → Bool
  | none => true
  | some a => localOk s c a 16 && a % 16 == 0

def tagOk (s : State) (c : Nat) : Option Nat → Bool
  | none => true
  | some r => field r 30 10 == 0 && (!bitAt r 31 || partnerOpen s c)

/-! ### The plan of a copy (R64, R65, R213) -/

def floatSix (t : Ty) : Bool := isF t
def int4 : Ty → Bool
  | .s4 | .n4 => true
  | _ => false
def int8 : Ty → Bool
  | .s8 | .n8 => true
  | _ => false

/-- R65 allows the conversion. -/
def cvOk (src dst : Ty) : Bool := (floatSix src && floatSix dst) || (int4 src && int8 dst)

/-- A copy in units: `vb` bytes of the value array and `db` bytes of the destination each; widths; source type. -/
structure Plan where
  units : Nat
  vb : Nat
  db : Nat
  ws : Nat
  src : Ty
  deriving DecidableEq, Repr

def ctlBytes (x : CopyArg) : Nat := field x.ctl.toNat 22 0

/-- None: BAD_FORMAT (R211 to R213). A byte that packs two elements is one unit, whichever pages its sources lie in (DESIGN
CHOICE, log entry 96). -/
def planOf (x : CopyArg) : Option Plan :=
  let ctl := x.ctl.toNat
  let n8 := ctlBytes x * 8
  if field ctl 31 28 != 0 then none
  else if !x.xp && !x.cv then (if field ctl 27 23 != 0 then none else some ⟨ctlBytes x, 1, 1, 8, .n8⟩)
  else
    match tyOf (field ctl 27 23) with
    | none => none
    | some st =>
      let ws := tyBits st
      let wd := if x.cv then tyBits x.ty else ws
      if n8 % wd ≠ 0 || (x.cv && !cvOk st x.ty) then none
      else
        let n := n8 / wd
        if x.xp then
          if n % 4 ≠ 0 || (ws != 4 && ws != 8 && ws != 16) || n * ws % 16 ≠ 0 then none
          else some ⟨n / 4, ws / 4, wd / 2, ws, st⟩
        else if n * ws % 8 ≠ 0 then none
        else
          let per := max (8 / min ws 8) (8 / min wd 8)
          if n % per ≠ 0 then none else some ⟨n / per, per * ws / 8, per * wd / 8, ws, st⟩

/-- The global ranges that a copy names (R62, R213). -/
def copyRanges (x : CopyArg) (p : Plan) : List (Nat × Nat) :=
  if x.xp then [(x.gaddr, p.units * p.vb), (x.maddr, (p.units + 1) / 2)] else [(x.gaddr, p.units * p.vb)]

/-- The local side, the barrier and the tag can be reached (R211). -/
def copyLocalOk (s : State) (c : Nat) (x : CopyArg) : Bool :=
  localOk s c x.laddr (ctlBytes x) && barOk s c x.bar && tagOk s c x.tag

/-! ### Elements on fill -/

/-- Elements of width w from bytes, the low nibble first (R100). -/
def elemsOf (w : Nat) (bs : List Byte) : List Nat :=
  if w = 4 then bs.foldr (fun b r => b.toNat % 16 :: b.toNat / 16 :: r) []
  else go (w / 8) (bs.length) bs
where
  go (k : Nat) : Nat → List Byte → List Nat
    | 0, _ => []
    | fuel + 1, bs => if bs.isEmpty then [] else ofLe (bs.take k) :: go k fuel (bs.drop k)

def packElems (w : Nat) : List Nat → List Byte
  | [] => []
  | [x] => if w = 4 then [BitVec.ofNat 8 (x % 16)] else leBytes (w / 8) x
  | x :: y :: r =>
    if w = 4 then BitVec.ofNat 8 (x % 16 + 16 * (y % 16)) :: packElems w r
    else leBytes (w / 8) x ++ packElems w (y :: r)

/-- One element converted (R65). -/
def cvElem (src dst : Ty) (sat : Bool) (x : Nat) : Nat :=
  if isF dst then (roundTo dst .rne sat (fvOf src x)).code else wrapN 8 (intOf src x)

/-- One group of four dense elements from its two values and its nibble (R64). -/
def expandGroup (v0 v1 m : Nat) : List Nat × Bool :=
  let i0 := m % 4
  let i1 := m / 4 % 4
  if i0 < i1 then ((List.range 4).map fun j => if j = i0 then v0 else if j = i1 then v1 else 0, true)
  else ([0, 0, 0, 0], false)

def expandAll : List Nat → List Nat → List Nat × Bool
  | v0 :: v1 :: vs, m :: ms =>
    let (g, ok) := expandGroup v0 v1 m
    let (r, ok') := expandAll vs ms
    (g ++ r, ok && ok')
  | _, _ => ([], true)

/-- The destination bytes of a run of units from its value bytes and its nibbles, and whether its metadata is good. -/
def fillBytes (x : CopyArg) (p : Plan) (val : List Byte) (nibs : List Nat) : List Byte × Bool :=
  if !x.xp && !x.cv then (val, true)
  else
    let (dense, ok) := if x.xp then expandAll (elemsOf p.ws val) nibs else (elemsOf p.ws val, true)
    if x.cv then (packElems (tyBits x.ty) (dense.map (cvElem p.src x.ty x.sat)), ok) else (packElems p.ws dense, ok)

/-! ### Parts (R62) -/

/-- Units from unit `u` on that lie wholly in one page of each side; a unit that straddles two pages stands alone. -/
def unitRun (o : Op) (x : CopyArg) (p : Plan) (u : Nat) : Nat :=
  let left := p.units - u
  let va := x.gaddr + u * p.vb
  let byVal := match pageEnd o va with | some e => (e - va) / p.vb | none => left
  let ma := x.maddr + u / 2
  let byMeta := if x.xp then (match pageEnd o ma with | some e => 2 * (e - ma) - u % 2 | none => left) else left
  max 1 (min left (min byVal byMeta))

/-- Bit 31 of the tag reference: the tag is the partner's (R193). -/
def farTag (tag : Option Nat) : Bool := tag.any fun r => bitAt r 31

/-- The part of units u to u + n - 1. One that faults where its copy is accepted counts there, but on a tag of the partner's it
counts in its own turn of a tick (R76). A part whose pages differ in kind, its metadata's page among them, takes the weaker kind,
which R62 and R83 leave open (log entry 65). -/
def partOf (s : State) (o : Op) (x : CopyArg) (p : Plan) (u n : Nat) : Part :=
  let va := x.gaddr + u * p.vb
  let page := pageAt o va
  let bad := match runCause s o (if x.out then .write else .read) (n * p.vb / 65536 + 3) va (n * p.vb) with
    | some r => some r
    | none => if x.xp then runCause s o .read (n / 131072 + 3) (x.maddr + u / 2) ((u + n + 1) / 2 - u / 2) else none
  let kindAt (a : Nat) : Nat := ((pageAt o a).map (·.kind)).getD 0
  let kind := max (kindAt va) (kindAt (va + n * p.vb - 1))
  { gva := va, len := n * p.vb, off := u * p.db, dlen := n * p.db,
    kind := if x.xp then max kind (kindAt (x.maddr + u / 2)) else kind,
    inv := x.inv && (page.map (·.inv)).getD false, write := x.out,
    cause := (bad.map (·.1)).getD .none, fva := (bad.map fun r => r.2.1).getD 0,
    st := if bad.isSome && !farTag x.tag then 2 else 0, posted := false }

def partsFrom (s : State) (o : Op) (x : CopyArg) (p : Plan) : Nat → Nat → List Part
  | 0, _ => []
  | fuel + 1, u =>
    if p.units ≤ u then []
    else
      let n := unitRun o x p u
      partOf s o x p u n :: partsFrom s o x p fuel (u + n)

def copyParts (s : State) (o : Op) (x : CopyArg) (p : Plan) : List Part :=
  partsFrom s o x p ((2 * p.units * p.vb + p.units) / 65536 + 12) 0

/-- The fault at the lowest address among the ranges of an operation (R432): cause, address, pager future. -/
def lowestFault (s : State) (o : Op) (need : Need) (rs : List (Nat × Nat)) : Option (EFault × Nat × Quad) :=
  let all := rs.filterMap fun r => runCause s o need (r.2 / 65536 + 3) r.1 r.2
  (sortBy (fun a b => decide (a.2.1 ≤ b.2.1)) all).head?

/-! ### Promises (R214, R431) -/

/-- Resource codes: HBM stack 0 to 7, second-tier channel 8 to 31, slice port 32 to 287, bridge direction from 288,
Ethernet port 400 and 401, PCI Express 402. Dies 0 to 3, and 4 for the hub. -/
def bridgeCode (src dst : Nat) : Nat := 288 + src * 8 + dst

def defaultBw (r : Nat) : Nat :=
  if r < 8 then 1024 else if r < 32 then 64 else if r < 288 then 384 else if r < 400 then 512 else if r < 402 then 32 else 48

def bwOf (s : State) (r : Nat) : Nat := max 1 (tblGet s.hub.plinth.bw r (defaultBw r))
def lrouteOf (s : State) (kind : Nat) : Nat := tblGet s.hub.plinth.lroute kind 1200

/-- One run of bytes across resources: resource, bytes, route kind. -/
structure Crossing where
  res : Nat
  n : Nat
  kind : Nat
  deriving DecidableEq, Repr

/-- What `n` bytes at physical address `p`, within one 4 KiB block, cross on their way between the global side and the
slice of a core of die `die`. Route kinds: 0 HBM, 1 HBM over a compute bridge, 2 second tier, 3 SRAM of the die, 4 SRAM
over a bridge, 5 PCI Express, 6 RoCEv2. Blocks of the second tier are counted from its start (log entry 82). -/
def crossBlock (s : State) (die : Nat) (out : Bool) (p n : Nat) : List Crossing :=
  let bridge (gd kind : Nat) : List Crossing :=
    if gd = die then [] else [⟨if out then bridgeCode die gd else bridgeCode gd die, n, kind⟩]
  match (regionOf p).1 with
  | .hbm =>
    let stack := p / 4096 % 8
    let kind := if stack / 2 = die then 0 else 1
    ⟨stack, n, kind⟩ :: bridge (stack / 2) kind
  | .second => ⟨8 + (p - 0x20000000000) / 4096 % 24, n, 2⟩ :: bridge 4 2
  | .sram =>
    let c := sliceCore p
    let kind := if dieOf c = die then 3 else 4
    ⟨32 + c, n, kind⟩ :: bridge (dieOf c) kind
  | .aperture =>
    let r := windowReg s ((p - 0x80000000000) / 0x80000000)
    if field r 2 1 = 0 then ⟨402, n, 5⟩ :: bridge 4 5
    else ⟨400 + (linkAt s p).getD 0 / 2, n, 6⟩ :: bridge 4 6
  | .hole => []

/-- The crossings of a physical run, block by block. -/
def crossRun (s : State) (die : Nat) (out : Bool) : Nat → Nat → Nat → List Crossing
  | 0, _, _ => []
  | fuel + 1, p, n =>
    if n = 0 then []
    else
      let k := min n (4096 - p % 4096)
      crossBlock s die out p k ++ crossRun s die out fuel (p + k) (n - k)

/-- The crossings of a run of translated addresses. -/
def crossVa (s : State) (o : Op) (die : Nat) (out : Bool) : Nat → Nat → Nat → List Crossing
  | 0, _, _ => []
  | fuel + 1, va, n =>
    if n = 0 then []
    else
      let k := match pageEnd o va with | some e => min n (e - va) | none => n
      (if (pageAt o va).isSome then crossRun s die out (k / 4096 + 2) (physAt o va) k else [])
        ++ crossVa s o die out fuel (va + k) (n - k)

/-- The route kind of a part, which every resource that it crosses takes (R214, R431): HBM or the SRAM window over a compute
bridge if some of its bytes cross one. A part of several memories, its value array's and its metadata's or those of two pages,
takes the kind with the greatest latency, which R431 leaves open (log entry 82). -/
def partKind (s : State) (far : List Crossing) : Option Nat :=
  let ks := (far.map (·.kind)).eraseDups
  let own := ks.filter fun k => !(k == 0 && ks.contains 1) && !(k == 3 && ks.contains 4)
  own.foldl (fun m k => match m with
    | some j => some (if lrouteOf s j < lrouteOf s k then k else j)
    | none => some k) none

/-- The crossings of a part, the local port among them, which the bytes of the slice cross (log entry 82). -/
def crossPart (s : State) (o : Op) (x : CopyArg) (p : Plan) (a : Part) : List Crossing :=
  if a.cause != .none then []
  else
    let lc := if bitAt x.laddr 31 then partnerOf o.core else o.core
    let die := dieOf lc
    let far := crossVa s o die x.out 4 a.gva a.len
      ++ (if x.xp then
            let u := a.off / p.db
            let n := a.dlen / p.db
            crossVa s o die false 4 (x.maddr + u / 2) ((u + n + 1) / 2 - u / 2)
          else [])
    match partKind s far with
    | none => []
    | some kind => ⟨32 + lc, a.dlen, kind⟩ :: far.map fun y => { y with kind := kind }

/-- Bytes and greatest route latency of each resource of a request. -/
def joinCross (s : State) (l : List Crossing) : List (Nat × Nat × Nat) :=
  ((l.map (·.res)).eraseDups).map fun r =>
    let mine := l.filter fun x => x.res == r
    (r, mine.foldl (fun n x => n + x.n) 0, mine.foldl (fun m x => max m (lrouteOf s x.kind)) 0)

def ceilDiv (n d : Nat) : Nat := (n + d - 1) / d

/-- The reservations of a request from T0: the machine after them, and the promise (R214). -/
def reserve (s : State) (t0 : Nat) : List (Nat × Nat × Nat) → State × Nat
  | [] => (s, t0)
  | (r, n, l) :: rest =>
    let e := max (tblGet s.free r 0) t0 + ceilDiv n (bwOf s r)
    let (s1, p) := reserve { s with free := tblPut s.free r e } t0 rest
    (s1, max p (e + l))

/-- T0 of an operation: TIME, and for a release also the promises of the copies that it waits for: those open that touch an
S or C page, and those whose posted writes are in flight (R88, R215). -/
def startTime (s : State) (o : Op) (rel : Bool) : Nat :=
  if !rel then s.time
  else
    let open_ := (s.ops.filter fun p => o.relOps.contains p.id && p.cls == 0 && touchesSC p).map (·.promise.getD 0)
    let flying := (s.posted.filter fun w => o.relPosts.contains w.id || (o.relOps.contains w.op && w.kind != 2)).map (·.promise.getD 0)
    (open_ ++ flying).foldl max s.time

/-! ### Counting (R66, R74, R76) -/

/-- `n` bytes count the named barrier and tag. -/
def State.countBytes (s : State) (c : Nat) (bar tag : Option Nat) (n : Nat) (short : Bool) : State :=
  if n = 0 then s
  else
    let s := match bar with | some a => s.decBarrier (localPhys c a) n short | none => s
    match tag with
    | some r => s.countTag (if bitAt r 31 then partnerOf c else c) (field r 9 0) n short
    | none => s

/-- Bytes that a part counts: those written into the slice, or sent out of it (R66). -/
def partBytes (a : Part) : Nat := if a.write then a.len else a.dlen

/-- Parts in state `st` count as undelivered. -/
def State.countParts (s : State) (c : Nat) (bar tag : Option Nat) (st : Nat) (ps : List Part) : State :=
  ps.foldl (fun s a => if a.st = st then s.countBytes c bar tag (partBytes a) true else s) s

/-! ### Performing a part (R83 to R85, R213) -/

/-- Metadata nibbles of units u to u + n - 1. -/
def nibbles (s : State) (o : Op) (maddr u : Nat) : Nat → List Nat
  | 0 => []
  | n + 1 => (memGet s.mem (busAt s (physAt o (maddr + u / 2)))).toNat / 16 ^ (u % 2) % 16 :: nibbles s o maddr (u + 1) n

/-- The bytes that a read part takes (R63, R85). -/
def partSource (s : State) (o : Op) (a : Part) : List Byte :=
  if a.inv then (List.range a.len).map fun j => invByte s o.launch [] (busAt s (physAt o (a.gva + j))) else readVa s o a.gva a.len

def isSlicePhys (p : Nat) : Bool := (regionOf p).1 == .sram
def isAperture (p : Nat) : Bool := (regionOf p).1 == .aperture

/-- A write part, number `j`, reaches a slice at once, and is posted elsewhere; one of an S page is not complete before it has
been performed (R83, R84). -/
def State.writePart (s : State) (o : Op) (j : Nat) (a : Part) (bs : List Byte) : State :=
  let cs := ((List.range a.len).zip bs).map fun x => (busAt s (physAt o (a.gva + x.1)), x.2)
  let p := physAt o a.gva
  if isSlicePhys p then (s.storeCells cs).inertWaits p
  else
    { s with posted := s.posted ++ [⟨s.nextPosted, o.id, o.core, o.threads.headD 0, o.launch, o.cls, a.kind,
                                       ((pageAt o a.gva).map fun x => (x.va, x.bytes)).getD (a.gva, a.len), o.promise,
                                       if a.kind = 0 then some j else none, cs,
                                       isAperture p, linkAt s p, j⟩],
             nextPosted := s.nextPosted + 1 }

/-- A part, number `j`, moves its bytes; the flag says that its metadata was good. The metadata of an invariant copy is read as any
other, whatever the INV of its page, which R213 leaves open (log entry 82). -/
def State.movePart (s : State) (o : Op) (x : CopyArg) (p : Plan) (j : Nat) (a : Part) : State × Bool :=
  if x.out then (s.writePart o j a (memBytes s.mem (localPhys o.core x.laddr + a.off) a.len), true)
  else
    let nibs := if x.xp then nibbles s o x.maddr (a.off / p.db) (a.dlen / p.db) else []
    let (bs, ok) := fillBytes x p (partSource s o a) nibs
    let dest := localPhys o.core x.laddr + a.off
    let s1 := if a.inv then { s with freeCtr := s.freeCtr + 2 ^ 44 } else s
    ((s1.store dest bs).inertWaits dest, ok)

/-- A write part on an S page outside every slice: posting it does not perform it (R84). -/
def postsS (o : Op) (a : Part) : Bool := a.write && a.kind == 0 && !isSlicePhys (physAt o a.gva)

def setPart (ps : List Part) (i st : Nat) : List Part := ps.modify i fun a => { a with st := st }

def markPosted (ps : List Part) (i : Nat) : List Part := ps.modify i fun a => { a with posted := true }

/-- The bytes of a part of operation `op` are about to count: what a waiter on the barrier or the tag then observes (R86, R88). -/
def State.countedFor (s : State) (op c : Nat) (bar tag : Option Nat) : State :=
  let s1 := match bar with | some a => countedBy s op (localPhys c a) | none => s
  match tag with
  | some r => countedIn s1 op (if bitAt r 31 then partnerOf c else c) (field r 9 0)
  | none => s1

/-! ### Causes (R432) -/

/-- The lesser of two causes by code, no cause last. -/
def lesserCause (a b : EFault) : EFault :=
  if a == .none then b else if b == .none then a else if efaultCode a ≤ efaultCode b then a else b

/-- The cause is found when pages are translated and checked (R432). -/
def isEarly (c : EFault) : Bool := decide (1 ≤ efaultCode c) && decide (efaultCode c ≤ 5)

/-- A cause found as a part is performed joins the one that stands: one of 1 to 5 stays, else the lesser stands (R432). -/
def joinCause (a b : EFault) : EFault := if isEarly a then a else lesserCause a b

/-- Bytes from a physical address on lie on a failing HBM channel that has no spare (R422). -/
def onBadChan (s : State) (p n : Nat) : Bool :=
  !s.svc.badChans.isEmpty && (List.range n).any fun j =>
    (regionOf (p + j)).1 == .hbm && s.svc.badChans.contains ((p + j) / 4096 % 8, Config.hbmChannel (p + j) % 32)

/-- Some of the bytes of a range of translated addresses do (R422). -/
def vaBad (s : State) (o : Op) (va n : Nat) : Bool :=
  !s.svc.badChans.isEmpty && (List.range n).any fun j => onBadChan s (physAt o (va + j)) 1

/-- A read of translated ranges meets a failing channel: its KIND 2 record, of the channel of the first such byte (R417, R419,
R422). -/
def State.logBad (s : State) (o : Op) (rs : List (Nat × Nat)) : State :=
  match rs.findSome? (fun r => ((List.range r.2).map fun j => physAt o (r.1 + j)).find? fun p => onBadChan s p 1) with
  | some p => s.logRec 2 (p / 4096 % 8 * 32 + Config.hbmChannel p % 32) (if o.sup then 0 else o.launch) 4
  | none => s

/-- What a run of bytes of one page or two meets as its part starts: its window (R395), and for a read a failing channel (R422).
The cause and the address of the page's bytes that meet it. -/
def startFault (s : State) (o : Op) (va n : Nat) (write : Bool) : Option (EFault × Nat) :=
  let one (va n : Nat) : Option (EFault × Nat) :=
    let p := physAt o va
    let c := if isAperture p then apertureFault s p write else if !write && onBadChan s p n then .uncorrectable else .none
    if c == .none then none else some (c, va)
  let k := match pageEnd o va with | some e => min n (e - va) | none => n
  (one va k).or (if k < n then one (va + k) (n - k) else none)

/-- The metadata that a part of an expanding copy reads: address and length. -/
def metaRange (x : CopyArg) (p : Plan) (a : Part) : Option (Nat × Nat) :=
  let u := a.off / p.db
  if x.xp then some (x.maddr + u / 2, (u + a.dlen / p.db + 1) / 2 - u / 2) else none

/-- A part that met a failing channel makes its record. -/
def State.logPart (s : State) (o : Op) (x : CopyArg) (p : Plan) (a : Part) (c : EFault) : State :=
  if c == .uncorrectable then s.logBad o ((if a.write then [] else [(a.gva, a.len)]) ++ (metaRange x p a).toList) else s

/-- The fault that a part of a copy meets as it starts: cause and address, an early cause first, the lower address first (R395,
R432). -/
def copyStart (s : State) (o : Op) (x : CopyArg) (p : Plan) (a : Part) : Option (EFault × Nat) :=
  let side := (startFault s o a.gva a.len a.write).toList
  let meta_ := (metaRange x p a).toList.filterMap fun r => startFault s o r.1 r.2 false
  let l := sortBy (fun y z => decide (y.2 ≤ z.2)) (side ++ meta_)
  (l.find? fun y => isEarly y.1).or l.head?

/-- The fault of an operation, or of a record, once a part of it has met another as it started (R432): cause, address. -/
def meetStart (old : EFault × Nat) (new : EFault × Nat) : EFault × Nat :=
  if isEarly new.1 then (if isEarly old.1 && decide (old.2 ≤ new.2) then old else new) else (joinCause old.1 new.1, old.2)

/-! ### COPY -/

/-- The global ranges that a copy names, also one whose control word breaks a rule: its source type and BYTES still name
them (R432). -/
def copyNeeds (x : CopyArg) : List (Nat × Nat) :=
  match planOf x with
  | some p => copyRanges x p
  | none =>
    if !x.xp && !x.cv then [(x.gaddr, ctlBytes x)]
    else
      match tyOf (field x.ctl.toNat 27 23) with
      | none => []
      | some st =>
        let n := ctlBytes x * 8 / (if x.cv then tyBits x.ty else tyBits st)
        if x.xp then [(x.gaddr, (n * tyBits st + 15) / 16), (x.maddr, (n + 7) / 8)] else [(x.gaddr, (n * tyBits st + 7) / 8)]

/-- The fault at the lowest faulting address of the ranges: the first range's side may be written, the metadata is read. -/
def copyFault (s : State) (o : Op) (x : CopyArg) : Option (EFault × Nat × Quad) :=
  let l := copyNeeds x
  match lowestFault s o (if x.out then .write else .read) (l.take 1), lowestFault s o .read (l.drop 1) with
  | some a, some b => if a.2.1 ≤ b.2.1 then some a else some b
  | some a, none => some a
  | none, b => b

/-- A copy is accepted and faults at once: the fault of its pages comes before that of its operands (R432). -/
def State.refuseCopy (s : State) (o : Op) (bad : Option (EFault × Nat × Quad)) (c : EFault) : State :=
  s.accept o (fun o => match bad with
    | some (c, va, pg) => { o with cause := c, fva := va, pgf := pg }
    | none => { o with cause := c }) none

/-- A copy is accepted (R213): its parts and its promise, which a failed translation withholds (R71), or the fault of its
operands. -/
def State.acceptCopy (s : State) (o : Op) (x : CopyArg) : State :=
  let bad := copyFault s o x
  match planOf x with
  | none => s.refuseCopy o bad .badFormat
  | some p =>
    if !copyLocalOk s o.core x then s.refuseCopy o bad .bounds
    else if p.units = 0 then s.accept o id (some (startTime s o o.rel))
    else
      let ps := copyParts s o x p
      let (s1, pr) := reserve s (startTime s o o.rel) (joinCross s (ps.foldl (fun l a => l ++ crossPart s o x p a) []))
      let s2 := s1.accept o (fun o => match bad with
        | some (c, va, pg) => { o with parts := ps, cause := c, fva := va, pgf := pg }
        | none => { o with parts := ps }) (if o.faults.isEmpty then some pr else none)
      s2.countParts o.core x.bar x.tag 2 ps

/-- Part `i` of a copy has been performed, or posted on a C or N page: the barrier and the tag count its bytes, and the copy
completes with its last part (R66, R67). -/
def State.copyLanded (s : State) (o : Op) (x : CopyArg) (i : Nat) : State :=
  let n := ((o.parts[i]?).map partBytes).getD 0
  ((((s.modOp o.id fun o => { o with parts := setPart o.parts i 1 }).countedFor o.id o.core x.bar x.tag).countBytes o.core x.bar
    x.tag n false)).finishIfOver o.id

/-- Part `i` of a copy is performed: its bytes, the barrier and the tag, and the completion when it was the last (R67); a
window that has closed faults it (R395). -/
def State.performCopy (s : State) (o : Op) (x : CopyArg) (i : Nat) (a : Part) : State :=
  match planOf x with
  | none => s
  | some p =>
    match copyStart s o x p a with
    | some y =>
      (((s.logPart o x p a y.1).modOp o.id fun o =>
        let z := meetStart (o.cause, o.fva) y
        { o with parts := setPart o.parts i 2, cause := z.1, fva := z.2, pgf := if z = (o.cause, o.fva) then o.pgf else 0 }).countBytes
          o.core x.bar x.tag (partBytes a) true).finishIfOver o.id
    | none =>
      let (s1, ok) := s.movePart o x p i a
      let s2 := s1.modOp o.id fun o => { o with cause := if ok then o.cause else joinCause o.cause .badMeta }
      if postsS o a then s2.modOp o.id fun o => { o with parts := markPosted o.parts i } else s2.copyLanded o x i

/-- The part has faulted as its operation was accepted, and its bytes have not been counted. -/
def refused (a : Part) : Bool := a.st == 0 && a.cause != .none

/-- Such a part of a copy counts its bytes as undelivered (R66, R76). -/
def State.refusePart (s : State) (o : Op) (x : CopyArg) (i : Nat) (a : Part) : State :=
  ((s.modOp o.id fun o => { o with parts := setPart o.parts i 2 }).countBytes o.core x.bar x.tag (partBytes a) true).finishIfOver o.id

/-! ### CKICK (R216, R217) -/

/-- The list of records is in range. -/
def kickOk (s : State) (c base count : Nat) : Bool :=
  decide (count ≤ 4096) && base % 32 == 0 && localOk s c base (32 * count)

/-- A record as its 32 bytes stand (R216). -/
def recOf (v : Nat) : KickRec :=
  { gaddr := field v 63 0, laddr := field v 95 64, bytes := field v 118 96, out := bitAt v 119, inv := bitAt v 120,
    rel := bitAt v 121, bar := if bitAt v 122 then some (field v 159 128) else none,
    tag := if bitAt v 123 then some (field v 191 160) else none, bad := bitAt v 119 && bitAt v 120, parts := [], pages := [],
    lost := false, accepted := false, promise := none, ended := none, cause := .none, fva := 0, pgf := 0 }

/-- A record acts as a COPY of its fields, without expansion or conversion (R217). -/
def recCopy (r : KickRec) : CopyArg :=
  { out := r.out, inv := r.inv, gaddr := r.gaddr, maddr := 0, laddr := r.laddr, ctl := BitVec.ofNat 32 r.bytes,
    bar := r.bar, tag := r.tag, xp := false, cv := false, ty := .b32, sat := false }

def recPlan (r : KickRec) : Plan := ⟨r.bytes, 1, 1, 8, .n8⟩

/-- Where record `j` of a kick lies. -/
def recAt (c base j : Nat) : Nat := localPhys c base + 32 * j

def modRec (o : Op) (j : Nat) (f : KickRec → KickRec) : Op :=
  match o.kind with
  | .ckick b n recs => { o with kind := .ckick b n (recs.modify j f) }
  | _ => o

/-- STATUS of a record, bits 127:124 (R216). -/
def State.putRecStatus (s : State) (p st : Nat) : State :=
  s.storeN (p + 15) 1 ((memGet s.mem (p + 15)).toNat % 16 + 16 * st)

/-- The record that a kick works on: fetched and not yet accepted. -/
def openRec (recs : List KickRec) : Option (Nat × KickRec) :=
  match recs.getLast? with
  | some r => if r.accepted then none else some (recs.length - 1, r)
  | none => none

def recReady (r : KickRec) : List (Nat × Nat) := [(r.gaddr, r.bytes)]

/-- The next record is fetched, and its STATUS becomes 0xF (R216, R217). Its pages are looked up anew (R365). -/
def State.fetchRec (s : State) (o : Op) (base count : Nat) (recs : List KickRec) : State :=
  let p := recAt o.core base recs.length
  let r := recOf (memRead s.mem p 32)
  (s.putRecStatus p 15).modOp o.id fun o => { o with kind := .ckick base count (recs ++ [r]), pages := [], faults := [] }

def recStatus (r : KickRec) : Status := if r.cause == .none then .done else .fault

/-- A record that has no part left takes its final status: STATUS, then `n` undelivered or last bytes count (R217). -/
def State.endRec (s : State) (o : Op) (base j : Nat) (st : Status) : State :=
  ((s.putRecStatus (recAt o.core base j) (statusCode st)).modOp o.id fun o => modRec o j fun r => { r with ended := some st })

/-- The record touches an S or C page (R88). -/
def recTouchesSC (r : KickRec) : Bool := r.pages.any fun x => x.kind != 2

/-- T0 of a record (R215): a release also waits for the promises of the records before it that R88 makes it wait for. -/
def recStart (s : State) (o : Op) (recs : List KickRec) (r : KickRec) : Nat :=
  if !r.rel then s.time
  else
    let waits := recs.filter fun q => q.ended.isNone && recTouchesSC q
    let flying := s.posted.filter fun w => w.op == o.id && w.kind != 2
    (waits.map (·.promise.getD 0) ++ flying.map (·.promise.getD 0)).foldl max (startTime s o true)

/-- The fault of a record's operands and pages: cause, address, pager future. -/
def recFault (s : State) (o : Op) (r : KickRec) : Option (EFault × Nat × Quad) :=
  match lowestFault s o (if r.out then .write else .read) [(r.gaddr, r.bytes)] with
  | some f => some f
  | none =>
    if r.bad then some (.badFormat, 0, 0)
    else if copyLocalOk s o.core (recCopy r) then none else some (.bounds, 0, 0)

/-- The open record is accepted: parts, promise, PROMISE (R216, R217). One that could not be read has a cause already (R419). -/
def State.acceptRec (s : State) (o : Op) (base : Nat) (recs : List KickRec) (j : Nat) (r : KickRec) : State :=
  let lost := r.cause != .none
  let bad := if lost then some (r.cause, 0, 0) else recFault s o r
  let usable := !lost && !r.bad && copyLocalOk s o.core (recCopy r)
  let ps := if usable then copyParts s o (recCopy r) (recPlan r) else []
  let t0 := recStart s o recs r
  let (s1, pr) := reserve s t0 (joinCross s (ps.foldl (fun l a => l ++ crossPart s o (recCopy r) (recPlan r) a) []))
  let promise := if !usable || !o.faults.isEmpty then none else some (if r.bytes = 0 then t0 else pr)
  let p := recAt o.core base j
  let s2 := match promise with | some v => s1.storeN (p + 24) 8 v | none => s1
  let s3 := s2.modOp o.id fun o => modRec o j fun r =>
    { r with accepted := true, parts := ps, pages := o.pages, lost := !o.faults.isEmpty, promise := promise, cause := (bad.map (·.1)).getD .none,
             fva := (bad.map fun b => b.2.1).getD 0, pgf := (bad.map fun b => b.2.2).getD 0 }
  let past := ps.all fun a => a.st != 0
  let s4 := if past then s3.endRec o base j (if bad.isSome then .fault else .done) else s3
  if usable then s4.countParts o.core r.bar r.tag 2 ps else s4

/-- The first faulting record's fault becomes the kick's (R217). -/
def firstRecFault (recs : List KickRec) : Option KickRec := recs.find? fun r => r.cause != .none

/-- The greatest promise among the records, which a failed translation of any of them withholds (R71, R217). -/
def kickPromise (recs : List KickRec) : Option Nat :=
  if recs.any (·.lost) then none else (recs.filterMap (·.promise)).max?

/-- Every record has been accepted: the kick's own acceptance, with its promise (R217), which is from now on that of its posted
writes (R215). -/
def State.acceptKick (s0 : State) (o : Op) (recs : List KickRec) : State :=
  let promise := kickPromise recs
  let s := { s0 with posted := s0.posted.map fun (w : Posted) => if w.op == o.id then { w with promise := promise } else w }
  s.accept o (fun o => match firstRecFault recs with
    | some r => { o with cause := r.cause, fva := r.fva, pgf := r.pgf }
    | none => o) promise

/-- One step of a kick towards its acceptance: the list is checked, the next record is fetched, or the open record is
accepted. A kick of no record promises the TIME of its acceptance (DESIGN CHOICE, log entry 91: R217 gives it no promise). -/
def State.stepKick (s : State) (o : Op) (base count : Nat) (recs : List KickRec) : State :=
  if count = 0 then s.accept o id (some s.time)
  else if !kickOk s o.core base count then s.accept o (fun o => { o with cause := .bounds }) none
  else
    match openRec recs with
    | none => s.fetchRec o base count recs
    | some (j, r) =>
      let s1 := s.acceptRec o base recs j r
      if j + 1 < count then s1
      else match opAt s1 o.id with
        | some o1 => match o1.kind with
          | .ckick _ _ rs => s1.acceptKick o1 rs
          | _ => s1
        | none => s1

/-- The operation under the translations of one of its records, and under the record's promise while it has none of its own
(R215, R217). -/
def recOp (o : Op) (r : KickRec) : Op := { o with pages := r.pages, promise := if o.accepted then o.promise else r.promise }

/-- A kick that has been accepted reports the first faulting record's fault (R217). -/
def noteRec (o : Op) : Op :=
  match o.kind with
  | .ckick _ _ recs => if o.accepted then (match firstRecFault recs with
      | some r => { o with cause := r.cause, fva := r.fva, pgf := r.pgf }
      | none => o) else o
  | _ => o

/-- Part `i` of record `j` has been performed, or posted on a C or N page, or has met a fault as it started; with its last part
the record takes its final status before the bytes count (R217). -/
def State.recLanded (s : State) (o : Op) (base j i : Nat) (r : KickRec) (a : Part) (bad : Option (EFault × Nat)) : State :=
  let z := match bad with | some y => meetStart (r.cause, r.fva) y | none => (r.cause, r.fva)
  let r1 : KickRec :=
    { r with parts := setPart r.parts i (if bad.isSome then 2 else 1), cause := z.1, fva := z.2,
             pgf := if z = (r.cause, r.fva) then r.pgf else 0 }
  let s2 := s.modOp o.id fun o => noteRec (modRec o j fun _ => r1)
  let s3 := if r1.parts.all fun a => a.st != 0 then s2.endRec o base j (recStatus r1) else s2
  ((s3.countedFor o.id o.core r.bar r.tag).countBytes o.core r.bar r.tag (partBytes a) bad.isSome).finishIfOver o.id

/-- Part `i` of record `j` is performed, or faults at a window that has closed (R395). -/
def State.performRec (s : State) (o : Op) (base j i : Nat) (r : KickRec) (a : Part) : State :=
  let p := recOp o r
  match copyStart s p (recCopy r) (recPlan r) a with
  | some y => (s.logPart p (recCopy r) (recPlan r) a y.1).recLanded o base j i r a (some y)
  | none =>
    let s1 := (s.movePart p (recCopy r) (recPlan r) (65536 * j + i) a).1
    if postsS p a then s1.modOp o.id fun o => modRec o j fun r => { r with parts := markPosted r.parts i }
    else s1.recLanded o base j i r a none

/-! ### The words (R210 to R217) -/

def copyArg (f : Full) (t : Thread) : CopyArg :=
  let a := f.a.toNat
  let b := f.b.toNat
  { out := opxB f 0, inv := opxB f 1, gaddr := (readPair t a).toNat, maddr := if opxB f 4 then (readPair t (a + 2)).toNat else 0,
    laddr := (readV t b).toNat, ctl := readV t (b + 1),
    bar := if opxB f 2 then some (readV t (b + 2)).toNat else none,
    tag := if opxB f 3 then some (readV t (b + 3)).toNat else none,
    xp := opxB f 4, cv := opxB f 5, ty := f.ty, sat := f.sat }

/-- Some write part of a copy lies outside the thread's output buffer, as its addresses translate now (R92). -/
def copyOutside (e : Env) (x : CopyArg) (t : Thread) : Bool :=
  ctlBytes x != 0 && (if x.out then
      !rangeInBuf e.s t (freshOp e.s e.c e.ck.cyc t ⟨0, .copy x, false, []⟩ 0 0 0 false) x.gaddr (ctlBytes x)
    else !inOutBuf t (BitVec.ofNat 32 x.laddr) (ctlBytes x))

def copyWord (f : Full) (rel : Bool) (e : Env) (t : Thread) (s : State) : State :=
  let x := copyArg f t
  issueOp e t f.d.toNat ⟨0, .copy x, rel, [t.id.tid]⟩ (copyOutside e x) s
def execCopyIn (f : Full) (s : State) : Out := .next (wordFold (.copyIn f) (copyWord f false) s)
def execCopyOut (f : Full) (s : State) : Out := .next (wordFold (.copyOut f) (copyWord f false) s)
def execCopyRel (f : Full) (s : State) : Out := .next (wordFold (.copyRel f) (copyWord f true) s)

/-- The records as they stand at issue write only into the output buffer, which holds the list itself (R92). -/
def kickOutside (e : Env) (base count : Nat) (t : Thread) : Bool :=
  count != 0 && (!inOutBuf t (BitVec.ofNat 32 base) (32 * count)
    || (List.range count).any fun j => copyOutside e (recCopy (recOf (memRead e.s.mem (recAt e.c base j) 32))) t)

def ckickWord (f : Full) (e : Env) (t : Thread) (s : State) : State :=
  let base := (readV t f.a.toNat).toNat
  let count := (readV t f.b.toNat).toNat
  issueOp e t f.d.toNat ⟨0, .ckick base count [], false, [t.id.tid]⟩ (kickOutside e base count) s
def execCkick (f : Full) (s : State) : Out := .next (wordFold (.ckick f) (ckickWord f) s)

end Sys2Proof.Machine
end

