-- ==== Sys2Proof/Machine/Matrix.lean ====
section
/-! DEFINITION. The matrix array: WLOAD, MMA, MMA.r and MMAP (R218 to R227, R108), the reuse latch and sub-array gating. -/

namespace Sys2Proof.Machine

open Sys2Proof

/-! ### Formats and the exact entry (R108, R222) -/

/-- The class of a matrix format by its width: 16, 8 or 4 bits (R222). -/
def mxClass (t : Ty) : Nat := tyBits t

/-- A value under an E8M0 scale code (R99). -/
def scaledElem (t : Ty) (x sc : Nat) : FV := if sc % 256 = 255 then .nan else shiftFV ((sc % 256 : Nat) - 127) (elemVal t x)

/-- The weight and scale of row k and column n (R218). -/
def weightAt (b : WBuf) (k n : Nat) : Nat := tblGet b.w (128 * k + n) 0
def wscaleAt (b : WBuf) (k n : Nat) : Nat := tblGet b.sc (128 * (k / 32) + n) 127

/-- One accumulator entry (R108): 128 exact products and C, rounded once. -/
def mmaEntry (b : WBuf) (ty : Ty) (row scs : List Nat) (c : Reg) (n : Nat) : Rounded :=
  roundWith .f32 .rne false (dotFV ((List.range 128).map fun k =>
    (scaledElem b.fmt (weightAt b k n) (wscaleAt b k n), scaledElem ty (row.getD k 0) (scs.getD (k / 32) 127))) (fvOf .f32 c.toNat))

/-! ### Control word (R220) -/

def mmaRow0 (x : MmaArg) : Nat := field x.ctl.toNat 8 0
def mmaRows (x : MmaArg) : Nat := if x.fromRegs then x.width else field x.ctl.toNat 18 9
def mmaAcc (x : MmaArg) : Bool := x.ctl.getLsbD 19
def mmaBuf (x : MmaArg) : Nat := if x.ctl.getLsbD 20 then 1 else 0
def mmaAsc (x : MmaArg) : Bool := x.ctl.getLsbD 21
def mmaOut (x : MmaArg) : Bool := x.ctl.getLsbD 22
def mmaElem (x : MmaArg) : Nat := if x.ctl.getLsbD 23 then 2 else 4

def rowBytes (t : Ty) : Nat := 128 * tyBits t / 8

/-- ROWS and ROW0 are in range (R220). -/
def mmaRowsOk (x : MmaArg) : Bool :=
  (if x.fromRegs then field x.ctl.toNat 18 9 == 0 else decide (1 ≤ field x.ctl.toNat 18 9) && decide (field x.ctl.toNat 18 9 ≤ 512))
    && decide (mmaRow0 x + mmaRows x ≤ 512)

/-- The local ranges of the operation lie in the own slice (R219, R220). -/
def mmaLocalOk (x : MmaArg) : Bool :=
  (x.fromRegs || (ownOk x.addr (mmaRows x * rowBytes x.ty) && (!mmaAsc x || ownOk x.scaddr (4 * mmaRows x))))
    && (!mmaOut x || ownOk x.out (mmaRows x * 128 * mmaElem x))

def bufOf (m : Matrix) (n : Nat) : WBuf := if n = 0 then m.b0 else m.b1

/-- The row and scales of position m: from the slice, or as issued (R221, R223). -/
def mmaRowAt (s : State) (c : Nat) (x : MmaArg) (m : Nat) : List Nat × List Nat :=
  if x.fromRegs then x.rows.getD m (List.replicate 128 0, [127, 127, 127, 127])
  else
    (elemsOf (tyBits x.ty) (memBytes s.mem (localPhys c x.addr + m * rowBytes x.ty) (rowBytes x.ty)),
      if mmaAsc x then (memBytes s.mem (localPhys c x.scaddr + 4 * m) 4).map (·.toNat) else [127, 127, 127, 127])

/-! ### The order of the array (R226) -/

/-- The cores whose arrays an operation uses: both of the pair for an MMAP that found its partner path open. -/
def mxCores (o : Op) : List Nat :=
  match o.kind with
  | .mma x => if x.reach then [o.core, o.core + 1] else [o.core]
  | _ => [o.core]

/-- No accepted matrix operation that arrived earlier still uses an array of this one. -/
def mxFirst (s : State) (o : Op) : Bool :=
  s.ops.all fun p => !(p.cls == 1 && p.accepted && decide (p.order < o.order) && (mxCores p).any fun c => (mxCores o).contains c)

def mxBusy (s : State) (c : Nat) : Bool := s.ops.any fun p => p.cls == 1 && p.accepted && (mxCores p).contains c

def mxAwake (s : State) (o : Op) : Bool := (mxCores o).all fun c => (s.core c).mx.gated == 0

/-- A gated array that an operation needs starts its wake (R227). -/
def State.wakeArray (s : State) (c : Nat) : State :=
  s.modCore c fun k =>
    if k.mx.gated != 0 && k.mx.waking.isNone then { k with mx := { k.mx with waking := some (s.cycle + Config.wakeCycles) } }
    else k

/-- An operation that reaches its arrays starts the wake of those that are gated. -/
def State.wakeArrays (s : State) (o : Op) : State := (mxCores o).foldl State.wakeArray s

/-- An array that has gone idle: its idle period begins, under the gating idle time now in force (R227, R388). -/
def Matrix.rest (now gating : Nat) (m : Matrix) : Matrix := { m with idleAt := now, idleFor := gating }

/-- The contents of `x` in the arrays of `m`: whether these are gated, idle or waking is theirs, and no part of what is saved and
restored with a team (DESIGN CHOICE, log entry 97: R227 speaks of the placement of a team alone). -/
def Matrix.inArrays (x m : Matrix) : Matrix :=
  { x with gated := m.gated, idleAt := m.idleAt, idleFor := m.idleFor, waking := m.waking }

/-- The operation is done with its arrays, performed or not. -/
def State.restArrays (s : State) (o : Op) : State :=
  (mxCores o).foldl (fun s c => s.modCore c fun k => { k with mx := k.mx.rest s.cycle s.hub.plinth.gating }) s

/-- The wake of core `cur`'s sub-arrays completes (R227). -/
def execSubarrayWakeComplete (s : State) : Out :=
  .next (s.modCore s.cur fun k =>
    match k.mx.waking with
    | some w => if w ≤ s.cycle then { k with mx := { k.mx with gated := 0, waking := none } } else k
    | none => k)

/-- Core `cur`'s idle sub-arrays gate themselves (R227). -/
def execSubarrayGate (s : State) : Out :=
  .next (s.modCore s.cur fun k =>
    if k.mx.idleFor != 0 && !mxBusy s s.cur && k.mx.waking.isNone && decide (k.mx.idleAt + k.mx.idleFor ≤ s.cycle)
    then { k with mx := { k.mx with gated := BitVec.allOnes 16 } } else k)

/-! ### Performing -/

def tblPutAll (t : Tbl Reg) (base : Nat) : List Reg → Tbl Reg
  | [] => t
  | x :: r => tblPutAll (tblPut t base x) (base + 1) r

/-- The M rows of one core's array: the accumulators after it and the exception bits (R221). -/
def mmaRun (s : State) (c : Nat) (mx : Matrix) (x : MmaArg) (src : Nat) : Nat → Nat → Tbl Reg × Reg → Tbl Reg × Reg
  | 0, _, r => r
  | fuel + 1, m, (acc, exc) =>
    let (row, scs) := mmaRowAt s src x m
    let base := 128 * (mmaRow0 x + m)
    let es := (List.range 128).map fun n =>
      mmaEntry (bufOf mx (mmaBuf x)) x.ty row scs (if mmaAcc x then tblGet acc (base + n) 0 else 0) n
    mmaRun s c mx x src fuel (m + 1)
      (tblPutAll acc base (es.map fun r => BitVec.ofNat 32 r.code), es.foldl (fun f r => f ||| r.flags) exc)

/-- One entry as it is written out, with the exception bits of its rounding (R220, R221). -/
def outEntry (x : MmaArg) (v : Reg) : Rounded :=
  if mmaElem x = 4 then ⟨v.toNat, 0⟩ else roundTo .bf16 .rne false (fvOf .f32 v.toNat)

/-- The computation of one core: accumulators, write-out, exception bits; its rows come from core `src`. -/
def State.runArray (s : State) (c src : Nat) (x : MmaArg) : State × Reg :=
  let k := s.core c
  let (acc, exc) := mmaRun s c k.mx x src (mmaRows x) 0 (k.mx.acc, 0)
  let s1 := s.withCore c { k with mx := { k.mx.rest s.cycle s.hub.plinth.gating with acc := acc } }
  if !mmaOut x then (s1, exc)
  else
    let es := (List.range (mmaRows x * 128)).map fun j => outEntry x (tblGet acc (128 * mmaRow0 x + j) 0)
    let bs := es.foldr (fun r l => leBytes (mmaElem x) r.code ++ l) []
    ((s1.store (localPhys c x.out) bs).inertWaits (localPhys c x.out), es.foldl (fun f r => f ||| r.flags) exc)

/-- What keeps an MMA or MMAP from being performed (R220, R222, R226, R432): BAD_FORMAT before BOUNDS. -/
def mmaFault (s : State) (o : Op) (x : MmaArg) : EFault :=
  let cls (c : Nat) : Bool := mxClass (bufOf (s.core c).mx (mmaBuf x)).fmt == mxClass x.ty
  if field x.ctl.toNat 31 24 != 0 || !(mxCores o).all cls then .badFormat
  else if !mmaRowsOk x || !mmaLocalOk x || (x.paired && !x.reach) then .bounds
  else .none

def State.performMma (s : State) (o : Op) (x : MmaArg) : State :=
  match if o.cause == .none then mmaFault s o x else o.cause with
  | .none =>
    let (s1, exc) := (mxCores o).foldl (fun (r : State × Reg) c =>
      let (s2, e2) := r.1.runArray c o.core x
      (s2, r.2 ||| e2)) (s, 0)
    (s1.modOp o.id fun o => { o with exc := exc &&& (flagIV ||| flagOF ||| flagUF ||| flagNX),
                                     parts := setPart o.parts 0 1 }).finishIfOver o.id
  | c => ((s.restArrays o).modOp o.id fun o => { o with cause := c, parts := setPart o.parts 0 2 }).finishIfOver o.id

/-- Nonzero elements of a list by place. -/
def tblOf (unlisted : Nat) : Nat → List Nat → Tbl Nat
  | _, [] => []
  | j, x :: r => if x = unlisted then tblOf unlisted (j + 1) r else (j, x) :: tblOf unlisted (j + 1) r

/-- WLOAD: all at once, or not at all (R219). -/
def State.performWload (s : State) (o : Op) (ty : Ty) (buf addr : Nat) (sc : Option Nat) : State :=
  let n := 128 * rowBytes ty
  if !ownOk addr n || !(match sc with | some a => ownOk a 512 | none => true) then
    ((s.restArrays o).modOp o.id fun o => { o with cause := .bounds, parts := setPart o.parts 0 2 }).finishIfOver o.id
  else
    let b : WBuf :=
      ⟨ty, tblOf 0 0 (elemsOf (tyBits ty) (memBytes s.mem (localPhys o.core addr) n)),
        match sc with
        | some a => tblOf 127 0 ((memBytes s.mem (localPhys o.core a) 512).map (·.toNat))
        | none => []⟩
    let s1 := s.modCore o.core fun k =>
      let m := k.mx.rest s.cycle s.hub.plinth.gating
      { k with mx := if buf = 0 then { m with b0 := b } else { m with b1 := b } }
    (s1.modOp o.id fun o => { o with parts := setPart o.parts 0 1 }).finishIfOver o.id

/-- The single part of an operation that touches no page. -/
def onePart : Part := ⟨0, 0, 0, 0, 2, false, false, .none, 0, 0, false⟩

/-! ### The words -/

def wloadWord (f : Full) (e : Env) (t : Thread) (s : State) : State :=
  let sc := if opxB f 1 then some (readV t f.b.toNat).toNat else none
  issueOp e t f.d.toNat ⟨1, .wload f.ty (if opxB f 0 then 1 else 0) (readV t f.a.toNat).toNat sc, false, [t.id.tid]⟩ (fun _ => false) s
def execWload (f : Full) (s : State) : Out := .next (wordFold (.wload f) (wloadWord f) s)

/-- The operands of an MMA as thread `t` holds them; `rows` and `width` for the register forms. -/
def mmaArgOf (f : Full) (fromRegs paired reach : Bool) (t : Thread) (rows : List (List Nat × List Nat)) : MmaArg :=
  let b := f.b.toNat
  { ty := f.ty, ctl := readV t b, addr := (readV t f.a.toNat).toNat, scaddr := (readV t (b + 1)).toNat,
    out := (readV t (b + 2)).toNat, fromRegs := fromRegs, reuse := opxB f 4, paired := paired, reach := reach, gix := gixOf t,
    sup := t.id.sup, width := t.id.width, rows := rows }

/-- The write-out lies outside the thread's output buffer (R92). -/
def mmaOutside (x : MmaArg) (t : Thread) : Bool :=
  mmaOut x && (x.paired || !inOutBuf t (BitVec.ofNat 32 x.out) (mmaRows x * 128 * mmaElem x))

def mmaWord (f : Full) (e : Env) (t : Thread) (s : State) : State :=
  let x := mmaArgOf f false false false t []
  issueOp e t f.d.toNat ⟨1, .mma x, false, [t.id.tid]⟩ (mmaOutside x) s
def execMma (f : Full) (s : State) : Out := .next (wordFold (.mma f) (mmaWord f) s)

/-- Registers of one row in a format (R223). -/
def rowRegCount (t : Ty) : Nat := 128 * tyBits t / 32

/-- The row and the scales that an active thread supplies (R223). -/
def threadRow (f : Full) (asc : Bool) (t : Thread) : List Nat × List Nat :=
  let c := rowRegCount f.ty
  let bs := (List.range c).foldr (fun j l => leBytes 4 (readV t (f.a.toNat + j)).toNat ++ l) []
  (elemsOf (tyBits f.ty) bs,
    if asc then (leBytes 4 (readV t (f.a.toNat + c)).toNat).map (·.toNat) else [127, 127, 127, 127])

/-- The rows of every position: zero rows with scales 127 where no active thread stands (R223). -/
def groupRows (f : Full) (asc : Bool) (act : List Thread) (width : Nat) : List (List Nat × List Nat) :=
  (List.range width).map fun p => match act.find? fun t => lanePos t == p with
    | some t => threadRow f asc t
    | none => (List.replicate 128 0, [127, 127, 127, 127])

/-- The rows that the operation takes, the latch after it, and whether the latched format differs (R225). -/
def latchRows (l : Option Latch) (f : Full) (u : Thread) (rows : List (List Nat × List Nat)) :
    List (List Nat × List Nat) × Option Latch × Bool :=
  let reuse := opxB f 4
  match l with
  | none => (rows, if reuse then some ⟨u.id.sup, gixOf u, f.ty, rows⟩ else none, false)
  | some x =>
    if x.sup == u.id.sup && x.gix == gixOf u then
      if x.ty == f.ty then (x.rows, if reuse then some x else none, false) else ([], none, true)
    else (rows, some x, false)

/-- Whether the issuer suspends: the tillers that would hold the operation find no room in the commit queue (R224, R261). -/
def mmaSuspends (e : Env) (s : State) (tillers : List (Nat × Nat × Nat)) : Bool :=
  !tillers.isEmpty && decide (Config.nCommit < commitUsed s e.c + 1)

/-- The operation of a sheaf whose active set is `act`, in slot order: the lowest is the issuer (R224). -/
def mmaIssue (f : Full) (paired : Bool) (e : Env) : List Thread → State → State
  | [], s => s
  | u :: rest, s =>
    let asc := (readV u f.b.toNat).getLsbD 21
    let act := u :: rest
    let (rows, latch, clash) := latchRows e.k.mx.latch f u (groupRows f asc act u.id.width)
    let x := mmaArgOf f true paired (paired && e.c % 2 == 0 && partnerOpen s e.c) u rows
    let xs := heldFor (mmaOutside x) u
    if mmaSuspends e s xs then mmaIssue f paired e rest (suspendAt e u s)
    else
      let held := !xs.isEmpty
      let dead := isDetached u && mmaOutside x u
      match s.newOp e.c e.ck.cyc u ⟨1, .mma x, false, act.map (·.id.tid)⟩ held dead with
      | none => act.foldl (fun s t => s.endWordAt e t (.trap .engineFull 0 1)) s
      | some (s1, id, h) =>
        let s2 := (s1.hold e.c xs [.op id]).modCore e.c fun k => { k with mx := { k.mx with latch := latch } }
        let s3 := if clash then s2.modOp id fun o => { o with cause := .badFormat } else s2
        act.foldl (fun s t => s.endWordAt e t (.ok (issued t f.d.toNat 1 id h (if dead then some .cancelled else none)))) s3

/-- MMA.r and MMAP: one operation for the active set, the null handle in the other guard-true threads (R224). -/
def mmaSheaf (i : Instr) (f : Full) (paired : Bool) (s : State) : State :=
  match s.env with
  | none => s
  | some e =>
    let ts := (takers e i).filterMap (threadAt e.k.threads)
    let act := ts.filter (isActive e i)
    let off := ts.filter fun t => !isActive e i t
    mmaIssue f paired e act (off.foldl (fun s t => s.endWordAt e t (.ok (writePair t f.d.toNat 0))) (parkIllegal e i))
def execMmaR (f : Full) (s : State) : Out := .next (mmaSheaf (.mmaR f) f false s)
def execMmap (f : Full) (s : State) : Out := .next (mmaSheaf (.mmap f) f true s)

end Sys2Proof.Machine
end

