-- ==== Sys2Proof/Machine/Paired.lean ====
section
/-! DEFINITION. The halves of a paired word (R120 to R122, R127). Both halves read their guards and sources before either
writes: half A leaves its results in the issue slot, and half B writes them with its own. A half A that executes with no
pair open writes at once. -/

namespace Sys2Proof.Machine

open Sys2Proof

/-! ### How a half runs -/

/-- What a half writes in a thread. -/
structure HalfOut where
  reg : Option (Nat × Reg)
  pred : Option (Nat × Bool)
  fsr : Reg
  deriving DecidableEq, Repr

/-- A half's writes in the threads that take it. -/
def halfWrites (e : Env) (i : Instr) (f : Env → Thread → HalfOut) : List HalfWrite :=
  (e.k.threads.filter fun t => takesWord e i t && legalHere e i t).map fun t =>
    let o := f e t
    ⟨t.id.slot, o.reg, o.pred, o.fsr⟩

def putHalf (t : Thread) (w : HalfWrite) : Thread :=
  let t := match w.reg with | some (n, x) => writeV t n x | none => t
  let t := match w.pred with | some (n, b) => writeP t n b | none => t
  setFsr t w.fsr

/-- The writes of its slot reach a thread. -/
def putHalves (is : Issue) (ws : List HalfWrite) (t : Thread) : Thread :=
  let mine := ws.filter fun w => w.slot == t.id.slot
  if mine.isEmpty then t else wordDone is (mine.foldl putHalf t)

/-- A half of a word: half A of an open pair keeps its writes; otherwise what is kept and its own are written. -/
def halfWord (i : Instr) (h : Half) (f : Env → Thread → HalfOut) (s : State) : State :=
  match s.env with
  | none => s
  | some e =>
    let ws := halfWrites e i f
    let s1 := parkIllegal e i
    match h.side, e.is.half with
    | .a, some _ => s1.modCore e.c fun k => { k with issue := some { e.is with half := some ws } }
    | _, kept =>
      s1.modCore e.c fun k =>
        { k with threads := k.threads.map (putHalves e.is (kept.getD [] ++ ws)), issue := some { e.is with half := none } }

/-! ### The shapes of R127 -/

/-- S of a half: a register, or bits 31:0 of a uniform operand. -/
def halfS (e : Env) (t : Thread) (h : Half) : Nat :=
  (if h.us then (readUniform e t h.s.toNat).setWidth 32 else readV t h.s.toNat : Reg).toNat

def regOut (h : Half) (x : Nat) (fl : Reg) : HalfOut := ⟨some (h.d.toNat, BitVec.ofNat 32 x), none, fl⟩

/-- Vd := g(Vd, Vs) on bits. -/
def halfX (h : Half) (g : Nat → Nat → Nat) (e : Env) (t : Thread) : HalfOut :=
  regOut h (g (readV t h.d.toNat).toNat (halfS e t h)) 0

/-- Vd := g(Vd, Vs) on integers of a type, wrapping. -/
def halfInt (h : Half) (ty : Ty) (g : Int → Int → Int) (e : Env) (t : Thread) : HalfOut :=
  regOut h (wrapN 32 (g (intOf ty (readV t h.d.toNat).toNat) (intOf ty (halfS e t h)))) 0

/-- Vd := g(Vd, Vs) in a float format or a packed pair, with its flags. -/
def halfF (h : Half) (g : Nat → Nat → Rounded) (e : Env) (t : Thread) : HalfOut :=
  let r := g (readV t h.d.toNat).toNat (halfS e t h)
  regOut h r.code r.flags

/-- Pd := g(Pd, Ps). -/
def halfP (h : Half) (g : Bool → Bool → Bool) (_ : Env) (t : Thread) : HalfOut :=
  ⟨none, some (h.d.toNat, g (readP t h.d.toNat) (readP t h.s.toNat)), 0⟩

/-- Pd := (Vs cc 0), signed. -/
def halfCmp (h : Half) (cc : Nat) (e : Env) (t : Thread) : HalfOut :=
  ⟨none, some (h.d.toNat, condHolds cc (intOf .s32 (halfS e t h)) 0), 0⟩

/-- Pd := (Vs cc +0.0), with the flags of FSETP. -/
def halfFcmp (h : Half) (cc : Nat) (e : Env) (t : Thread) : HalfOut :=
  let r := fcompare cc false (fvOf .f32 (halfS e t h)) (fvOf .f32 0)
  ⟨none, some (h.d.toNat, r.1), r.2⟩

/-! ### The halves -/

def execPairedMovB32 (h : Half) (s : State) : Out := .next (halfWord (.pairedMovB32 h) h (halfX h fun _ y => y) s)
def execPairedAddS32 (h : Half) (s : State) : Out :=
  .next (halfWord (.pairedAddS32 h) h (halfInt h .s32 fun x y => x + y) s)
def execPairedSubS32 (h : Half) (s : State) : Out :=
  .next (halfWord (.pairedSubS32 h) h (halfInt h .s32 fun x y => x - y) s)
def execPairedMulS32 (h : Half) (s : State) : Out :=
  .next (halfWord (.pairedMulS32 h) h (halfInt h .s32 fun x y => x * y) s)
def execPairedMinS32 (h : Half) (s : State) : Out :=
  .next (halfWord (.pairedMinS32 h) h (halfInt h .s32 fun x y => min x y) s)
def execPairedMaxS32 (h : Half) (s : State) : Out :=
  .next (halfWord (.pairedMaxS32 h) h (halfInt h .s32 fun x y => max x y) s)
def execPairedMinN32 (h : Half) (s : State) : Out :=
  .next (halfWord (.pairedMinN32 h) h (halfInt h .n32 fun x y => min x y) s)
def execPairedMaxN32 (h : Half) (s : State) : Out :=
  .next (halfWord (.pairedMaxN32 h) h (halfInt h .n32 fun x y => max x y) s)
def execPairedAndB32 (h : Half) (s : State) : Out := .next (halfWord (.pairedAndB32 h) h (halfX h fun x y => x &&& y) s)
def execPairedOrB32 (h : Half) (s : State) : Out := .next (halfWord (.pairedOrB32 h) h (halfX h fun x y => x ||| y) s)
def execPairedXorB32 (h : Half) (s : State) : Out := .next (halfWord (.pairedXorB32 h) h (halfX h fun x y => x ^^^ y) s)
def execPairedAndnB32 (h : Half) (s : State) : Out :=
  .next (halfWord (.pairedAndnB32 h) h (halfX h fun x y => x &&& (2 ^ 32 - 1 - y)) s)
def execPairedNotB32 (h : Half) (s : State) : Out :=
  .next (halfWord (.pairedNotB32 h) h (halfX h fun _ y => 2 ^ 32 - 1 - y) s)
def execPairedShlB32 (h : Half) (s : State) : Out :=
  .next (halfWord (.pairedShlB32 h) h (halfX h fun x y => shlN 32 x (field y 7 0)) s)
def execPairedShrlB32 (h : Half) (s : State) : Out :=
  .next (halfWord (.pairedShrlB32 h) h (halfX h fun x y => shrlN 32 x (field y 7 0)) s)
def execPairedShraS32 (h : Half) (s : State) : Out :=
  .next (halfWord (.pairedShraS32 h) h (halfX h fun x y => shraN 32 (intOf .s32 x) (field y 7 0)) s)
def execPairedRotlB32 (h : Half) (s : State) : Out :=
  .next (halfWord (.pairedRotlB32 h) h (halfX h fun x y => rotlN 32 x (field y 7 0)) s)
def execPairedPermB32 (h : Half) (s : State) : Out := .next (halfWord (.pairedPermB32 h) h (halfX h permVal) s)
def execPairedClzB32 (h : Half) (s : State) : Out :=
  .next (halfWord (.pairedClzB32 h) h (halfX h fun _ y => clzN 32 y) s)
def execPairedPopcB32 (h : Half) (s : State) : Out :=
  .next (halfWord (.pairedPopcB32 h) h (halfX h fun _ y => popcN 32 y) s)
def execPairedBrevB32 (h : Half) (s : State) : Out :=
  .next (halfWord (.pairedBrevB32 h) h (halfX h fun _ y => brevN 32 y) s)
def execPairedNegS32 (h : Half) (s : State) : Out :=
  .next (halfWord (.pairedNegS32 h) h (halfInt h .s32 fun _ y => -y) s)
def execPairedAbsS32 (h : Half) (s : State) : Out :=
  .next (halfWord (.pairedAbsS32 h) h (halfInt h .s32 fun _ y => (y.natAbs : Int)) s)
def execPairedFaddF32 (h : Half) (s : State) : Out :=
  .next (halfWord (.pairedFaddF32 h) h (halfF h fun x y => addRound .f32 .rne (fvOf .f32 x) (fvOf .f32 y)) s)
def execPairedFsubF32 (h : Half) (s : State) : Out :=
  .next (halfWord (.pairedFsubF32 h) h (halfF h fun x y => addRound .f32 .rne (fvOf .f32 x) (fvMinus (fvOf .f32 y))) s)
def execPairedFmulF32 (h : Half) (s : State) : Out :=
  .next (halfWord (.pairedFmulF32 h) h (halfF h fun x y => mulRound .f32 .rne (fvOf .f32 x) (fvOf .f32 y)) s)
def execPairedFminF32 (h : Half) (s : State) : Out := .next (halfWord (.pairedFminF32 h) h (halfX h (minCode .f32)) s)
def execPairedFmaxF32 (h : Half) (s : State) : Out := .next (halfWord (.pairedFmaxF32 h) h (halfX h (maxCodeOf .f32)) s)
def execPairedPadd2Bf16 (h : Half) (s : State) : Out :=
  .next (halfWord (.pairedPadd2Bf16 h) h (halfF h fun x y => packedPair .bf16 (fun a b _ => addRound .bf16 .rne a b) x y 0) s)
def execPairedPmul2Bf16 (h : Half) (s : State) : Out :=
  .next (halfWord (.pairedPmul2Bf16 h) h (halfF h fun x y => packedPair .bf16 (fun a b _ => mulRound .bf16 .rne a b) x y 0) s)
def execPairedPadd2F16 (h : Half) (s : State) : Out :=
  .next (halfWord (.pairedPadd2F16 h) h (halfF h fun x y => packedPair .f16 (fun a b _ => addRound .f16 .rne a b) x y 0) s)
def execPairedPmul2F16 (h : Half) (s : State) : Out :=
  .next (halfWord (.pairedPmul2F16 h) h (halfF h fun x y => packedPair .f16 (fun a b _ => mulRound .f16 .rne a b) x y 0) s)
def execPairedPand (h : Half) (s : State) : Out := .next (halfWord (.pairedPand h) h (halfP h fun a b => a && b) s)
def execPairedPor (h : Half) (s : State) : Out := .next (halfWord (.pairedPor h) h (halfP h fun a b => a || b) s)
def execPairedPxor (h : Half) (s : State) : Out := .next (halfWord (.pairedPxor h) h (halfP h fun a b => a != b) s)
def execPairedPnot (h : Half) (s : State) : Out := .next (halfWord (.pairedPnot h) h (halfP h fun _ b => !b) s)
def execPairedSetpEq (h : Half) (s : State) : Out := .next (halfWord (.pairedSetpEq h) h (halfCmp h 0) s)
def execPairedSetpNe (h : Half) (s : State) : Out := .next (halfWord (.pairedSetpNe h) h (halfCmp h 1) s)
def execPairedSetpLt (h : Half) (s : State) : Out := .next (halfWord (.pairedSetpLt h) h (halfCmp h 2) s)
def execPairedSetpLe (h : Half) (s : State) : Out := .next (halfWord (.pairedSetpLe h) h (halfCmp h 3) s)
def execPairedSetpGt (h : Half) (s : State) : Out := .next (halfWord (.pairedSetpGt h) h (halfCmp h 4) s)
def execPairedSetpGe (h : Half) (s : State) : Out := .next (halfWord (.pairedSetpGe h) h (halfCmp h 5) s)
def execPairedFsetpLt (h : Half) (s : State) : Out := .next (halfWord (.pairedFsetpLt h) h (halfFcmp h 2) s)
def execPairedFsetpLe (h : Half) (s : State) : Out := .next (halfWord (.pairedFsetpLe h) h (halfFcmp h 3) s)
def execPairedFsetpEq (h : Half) (s : State) : Out := .next (halfWord (.pairedFsetpEq h) h (halfFcmp h 0) s)

end Sys2Proof.Machine
end

