-- ==== Sys2Proof/Machine/Collective.lean ====
section
/-! DEFINITION. GATHER (R228, R229), COLL (R111, R230, R231) and RATOM (R90, R232). -/

namespace Sys2Proof.Machine

open Sys2Proof

/-! ### GATHER -/

/-- The operands of a GATHER (R228). -/
structure GatherArg where
  ty : Ty
  pool : Nat
  table : Nat
  list : Nat
  out : Nat
  count : Nat
  rowlen : Nat
  rowcount : Nat
  rsvd : Bool
  deriving DecidableEq, Repr

def gatherArg : OpKind → Option GatherArg
  | .gather ty pool table list out count rowlen rowcount rsvd =>
    some ⟨ty, pool, table, list, out, count, rowlen, rowcount, rsvd⟩
  | _ => none

/-- Bytes of a row (R228). -/
def gatherRb (x : GatherArg) : Nat := x.rowlen * tyBits x.ty / 8

def gatherOutBytes (x : GatherArg) : Nat := if x.pool = 0 then x.count * gatherRb x else 4 * x.rowlen

/-- ROWLEN is a whole number of bytes, not zero (R228). -/
def rowOk (x : GatherArg) : Bool := x.rowlen != 0 && x.rowlen * tyBits x.ty % 8 == 0

/-- The fault of the operands (R211, R228). -/
def gatherFault (x : GatherArg) : EFault :=
  if x.rsvd || !rowOk x then .badFormat
  else if !ownOk x.list (4 * x.count) || !ownOk x.out (gatherOutBytes x) then .bounds
  else .none

/-- The rows are known: their length, and the list that names them. -/
def rowsKnown (x : GatherArg) : Bool := rowOk x && ownOk x.list (4 * x.count)

/-- The indices as the list stands: place and value, padding left out (R229). -/
def gatherIndices (s : State) (c : Nat) (x : GatherArg) : List (Nat × Nat) :=
  ((List.range x.count).map fun j => (j, memRead s.mem (localPhys c x.list + 4 * j) 4)).filter fun y => y.2 != 0xFFFFFFFF

def gatherRowVa (x : GatherArg) (i : Nat) : Nat := x.table + i * gatherRb x

/-- The rows whose pages must be known. -/
def gatherNeeds (s : State) (c : Nat) (x : GatherArg) : List (Nat × Nat) :=
  if !rowsKnown x then []
  else ((gatherIndices s c x).filter fun y => decide (y.2 < x.rowcount)).map fun y => (gatherRowVa x y.2, gatherRb x)

/-- What makes an index invalid: cause, address, pager future (R229). -/
def rowFault (s : State) (o : Op) (x : GatherArg) (y : Nat × Nat) : Option (EFault × Nat × Quad) :=
  if x.rowcount ≤ y.2 then some (.bounds, 0, 0)
  else runCause s o .read (gatherRb x / 65536 + 3) (gatherRowVa x y.2) (gatherRb x)

/-- A row in parts, one for each page (R62): `off` is a part's place in the unpooled output. -/
def rowParts (o : Op) : Nat → Nat → Nat → Nat → List Part
  | 0, _, _, _ => []
  | fuel + 1, va, off, n =>
    if n = 0 then []
    else
      let k := match pageEnd o va with | some e => min n (e - va) | none => n
      { gva := va, len := k, off := off, dlen := k, kind := ((pageAt o va).map (·.kind)).getD 2, inv := false, write := false,
        cause := .none, fva := 0, st := 0, posted := false } :: rowParts o fuel (va + k) (off + k) (n - k)

/-- The parts of one index: waiting when it is valid, one that has faulted when not (R229). -/
def gatherParts (s : State) (o : Op) (x : GatherArg) (y : Nat × Nat) : List Part :=
  let rb := gatherRb x
  match rowFault s o x y with
  | some (c, va, _) => [⟨gatherRowVa x y.2, rb, y.1 * rb, rb, 2, false, false, c, va, 2, false⟩]
  | none => rowParts o (rb / 65536 + 3) (gatherRowVa x y.2) (y.1 * rb) rb

/-- A GATHER is accepted: its rows become parts, and its output is written by a last part; or its operands fault it, a row's
walk before them (R229, R432). -/
def State.acceptGather (s : State) (o : Op) (x : GatherArg) : State :=
  let ys := gatherIndices s o.core x
  let bad := if rowsKnown x then ys.findSome? (rowFault s o x) else none
  let fail (o : Op) : Op := match bad with
    | some (c, va, pg) => { o with cause := c, fva := va, pgf := pg }
    | none => o
  match gatherFault x with
  | .none => s.accept o (fun o => { fail o with parts := ys.flatMap (gatherParts s o x) ++ [onePart] }) none
  | c => s.accept o (fun o =>
      let p := fail o
      if isEarly p.cause then p else { o with cause := lesserCause p.cause c }) none

/-- An exact quotient by a positive count, rounded to FP32 (R229). -/
def meanRound (q : Nat) (v : FV × Reg) : Rounded :=
  match v.1 with
  | .fin neg (m + 1) e =>
    let n := (m + 1) * 2 ^ 64
    let r := roundMag .f32 .rne false neg (n / q) (e - 64) (n % q != 0)
    ⟨r.code, r.flags ||| v.2⟩
  | _ => roundWith .f32 .rne false v

/-- Element n of the pooled output (R229). -/
def poolElem (x : GatherArg) (rows : List (List Nat)) (n : Nat) : Rounded :=
  if rows.isEmpty then ⟨0, 0⟩
  else
    let v := sumFV .rne (rows.map fun r => elemVal x.ty (r.getD n 0))
    if x.pool = 1 then roundWith .f32 .rne false v else meanRound rows.length v

/-- The rows of which every part has been read, in list order. -/
def wholeRows (o : Op) (x : GatherArg) : List (List Nat) :=
  (List.range x.count).filterMap fun j =>
    let mine := sortBy (fun a b => decide (a.1 ≤ b.1)) (o.rows.filter fun r => r.1 / gatherRb x == j)
    let bs := mine.flatMap (·.2)
    if bs.length = gatherRb x then some (elemsOf (tyBits x.ty) bs) else none

/-- The cause of a gather once a part of it has faulted as it started: that of the first invalid index in list order (R229);
else, when no index is invalid, a memory error's (R432). The pager future goes with the cause that had it. -/
def partsCause (ps : List Part) (o : Op) : Op :=
  match ps.find? fun a => a.cause != .none && a.cause != .uncorrectable with
  | some a => if a.cause = o.cause ∧ a.fva = o.fva then o else { o with cause := a.cause, fva := a.fva, pgf := 0 }
  | none => { o with cause := lesserCause o.cause .uncorrectable }

/-- A part of a row is read: unpooled, it is written where its index places it; else it is kept for the sum. A window that has
closed and a failing channel make its index invalid (R229, R395, R422). -/
def State.performRow (s : State) (o : Op) (x : GatherArg) (i : Nat) (a : Part) : State :=
  match startFault s o a.gva a.len false with
  | none =>
    let bs := readVa s o a.gva a.len
    let dest := localPhys o.core x.out + a.off
    let s1 := if x.pool = 0 then (s.store dest bs).inertWaits dest else s
    s1.modOp o.id fun o =>
      { o with parts := setPart o.parts i 1, rows := if x.pool = 0 then o.rows else o.rows ++ [(a.off, bs)] }
  | some (c, _) =>
    (if c == .uncorrectable then s.logBad o [(a.gva, a.len)] else s).modOp o.id fun o =>
      let ps := o.parts.modify i fun a => { a with st := 2, cause := c, fva := if isEarly c then a.gva else 0 }
      partsCause ps { o with parts := ps }

/-- The last part: the pooled output is written (R229), and the operation completes. -/
def State.performPool (s : State) (o : Op) (x : GatherArg) : State :=
  let dest := localPhys o.core x.out
  let es := if x.pool = 0 then [] else (List.range x.rowlen).map (poolElem x (wholeRows o x))
  let s1 := if x.pool = 0 then s else (s.store dest (es.foldr (fun r l => leBytes 4 r.code ++ l) [])).inertWaits dest
  (s1.modOp o.id fun o =>
    { o with exc := es.foldl (fun f r => f ||| r.flags) 0, parts := setPart o.parts (o.parts.length - 1) 1 }).finishIfOver o.id

/-- Part `i` of a gather: a row's, or the last. -/
def State.performGather (s : State) (o : Op) (x : GatherArg) (i : Nat) (a : Part) : State :=
  if i + 1 = o.parts.length then s.performPool o x else s.performRow o x i a

def gatherWord (f : Full) (e : Env) (t : Thread) (s : State) : State :=
  let b := f.b.toNat
  let c := (readV t (b + 1)).toNat
  let x : GatherArg := ⟨f.ty, opxN f % 4, (readPair t f.a.toNat).toNat, (readV t b).toNat, (readV t (b + 2)).toNat, field c 15 0,
    field c 27 16, (readV t (b + 3)).toNat, field c 31 28 != 0⟩
  let outside (u : Thread) : Bool := gatherOutBytes x != 0 && outBy (readV t (b + 2)) (gatherOutBytes x) u
  issueOp e t f.d.toNat ⟨2, .gather x.ty x.pool x.table x.list x.out x.count x.rowlen x.rowcount x.rsvd, false, [t.id.tid]⟩ outside s
def execGather (f : Full) (s : State) : Out := .next (wordFold (.gather f) (gatherWord f) s)

/-! ### COLL: shapes (R230) -/

/-- The operands of a COLL. -/
structure CollArg where
  ty : Ty
  ofmt : Bool
  op : Nat
  src : Nat
  dst : Nat
  comm : Nat
  n : Nat
  deriving DecidableEq, Repr

def collArg : OpKind → Option CollArg
  | .coll ty ofmt op src dst comm n _ => some ⟨ty, ofmt, op, src, dst, comm, n⟩
  | _ => none

/-- Data with an E8M0 scale for each block of 32 (R230). -/
def blockScaled : Ty → Bool
  | .e5m2 | .e4m3 | .e2m1 | .s8 => true
  | _ => false

/-- Bytes of a source image of N elements. -/
def imageLen (ty : Ty) (n : Nat) : Nat := n * tyBits ty / 8 + if blockScaled ty then n / 32 else 0

def outSize (ofmt : Bool) : Nat := if ofmt then 2 else 4
def outTy (ofmt : Bool) : Ty := if ofmt then .bf16 else .f32

/-- Bytes of a rank's destination. -/
def collDstLen (x : CollArg) (ranks : Nat) : Nat :=
  match x.op with
  | 0 => x.n * outSize x.ofmt
  | 1 => x.n / ranks * outSize x.ofmt
  | 2 => ranks * imageLen x.ty x.n
  | _ => imageLen x.ty x.n

/-- N suits the operation and the rank count (R230, R231). -/
def collCountOk (x : CollArg) (ranks : Nat) : Bool :=
  x.n != 0 && (!blockScaled x.ty || x.n % 32 == 0)
    && (x.op != 1 || x.n % (if blockScaled x.ty then 32 * ranks else ranks) == 0)

/-- The communicator record as it stands (R230): RANKS, MTAB, CID. -/
def commRanks (s : State) (o : Op) (x : CollArg) : Nat := ofLe (readVa s o x.comm 4)
def commTable (s : State) (o : Op) (x : CollArg) : Nat := ofLe (readVa s o (x.comm + 8) 8)
def commCid (s : State) (o : Op) (x : CollArg) : Nat := ofLe (readVa s o (x.comm + 16) 8)
def commReserved (s : State) (o : Op) (x : CollArg) : Bool :=
  ofLe (readVa s o (x.comm + 4) 4) != 0 || ofLe (readVa s o (x.comm + 24) 8) != 0

def ranksOk (n : Nat) : Bool := decide (1 ≤ n) && decide (n ≤ 2 ^ 24)

/-- The pages that must be known: the record's, and then the member table's. -/
def collNeeds (s : State) (o : Op) (x : CollArg) : List (Nat × Nat) :=
  if (undecided o 4 x.comm (x.comm + 32)).isSome || (runCause s o .read 4 x.comm 32).isSome then [(x.comm, 32)]
  else if ranksOk (commRanks s o x) then [(x.comm, 32), (commTable s o x, 4 * commRanks s o x)]
  else [(x.comm, 32)]

def memberAt (s : State) (o : Op) (tab r : Nat) : Nat := ofLe (readVa s o (tab + 4 * r) 4)

/-- The peer table has an entry for the device (R383). -/
def hasPeer (s : State) (device : Nat) : Bool := s.hub.peers.any fun x => x.2.1 == device

/-- The fault of a COLL at its acceptance (R230, R383, R432): cause, address, pager future. A missing peer or rank is PERMISSION
and comes before what a reserved bit, N or a range gives; it has no faulting address, and EFA is 0, which R60 leaves open (log
entry 82). -/
def collFault (s : State) (o : Op) (x : CollArg) : Option (EFault × Nat × Quad) :=
  match lowestFault s o .read (collNeeds s o x) with
  | some f => some f
  | none =>
    let ranks := commRanks s o x
    let tab := commTable s o x
    let members := (List.range ranks).map (memberAt s o tab)
    let here (m : Nat) : Bool := field m 15 0 == s.hub.cfg.device
    if !ranksOk ranks then some (.badFormat, 0, 0)
    else if members.any fun m => !here m && !(bitAt s.hub.fagr 5 && hasPeer s (field m 15 0)) then some (.permission, 0, 0)
    else if !members.any fun m => here m && field m 23 16 == o.core then some (.permission, 0, 0)
    else if commReserved s o x || members.any (fun m => field m 31 24 != 0) then some (.badFormat, 0, 0)
    else if !ownOk x.src (imageLen x.ty x.n) || !ownOk x.dst (collDstLen x ranks) then
      some (if collCountOk x ranks then .bounds else .badFormat, 0, 0)
    else if (collNeeds s o x).any fun r => vaBad s o r.1 r.2 then some (.uncorrectable, 0, 0)
    else none

/-- The fault of a COLL under its pages as they translate now; with the pages. -/
def collLook (s : State) (o : Op) (x : CollArg) : Op :=
  let o1 := foresee s [(x.comm, 32)] o
  foresee s (collNeeds s o1 x) o1

/-- The first entry of the member table that names this device and core (R230). -/
def rankOf (s : State) (o : Op) (x : CollArg) : Nat :=
  ((List.range (commRanks s o x)).find? fun r =>
    let m := memberAt s o (commTable s o x) r
    field m 15 0 == s.hub.cfg.device && field m 23 16 == o.core).getD 0

/-! ### COLL: joining a call (R231) -/

def joinsOf (s : State) (cid rank : Nat) : Nat :=
  ((s.joins.find? fun j => j.1 == cid && j.2.1 == rank).map fun j => j.2.2).getD 0

/-- The rank has joined calls up to number `k`. -/
def countJoin (s : State) (cid rank k : Nat) : State :=
  { s with joins := (cid, rank, k) :: s.joins.filter fun j => !(j.1 == cid && j.2.1 == rank) }

/-- The call that a rank joins after `n` others that come before it: the calls that it has withdrawn are passed over. -/
def nextCall (s : State) (cid rank n : Nat) : Nat :=
  go (s.skips.length + n + 1) n (joinsOf s cid rank + 1)
where
  go : Nat → Nat → Nat → Nat
    | 0, _, k => k
    | fuel + 1, n, k =>
      if s.skips.contains (cid, rank, k) then go fuel n (k + 1)
      else match n with
        | 0 => k
        | m + 1 => go fuel m (k + 1)

def callAt (s : State) (cid k : Nat) : Option CollCall := s.colls.find? fun c => c.cid == cid && c.k == k

/-- A rank joins a call, which it may open. -/
def State.join (s : State) (cid k ranks : Nat) (j : Joined) : State :=
  match callAt s cid k with
  | some c =>
    { s with colls := s.colls.map fun d => if d.cid == cid && d.k == k then { d with joined := d.joined ++ [j], ranks := max c.ranks ranks } else d }
  | none => { s with colls := s.colls ++ [⟨cid, k, ranks, [j], false⟩] }

/-- Every rank has joined (R231). -/
def callFull (c : CollCall) : Bool := !c.withdrawn && decide (1 ≤ c.ranks) && c.joined.length == c.ranks

/-- A COLL is accepted: it faults, joins its call, or finds it withdrawn (R231). Its source image, its record and its member table
are read in this step, whatever their page's kind: R85 and R230 give no moment (DESIGN CHOICE, log entry 82). -/
def State.acceptColl (s : State) (o : Op) (x : CollArg) : State :=
  match collFault s o x with
  | some (c, va, pg) =>
    (if c == .uncorrectable then s.logBad o (collNeeds s o x) else s).accept o
      (fun o => { o with cause := c, fva := va, pgf := pg }) none
  | none =>
    let cid := commCid s o x
    let ranks := commRanks s o x
    let rank := rankOf s o x
    let k := nextCall s cid rank 0
    let s1 := countJoin s cid rank k
    let dropped := match callAt s cid k with | some c => c.withdrawn | none => false
    if dropped then s1.accept o (fun o => { o with cancel := true }) none
    else
      let data := memBytes s.mem (localPhys o.core x.src) (imageLen x.ty x.n)
      (s1.join cid k ranks ⟨rank, some o.id, (ranks, x.op, x.ty, x.ofmt, x.n), data⟩).accept o (fun o =>
        { o with kind := .coll x.ty x.ofmt x.op x.src x.dst x.comm x.n (some (cid, k, rank)), parts := [onePart] }) none

/-- A call is withdrawn: every local rank that has joined completes CANCELLED (R231). -/
def State.withdrawCall (s : State) (cid k : Nat) : State :=
  match callAt s cid k with
  | none => { s with colls := s.colls ++ [⟨cid, k, 0, [], true⟩] }
  | some c =>
    let s1 := { s with colls := s.colls.map fun d => if d.cid == cid && d.k == k then { d with withdrawn := true } else d }
    (c.joined.filterMap (·.op)).foldl (fun s id => match opAt s id with
      | some o => s.complete o .cancelled
      | none => s) s1

/-- A COLL that waits for acceptance is withdrawn: its rank's call with it, which is then the next but for those of the COLLs
that stand before it (R231, R234). -/
def State.withdrawAhead (s : State) (o : Op) : State :=
  let look (p : Op) : Option (Nat × Nat) := (collArg p.kind).bind fun y =>
    let q := collLook s p y
    if (collFault s q y).isSome then none else some (commCid s q y, rankOf s q y)
  match if o.held then none else look o with
  | none => s
  | some (cid, rank) =>
    let before := s.ops.filter fun p =>
      p.core == o.core && p.cls == 3 && !p.held && !p.accepted && decide (p.order < o.order) && look p == some (cid, rank)
    let k := nextCall s cid rank before.length
    { s.withdrawCall cid k with skips := (cid, rank, k) :: s.skips }

/-- Traffic from a device can arrive: the peer table names its connection, and that connection's port half is up (R383, R423). -/
def peerUp (s : State) (device : Nat) : Bool :=
  s.hub.peers.any fun x => x.2.1 == device && !linkDown s (linkOf s x.2.2)

/-- A rank on another device joins or withdraws a call (R231). -/
def execCollPeerArrival (x : PeerMsg) (s : State) : Out :=
  .next (
    let full := !peerUp s x.device || match callAt s x.cid x.call with
      | some c => callFull c || c.withdrawn || c.joined.any fun j => j.rank == x.rank
      | none => false
    if full then s
    else if x.cancel then s.withdrawCall x.cid x.call
    else s.join x.cid x.call x.ranks ⟨x.rank, none, (x.ranks, x.op, x.ty, x.ofmt, x.n), x.data⟩)

/-! ### COLL: sums (R108, R111, R230) -/

/-- The ranks' images in rank order. -/
def images (c : CollCall) : List (List Byte) :=
  (sortBy (fun a b => decide (a.rank ≤ b.rank)) c.joined).map (·.data)

/-- Q(E): the exponent of the least nonzero magnitude (R111). -/
def leastMag : Ty → Int
  | .e4m3 => -9 | .e5m2 => -16 | .e2m1 => -1 | _ => 0

/-- Element i and its block's scale in one image. -/
def imageElem (ty : Ty) (n : Nat) (im : List Byte) (i : Nat) : Nat × Nat :=
  let w := tyBits ty
  let b := (im.getD (i * w / 8) 0).toNat
  let x := if w = 4 then b / 16 ^ (i % 2) % 16 else ofLe ((im.drop (i * w / 8)).take (w / 8))
  (x, (im.getD (n * w / 8 + i / 32) 0).toNat)

/-- One rank's contribution in units of 2^(S - 127 + Q - 24), and whether it was rounded (R111). -/
def contribution (ty : Ty) (sMax : Nat) (e : Nat × Nat) : Int × Bool :=
  match elemVal ty e.1 with
  | .fin neg m x => if m = 0 then (0, false)
    else roundInt .rne neg m (x + (e.2 : Int) - 127 - ((sMax : Int) - 127 + leastMag ty - 24))
  | _ => (0, false)

/-- Out(i) of block-scaled data (R111). -/
def reduceBlock (ty : Ty) (out : Ty) (es : List (Nat × Nat)) : Rounded :=
  let vs := es.map fun e => elemVal ty e.1
  if es.any (fun e => e.2 == 255) || vs.any fvIsNaN then ⟨nanCode out, 0⟩
  else
    let p := vs.any fun v => v == .inf false
    let n := vs.any fun v => v == .inf true
    if p && n then ⟨nanCode out, flagIV⟩
    else if p || n then ⟨infCode out n, 0⟩
    else
      let sMax := es.foldl (fun m e => max m e.2) 0
      let cs := es.map (contribution ty sMax)
      let k := cs.foldl (fun z c => z + c.1) (0 : Int)
      let r := if k = 0 then (⟨0, 0⟩ : Rounded)
        else roundTo out .rne false (.fin (k < 0) k.natAbs ((sMax : Int) - 127 + leastMag ty - 24))
      ⟨r.code, r.flags ||| if cs.any (·.2) then flagNX else 0⟩

/-- Element i of the sum over all ranks. -/
def reduceElem (x : CollArg) (ims : List (List Byte)) (i : Nat) : Rounded :=
  let es := ims.map fun im => imageElem x.ty x.n im i
  if blockScaled x.ty then reduceBlock x.ty (outTy x.ofmt) es
  else roundWith (outTy x.ofmt) .rne false (sumFV .rne (es.map fun e => elemVal x.ty e.1))

/-- A rank's destination bytes and the exception bits of their roundings (R230, R233). -/
def collResult (x : CollArg) (ranks rank : Nat) (ims : List (List Byte)) : List Byte × Reg :=
  let sum (lo n : Nat) : List Byte × Reg :=
    let es := (List.range n).map fun i => reduceElem x ims (lo + i)
    (es.foldr (fun r l => leBytes (outSize x.ofmt) r.code ++ l) [], es.foldl (fun f r => f ||| r.flags) 0)
  match x.op with
  | 0 => sum 0 x.n
  | 1 => sum (rank * (x.n / ranks)) (x.n / ranks)
  | 2 => (ims.foldr (· ++ ·) [], 0)
  | _ => (ims.getD 0 [], 0)

/-- Every rank brings the same shape, and its count suits the call (R231). A reduce-scatter whose N is no multiple of R, of 32 R
for block-scaled data, ends BAD_FORMAT in every rank: R230 names no cause for it (DESIGN CHOICE, log entry 82). -/
def callMatches (x : CollArg) (c : CollCall) : Bool :=
  collCountOk x c.ranks && c.joined.all fun j => j.shape == (c.ranks, x.op, x.ty, x.ofmt, x.n)

/-- A rank's destination is written once every rank has joined (R231). -/
def State.performColl (s : State) (o : Op) (x : CollArg) (cid k rank : Nat) : State :=
  match callAt s cid k with
  | none => s
  | some c =>
    if !callFull c then s
    else if !callMatches x c then
      (s.modOp o.id fun o => { o with cause := .badFormat, parts := setPart o.parts 0 2 }).finishIfOver o.id
    else
      let (bs, exc) := collResult x c.ranks rank (images c)
      let dest := localPhys o.core x.dst
      (((s.store dest bs).inertWaits dest).modOp o.id fun o =>
        { o with exc := exc &&& (flagIV ||| flagOF ||| flagUF ||| flagNX), parts := setPart o.parts 0 1 }).finishIfOver o.id

/-- The destination of a COLL, by the communicator record as it stands now, lies outside the output buffer (R92). -/
def collOutside (e : Env) (x : CollArg) (t : Thread) : Bool :=
  let o := collLook e.s (freshOp e.s e.c e.ck.cyc t
    ⟨3, .coll x.ty x.ofmt x.op x.src x.dst x.comm x.n none, false, []⟩ 0 0 0 false) x
  (collFault e.s o x).isNone && !inOutBuf t (BitVec.ofNat 32 x.dst) (collDstLen x (commRanks e.s o x))

def collWord (f : Full) (e : Env) (t : Thread) (s : State) : State :=
  let x : CollArg := ⟨f.ty, opxB f 0, field (opxN f) 3 1, (readV t f.a.toNat).toNat, (readV t (f.a.toNat + 1)).toNat,
    (readPair t f.b.toNat).toNat, (readV t (f.b.toNat + 2)).toNat⟩
  issueOp e t f.d.toNat ⟨3, .coll x.ty x.ofmt x.op x.src x.dst x.comm x.n none, false, [t.id.tid]⟩ (collOutside e x) s
def execColl (f : Full) (s : State) : Out := .next (wordFold (.coll f) (collWord f) s)

/-! ### RATOM (R232) -/

def ratomBytes (ty : Ty) : Nat := tyBits ty / 8

/-- The fault of a remote atomic: its page, then its alignment, then a failing channel (R232, R422, R432). -/
def ratomFault (s : State) (o : Op) (ty : Ty) (addr : Nat) : Option (EFault × Nat × Quad) :=
  match runCause s o .atomic 4 addr (ratomBytes ty) with
  | some f => some f
  | none =>
    if isAperture (physAt o addr) then some (.permission, addr, 0)
    else if addr % ratomBytes ty ≠ 0 then some (.bounds, 0, 0)
    else if vaBad s o addr (ratomBytes ty) then some (.uncorrectable, 0, 0)
    else none

def State.acceptRatom (s : State) (o : Op) (ty : Ty) (addr : Nat) : State :=
  match ratomFault s o ty addr with
  | some (c, va, pg) =>
    (if c == .uncorrectable then s.logBad o [(addr, ratomBytes ty)] else s).accept o
      (fun o => { o with cause := c, fva := va, pgf := pg }) none
  | none =>
    let kind := ((pageAt o addr).map (·.kind)).getD 0
    s.accept o (fun o => { o with parts := [⟨addr, ratomBytes ty, 0, 0, kind, false, true, .none, 0, 0, false⟩] }) none

/-- The atomic is performed at its target; the old value reaches V(d+2) before the slot's final state (R90, R232). -/
def State.doRatom (s : State) (o : Op) (op : Nat) (ty : Ty) (addr : Nat) (b cmp : Quad) (dst : Nat) : State :=
  let p := physAt o addr
  let n := ratomBytes ty
  let old := memRead s.mem p n
  let s1 := (s.storeN p n (atomNew op ty old b.toNat cmp.toNat)).inertWaits p
  let put (t : Thread) : Thread :=
    if t.id.launch == o.launch && o.threads.contains t.id.tid && live t then writeLate s.cycle o.cyc (oldRegs (dst + 2) ty old) t
    else t
  let s2 := s1.modCore o.core fun k => { k with threads := k.threads.map put, saved := k.saved.map put }
  (s2.modOp o.id fun o => { o with parts := setPart o.parts 0 1 }).finishIfOver o.id

/-- A RATOM comes to its target: one that lies on a channel which has failed meanwhile cannot be read, and is not performed (R232,
R422). -/
def State.performRatom (s : State) (o : Op) (op : Nat) (ty : Ty) (addr : Nat) (b cmp : Quad) (dst : Nat) : State :=
  if vaBad s o addr (ratomBytes ty) then
    ((s.logBad o [(addr, ratomBytes ty)]).modOp o.id fun o =>
      { o with cause := .uncorrectable, parts := setPart o.parts 0 2 }).finishIfOver o.id
  else s.doRatom o op ty addr b cmp dst

/-- A tiller suspends at a RATOM whose target lies outside its output buffer, and a detached thread's is cancelled (R92,
R262). -/
def ratomWord (f : Full) (e : Env) (t : Thread) (s : State) : State :=
  let (b, cmp) := atomOperands f e t
  let addr := (readPair t f.a.toNat).toNat
  let x : Ask := ⟨4, .ratom (opxN f % 8) f.ty addr b cmp f.d.toNat, false, [t.id.tid]⟩
  let outside (u : Thread) : Bool := !rangeInBuf e.s u (freshOp e.s e.c e.ck.cyc t x 0 0 0 false) addr (ratomBytes f.ty)
  if !(heldFor outside t).isEmpty then suspendAt e t s else issueOp e t f.d.toNat x outside s
def execRatom (f : Full) (s : State) : Out := .next (wordFold (.ratom f) (ratomWord f) s)

end Sys2Proof.Machine
end

