-- ==== Sys2Proof/Machine/EngineRun.lean ====
section
/-! DEFINITION. How an operation moves on: its walks (R58), its acceptance (R83, R210), its parts one at a time (R83 to R85),
whichever engine it belongs to; and what a cancellation takes from it (R67, R234). The operation is `State.ix`. -/

namespace Sys2Proof.Machine

open Sys2Proof

/-! ### Walks -/

/-- The ranges of addresses that must be known before the operation goes on. -/
def opNeeds (s : State) (o : Op) : List (Nat × Nat) :=
  match o.kind with
  | .copy x => copyNeeds x
  | .ckick _ _ recs => match openRec recs with | some (_, r) => recReady r | none => []
  | .gather .. => match gatherArg o.kind with
    | some x => if mayAccept s o then gatherNeeds s o.core x else []
    | none => []
  | .coll .. => match collArg o.kind with | some x => collNeeds s o x | none => []
  | .ratom _ ty addr _ _ _ => [(addr, ratomBytes ty)]
  | .wload .. | .mma _ => []

/-- What a walk fills its request with: 0 read, 1 write, 2 atomic (R363). -/
def opAcc (o : Op) : Nat :=
  match o.kind with
  | .copy x => if x.out then 1 else 0
  | .ckick _ _ recs => match openRec recs with | some (_, r) => if r.out then 1 else 0 | none => 0
  | .ratom .. => 2
  | _ => 0

/-- One page of operation `ix` is found (R58). -/
def execTranslationWalk (s : State) : Out :=
  .next (match opAt s s.ix with
    | none => s
    | some o =>
      if o.held || o.accepted then s
      else match firstUndecided o (opNeeds s o) with
        | some va => s.translate o va (opAcc o)
        | none => s)

/-! ### Acceptance -/

/-- The operation is accepted by its engine, its pages known; a kick takes one step towards it. -/
def State.acceptOp (s : State) (o : Op) : State :=
  match o.kind with
  | .copy x => s.acceptCopy o x
  | .ckick base count recs => s.stepKick o base count recs
  | .wload .. | .mma _ => (s.accept o (fun o => { o with parts := [onePart] }) none).wakeArrays o
  | .gather .. => match gatherArg o.kind with | some x => s.acceptGather o x | none => s
  | .coll .. => match collArg o.kind with | some x => s.acceptColl o x | none => s
  | .ratom _ ty addr _ _ _ => s.acceptRatom o ty addr

/-! ### Orders between operations (R83, R88, R358) -/

/-- The global ranges that an operation which waits for acceptance is going to touch, as the machine stands. -/
def aheadRanges (s : State) (o : Op) : List (Nat × Nat) :=
  match o.kind with
  | .ckick base count recs =>
    if !kickOk s o.core base count then []
    else opNeeds s o ++ (List.range (count - recs.length)).map fun j =>
      let r := recOf (memRead s.mem (recAt o.core base (recs.length + j)) 32)
      (r.gaddr, r.bytes)
  | .gather .. => match gatherArg o.kind with | some x => gatherNeeds s o.core x | none => []
  | .coll .. => match collArg o.kind with | some x => collNeeds s (collLook s o x) x | none => []
  | _ => opNeeds s o

/-- Such an operation touches a page of one of these kinds, by the translations of now. -/
def aheadOn (s : State) (o : Op) (kind : Nat → Bool) : Bool :=
  let rs := aheadRanges s o
  (foresee s rs o).pages.any fun x => kind x.kind && rs.any fun r => decide (x.va < r.1 + r.2) && decide (r.1 < x.va + x.bytes)

def aheadS (s : State) (o : Op) : Bool := aheadOn s o (· == 0)

def sharesThread (o p : Op) : Bool := o.core == p.core && o.launch == p.launch && o.threads.any fun t => p.threads.contains t

/-- S parts of an operation of a thread of `o` that issued earlier are not performed yet, those among them that outlive a
cancelled operation (R83, R84). -/
def sBefore (s : State) (o : Op) : Bool :=
  (s.ops.any fun p => decide (p.iss < o.iss) && !p.held && sharesThread o p
    && ((!p.accepted && aheadS s p) || (allParts p).any fun a => a.kind == 0 && a.st == 0 && a.cause == .none))
    || s.posted.any fun w => w.part.isSome && w.core == o.core && w.launch == o.launch && o.threads.contains w.tid
      && (opAt s w.op).isNone

/-- An operation touches an S or C page, by the pages that it has found and, until it is accepted, by the translations of now
(R88). -/
def touchesNow (s : State) (o : Op) : Bool :=
  touchesGlobal o && (((allPages o).any fun x => x.kind != 2) || (!o.accepted && aheadOn s o (· != 2)))

/-- The release set of an operation is in place (R88). -/
def relReady (s : State) (o : Op) : Bool :=
  accessesDone s o && !(s.ops.any fun p => o.relOps.contains p.id && touchesNow s p)
    && !s.posted.any fun w => o.relPosts.contains w.id || (o.relOps.contains w.op && w.kind != 2)

/-- The team of the operation's core is saved: what it writes waits for the restore (R358). -/
def teamAway (s : State) (o : Op) : Bool := (s.core o.core).savedTeams.any fun y => y.team.launch == o.launch

/-- The address reaches, through the window, the slice of a team that has been saved: its own launch's, or whichever the slice
is of while no team is there (R358). -/
def portHolds (s : State) (o : Op) (va : Nat) : Bool :=
  let p := physAt o va
  let k := s.core (sliceCore p)
  (regionOf p).1 == .sram && sliceCore p != o.core && (k.team.map (·.launch)) != some o.launch
    && k.savedTeams.any fun y => y.team.launch == o.launch || k.team.isNone

/-- The address is reached over an Ethernet port half that retrains (R423). -/
def overDownLink (s : State) (o : Op) (va : Nat) : Bool := (linkAt s (physAt o va)).any (linkDown s)

/-- A part may be performed now, those of its operation `before` it given: its kind's order, and in a release, whose
every part writes, the release set (R83, R88). -/
def partReady (s : State) (o : Op) (rel : Bool) (before : List Part) (a : Part) : Bool :=
  let reach (va : Nat) : Bool := !portHolds s o va && !overDownLink s o va
  a.st == 0 && !a.posted && reach a.gva && reach (a.gva + a.len - 1) && (a.kind != 0 || (!sBefore s o && !before.any fun b => b.kind == 0 && b.st == 0 && b.cause == .none))
    && (!rel || relReady s o)

/-- The metadata of a copy's part may be read now (R358, R423). -/
def metaFree (s : State) (o : Op) (x : CopyArg) (a : Part) : Bool :=
  !x.xp || match planOf x with
    | some p => !portHolds s o (x.maddr + a.off / p.db / 2) && !overDownLink s o (x.maddr + a.off / p.db / 2)
    | none => true

/-- What a REL record waits for: its thread's earlier operations and accesses, and the kick's earlier records with their posted
writes (R217). -/
def recRelReady (s : State) (o : Op) (recs : List KickRec) (j : Nat) : Bool :=
  relReady s o && (recs.take j).all (fun r => r.ended.isSome || !recTouchesSC r)
    && !s.posted.any fun w => w.op == o.id && w.kind != 2 && decide (w.num / 65536 < j)

/-- Part `i` of record `j` of a kick may be performed. S parts of two records go in record order, each record's by ascending
address: R83 orders the parts of one operation by address and R217 accepts each record as a COPY, so this is the model's choice
(DESIGN CHOICE, log entry 82). -/
def recPartReady (s : State) (o : Op) (recs : List KickRec) (j i : Nat) (r : KickRec) (a : Part) : Bool :=
  let before := (recs.take j).foldl (fun l q => l ++ q.parts) [] ++ r.parts.take i
  partReady s (recOp o r) false before a && (!r.rel || recRelReady s o recs j)

/-- Part `i` of a gather may be performed: a row's by its kind's order, S rows by ascending address (R83), the last once every
row has been read or skipped. -/
def gatherReady (s : State) (o : Op) (i : Nat) (a : Part) : Bool :=
  if i + 1 = o.parts.length then a.st == 0 && o.parts.dropLast.all fun b => b.st != 0
  else
    let lower := o.parts.filter fun b => decide (b.gva < a.gva)
    let same := (o.parts.take i).filter fun b => b.gva == a.gva
    partReady s o false (lower ++ same) a

/-- The record and the member table of a COLL may be read now: S pages in their order (R83), and no slice of a saved team
(R358). -/
def collReadable (s : State) (o : Op) : Bool :=
  match collArg o.kind with
  | none => true
  | some _ => !(o.pages.any fun x => portHolds s o x.va || overDownLink s o x.va) && (!(o.pages.any fun x => x.kind == 0) || !sBefore s o)

/-- Operation `ix` is accepted, once its turn has come and every page it names is known (R83, R210). One that has no part to
perform completes in the same step (R67, R213, R217). -/
def execEngineAccept (s : State) : Out :=
  .next (match opAt s s.ix with
    | none => s
    | some o =>
      if mayAccept s o && (firstUndecided o (opNeeds s o)).isNone && collReadable s o then (s.acceptOp o).finishIfOver o.id
      else s)

/-! ### Parts -/

/-- Part `sub` of the operation is performed; a kick's part is record * 65536 + part. -/
def State.performPart (s : State) (o : Op) (j : Nat) : State :=
  match o.kind with
  | .copy x =>
    (match o.parts[j]? with
    | some a =>
      if o.accepted && refused a then s.refusePart o x j a
      else if o.accepted && partReady s o o.rel (o.parts.take j) a && metaFree s o x a then s.performCopy o x j a else s
    | none => s)
  | .ckick base _ recs =>
    (match recs[j / 65536]? with
    | some r => match r.parts[j % 65536]? with
      | some a =>
        if r.accepted && refused a then s.recLanded o base (j / 65536) (j % 65536) r a (some (a.cause, a.fva))
        else if r.accepted && recPartReady s o recs (j / 65536) (j % 65536) r a then
          s.performRec o base (j / 65536) (j % 65536) r a
        else s
      | none => s
    | none => s)
  | .wload ty buf addr sc => if o.accepted && mxFirst s o && mxAwake s o then s.performWload o ty buf addr sc else s
  | .mma x => if o.accepted && mxFirst s o && mxAwake s o then s.performMma o x else s
  | .gather .. => match gatherArg o.kind with
    | some x => (match o.parts[j]? with
      | some a => if o.accepted && gatherReady s o j a then s.performGather o x j a else s
      | none => s)
    | none => s
  | .coll ty ofmt op src dst comm n (some (cid, k, rank)) =>
    if o.accepted && !teamAway s o then s.performColl o ⟨ty, ofmt, op, src, dst, comm, n⟩ cid k rank else s
  | .coll .. => s
  | .ratom op ty addr b cmp dst =>
    match o.parts.head? with
    | some a => if o.accepted && partReady s o false [] a then s.performRatom o op ty addr b cmp dst else s
    | none => s

/-- Part `sub` of operation `ix` is performed, posted or served (R83). -/
def execEnginePartPerformed (s : State) : Out :=
  .next (match opAt s s.ix with
    | none => s
    | some o => s.performPart o s.sub)

/-! ### Posted writes (R84) -/

/-- A write on an S page has been performed at its commit point: its part counts, and the operation may be over (R66, R67,
R83). -/
def State.landPart (s : State) (id j : Nat) : State :=
  match opAt s id with
  | none => s
  | some o => match o.kind with
    | .copy x => s.copyLanded o x j
    | .ckick base _ recs =>
      (match recs[j / 65536]? with
      | some r => (match r.parts[j % 65536]? with
        | some a => s.recLanded o base (j / 65536) (j % 65536) r a none
        | none => s)
      | none => s)
    | _ => s

/-- Posted write `ix` is performed, once the port half that it leaves by is up (R84, R423). -/
def execPostedWritePerformed (s : State) : Out :=
  .next (match s.posted.find? fun p => p.id == s.ix with
    | none => s
    | some p =>
      if p.link.any (linkDown s) then s
      else
        let s1 := dropSeen { s.storeCells p.cells with posted := s.posted.filter fun q => q.id != p.id }
        ((match p.part with | some j => s1.landPart p.op j | none => s1).settleWaits).settleGran)

/-! ### Cancellation (R67, R74, R76, R217, R231, R234) -/


/-- What a cancellation makes of the parts that have not been performed: the bytes of one that is posted are delivered (R84), the
others' are not. -/
def State.countCut (s : State) (c : Nat) (bar tag : Option Nat) (ps : List Part) : State :=
  ps.foldl (fun s a => if a.st = 0 then s.countBytes c bar tag (partBytes a) (!a.posted) else s) s

/-- A copy stops: what it had still to move counts as undelivered. -/
def State.cutCopy (s : State) (o : Op) (x : CopyArg) : State :=
  if o.accepted then s.countCut o.core x.bar x.tag o.parts
  else if (planOf x).isSome && copyLocalOk s o.core x then s.countBytes o.core x.bar x.tag (ctlBytes x) true
  else s

/-- A record that was fetched and has not ended takes STATUS CANCELLED, and its undelivered bytes count. -/
def State.cutRec (s : State) (o : Op) (base : Nat) (x : Nat × KickRec) : State :=
  let (j, r) := x
  if r.ended.isSome then s
  else
    let s1 := s.putRecStatus (recAt o.core base j) (statusCode .cancelled)
    if r.bad || !copyLocalOk s o.core (recCopy r) then s1
    else if r.accepted then s1.countCut o.core r.bar r.tag r.parts
    else s1.countBytes o.core r.bar r.tag r.bytes true

def numbered {α : Type} (l : List α) : List (Nat × α) := (List.range l.length).zip l

/-- The undelivered bytes and records of a class 0 operation. -/
def State.cutOp (s : State) (o : Op) : State :=
  match o.kind with
  | .copy x => s.cutCopy o x
  | .ckick base _ recs => (numbered recs).foldl (fun s x => s.cutRec o base x) s
  | _ => s

/-- Whether the engine can still withdraw the operation (R234). A matrix operation has entered its array once it is the first
there and the array is awake, where R234 does not say when (log entry 79). -/
def cancellable (s : State) (o : Op) : Bool :=
  match o.kind with
  | .coll _ _ _ _ _ _ _ (some (cid, k, _)) => match callAt s cid k with | some c => !callFull c | none => true
  | .ratom .. => !o.accepted
  | .wload .. | .mma _ => !(o.accepted && mxFirst s o && mxAwake s o)
  | _ => true

/-- The operation is withdrawn: its future reads CANCELLED. -/
def State.cancelOp (s : State) (o : Op) : State :=
  match o.kind with
  | .coll _ _ _ _ _ _ _ (some (cid, k, _)) => s.withdrawCall cid k
  | .coll .. => (s.withdrawAhead o).complete o .cancelled
  | .wload .. | .mma _ => ((if o.accepted then s.restArrays o else s).cutOp o).complete o .cancelled
  | _ => (s.cutOp o).complete o .cancelled

/-- What FCANCEL finds: its status, and the operation that it withdraws. -/
def cancelView (s : State) (launch : Nat) (h : Quad) : Status × Option Op :=
  match viewFut s launch h with
  | .stale => (.stale, none)
  | .pending cls op _ _ =>
    if cls = 5 then (.absent, none)
    else match opAt s op with
      | some o => if cancellable s o then (.done, some o) else (.absent, none)
      | none => (.absent, none)
  | _ => (.absent, none)

/-- A handle's operation is withdrawn where it can be: the machine after it, and the status. -/
def State.cancel (s : State) (launch : Nat) (h : Quad) : State × Status :=
  match cancelView s launch h with
  | (st, some o) => (s.cancelOp o, st)
  | (st, none) => (s, st)

end Sys2Proof.Machine
end

