-- ==== Sys2Proof/Machine/Future.lean ====
section
/-! DEFINITION. Futures, counters and the ends of waits: FWAIT, FWAIT.acq, FTEST, FCANCEL, FTIME, FSLEEP, WAITN and QRD
(R233 to R238), and a wait whose effective deadline passes (R41 to R43). -/

namespace Sys2Proof.Machine

open Sys2Proof

/-! ### Waiting words -/

/-- The wait of a word begins, and ends at once when its event has happened already. -/
def beginWait (e : Env) (t : Thread) (kind : WaitKind) (st : TState) (dsel : BitVec 2) (reg : Nat) : TRes :=
  .ok (settleThread { e.s with cycle := e.ck.cyc } e.c (waitWord e t kind st dsel reg))

def fwaitWord (f : Full) (acq : Bool) (e : Env) (t : Thread) : TRes :=
  beginWait e t (.future (readPair t f.a.toNat) acq false) .future f.dsel f.d.toNat
def execFwait (f : Full) (s : State) : Out := .next (settleWord (wordMap (.fwait f) (fwaitWord f false) s))
def execFwaitAcq (f : Full) (s : State) : Out := .next (settleWord (wordMap (.fwaitAcq f) (fwaitWord f true) s))

def fsleepWord (f : Full) (e : Env) (t : Thread) : TRes :=
  beginWait e t (.fsleep (readPair t f.a.toNat) false) .sleeping f.dsel f.d.toNat
def execFsleep (f : Full) (s : State) : Out := .next (settleWord (wordMap (.fsleep f) (fsleepWord f) s))

/-- The class is OPX; the threshold is Vb or bits 31:0 of the uniform operand (R237). -/
def waitnWord (f : Full) (e : Env) (t : Thread) : TRes :=
  beginWait e t (.waitn (opxN f) (readB32 e t f).toNat) .future f.dsel f.d.toNat
def execWaitn (f : Full) (s : State) : Out := .next (settleWord (wordMap (.waitn f) (waitnWord f) s))

/-! ### FTEST, FCANCEL, FTIME, QRD -/

/-- The TIMEOUT of FTEST leaves the count of R44 unchanged (R233). -/
def ftestWord (f : Full) (e : Env) (t : Thread) : TRes :=
  let d := f.d.toNat
  match viewFut e.s t.id.launch (readPair t f.a.toNat) with
  | .absent => .ok (statusNow e (writeV t (d + 1) 0) d .absent)
  | .stale => .ok (statusNow e (writeV t (d + 1) 0) d .stale)
  | .pending .. => .ok (writeV (writeV t (d + 1) 0) d (statusReg .timeout))
  | .ended x _ => .ok (statusNow e (writeV (observe e.s t x) (d + 1) (summaryOf x)) d x.st)
def execFtest (f : Full) (s : State) : Out := .next (wordMap (.ftest f) (ftestWord f) s)

/-- The engine decides at issue, and the status lands in the next cycle (R234, R314). -/
def fcancelWord (f : Full) (e : Env) (t : Thread) (s : State) : State :=
  let (s1, st) := s.cancel t.id.launch (readPair t f.a.toNat)
  s1.modThread e.c t.id.slot fun u =>
    wordDone e.is (lateStatus e u f.fsel 1 f.d.toNat st [])
def execFcancel (f : Full) (s : State) : Out := .next (wordFold (.fcancel f) (fcancelWord f) s)

/-- The promise that a handle's operation has, or none while its engine has not accepted it (R235). -/
def promiseNow (s : State) (launch : Nat) (h : Quad) : Option Quad :=
  match viewFut s launch h with
  | .pending cls _ accepted promise => if cls ≠ 0 then some 0 else if accepted then some (promiseReg promise) else none
  | .ended x promise => if x.cls = 0 then some (promiseReg promise) else some 0
  | _ => some 0

def ftimeWord (f : Full) (e : Env) (t : Thread) : TRes :=
  let d := f.d.toNat
  let h := readPair t f.a.toNat
  match promiseNow e.s t.id.launch h with
  | some v => .ok (lateResult e t f.fsel 1 [(d, v.setWidth 32), (d + 1, (v >>> 32).setWidth 32)] 0)
  | none => .ok (addFlag { t with replies := t.replies ++ [⟨h, d, flagOf e.is f.fsel, e.ck.now, e.ck.cyc⟩] } (flagOf e.is f.fsel))
def execFtime (f : Full) (s : State) : Out := .next (wordMap (.ftime f) (ftimeWord f) s)

/-- FLT of a class as a read in cycle `cyc` finds it, and what the read leaves: a bit that has been set in that very cycle is
not read yet, and stays (R11). -/
def readFlt (cyc : Nat) (t : Thread) (k : Nat) : Bool × Bool :=
  if t.fltNew.1 = cyc then (t.fltNew.2.1.getD k false, t.fltNew.2.2.getD k false) else (t.flt.getD k false, false)

/-- COUNT and FLT; the read clears FLT (R238). -/
def qrdWord (f : Full) (e : Env) (t : Thread) : TRes :=
  let k := opxN f
  let x := readFlt e.ck.cyc t k
  .ok (writeV { t with flt := t.flt.set k x.2 } f.d.toNat
    (BitVec.ofNat 32 (t.q.getD k 0 % 2 ^ 12 + if x.1 then 2 ^ 31 else 0)))
def execQrd (f : Full) (s : State) : Out := .next (wordMap (.qrd f) (qrdWord f) s)

/-! ### A wait whose effective deadline passes (R41 to R43) -/

/-- FSLEEP at its deadline: the tick may be the promise's own, and the operation complete (R236). -/
def State.expireSleep (s : State) (c : Nat) (t : Thread) (h : Quad) (begun : Bool) : State :=
  match viewFut s t.id.launch h with
  | .ended x (some p) =>
    if begun && p ≤ s.time then
      (s.modThread c t.id.slot fun u => observe s u x).endWaitAt c t.id.slot x.st []
    else s.endWaitAt c t.id.slot .timeout []
  | _ => s.endWaitAt c t.id.slot .timeout []

/-- The wait of a thread ends by its deadline. A wait whose access has not committed, a transfer and a suspension do not
end here (R430, R157, R261). -/
def State.expireWait (s : State) (c : Nat) (t : Thread) (w : Wait) : State :=
  let sl := t.id.slot
  match w.kind with
  | .access | .transit _ | .suspended => s
  | .sleep => s.endWaitAt c sl .done []
  | .acquire .. => s.endWaitAt c sl .partialDone []
  | .fence scope mask _ _ =>
    let got := drainedMask s c t scope mask
    (s.modThread c sl fun u => sawClasses s c u got).endWaitAt c sl .partialDone [(w.reg + 1, BitVec.ofNat 32 got)]
  | .barrier obj ph n _ => (s.withdraw c t obj ph n).endWaitAt c sl .timeout []
  | .future _ _ task => s.endWaitAt c sl .timeout (if task then [] else [(w.reg + 1, 0)])
  | .fsleep h begun => s.expireSleep c t h begun
  | .desc .. => if t.acc.any isDescRead then s else s.endWaitAt c sl .timeout []
  | .tag .. | .waitn .. | .take _ | .put _ | .spawn .. | .condNew | .supWait | .supXfer .. => s.endWaitAt c sl .timeout []

/-- The effective deadline of thread `sub` of core `cur` has passed, and its wait ends. -/
def execWaitDeadlineExpiry (s : State) : Out :=
  .next (match s.thread s.cur s.sub with
    | none => s
    | some t =>
      match t.wait with
      | none => s
      | some w => if dlPassed s.time w.dl then s.expireWait s.cur t w else s)

end Sys2Proof.Machine
end

