-- ==== Sys2Proof/Machine/System.lean ====
section
/-! DEFINITION. TRAP, BKPT, PHINT, YIELD, SYSR and SYSW (R265 to R268), and writes of G registers (R199). -/

namespace Sys2Proof.Machine

open Sys2Proof

/-- The record carries the code and Va (R265). -/
def trapWord (f : Full) (_ : Env) (t : Thread) : TRes := .trap .userTrap (opxN f) ((readV t f.a.toNat).setWidth 64)
def execTrap (f : Full) (s : State) : Out := .next (wordMap (.trap f) (trapWord f) s)

def bkptWord (f : Full) (_ : Env) (_ : Thread) : TRes := .trap .breakpoint (opxN f) 0
def execBkpt (f : Full) (s : State) : Out := .next (wordMap (.bkpt f) (bkptWord f) s)

/-- PHINT has no effect when it executes (R266). -/
def phintWord (_ : Env) (t : Thread) : TRes := .ok t
def execPhint (f : Full) (s : State) : Out := .next (wordMap (.phint f) phintWord s)

/-- The thread is held at the next header for 16n cycles; n = 0 makes no hold (R267). -/
def yieldWord (f : Full) (e : Env) (t : Thread) : TRes :=
  if opxN f = 0 then .ok t else .ok (fallThrough e.ck e.k t (.yielded (opxN f)))
def execYield (f : Full) (s : State) : Out := .next (settleWord (wordMap (.yield f) (yieldWord f) s))

/-- The value of a uniform number, to a register or a pair by its width (R118, R268). -/
def sysrWord (f : Full) (e : Env) (t : Thread) : TRes :=
  let n := f.b.toNat
  let x := readUniform e t n
  .ok (if uniformWide n then writePair t f.d.toNat x else writeV t f.d.toNat (x.setWidth 32))
def execSysr (f : Full) (s : State) : Out := .next (wordMap (.sysr f) (sysrWord f) s)

/-- The source of a SYSW at the width of its register. -/
def syswVal (f : Full) (t : Thread) : Quad :=
  if uniformWide f.b.toNat then readPair t f.a.toNat else (readV t f.a.toNat).setWidth 64

/-- Gn of the thread's group takes a value. -/
def State.writeG (s : State) (c : Nat) (t : Thread) (n : Nat) (x : Quad) : State :=
  s.modCore c fun k => { k with g := tblPut k.g (gKey t.id.sup (gixOf t) n) x }

/-- Another thread of the group that takes the word stands at a higher position (R199). -/
def outranked (i : Instr) (e : Env) (t : Thread) : Bool :=
  e.k.threads.any fun u => takesWord e i u && legalHere e i u && sameGroup t u && decide (lanePos t < lanePos u)

def syswWord (f : Full) (e : Env) (t : Thread) (s : State) : State :=
  let n := f.b.toNat
  if n < 0x40 then
    s.endWordAt e t (.ok t) |> fun s => if outranked (.sysw f) e t then s else s.writeG e.c t n (syswVal f t)
  else s.endWordAt e t (.ok (writeSpecial e.ck.cyc t n (syswVal f t)))
def execSysw (f : Full) (s : State) : Out := .next (wordFold (.sysw f) (syswWord f) s)

end Sys2Proof.Machine
end

