-- ==== Sys2Proof/Machine/Supervisor.lean ====
section
/-! DEFINITION. The fault queue (R347, R349, R350), supervisor threads' words (R269 to R273), the resume word (R352) and
the thread image (R359). -/

namespace Sys2Proof.Machine

open Sys2Proof

/-! ### Records (R347) -/

/-- A fault record as 256 bits. -/
def recBits (r : FaultRec) : Nat :=
  causeCode r.cause + r.widx % 32 * 2 ^ 8 + (if r.gm then 2 ^ 13 else 0) + (if r.spec then 2 ^ 14 else 0)
    + r.code % 64 * 2 ^ 16 + r.hdr % 2 ^ 15 * 2 ^ 32 + r.gpc.toNat * 2 ^ 64 + r.gop.toNat * 2 ^ 96 + r.arg.toNat * 2 ^ 128
    + r.time % 2 ^ 64 * 2 ^ 192

/-- The reference of the thread that a record names (R269). -/
def recRef (r : FaultRec) : Nat := r.slot + r.gen % 2 ^ 16 * 2 ^ 16

/-- V(d+1) to V(d+9) of SUP.PWAIT (R270). -/
def recRegs (d : Nat) (r : FaultRec) : List (Nat × Reg) :=
  (d + 1, regOf (recRef r)) :: (List.range 8).map fun j => (d + 2 + j, BitVec.ofNat 32 (recBits r / 2 ^ (32 * j)))

/-- Nothing whose result a parked thread waits for is in flight to it (R347). -/
def landed (t : Thread) : Bool :=
  t.res.isEmpty && t.replies.isEmpty && t.pend.isEmpty && t.acc.all fun a => match a.kind with | .store _ => true | _ => false

/-! ### The queue (R270, R349, R350) -/

def supWaiting (t : Thread) : Bool := match t.wait with
  | some w => match w.kind with | .supWait => true | _ => false
  | none => false

/-- Waiting supervisors take the oldest records in the order they began to wait. -/
def serveFaults (c : Nat) : Nat → State → State
  | 0, s => s
  | fuel + 1, s =>
    let k := s.core c
    match k.faultQ, sortBy (fun a b => lexBefore (waitKey (c, a)) (waitKey (c, b))) (k.threads.filter supWaiting) with
    | r :: rest, t :: _ =>
      serveFaults c fuel ((s.withCore c { k with faultQ := rest }).endWaitAt c t.id.slot .done
        (recRegs ((t.wait.map (·.reg)).getD 0) r))
    | _, _ => s

def State.serveFaultsAt (s : State) (c : Nat) : State := serveFaults c (s.core c).faultQ.length s

/-- The order in which records that wait enter the queue: by TIME, and those of one cycle by slot (R349, R415). -/
def recBefore (a b : FaultRec) : Bool := decide (a.cyc < b.cyc) || (a.cyc == b.cyc && decide (a.slot ≤ b.slot))

/-- A record is offered: a user thread's to the fault queue, a supervisor's to the fault block of the core (R349, R350). -/
def offerRec (k : Core) (sup : Bool) (r : FaultRec) : Core :=
  if sup then
    (match k.svRec with
    | none => { k with svRec := some r }
    | some _ => { k with svOvf := min (k.svOvf + 1) 255 })
  else if k.faultQ.length < Config.nFaultRecs && k.faultWait.isEmpty then { k with faultQ := k.faultQ ++ [r] }
  else { k with faultWait := insertBy recBefore r k.faultWait }

/-- A user thread in a lower slot parked in the same cycle and its record has not been offered yet, or may still park in it, since
a lowered clock has ticks of the cycle to come (R8): records enter in slot order (R415). -/
def recWaits (s : State) (c : Nat) (t : Thread) (r : FaultRec) : Bool :=
  !t.id.sup && (decide (s.cycle ≤ r.cyc && s.frac + s.svc.clk < 1200)
    || (s.core c).threads.any fun u => !u.id.sup && decide (u.id.slot < t.id.slot) && u.frec.any fun x => x.cyc == r.cyc)

/-- Thread `sub` of core `cur` has trapped, and its results have landed: its record is formed and offered (R347, R415). -/
def execParkComplete (s : State) : Out :=
  .next (match s.thread s.cur s.sub with
    | none => s
    | some t =>
      match t.frec with
      | none => s
      | some r =>
        if t.pos.st != .parked || !landed t || recWaits s s.cur t r then s
        else
          ((s.modThread s.cur s.sub fun t => { t with frec := none, flags := List.replicate 12 0 }).modCore s.cur fun k =>
            offerRec k t.id.sup r).serveFaultsAt s.cur)

/-- The first waiting record enters the fault queue of core `cur`, when it has room. -/
def execFaultRecordEnqueue (s : State) : Out :=
  .next (
    let k := s.core s.cur
    match k.faultWait with
    | [] => s
    | r :: rest =>
      if k.faultQ.length < Config.nFaultRecs then
        (s.withCore s.cur { k with faultQ := k.faultQ ++ [r], faultWait := rest }).serveFaultsAt s.cur
      else s)

/-- The record of a thread that has not been taken is withdrawn (R349). -/
def dropRec (k : Core) (slot gen : Nat) : Core :=
  let keep (r : FaultRec) : Bool := !(r.slot == slot && r.gen == gen)
  { k with faultQ := k.faultQ.filter keep, faultWait := k.faultWait.filter keep }

def supPwaitWord (f : Full) (e : Env) (t : Thread) (s : State) : State :=
  (s.endWordAt e t (.ok (waitWord e t .supWait .future f.dsel f.d.toNat))).serveFaultsAt e.c
def execSupPwait (f : Full) (s : State) : Out := .next (settleWord (wordFold (.supPwait f) (supPwaitWord f) s))

/-! ### Thread references (R269, R272) -/

inductive ThrView
  | absent
  | stale
  | thread (t : Thread)

def viewThread (k : Core) (r : Nat) : ThrView :=
  if Config.nSlots ≤ field r 11 0 || field r 15 12 != 0 then .absent
  else if tblGet k.gen (field r 11 0) 0 % 2 ^ 16 ≠ field r 31 16 then .stale
  else match threadAt k.threads (field r 11 0) with
    | some t => .thread t
    | none => .absent

/-- The parked thread that a word may act on: a user thread, or any when the word only reads (R272). -/
def target (k : Core) (r : Nat) (reads : Bool) : Status ⊕ Thread :=
  if !reads && Config.nUserSlots ≤ field r 11 0 then .inl .absent
  else match viewThread k r with
    | .absent => .inl .absent
    | .stale => .inl .stale
    | .thread t => if t.pos.st == .parked then .inr t else .inl .absent

/-! ### Items of a parked thread (R271) -/

/-- The special registers that an item may name: a supervisor number only in a supervisor thread. -/
def itemSpecial (t : Thread) (n : Nat) : Bool := n < 0x40 || ((sysRegInfo n).isSome && (n < 0x180 || t.id.sup))

/-- The value of an item; none when the selector names nothing. -/
def readItem (s : State) (c : Nat) (t : Thread) (sel : Nat) : Option Quad :=
  let n := field sel 11 0
  let q (x : Nat) : Option Quad := some (BitVec.ofNat 64 x)
  if field sel 31 16 ≠ 0 then none
  else match field sel 15 12 with
    | 0 => if n < t.id.nregs then some ((readV t n).setWidth 64) else none
    | 1 => if n < 0x40 then some (readG (s.core c) t n) else if itemSpecial t n then some (readSpecial s c t n) else none
    | 2 => if n = 0 then some ((t.p ||| 1).setWidth 64) else none
    | 3 => if n = 0 then q (t.pos.hdr % 2 ^ 15 + t.pos.widx % 32 * 2 ^ 15) else none
    | 4 => if n < 4 then some (readDl t n) else none
    | 5 => if n = 0 then q ((List.range 12).foldl (fun x j => if 0 < t.flags.getD j 0 then x + 2 ^ j else x) 0) else none
    | 6 => if n < t.rs.held then some ((t.rs.ent.getD n 0).setWidth 64) else none
    | 7 => if n < 5 then q (t.q.getD n 0) else none
    | _ => none

/-- An item takes a value: what changes, as a change of the machine; none when nothing may be written. -/
def writeItem (s : State) (c : Nat) (t : Thread) (sel : Nat) (x : Quad) : Option State :=
  let n := field sel 11 0
  let put (f : Thread → Thread) : Option State := some (s.modThread c t.id.slot f)
  if field sel 31 16 ≠ 0 then none
  else match field sel 15 12 with
    | 0 => if n < t.id.nregs then put fun t => writeV t n (x.setWidth 32) else none
    | 1 =>
      if n < 0x40 then some (s.writeG c t n x)
      else if itemSpecial t n && uniformWritable n then put fun t => writeSpecial s.cycle t n x else none
    | 2 => if n = 0 then put fun t => { t with p := (x.setWidth 8 &&& 0xFE) ||| 1 } else none
    | 3 =>
      if n = 0 then put fun t => { t with pos := { t.pos with hdr := field x.toNat 14 0, widx := field x.toNat 19 15 } } else none
    | 4 => if n < 4 then put fun t => { t with dl := t.dl.set n (dlStore x) } else none
    | 5 =>
      if n = 0 then put fun t => { t with flags := (List.range 12).map fun j => if bitAt x.toNat j then 1 else 0 } else none
    | 6 =>
      if n < t.rs.held then put fun t => { t with rs := { t.rs with ent := t.rs.ent.set n (BitVec.ofNat 32 (field x.toNat 14 0)) } }
      else none
    | _ => none

/-- A supervisor word's reply lands 24 cycles after issue (R314). -/
def supReply (f : Full) (st : Status) (more : List (Nat × Reg)) (e : Env) (t : Thread) (s : State) : State :=
  s.modThread e.c t.id.slot fun u =>
    wordDone e.is (lateStatus e u f.fsel Config.latSup f.d.toNat st more)

def supPrdWord (f : Full) (e : Env) (t : Thread) (s : State) : State :=
  let d := f.d.toNat
  match target (s.core e.c) (readV t f.a.toNat).toNat true with
  | .inl st => supReply f st [] e t s
  | .inr u =>
    match readItem s e.c u (readV t f.b.toNat).toNat with
    | some x => supReply f .done [(d + 2, x.setWidth 32), (d + 3, (x >>> 32).setWidth 32)] e t s
    | none => supReply f .absent [] e t s
def execSupPrd (f : Full) (s : State) : Out := .next (wordFold (.supPrd f) (supPrdWord f) s)

def supPwrWord (f : Full) (e : Env) (t : Thread) (s : State) : State :=
  match target (s.core e.c) (readV t f.a.toNat).toNat false with
  | .inl st => supReply f st [] e t s
  | .inr u =>
    match writeItem s e.c u (readV t f.b.toNat).toNat (readPair t (f.b.toNat + 2)) with
    | some s1 => supReply f .done [] e t s1
    | none => supReply f .absent [] e t s
def execSupPwr (f : Full) (s : State) : Out := .next (wordFold (.supPwr f) (supPwrWord f) s)

/-! ### Resume and kill (R272, R352) -/

/-- The action of a resume word, none when the word is refused for a thread parked at word `w` of a clause of `len`. -/
def resumeAct (x w len : Nat) : Option Resume :=
  if field x 31 18 != 0 then none
  else match field x 1 0 with
    | 0 => if field x 17 3 = 0 then some .retry else none
    | 1 => if field x 17 3 = 0 && w != 0 && w != len + 1 then some .skip else none
    | 2 => some (.redirect (field x 17 3))
    | _ => none

/-- The thread belongs to the group that steps (R401). -/
def stepsNow (k : Core) (t : Thread) : Bool := k.dbgNow.step.getLsbD 8 && field k.dbgNow.step.toNat 7 0 == gixOf t

def supResumeWord (f : Full) (e : Env) (t : Thread) (s : State) : State :=
  let k := s.core e.c
  match target k (readV t f.a.toNat).toNat false with
  | .inl st => supReply f st [] e t s
  | .inr u =>
    let x := (readV t f.b.toNat).toNat
    match resumeAct x u.pos.widx (clauseLen k u) with
    | none => supReply f .absent [] e t s
    | some act =>
      let s1 := s.withCore e.c (dropRec k u.id.slot u.id.gen)
      supReply f .done [] e t (s1.withThread e.c (resume s.clock k u act (bitAt x 2) (stepsNow k u)))

/-- The takers of a SUP.RESUME, by ascending slot of the thread that each names (R415). -/
def resumeTurns (f : Full) (e : Env) : List Nat :=
  let named (sl : Nat) : Nat := ((threadAt e.k.threads sl).map fun t => field (readV t f.a.toNat).toNat 11 0).getD 0
  sortBy (fun a b => decide (named a ≤ named b)) (takers e (.supResume f))

/-- The targets are released in one cycle, in the order of their slots, and then settle together (R34, R415). -/
def execSupResume (f : Full) (s : State) : Out :=
  .next (match s.env with
    | none => s
    | some e => settleWord ((resumeTurns f e).foldl (foldTurn (supResumeWord f) e) (parkIllegal e (.supResume f))))

/-- The tasks of a killed thread are abandoned: their entries are freed without successors (R272). -/
def State.abandon (s : State) (c : Nat) (t : Thread) : State :=
  let mine := s.gran.entries.filter fun x => x.holders.contains (holderOf c t) && x.st != .finished
  let s1 := mine.foldl (fun s x => (s.pruneAll [(x.die, x.ix)]).freeEntry x.die x.ix) s
  s1.settleGran

/-- A thread is killed: exited, its record withdrawn, its tasks abandoned (R272). R42 names a SUP.KILL of the awaited task as a
cause of WITHDRAWN, and no wait of the spec names a task: the model ends none (log entry 71). -/
def State.killThread (s : State) (c : Nat) (t : Thread) : State :=
  let k := dropRec (dropLatch (s.core c) t) t.id.slot t.id.gen
  ((s.withCore c { k with threads := putThread k.threads (exitThread s.time t) }).abandon c t).settle c

def supKillWord (f : Full) (e : Env) (t : Thread) (s : State) : State :=
  match target (s.core e.c) (readV t f.a.toNat).toNat false with
  | .inl st => supReply f st [] e t s
  | .inr u => supReply f .done [] e t (s.killThread e.c u)
def execSupKill (f : Full) (s : State) : Out := .next (wordFold (.supKill f) (supKillWord f) s)

/-! ### Thread images (R359) -/

/-- A value in bits `lo` up of an image. -/
def at_ (lo v : Nat) : Nat := v * 2 ^ lo

/-- WSTATE of a thread. -/
def wstateOf (t : Thread) : Nat :=
  match t.pos.st with
  | .gather => 2 | .collective => 3 | .barrier => 4 | .future => 5 | .task => 6 | .sleeping => 7 | .parked => 8
  | _ => 0

/-- WDL of a thread at TIME `now`: its wait's effective deadline, or that of its gathering, as a TIME; ticks that are left of a
budget count from now on. -/
def wdlOf (now : Nat) (t : Thread) : Nat :=
  match t.wait.map (·.dl), t.gw.map (·.dl) with
  | some d, _ | none, some d => min d.at_ ((d.left.map (now + ·)).getD d.at_)
  | none, none => 0

/-- The 2,048 bits of the state block of a thread of core `c` at TIME `now`; `kind` 1 by descriptor `live`, 2 in full. -/
def threadBits (now c kind live : Nat) (t : Thread) : Nat :=
  let g := t.gst
  let guest : Nat := g.gpc.toNat + at_ 32 g.gir.toNat + at_ 96 g.gop.toNat + at_ 128 g.ga0.toNat + at_ 160 g.ga1.toNat
    + at_ 192 g.gdd.toNat + at_ 224 g.htb.toNat + at_ 256 g.gbp0.toNat + at_ 288 g.gbp1.toNat + at_ 320 g.gbp2.toNat
    + at_ 352 g.gbp3.toNat
  let quads (l : List Quad) : Nat := joinWords l
  let regs (l : List Reg) : Nat := l.foldr (fun x n => x.toNat + 2 ^ 32 * n) 0
  kind + at_ 8 (wstateOf t) + at_ 16 live + at_ 32 (t.pos.hdr % 2 ^ 15) + at_ 47 (t.pos.widx % 32)
    + at_ 64 ((t.pos.gtag.map (·.toNat)).getD 0) + at_ 96 (if t.pos.gtag.isSome then 1 else 0) + at_ 128 (t.p ||| 1).toNat
    + at_ 136 (t.toc % 256) + at_ 160 (rsdOf t).toNat + at_ 192 t.sr.sp.toNat + at_ 224 t.sr.fsr.toNat + at_ 256 t.sr.cgs.toNat
    + at_ 288 t.sr.efc.toNat + at_ 320 t.sr.efa.toNat + at_ 384 t.sr.pgf.toNat + at_ 448 (quads t.dl)
    + at_ 704 (t.sr.lc0.toNat + 2 ^ 32 * t.sr.lc1.toNat)
    + at_ 768 ((List.range 5).foldl (fun n j => n + t.q.getD j 0 % 2 ^ 12 * 2 ^ (12 * j)) 0)
    + at_ 832 ((List.range 5).foldl (fun n j => if t.flt.getD j false then n + 2 ^ j else n) 0)
    + at_ 896 (regs t.rs.ent) + at_ 1152 guest + at_ 1536 (wdlOf now t % 2 ^ 64)
    + at_ 1600 ((t.wait.map fun w => wobjOf c w.kind).getD 0)

/-- The bytes of an image: the state block, then the registers that `keep` names, the others as zero. -/
def threadBytes (now c kind live : Nat) (keep : Nat → Bool) (t : Thread) : List Byte :=
  leBytes 256 (threadBits now c kind live t)
    ++ (List.range t.id.nregs).foldr (fun n l => leBytes 4 (if keep n then (readV t n).toNat else 0) ++ l) []

/-- The thread as an image of `v`, with registers `vs`, restores it: identity and place in its team stay (R273). -/
def ofImage (v : Nat) (vs : List Reg) (t : Thread) : Thread :=
  let r (hi lo : Nat) : Reg := BitVec.ofNat 32 (field v hi lo)
  let q (hi lo : Nat) : Quad := BitVec.ofNat 64 (field v hi lo)
  { t with
    pos := { t.pos with hdr := field v 46 32, widx := field v 51 47, gtag := if bitAt v 96 then some (r 95 64) else none }
    p := (BitVec.ofNat 8 (field v 135 128)) ||| 1, toc := field v 143 136
    rs := ⟨field v 175 160, field v 179 176, (List.range 8).map fun j => r (927 + 32 * j) (896 + 32 * j)⟩
    sr := { sp := r 223 192, cgs := r 287 256, efc := r 319 288, efa := q 383 320, pgf := q 447 384, fsr := r 255 224,
            lc0 := r 735 704, lc1 := r 767 736 }
    dl := (List.range 4).map fun j => q (511 + 64 * j) (448 + 64 * j)
    q := (List.range 5).map fun j => field v (779 + 12 * j) (768 + 12 * j)
    flt := (List.range 5).map fun j => bitAt v (832 + j)
    gst := { gpc := r 1183 1152, gir := q 1247 1184, gop := r 1279 1248, ga0 := r 1311 1280, ga1 := r 1343 1312,
             gdd := r 1375 1344, htb := r 1407 1376, gbp0 := r 1439 1408, gbp1 := r 1471 1440, gbp2 := r 1503 1472,
             gbp3 := r 1535 1504 }
    v := vs }

/-! ### SUP.SAVE and SUP.LOAD (R273) -/

def threadImageLen (t : Thread) : Nat := 256 + 4 * t.id.nregs

/-- The user thread that a save or a load acts on, in the state it needs. -/
def xferTarget (k : Core) (r : Nat) (st : TState) : Status ⊕ Thread :=
  if Config.nUserSlots ≤ field r 11 0 then .inl .absent
  else match viewThread k r with
    | .absent => .inl .absent
    | .stale => .inl .stale
    | .thread t => if t.pos.st == st then .inr t else .inl .absent

/-- The save engine starts, and the supervisor waits. -/
def supXferWord (f : Full) (save : Bool) (e : Env) (t : Thread) (s : State) : State :=
  let a := readV t f.b.toNat
  match xferTarget (s.core e.c) (readV t f.a.toNat).toNat (if save then .parked else .saved) with
  | .inl st =>
    (match checkOwn e.s e.c a 256 64 with
    | .bad c => s.endWordAt e t (.trap c 0 (addrArg a))
    | .good .. => s.endWordAt e t (.ok (statusNow e t f.d.toNat st)))
  | .inr u =>
    match checkOwn e.s e.c a (threadImageLen u) 64 with
    | .bad c => s.endWordAt e t (.trap c 0 (addrArg a))
    | .good .. =>
      let x : SupXfer := ⟨t.id.slot, t.id.gen, u.id.slot, u.id.gen, save, offsetOf a⟩
      (s.endWordAt e t (.ok (waitWord e t (.supXfer save u.id.slot (offsetOf a)) .future f.dsel f.d.toNat))).modCore e.c fun k =>
        { k with supX := k.supX ++ [x] }
def execSupSave (f : Full) (s : State) : Out := .next (settleWord (wordFold (.supSave f) (supXferWord f true) s))
def execSupLoad (f : Full) (s : State) : Out := .next (settleWord (wordFold (.supLoad f) (supXferWord f false) s))

/-- The registers of an image in memory. -/
def imageRegs (m : Mem) (p n : Nat) : List Reg := (List.range n).map fun j => BitVec.ofNat 32 (memRead m (p + 256 + 4 * j) 4)

/-- The supervisor that asked for the transfer still waits for it. -/
def waitsXfer (x : SupXfer) (t : Thread) : Bool :=
  t.id.gen == x.byGen && match t.wait with
    | some w => match w.kind with | .supXfer sv tg ad => sv == x.save && tg == x.target && ad == x.addr | _ => false
    | none => false

def State.finishXfer (s : State) (c : Nat) (x : SupXfer) (u : Thread) : State :=
  let p := sliceAt c + x.addr
  let s1 :=
    if x.save then
      let st : Thread := { u with pos := { u.pos with st := .saved } }
      ((s.store p (threadBytes s.time c 2 0 (fun _ => true) u)).inertWaits p).modCore c fun k => dropLatch { k with threads := putThread k.threads st } u
    else
      let v := ofImage (memRead s.mem p 256) (imageRegs s.mem p u.id.nregs) u
      s.withThread c { v with pos := { v.pos with st := .parked, since := s.time } }
  match s1.thread c x.by_ with
  | some t => if waitsXfer x t then s1.endWaitAt c x.by_ .done [] else s1
  | none => s1

/-- The first transfer of core `cur` completes, once the results of the thread it saves have landed (R47, R273). -/
def execSupSaveLoadComplete (s : State) : Out :=
  .next (
    let k := s.core s.cur
    match k.supX with
    | [] => s
    | x :: rest =>
      let s0 := s.withCore s.cur { k with supX := rest }
      match threadAt k.threads x.target with
      | none => s0
      | some u =>
        if u.id.gen ≠ x.targetGen || u.pos.st != (if x.save then .parked else .saved) then
          (match s0.thread s.cur x.by_ with
          | some t => if waitsXfer x t then s0.endWaitAt s.cur x.by_ .absent [] else s0
          | none => s0)
        else if x.save && !landed u then s
        else s0.finishXfer s.cur x u)

end Sys2Proof.Machine
end

