-- ==== Sys2Proof/Machine/Service.lean ====
section
/-! DEFINITION. What the hub does in common for packets, pre-emption and service: the fields of a packet (R369), its
completion (R371), spares (R420), the kill of a team (R419), copies within memory. -/

namespace Sys2Proof.Machine

open Sys2Proof

/-! ### Packets (R369, R370) -/

def pkWord (ws : List Quad) (j : Nat) : Nat := (ws.getD j 0).toNat
def pkOp (ws : List Quad) : Nat := field (pkWord ws 0) 7 0
def pkCwait (ws : List Quad) : Bool := bitAt (pkWord ws 0) 16
def pkPsig (ws : List Quad) : Bool := bitAt (pkWord ws 0) 17
def pkOrder (ws : List Quad) : Bool := bitAt (pkWord ws 0) 18
def pkCmb (ws : List Quad) : Nat := field (pkWord ws 1) 11 0
def pkPmb (ws : List Quad) : Nat := field (pkWord ws 1) 27 16
def pkCaddr (ws : List Quad) : Nat := field (pkWord ws 4) 43 0

/-- The span of each mailbox wait (R374). -/
def pkSpan (s : State) (ws : List Quad) : Nat :=
  let n := field (pkWord ws 2) 47 0
  if n = 0 then s.hub.plinth.dlmax else min n s.hub.plinth.dlmax

def packetAt (s : State) (id : Nat) : Option Packet := s.hub.packets.find? fun p => p.id == id

def State.modPacket (s : State) (id : Nat) (f : Packet → Packet) : State :=
  { s with hub := { s.hub with packets := s.hub.packets.map fun p => if p.id = id then f p else p } }

def queueAt (s : State) (q : Nat) : CmdQueue := tblGet s.hub.queues q CmdQueue.reset

def State.setQueue (s : State) (q : Nat) (x : CmdQueue) : State :=
  { s with hub := { s.hub with queues := tblPut s.hub.queues q x } }

/-- The packet has started, and its queue goes on (R370, R387). -/
def State.unblock (s : State) (id : Nat) : State :=
  match packetAt s id with
  | none => s
  | some p =>
    let x := queueAt s p.q
    if x.blocked = some id then s.setQueue p.q { x with head := (x.head + 1) % 2 ^ 32, blocked := none } else s

/-- The packet's work has completed: the produce step, when it has one, begins (R371, R374). A LAUNCH has started by then, one
that is refused included (R370, R412). -/
def State.finishPk (s : State) (id : Nat) (st : Status) (reason : Nat) : State :=
  (s.modPacket id fun p =>
    { p with stage := .finished, status := st, reason := reason, counting := p.counting || pkOp p.ws == 1,
             pdl := if pkPsig p.ws then some (s.time + pkSpan s p.ws, s.time) else none }).unblock id

/-- The packet of an event whose operation is `op` and has not been carried out yet. -/
def startedPk (s : State) (id op : Nat) : Option Packet :=
  (packetAt s id).filter fun p => p.stage == .started && pkOp p.ws == op

/-! ### Copies within memory -/

def shiftCells (a : Nat) (cs : List Host.Cell) : List Host.Cell := cs.map fun x => (a + x.1, x.2)

/-- What ranges of memory hold, one behind the other. -/
def runCells (m : Mem) (runs : List (Nat × Nat)) : List Host.Cell :=
  (runs.foldl (fun (x : List Host.Cell × Nat) r => (x.1 ++ shiftCells x.2 (memCells m r.1 r.2), x.2 + r.2)) ([], 0)).1

/-- The bytes of a physical range replace those of a slice's. -/
def State.copyIn (s : State) (from_ dest len : Nat) : State :=
  (s.clearRange dest (dest + len)).storeCells (shiftCells dest (runCells s.mem (busRuns s 4 from_ len)))

/-- A physical range takes the bytes that the cells give, by their offsets in it, and zero elsewhere, where it may be written
(R395). -/
def State.fillRange (s : State) (dest len : Nat) (cells : List Host.Cell) : State :=
  let runs := (windowRuns 4 dest len).filter fun r => mayWrite s r.1 r.2
  (runs.foldl (fun (x : State) r => x.clearRange (busAt s r.1) (busAt s r.1 + r.2)) s).storeCells (busCells s (shiftCells dest cells))

/-- A range of memory takes a value of `n` bytes, or of the items of a table `f` apart by `step`. -/
def tableCells {α : Type} (at_ step : Nat) (t : Tbl α) (f : α → List Byte) : List Host.Cell :=
  t.foldl (fun l x => l ++ cellsOf (at_ + step * x.1) (f x.2)) []

/-! ### Teams, spares (R420) and kills (R419) -/

def userThreads (k : Core) : List Thread := k.threads.filter fun t => !t.id.sup
def supThreads (k : Core) : List Thread := k.threads.filter fun t => t.id.sup

/-- The cores on which the team of a core stands: the pair for a paired team (R23). -/
def teamCores (s : State) (c : Nat) : List Nat :=
  match (s.core c).team with
  | some tm => if tm.paired then [c - c % 2, c - c % 2 + 1] else [c]
  | none => [c]

/-- The wake records of a core's team go. -/
def dropWakes (s : State) (c launch : Nat) : State :=
  { s with gran := { s.gran with wakes := s.gran.wakes.filter fun w => !(w.core == c && w.launch == launch) } }

/-- Every user thread of one core is killed as SUP.KILL kills; those saved go without trace. -/
def State.killUsers (s : State) (c : Nat) : State :=
  let gone := (s.core c).saved
  let s1 := (userThreads (s.core c)).foldl (fun s t =>
    match s.thread c t.id.slot with
    | some u => if live u then s.killThread c u else s
    | none => s) s
  let s2 := gone.foldl (fun s t => s.abandon c t) s1
  gone.foldl (fun s t => dropWakes s c t.id.launch) (s2.modCore c fun k => { k with saved := [] })

/-- Every thread of the team on a core is killed, and the team ends once its operations have completed (R419). -/
def State.killTeam (s : State) (c : Nat) : State := (teamCores s c).foldl State.killUsers s

def spareLeft (s : State) (c : Nat) : Bool := decide (tblGet s.svc.spares (dieOf c) 0 < 4)

/-- A spare of the die is set aside for core `c`. -/
def State.reserveSpare (s : State) (c : Nat) : State :=
  { s with svc := { s.svc with spares := tblPut s.svc.spares (dieOf c) (tblGet s.svc.spares (dieOf c) 0 + 1) } }

/-- The core as a spare that has taken its number: no error has been counted in it. -/
def sparedCore (k : Core) : Core := { k with retireWant := none, corrected := [] }

/-- The retirement of core `c` is over: its KIND 3 record. -/
def State.logSpare (s : State) (c launch : Nat) : State :=
  let s1 := s.logRec 3 c launch (Config.spareSite s.svc.retired)
  { s1 with svc := { s1.svc with retired := s.svc.retired + 1 } }

end Sys2Proof.Machine
end

