-- ==== Sys2Proof/Machine/Trace.lean ====
section
/-! DEFINITION. Trace: the selected group, full and summary records (R409 to R411). -/

namespace Sys2Proof.Machine

open Sys2Proof

def trOn (k : Core) : Bool := k.dbgNow.trcfg.getLsbD 11

/-- A group of a team, by number: its launch, its team, GIX in the low byte (R409). -/
def groupKey (launch tmx gix : Nat) : Nat := (launch * 2 ^ 32 + tmx) * 256 + gix

def groupOf (t : Thread) : Nat := groupKey t.id.launch t.id.tmx (gixOf t)

/-- The selection of a team's group is over with the team (R409). -/
def endSel (launch tmx : Nat) (b : DbgBlock) : DbgBlock :=
  { b with sel := b.sel.filter fun g => g / 256 != launch * 2 ^ 32 + tmx }

/-! ### The debug block comes into force (R398, R399, R404) -/

/-- A halt that starts meets a thread: in a sheaf it stops before its next word, at a header it parks there, in a wait at
the next header; with TB it waits for a task boundary. -/
def haltThread (s : State) (c v : Nat) (t : Thread) : Thread :=
  if haltNames v t && !bitAt v 9 then
    match t.pos.st with
    | .ready | .flagWait | .gather | .collective => park s.clock t .halt t.pos.widx 0 0
    | _ => haltLate s c v t
  else haltLate s c v t

/-- The block as it comes into force: once EN has risen, the counts of the interval start afresh (R409). -/
def blockIn (now : Nat) (k : Core) : DbgBlock :=
  if k.dbg.trcfg.getLsbD 11 && !trOn k then { k.dbg with intv := [], intvEnd := (now / 65536 + 1) * 65536 } else k.dbg

/-- What has been written to the debug block of core `c` comes into force, and a halt that GO has asked for starts. -/
def State.takeDbg (s : State) (c : Nat) : State :=
  let k := s.core c
  if k.dbgDue.isNone then s
  else
    let go := k.haltDue && k.dbg.haltr.getLsbD 10
    let v := k.dbg.haltr.toNat
    (s.withCore c { k with
      dbg := blockIn s.time k, dbgNow := blockIn s.time k, dbgDue := none, haltDue := false
      threads := if go then k.threads.map (haltThread s c v) else k.threads
      saved := if go then k.saved.map (haltLate s c v) else k.saved }).settle c

/-- The thread of core `c` holds a running task of a queue (R409). -/
def holdsQueue (s : State) (c : Nat) (t : Thread) (q : Nat) : Bool :=
  s.gran.entries.any fun x => x.st != .finished && x.desc.queue == q && x.holders.contains (holderOf c t)

/-- Every enabled comparator of TRCFG matches the thread (R409). -/
def traceMatch (s : State) (c : Nat) (k : Core) (t : Thread) : Bool :=
  let x := k.dbgNow.trcfg.toNat
  !t.id.sup && (!bitAt x 8 || field x 7 0 == gixOf t) && (!bitAt x 9 || field x 47 32 == t.id.tmx % 2 ^ 16)
    && (!bitAt x 10 || holdsQueue s c t (field x 17 12))

/-- The group selected once this sheaf issues: the one selected already, else the first that matches (R409). -/
def traceSelect (s : State) (c : Nat) (k : Core) (ts : List Thread) : Option Nat :=
  if !trOn k then none
  else match k.dbg.sel with
    | some g => some g
    | none => (ts.find? (traceMatch s c k)).map groupOf

/-- What a full record takes at the header: the selected group's positions, GPC of the lowest of them in guest mode, the
threads of the sheaf (R410). -/
def traceMark (sel : Option Nat) (ts : List Thread) : Option (Quad × Reg × Nat) :=
  match sel with
  | none => none
  | some g =>
    let mine := ts.filter fun t => !t.id.sup && groupOf t == g
    if mine.isEmpty then none
    else
      let guests := sortBy (fun a b => decide (lanePos a ≤ lanePos b)) (mine.filter guestMode)
      some (BitVec.ofNat 64 (mine.foldl (fun n t => n ||| 2 ^ lanePos t) 0),
        ((guests.head?).map (·.gst.gpc)).getD 0, ts.length)

/-- The ring's size in bytes (R397). -/
def trSize (k : Core) : Nat := 2 ^ field k.dbgNow.trbase.toNat 48 44

/-- A record of 32 bytes enters the ring, or is dropped and counted (R411). -/
def State.traceWrite (s : State) (c : Nat) (x : Nat) : State :=
  let k := s.core c
  let b := k.dbg
  if trSize k < (b.trptr + 2 ^ 32 - k.dbgNow.trrd) % 2 ^ 32 + 32 then
    s.withCore c { k with dbg := { b with trdrop := min (b.trdrop + 1) 0xFFFF } }
  else
    (s.busStore (field k.dbgNow.trbase.toNat 43 0 + b.trptr % trSize k) 32 x).withCore c
      { k with dbg := { b with trptr := (b.trptr + 32) % 2 ^ 32 } }

/-- The full record of a clause of the selected group (R410). -/
def fullRecord (is : Issue) (words : Nat) (m : Quad × Reg × Nat) : Nat :=
  is.start % 2 ^ 64 + is.hdr * 2 ^ 64 + words * 2 ^ 79 + min is.stalls 0xFFFF * 2 ^ 96 + m.1.toNat * 2 ^ 128
    + m.2.1.toNat * 2 ^ 192 + m.2.2 * 2 ^ 224

/-- The summary record of a group at the end of an interval (R410). -/
def summaryRecord (at_ : Nat) (x : Nat × Nat × Nat × Nat) : Nat :=
  at_ % 2 ^ 64 + x.1 % 256 * 2 ^ 64 + x.2.1 % 2 ^ 32 * 2 ^ 72 + x.2.2.1 % 2 ^ 32 * 2 ^ 104 + x.2.2.2 % 2 ^ 32 * 2 ^ 136
    + 2 ^ 255

/-- A group's counts of an interval: the group, its clause issues, their words, their stall cycles. -/
abbrev IntvCount := Nat × Nat × Nat × Nat

/-- The issue of a clause joins a group's counts of the interval that it falls in (R409). -/
def addIntv (words : Nat) (l : List IntvCount) (g : Nat) : List IntvCount :=
  if l.any (·.1 == g) then l.map fun x => if x.1 = g then (g, x.2.1 + 1, x.2.2.1 + words, x.2.2.2) else x
  else l ++ [(g, 1, words, 0)]

/-- The stall cycles of a clause join the counts of its groups. -/
def addStalls (is : Issue) (l : List IntvCount) : List IntvCount :=
  l.map fun x => if is.groups.contains x.1 then (x.1, x.2.1, x.2.2.1, x.2.2.2 + is.stalls) else x

/-- The clause of a sheaf has ended: its stalls join the interval of its issue, unless that has ended, and a full record is
written when the selected group had a thread in it. -/
def State.traceClause (s : State) (c : Nat) (is : Issue) (words : Nat) : State :=
  let k := s.core c
  if !trOn k then s
  else
    let s1 := s.withCore c { k with dbg := { k.dbg with intv := addStalls is k.dbg.intv } }
    match is.mark with
    | some m => s1.traceWrite c (fullRecord is words m)
    | none => s1

/-- The counts of the interval that ends, a clause under way among them with the stalls that it has had so far (log entry
81). -/
def intvCounts (k : Core) : List IntvCount :=
  match k.issue with
  | some is => if is.slots.isEmpty then k.dbg.intv else addStalls is k.dbg.intv
  | none => k.dbg.intv

/-- An interval of core `cur` ends: every other group that issued in it gives a summary (R409). -/
def execTraceIntervalEnd (s : State) : Out :=
  .next (
    let c := s.cur
    let k := s.core c
    if s.time < k.dbg.intvEnd then s
    else
      let s1 := s.withCore c { k with dbg := { k.dbg with intv := [], intvEnd := k.dbg.intvEnd + 65536 } }
      if !trOn k then s1
      else ((intvCounts k).filter fun x => k.dbg.sel != some x.1).foldl
        (fun s x => s.traceWrite c (summaryRecord k.dbg.intvEnd x)) s1)

end Sys2Proof.Machine
end

