-- ==== Sys2Proof/Machine/Winnower.lean ====
section
/-! DEFINITION. The winnower's choice (R28 to R31, R353, R357), the ends of gather, collective and YIELD holds (R34, R38,
R267), and how the issue slot moves through a clause. -/

namespace Sys2Proof.Machine

open Sys2Proof

/-- The clause at a header begins with PHINT (R357). -/
def phintAt (k : Core) (sup : Bool) (h : Nat) : Bool :=
  match decodeWord (wordAt k sup (h + 1)) with
  | .one (.phint _) => true
  | _ => false

/-- A pre-emption request is pending on the core (R356). -/
def prePending (k : Core) : Bool := match k.pre with | some p => !p.saved | none => false

/-- The grace deadline of a pending request has passed: every user thread is to be saved (R357). -/
def graceOver (k : Core) : Bool := match k.pre with | some p => !p.saved && p.graceOver | none => false

/-- A candidate: ready, and not at a PHINT clause while a pre-emption request is pending, whatever its privilege, nor a user
thread after its grace deadline (R26, R357). -/
def candidate (k : Core) (t : Thread) : Bool :=
  t.pos.st == .ready && !(t.pos.widx == 0 && prePending k && phintAt k t.id.sup t.pos.hdr) && (t.id.sup || !graceOver k)

/-- The header at which the thread stands is collective. -/
def atCollective (k : Core) (t : Thread) : Bool :=
  ((toHeader (wordAt k t.id.sup t.pos.hdr)).map (·.coll)).getD false

/-- The key of a candidate in the order of R30's ties: address, privilege, tag, group, resume point; at a collective
header also the gathering it belongs to (R28, R38, R353). -/
def keyOf (k : Core) (t : Thread) : List Nat :=
  let coll := atCollective k t
  [t.pos.hdr, if t.id.sup then 0 else 1, match t.pos.gtag with | none => 0 | some g => g.toNat + 1,
   if coll then gixOf t else 0, t.pos.widx, if coll then t.pos.gmask.toNat else 0,
   if coll && t.pos.widx == 0 && t.pos.gmask != 0 then t.pos.gid else 0]

def lexLe : List Nat → List Nat → Bool
  | [], _ => true
  | _ :: _, [] => false
  | x :: r, y :: q => if x = y then lexLe r q else decide (x < y)

/-- A key with its count and its Since. -/
structure KeyInfo where
  key : List Nat
  count : Nat
  since : Nat
  deriving DecidableEq, Repr

def keyInfo (k : Core) (cs : List Thread) (t : Thread) : KeyInfo :=
  let same := cs.filter fun u => keyOf k u == keyOf k t
  ⟨keyOf k t, same.length, same.foldl (fun m u => min m u.pos.since) t.pos.since⟩

/-- `x` is chosen before `y`: an aged key with the lesser Since, else the greater count up to 64; then R30's ties. -/
def keyBefore (now : Nat) (x y : KeyInfo) : Bool :=
  let ax := decide (4096 < now - x.since)
  let ay := decide (4096 < now - y.since)
  if ax != ay then ax
  else if ax && x.since != y.since then decide (x.since < y.since)
  else if !ax && min x.count 64 != min y.count 64 then decide (min y.count 64 < min x.count 64)
  else lexLe x.key y.key

/-- The sheaf that the winnower issues: at most 64 threads of the chosen key, the least Since first (R30). -/
def chooseSheaf (now cyc : Nat) (k : Core) : List Thread :=
  let cs := k.threads.filter fun t => candidate k t && decide (t.pos.free ≤ cyc)
  match sortBy (keyBefore now) (cs.map (keyInfo k cs)) with
  | [] => []
  | x :: _ =>
    let mine := cs.filter fun u => keyOf k u == x.key
    (sortBy (fun a b => decide (a.pos.since < b.pos.since) || (a.pos.since == b.pos.since && decide (a.id.slot ≤ b.id.slot)))
      mine).take 64

/-- The issue slot is free at a cycle (R31). -/
def slotFree (cyc : Nat) (k : Core) : Bool :=
  match k.issue with
  | none => true
  | some is => is.slots.isEmpty && decide (is.next ≤ cyc)

/-- A thread enters the sheaf of `n` threads: CGS takes the sheaf's size at a collective header (R39). -/
def enterSheaf (k : Core) (n : Nat) (t : Thread) : Thread :=
  let t1 := if atCollective k t && t.pos.widx == 0 then
      setCgs t (if t.pos.gmask == 0 then .absent else if field t.sr.cgs.toNat 3 0 = 5 then .partialDone else .done) n
    else t
  { t1 with pos := { t1.pos with st := .inSheaf } }

/-- The clause of a chosen sheaf issues: its header takes this cycle (R31). -/
def issueClause (s : State) (c : Nat) (k : Core) (ts : List Thread) : State :=
  match ts with
  | [] => s
  | t :: _ =>
    match toHeader (wordAt k t.id.sup t.pos.hdr) with
    | none => s
    | some h =>
      let slots := ts.map (·.id.slot)
      let sel := traceSelect s c k ts
      let groups := if trOn k then ((ts.filter fun t => !t.id.sup).map groupOf).eraseDups else []
      s.withCore c { k with
        threads := k.threads.map fun (u : Thread) => if slots.contains u.id.slot then enterSheaf k slots.length u else u
        issue := some
          { sup := t.id.sup, hdr := t.pos.hdr, head := h, widx := max 1 t.pos.widx, slots := slots,
            first := max 1 t.pos.widx, next := s.cycle + 1, wrote := [], stalled := none, half := none, stalls := 0, start := s.time,
            mark := traceMark sel ts, groups := groups }
        dbg := { k.dbg with sel := sel, intv := groups.foldl (addIntv (h.len + 1 - max 1 t.pos.widx)) k.dbg.intv } }

/-- The winnower's choice on core `cur`, unless a refetch of its header is under way (R419). -/
def execWinnowerChoice (s : State) : Out :=
  .next (
    if slotFree s.cycle (s.core s.cur) && !(s.core s.cur).offline && (s.core s.cur).refetch.isNone then
      let s1 := s.takeDbg s.cur
      let k := s1.core s.cur
      issueClause s1 s.cur k (chooseSheaf s.time s.cycle k)
    else s)

/-! ### Holds (R34, R38, R267) -/

/-- The window of the earliest-arriving held thread of the key has expired (R34). -/
def windowOver (cyc : Nat) (ts : List Thread) (t : Thread) : Bool :=
  let hs := (ts.filter fun u => gatherHeld u && sameKey t u).filterMap (·.hold)
  hs.any fun h => decide (h.until_ ≤ cyc) && hs.all fun g => decide (h.arrived ≤ g.arrived)

def expireWindows (ck : Clock) (k : Core) : Core :=
  let f (t : Thread) : Thread := if gatherHeld t && windowOver ck.cyc k.threads t then release ck k t else t
  { k with threads := k.threads.map f }

/-- Gather windows of core `cur` expire: every thread held at that header with that key is released. -/
def execGatherWindowExpiry (s : State) : Out := .next ((s.modCore s.cur (expireWindows s.clock)).settle s.cur)

/-- The hold of a YIELD in thread `sub` of core `cur` ends (R267). -/
def execYieldHoldExpiry (s : State) : Out :=
  .next ((s.modThread s.cur s.sub fun t =>
    match t.hold with
    | some h => if t.pos.st == .gather && h.yield_ && decide (h.until_ ≤ s.cycle) then release s.clock (s.core s.cur) t else t
    | none => t).settle s.cur)

/-- The earliest effective deadline among the waiting members of the gathering of `t` has passed (R38). -/
def gatheringOver (now : Nat) (ts : List Thread) (t : Thread) : Bool :=
  (gathering ts t).any fun u => match u.gw with | some g => dlPassed now g.dl | none => false

/-- A member that one of its flags holds back is not present (R38). -/
def memberReady (k : Core) (t : Thread) : Bool :=
  match headerAt k t.id.sup t.pos.hdr with
  | some x => !flagHeld t x
  | none => false

/-- The number of the gathering that those open who are left behind at a header when a gathering forms without them, a flag
holding them back (R38). -/
def reopened (now : Nat) (k : Core) (t : Thread) : Nat :=
  let left := (gathering k.threads t).filter fun u => !memberReady k u
  gatherNum now ((left.map (·.id.slot)).foldl min t.id.slot) + 1

def expireGatherings (ck : Clock) (sup : Bool) (k : Core) : Core :=
  let f (t : Thread) : Thread :=
    if t.id.sup != sup then t
    else if t.pos.st == .collective && t.gw.isSome && memberReady k t && gatheringOver ck.now k.threads t then
      formMember ck ((gathering k.threads t).filter (memberReady k)) .partialDone t
    else if t.pos.st == .collective && t.gw.isSome && gatheringOver ck.now k.threads t then
      { t with gw := t.gw.map fun g => { g with num := reopened ck.now k t } }
    else t
  { k with threads := k.threads.map f }

/-- Gatherings of core `cur` whose deadline has passed form with the members present: PARTIAL. `sub` names a slot of the threads
meant: the team's, or the supervisor's. -/
def execCollectiveDeadlineExpiry (s : State) : Out :=
  .next (s.modCore s.cur (expireGatherings s.clock (decide (Config.nUserSlots ≤ s.sub))))

/-! ### Through a clause (R31, R32) -/

/-- Threads that the last word leaves in their sheaf go on to the header that follows (R27). -/
def leaveSheaf (ck : Clock) (k : Core) (is : Issue) : Core :=
  { k with threads := k.threads.map fun (t : Thread) => if inSheaf is t then fallThrough ck k t .flow else t }

/-- The threads in which the word had no effect have passed it without a trap (R354). -/
def passWord (is : Issue) (t : Thread) : Thread := if inSheaf is t then wordDone is t else t

/-- The issue slot moves past the word that has issued; at the clause's end the sheaf is over. -/
def advance (s0 : State) (c : Nat) : State :=
  match (s0.core c).issue with
  | none => s0
  | some is =>
    let s := s0.modCore c fun k => { k with threads := k.threads.map (passWord is) }
    if is.widx < is.head.len then
      s.modCore c fun k => { k with issue := some { is with widx := is.widx + 1, next := is.next + 1, stalled := none, half := none } }
    else
      let s1 := ((s.modCore c fun k => leaveSheaf s.clock k is).settle c).traceClause c is (is.head.len + 1 - is.first)
      s1.modCore c fun k =>
        { k with issue := some { is with widx := is.widx + 1, next := is.next + 1, stalled := none, half := none, slots := [], mark := none, groups := [] } }

end Sys2Proof.Machine
end

