-- ==== Sys2Proof/Machine/Preempt.lean ====
section
/-! DEFINITION. Pre-emption: requests (R356), the save of threads (R357, R359), of teams (R358) and their restore (R360),
wake records (R361), time slices (R427). -/

namespace Sys2Proof.Machine

open Sys2Proof

/-! ### Requests (R356) -/

/-- The cores that a request on one core takes: every team of a co-resident launch, else the pair. -/
def widen (s : State) (c : Nat) : List Nat :=
  match (s.core c).team with
  | none => []
  | some tm =>
    if ((launchOf s tm.launch).map (·.coresident)).getD false then
      (List.range Config.nCores).filter fun d => match (s.core d).team with | some x => x.launch == tm.launch | none => false
    else if partnerOpen s c then [c, partnerOf c] else [c]

/-- The teams of the launch on a core can be saved: its packet named save areas (R378). -/
def canSave (s : State) (c : Nat) : Bool :=
  match (s.core c).team with
  | some tm => ((launchOf s tm.launch).map (·.save)).getD 0 != 0
  | none => false

/-- A request that names core `c` is taken on every core it widens to, under one grace deadline. -/
def State.request (s : State) (c kind grace : Nat) (pk : Option Nat) (off : Bool) : State :=
  let cs := widen s c
  let r : Preempt :=
    { kind := kind, grace := s.time + min grace s.hub.plinth.dlmax, pk := pk, cores := cs, full := false, graceOver := false,
      saved := false, target := c, off := off }
  cs.foldl (fun s c => s.modCore c fun k => { k with pre := some r }) s

/-- A request; a RETIRE sets a spare aside, and on a die with none left is a SWITCH after which the core goes offline (R420). -/
def State.retireOr (s : State) (c kind grace : Nat) (pk : Option Nat) : State :=
  if kind != 1 then s.request c kind grace pk false
  else if spareLeft s c then (s.reserveSpare c).request c 1 grace pk false
  else s.request c 0 grace pk true

/-- The request is a SWITCH that the Plinth made at a boundary of the time slices (R427). -/
def ofSlice (p : Preempt) : Bool := p.kind != 1 && !p.off && p.pk.isNone

/-- No core of the list has a request under way. -/
def noRequest (s : State) (cs : List Nat) : Bool := cs.all fun c => (s.core c).pre.isNone

def requestSaved (s : State) (c : Nat) : Bool := match (s.core c).pre with | some p => p.saved | none => true
def requestFull (s : State) (c : Nat) : Bool := match (s.core c).pre with | some p => p.full | none => false

/-- The request on a core is complete once all its cores have been saved: PARTIAL when a thread was saved in full at the
grace deadline (R358). -/
def State.closeRequest (s : State) (c : Nat) : State :=
  match (s.core c).pre with
  | none => s
  | some p =>
    if !(p.cores.all (requestSaved s)) then s
    else
      let s1 := p.cores.foldl (fun s d => s.modCore d fun k => { k with pre := none }) s
      match p.pk with
      | some id => s1.finishPk id (if p.cores.any (requestFull s) then .partialDone else .done) 0
      | none => s1

/-! ### Liveness descriptors (R334) -/

/-- The descriptor of a PHINT at whose header the thread stands, by its A field (R239, R266); none when there is none or it is
bad. -/
def liveDesc (s : State) (k : Core) (t : Thread) : Option (Nat × Nat) :=
  match decodeWord (wordAt k false (t.pos.hdr + 1)), launchOf s t.id.launch with
  | .one (.phint f), some l =>
    let d := busRead s (l.img.addr + l.img.liveOff + 192 * f.a.toNat) 192
    let bad := (List.range 8).any fun j => bitAt d (64 * j + 1047) || field d (64 * j + 1087) (64 * j + 1071) != 0
    if f.a.toNat < l.img.nlive && !bad then some (f.a.toNat, d) else none
  | _, _ => none

/-- The stack area of a thread (R331): its first offset and the first beyond it. -/
def stackArea (img : Image) (tid : Nat) : Nat × Nat :=
  let t := if img.paired then img.team / 2 else img.team
  let top := img.dbase + img.dsize
  if img.stack = 0 || t = 0 then (0, 0) else (top - img.stack * (tid % t + 1), top - img.stack * (tid % t))

/-- The ranges of a descriptor, clipped to the stack area: offset and bytes in the slice. -/
def liveRanges (d : Nat) (sp : Nat) (area : Nat × Nat) : List (Nat × Nat) :=
  (List.range 8).filterMap fun j =>
    let lo := sp + field d (64 * j + 1046) (64 * j + 1024)
    let hi := lo + field d (64 * j + 1070) (64 * j + 1048)
    let a := max lo area.1
    let b := min hi area.2
    if a < b then some (a, b - a) else none

/-- The thread as a save by descriptor leaves it: registers outside the bitmap read zero (R321, R334). -/
def cutThread (s : State) (c : Nat) (t : Thread) (n d : Nat) : Thread :=
  let area := ((launchOf s t.id.launch).map fun l => stackArea l.img t.id.tid).getD (0, 0)
  { t with v := t.v.mapIdx fun k x => if bitAt d k then x else 0,
           cut := some (n, (liveRanges d t.sr.sp.toNat area).map fun r => (r.1, memBytes s.mem (sliceAt c + r.1) r.2)) }

/-! ### Saving a thread (R357) -/

/-- Nothing keeps the save of the thread from finishing (R47). -/
def savable (k : Core) (t : Thread) : Bool :=
  !t.id.sup && quiet t && !owesTable k t && t.frec.isNone && t.xfer.isNone && t.pos.st != .exited && t.pos.st != .inSheaf

/-- The thread's state is written out and its slot is free (R26). Its flags are clear in the image (R47). -/
def State.saveThread (s : State) (c : Nat) (t : Thread) : State :=
  s.modCore c fun k => dropLatch { k with
    threads := k.threads.filter fun u => u.id.slot != t.id.slot
    saved := k.saved ++ [{ t with flags := List.replicate 12 0 }] } t

/-- A wake record for the thread, when its die has one free (R361). -/
def State.takeWake (s : State) (c : Nat) (t : Thread) : State :=
  if 0 < wakeFree s (dieOf c) && !hasWake s c t then
    let w : Wake := ⟨dieOf c, c, t.id.launch, t.id.tid, none⟩
    { s with gran := { s.gran with wakes := s.gran.wakes ++ [w] } }
  else s

/-- How a thread is saved before the grace deadline: waiting on a barrier or parked in full, ready at a PHINT header by its
descriptor (R357). -/
def State.saveEarly (s : State) (c : Nat) (t : Thread) : State :=
  let k := s.core c
  match t.pos.st with
  | .barrier => (s.takeWake c t).saveThread c t
  | .parked | .saved => s.saveThread c t
  | .ready =>
    if t.pos.widx = 0 && phintAt k false t.pos.hdr then
      (match liveDesc s k t with
      | some (n, d) => s.saveThread c (cutThread s c t n d)
      | none => s.saveThread c t)
    else s
  | _ => s

/-- Thread `sub` of core `cur` is saved under a pending request, before its grace deadline has passed. -/
def execPhintSave (s : State) : Out :=
  .next (match (s.core s.cur).pre, s.thread s.cur s.sub with
    | some p, some t => if p.saved || p.graceOver || decide (p.grace ≤ s.time) || !savable (s.core s.cur) t then s else s.saveEarly s.cur t
    | _, _ => s)

/-- A thread that has not been saved when the grace deadline has passed is saved in full, as the state it is in (R357). -/
def State.saveLate (s : State) (c : Nat) (t : Thread) : State :=
  let s1 := if t.pos.st == .barrier then s.takeWake c t else s
  let whole := t.pos.st != .barrier && t.pos.st != .parked && t.pos.st != .saved
  (s1.saveThread c t).modCore c fun k => { k with pre := k.pre.map fun p => { p with full := p.full || whole } }

/-- The grace deadline of the request on core `cur` has passed: every thread not yet saved is saved in full. One in a sheaf is
once its clause has ended, and one with results in flight once they have landed: the event comes again for them (R47, R357). -/
def execGraceDeadlineExpiry (s : State) : Out :=
  .next (match (s.core s.cur).pre with
    | none => s
    | some p =>
      if p.saved || s.time < p.grace then s
      else
        let s1 := s.modCore s.cur fun k => { k with pre := k.pre.map fun p => { p with graceOver := true } }
        ((userThreads (s.core s.cur)).filter (savable (s.core s.cur))).foldl (fun x t => x.saveLate s.cur t) s1)

/-! ### The team save area (R358, R359) -/

def areaHead : Nat := 0x50F000

/-- The size of a team save area (R378). -/
def areaSize (img : Image) : Nat := (areaHead + 2048 * (256 + 4 * img.regs + img.stack) + 4095) / 4096 * 4096

/-- Where a core's team is saved: one area per team in TMX order, and for a paired team one per core (log entry 12). -/
def areaOf (l : Launch) (tm : Team) (c : Nat) : Nat :=
  l.save + areaSize l.img * (if tm.paired then 2 * tm.tmx + c % 2 else tm.tmx)

def tagWord (x : Tag) : Nat :=
  x.st % 4 + (if x.short then 4 else 0) + (if x.stray then 8 else 0) + x.count % 2 ^ 23 * 2 ^ 8 + x.gen % 2 ^ 32 * 2 ^ 32

def bankCells (at_ : Nat) (b : ActBank) : List Host.Cell :=
  cellsOf at_ (leBytes 16 b.desc.toNat) ++ tableCells (at_ + 16) 4 b.ent fun x => leBytes 4 x.toNat

def wbufCells (at_ : Nat) (b : WBuf) : List Host.Cell :=
  tableCells at_ 2 b.w (leBytes 2) ++ cellsOf (at_ + 0x8000) (List.replicate 512 127)
    ++ tableCells (at_ + 0x8000) 1 b.sc (leBytes 1) ++ cellsOf (at_ + 0x8200) (leBytes 1 (tyCode b.fmt))

/-- An entry of the engine slot table, 16 bytes (log entry 12). -/
def eslotWord (x : ESlot) : Nat :=
  x.seq % 2 ^ 40 + (match x.ended with | some st => (8 + statusCode st) * 2 ^ 40 | none => 0) + efaultCode x.cause * 2 ^ 44
    + (if x.used then 2 ^ 48 else 0) + x.summary.toNat % 2 ^ 8 * 2 ^ 56 + x.fva % 2 ^ 64 * 2 ^ 64

/-- The image of a saved thread with its stack ranges (R359). -/
def threadImage (now c : Nat) (t : Thread) : List Byte :=
  match t.cut with
  | some (n, rs) => threadBytes now c 1 n (fun _ => true) t ++ rs.foldl (fun l r => l ++ r.2) []
  | none => threadBytes now c 2 0 (fun _ => true) t

/-- The G registers of the team's groups (R199): supervisor groups lie above. -/
def userG (g : Tbl Quad) : Tbl Quad := g.filter fun x => x.1 < 65536

/-- The values written to the slice of core `c` while its team was there, the latest first (R63). -/
def sliceHist (s : State) (c : Nat) : List Host.Cell :=
  (sinceRefill (sliceAt c) s.hist).filter fun x => sliceAt c ≤ x.1 && decide (x.1 < sliceAt c + Config.sliceBytes)

/-- The team of a core as it is saved. -/
def savedOf (k : Core) (tm : Team) (kind area : Nat) (hist : List Host.Cell) (spared : Bool) : SavedTeam :=
  { team := tm, kind := kind, area := area, threads := k.saved, recs := k.faultQ ++ k.faultWait, code := k.code,
    tags := k.tags, act := k.act, bank0 := k.bank0, bank1 := k.bank1, mx := { k.mx with latch := none }, g := userG k.g,
    es := k.es.filter fun x => x.launch == tm.launch, hist := hist, spared := spared, due := kind == 1 }

/-- The save area beside the slice, by offset: everything that does not read zero. -/
def areaCells (c now : Nat) (img : Image) (x : SavedTeam) : List Host.Cell :=
  let a := 0
  let one := 256 + 4 * img.regs + img.stack
  cellsOf a (leBytes 40 (x.kind + now % 2 ^ 64 * 2 ^ 64 + img.regs * 2 ^ 128 + img.stack * 2 ^ 192 + x.threads.length * 2 ^ 256))
    ++ tableCells (a + 0x481000) 8 x.tags (fun t => leBytes 8 (tagWord t))
    ++ cellsOf (a + 0x483000) [if x.act then 1 else 0] ++ bankCells (a + 0x483010) x.bank0 ++ bankCells (a + 0x484020) x.bank1
    ++ wbufCells (a + 0x486000) x.mx.b0 ++ wbufCells (a + 0x48E800) x.mx.b1
    ++ tableCells (a + 0x497000) 4 x.mx.acc (fun r => leBytes 4 r.toNat)
    ++ tableCells (a + 0x4D7000) 8 x.g (fun q => leBytes 8 q.toNat)
    ++ x.es.foldl (fun l e => l ++ cellsOf (a + 0x4E7000 + 16 * (2048 * e.cls + e.slot)) (leBytes 16 (eslotWord e))) []
    ++ x.threads.foldl (fun l t => l ++ cellsOf (a + areaHead + one * t.id.slot) (threadImage now c t)) []

/-- The team state is written in its area. -/
def State.writeArea (s : State) (c : Nat) (img : Image) (x : SavedTeam) : State :=
  s.fillRange x.area areaHead (shiftCells 0x1000 (memCells s.mem (sliceAt c) Config.sliceBytes) ++ areaCells c s.time img x)

/-- An unjoined COLL stays in the collective engine, and held items in the commit queue (R358, R362). -/
def staysBehind (s : State) (o : Op) : Bool :=
  o.held || match o.kind with
    | .coll _ _ _ _ _ _ _ (some (cid, k, _)) => (match callAt s cid k with | some x => !callFull x | none => true)
    | _ => false

/-- Every user thread of the core has been saved or has exited, every direct access that they issued has committed (R91), and the
core's table images have been written (R180). -/
def threadsGone (k : Core) : Bool :=
  (userThreads k).all (fun t => t.pos.st == .exited && t.acc.isEmpty) && !tableLoads k

/-- The partner core takes the same request, and has not been saved yet (R356). -/
def partnerAsked (s : State) (c : Nat) : Bool :=
  partnerOpen s c && (s.core (partnerOf c)).pre.any fun p => !p.saved

/-- The threads of the core, and of its partner under the same request, are saved or have exited and their accesses have
committed, none of the partner's accesses has still to reach the slice (R91, R358), and the team's engines have drained, the
matrix engine also of an MMAP that the leader issued (R226). -/
def drainedTeam (s : State) (c : Nat) (launch : Nat) : Bool :=
  threadsGone (s.core c) && (!partnerAsked s c || threadsGone (s.core (partnerOf c)))
    && ((userThreads (s.core (partnerOf c))).all fun t => t.acc.all fun a => sliceCore a.phys != c)
    && s.ops.all fun o => !((o.core == c || o.cls == 1 && (mxCores o).contains c) && o.launch == launch && !o.sup)
      || staysBehind s o

/-- A direct access that outlives its team: a table image does not, since the activation table is the team's (R177). -/
def outlives (a : Access) : Bool := match a.kind with | .tblld _ => false | _ => true

/-- A table image clears no flag any more of a thread that took the slot of one of its sheaf (R179). -/
def looseTable (a : Access) : Access := match a.kind with | .tblld _ => { a with kind := .tblld [] } | _ => a

/-- Exited threads that give their slots up: they stand above the slots, beyond those of `others` that do. -/
def aboveSlots (others ts : List Thread) : List Thread :=
  let base := others.foldl (fun n t => max n (t.id.slot + 1)) Config.nSlots
  ts.mapIdx fun j t => { t with id := { t.id with slot := base + j }, acc := t.acc.map looseTable }

/-- The threads that remain when a core's team has gone: supervisors, and above the slots the exited threads whose accesses have
not all committed (R150, log entry 66). What such a thread has issued and the Granary has not taken yet, a TASK.DONE, TASK.DEP or
COND.SET behind its release condition (R253), is dropped with the team: R150 is silent (DESIGN CHOICE, log entry 85). -/
def leftBehind (k : Core) : List Thread :=
  let left (t : Thread) : Thread := { t with acc := t.acc.filter outlives, res := [], replies := [], pend := [], ops := [] }
  let ts := ((userThreads k).map left).filter fun t => t.pos.st == .exited && !t.acc.isEmpty
  supThreads k ++ aboveSlots (supThreads k) ts

/-- The accesses that still reach slice `d` for teams that have gone do so no more: the slice is filled anew (R380, log
entry 66). -/
def State.endStrays (s : State) (d : Nat) : State :=
  let cut (t : Thread) : Thread :=
    if Config.nSlots ≤ t.id.slot then { t with acc := t.acc.filter fun a => sliceCore a.phys != d } else t
  let keep (t : Thread) : Bool := t.id.slot < Config.nSlots || !t.acc.isEmpty
  let cutAll (k : Core) : Core := { k with threads := (k.threads.map cut).filter keep }
  (s.modCore d cutAll).modCore (partnerOf d) cutAll

/-- The core is free of its team. -/
def emptied (k : Core) (launch : Nat) : Core :=
  { k with team := none, code := [], threads := leftBehind k, saved := [], g := k.g.filter fun x => 65536 ≤ x.1, tags := [],
           act := false, bank0 := ActBank.zero, bank1 := ActBank.zero, mx := Matrix.zero.inArrays k.mx,
           es := k.es.filter fun x => x.launch != launch, faultQ := [], faultWait := [], tlb := [] }

/-- One saved team is to be restored next, when its slice has come (R427). -/
def firstDue (l : List SavedTeam) : List SavedTeam :=
  if l.any (·.due) then l else match l with
    | x :: r => { x with due := true } :: r
    | [] => []

/-- A team that has been saved ends as killed (R420), and with it its trace selection (R409). -/
def State.endSaved (s : State) (c : Nat) (x : SavedTeam) : State :=
  let s1 := dropWakes (x.threads.foldl (fun s t => s.abandon c t) s) c x.team.launch
  let f (l : Launch) : Launch :=
    if l.num == x.team.launch && (!x.team.paired || c % 2 == 0) then { l with ended := l.ended + 1 } else l
  ({ s1 with launches := s1.launches.map f } : State).modCore c fun k => { k with dbg := endSel x.team.launch x.team.tmx k.dbg }

/-- A core for which no spare is left goes offline. The teams saved on it, which no core of its number can take again, end as
killed, a paired one on both its cores (R420, log entry 89). -/
def State.goOffline (s : State) (c launch : Nat) : State :=
  let drop (y : SavedTeam) (s : State) (d : Nat) : State :=
    (s.core d).savedTeams.foldl (fun s z => if z.team == y.team then
      (s.modCore d fun k => { k with savedTeams := k.savedTeams.erase z }).endSaved d z else s) s
  let s1 := (s.modCore c fun k => { k with offline := true, retireWant := none }).logRec 4 c launch 0
  (s.core c).savedTeams.foldl (fun s y => (if y.team.paired then [c - c % 2, c - c % 2 + 1] else [c]).foldl (drop y) s) s1

/-- A core that holds no team is retired at once. -/
def State.retireFree (s : State) (c launch : Nat) : State :=
  if spareLeft s c then ((s.reserveSpare c).modCore c sparedCore).logSpare c launch else s.goOffline c launch

/-- The team of a core has been saved: the slice and the rest are out, and the request completes. A RETIRE hands the
number to a spare; a core for which none is left goes offline, its team ended (R358, R420). -/
def State.saveTeam (s : State) (c : Nat) (l : Launch) (tm : Team) (p : Preempt) : State :=
  let x := savedOf (s.core c) tm p.kind (areaOf l tm c) (sliceHist s c) (p.kind == 1 && c == p.target)
  let s1 := s.writeArea c l.img x
  let s2 := s1.modCore c fun k => { emptied k tm.launch with pre := some { p with saved := true } }
  let s3 :=
    if p.off && (c == p.target || tm.paired) then
      (if c = p.target then s2.goOffline c tm.launch else s2).endSaved c x
    else
      let s' := s2.modCore c fun k => { k with savedTeams := k.savedTeams ++ [x] }
      if p.kind = 1 then (if c = p.target then s'.modCore c sparedCore else s')
      else if p.pk.isNone then s'.modCore c fun k => { k with savedTeams := firstDue k.savedTeams }
      else s'
  s3.closeRequest c

/-- The drain of the team of core `cur` has ended. -/
def execTeamDrainComplete (s : State) : Out :=
  .next (
    let k := s.core s.cur
    match k.pre, k.team with
    | some p, some tm =>
      (match launchOf s tm.launch with
      | some l => if !p.saved && drainedTeam s s.cur tm.launch then s.saveTeam s.cur l tm p else s
      | none => s)
    | _, _ => s)

/-! ### Wake records (R361) -/

def wakeOf (s : State) (c : Nat) (t : Thread) : Option Wake :=
  s.gran.wakes.find? fun w => w.core == c && w.launch == t.id.launch && w.tid == t.id.tid

def State.dropWake (s : State) (w : Wake) : State :=
  { s with gran := { s.gran with wakes := s.gran.wakes.filter fun x => !(x.core == w.core && x.launch == w.launch && x.tid == w.tid) } }

/-- The status that the event or the deadline of a recorded wait gives now, and what observing it does to the thread.
`here` says that the slice is the team's own. -/
def wakeStatus (s : State) (t : Thread) (w : Wait) (here : Bool) : Option (Status × Thread) :=
  let late (st : Status) : Option (Status × Thread) := if dlPassed s.time w.dl then some (st, t) else none
  match w.kind with
  | .acquire ids ops _ => if !(postedAny s ids || relPending s ops []) then some (.done, t) else late .partialDone
  | .barrier obj ph _ acq =>
    if here && barInit s.mem obj = 0 then some (.absent, t)
    else if here && barPhase s.mem obj != ph && !(acq && postedAny s (barPosted s obj ph)) then some (.done, t)
    else late .timeout
  | .future h _ _ =>
    (match viewFut s t.id.launch h with
    | .absent => some (.absent, t)
    | .stale => some (.stale, t)
    | .pending .. => late .timeout
    | .ended x _ => some (x.st, observe s t x))
  | _ => late .timeout

/-- The lowest free user slot. -/
def freeSlot (k : Core) : Option Nat :=
  let used := k.threads.map (·.id.slot)
  let n := firstFree used used.length 0
  if n < Config.nUserSlots then some n else none

/-- A thread enters a slot of its core: the slot's GEN rises (R269). -/
def seat (k : Core) (n : Nat) (t : Thread) : Core :=
  let g := (tblGet k.gen n 0 + 1) % 2 ^ 16
  { k with threads := k.threads ++ [{ t with id := { t.id with slot := n, gen := g } }], gen := tblPut k.gen n g }

/-- A saved thread whose record has fired takes a free slot with the status that was decided. -/
def State.recall (s : State) (w : Wake) (t : Thread) (st : Status) (regs : List (Nat × Reg)) : State :=
  let c := w.core
  match freeSlot (s.core c) with
  | none => s
  | some n =>
    let s1 := s.modCore c fun k => seat { k with saved := k.saved.filter fun u => u.id.tid != t.id.tid } n t
    ((s1.dropWake w).endWaitAt c n st regs).settleGran

/-- The arrival of the thread's wait has been withdrawn already. -/
def noBarrier (t u : Thread) : Thread :=
  if u.id.tid == t.id.tid then { u with wait := u.wait.map fun w => { w with kind := .sleep } } else u

/-- The record fires: its status is kept until the thread can be placed; a TIMEOUT of a barrier wait of a resident team
withdraws the arrival now (R43, R361). -/
def State.fireNow (s : State) (w : Wake) (t : Thread) (wt : Wait) (st : Status) (u : Thread) (here : Bool) : State :=
  let f (x : Thread) : Thread := if x.id.tid == t.id.tid && x.id.launch == t.id.launch then u else x
  let s1 := s.modCore w.core fun k => { k with saved := k.saved.map f, savedTeams := k.savedTeams.map fun y => { y with threads := y.threads.map f } }
  let s2 := match wt.kind, st with
    | .barrier obj ph n _, .timeout =>
      if here then (s1.withdraw w.core t obj ph n).modCore w.core fun k => { k with saved := k.saved.map (noBarrier t) } else s1
    | _, _ => s1
  s2.fireWake w.core t st []

def savedHere (s : State) (w : Wake) : Option Thread :=
  (s.core w.core).saved.find? fun t => t.id.tid == w.tid && t.id.launch == w.launch

def savedAway (s : State) (w : Wake) : Option Thread :=
  ((s.core w.core).savedTeams.flatMap (·.threads)).find? fun t => t.id.tid == w.tid && t.id.launch == w.launch

/-- The record's event or deadline has come. -/
def State.tryFire (s : State) (w : Wake) (t : Thread) (here : Bool) : State :=
  match t.wait with
  | none => s
  | some wt => match wakeStatus s t wt here with
    | some (st, u) => s.fireNow w t wt st u here
    | none => s

/-- Wake record `ix` of die `cur`: it fires when its event or its deadline has come, and once it has fired its thread,
whose team is resident, takes a slot. -/
def execWakeRecordFire (s : State) : Out :=
  .next (match (s.gran.wakes.filter fun w => w.die == s.cur)[s.ix]? with
    | none => s
    | some w =>
      match savedHere s w, savedAway s w with
      | some t, _ =>
        let s1 := if w.fired.isSome then s else s.tryFire w t true
        (match wakeOf s1 w.core t, savedHere s1 w with
        | some w1, some t1 => (match w1.fired with | some (st, regs) => s1.recall w1 t1 st regs | none => s1)
        | _, _ => s1)
      | none, some t => if w.fired.isSome then s else s.tryFire w t false
      | none, none => s)

/-! ### Restore (R360) -/

/-- The bytes of a thread's stack area outside the ranges of its descriptor read zero, and the ranges are copied back. -/
def State.restoreStack (s : State) (c : Nat) (img : Image) (t : Thread) : State :=
  match t.cut with
  | none => s
  | some (_, rs) =>
    let a := stackArea img t.id.tid
    rs.foldl (fun s r => s.store (sliceAt c + r.1) r.2) (s.clearRange (sliceAt c + a.1) (sliceAt c + a.2))

/-- A restored thread stands as it stood: a hold restarts its window, a halt that is due takes it at its header (R360,
R398). -/
def standAgain (ck : Clock) (k : Core) (t0 : Thread) : Thread :=
  let t : Thread := { t0 with cut := none, pos := { t0.pos with since := ck.now } }
  if t.dbg.halt.isSome && t.wait.isNone && t.pos.st != .parked && t.pos.st != .saved then
    park ck t .halt t.pos.widx 0 0
  else match t.pos.st with
    | .gather => { t with hold := t.hold.map fun h => { h with until_ := ck.cyc + (h.until_ - h.arrived), arrived := ck.cyc } }
    | .ready | .flagWait => standReady ck.now k t
    | _ => t

/-- The threads of a saved team that take slots at its restore: those whose wake record has not fired stay (R361). -/
def seated (s : State) (c : Nat) (t : Thread) : Bool := match wakeOf s c t with | some w => w.fired.isSome | none => true

/-- A record that names a thread by the reference it had names it by the one it has taken (R349). -/
def renamed (old : List Thread) (now : List Thread) (r : FaultRec) : FaultRec :=
  match old.find? fun t => t.id.slot == r.slot && t.id.gen == r.gen with
  | some t => (match now.find? fun u => u.id.tid == t.id.tid && !u.id.sup with
    | some u => { r with slot := u.id.slot, gen := u.id.gen }
    | none => r)
  | none => r

/-- The team's state enters the core, and its threads the lowest free slots in ascending TID order. -/
def enterTeam (s : State) (c : Nat) (x : SavedTeam) (k : Core) : Core :=
  let byTid := sortBy (fun (a b : Thread) => decide (a.id.tid ≤ b.id.tid)) x.threads
  let k1 : Core := { k with
    team := some x.team, code := x.code, g := x.g.foldl (fun g q => tblPut g q.1 q.2) k.g, tags := x.tags, act := x.act,
    bank0 := x.bank0, bank1 := x.bank1, mx := x.mx.inArrays k.mx,
    es := x.es ++ k.es.filter fun e => !(x.es.any fun d => d.cls == e.cls && d.slot == e.slot)
    dbg := blockIn s.time k, dbgNow := blockIn s.time k, dbgDue := none, haltDue := false
    saved := (byTid.filter fun t => !seated s c t).map (haltSeat s c { k with dbgNow := blockIn s.time k }) }
  let k2 := (byTid.filter (seated s c)).foldl (fun k t => match freeSlot k with
    | some n => seat k n (standAgain s.clock k (haltSeat s c k t))
    | none => { k with saved := k.saved ++ [t] }) k1
  let rs := x.recs.map (renamed x.threads k2.threads)
  { k2 with faultQ := rs.take Config.nFaultRecs, faultWait := rs.drop Config.nFaultRecs }

/-- The barrier waits of restored threads that have passed, in the order of their deadlines. -/
def passedWaits (s : State) (c : Nat) : List Thread :=
  let late := (userThreads (s.core c)).filter fun t => match wakeOf s c t, t.wait with
    | some w, _ => (match w.fired with | some (.timeout, _) => true | _ => false)
    | none, some w => dlPassed s.time w.dl
    | _, _ => false
  sortBy (fun (a b : Thread) => decide (((a.wait.map (·.dl.at_)).getD 0) ≤ ((b.wait.map (·.dl.at_)).getD 0))) late

/-- The arrival of a barrier wait that has passed is withdrawn (R360). -/
def withdrawLate (c : Nat) (s : State) (t : Thread) : State :=
  match t.wait with
  | some w => match w.kind with
    | .barrier obj ph n _ => if barPhase s.mem obj = ph && barInit s.mem obj != 0 then s.withdraw c t obj ph n else s
    | _ => s
  | none => s

/-- A restored thread's wait: the status decided at firing, else TIMEOUT when it has passed, else it is judged anew. -/
def resumeWait (c : Nat) (late : List Nat) (s : State) (t : Thread) : State :=
  match t.wait with
  | none => s
  | some w =>
    match wakeOf s c t with
    | some r => (match r.fired with
      | some (st, regs) => (s.dropWake r).endWaitAt c t.id.slot st regs
      | none => s)
    | none =>
      if late.contains t.id.slot then
        (match w.kind with
        | .barrier .. | .fsleep .. => s.endWaitAt c t.id.slot .timeout []
        | _ => s.expireWait c t w)
      else match w.kind with
        | .barrier obj ph n acq => s.meetBarrier c t obj ph n acq
        | .tag tc n _ => s.settleTag tc n 4
        | _ => s

/-- The team of a save area is placed back on its core (R358 to R361). -/
def State.restoreTeam (s : State) (c : Nat) (l : Launch) (x : SavedTeam) : State :=
  let s2 := s.refill c x.hist fun s =>
    x.threads.foldl (fun s t => s.restoreStack c l.img t) ((s.endStrays c).copyIn (x.area + 0x1000) (sliceAt c) Config.sliceBytes)
  let s3 := s2.modCore c fun k => enterTeam s2 c x { k with savedTeams := k.savedTeams.erase x }
  let late := passedWaits s3 c
  let s4 := late.foldl (withdrawLate c) s3
  let s5 := (userThreads (s4.core c)).foldl (resumeWait c (late.map (·.id.slot))) s4
  let ready := (s5.gran.entries.filter fun e => e.committing && e.provCore == c).map fun e => GWork.commit e.die e.ix
  ((((s5.granWork ready).settleWaits).settleGran).settle c).serveFaultsAt c

/-- The RESTORE packets that name the core complete, the oldest alone when another team's restore is still due (R370). -/
def State.finishRestores (s : State) (c : Nat) : State :=
  let ps := s.hub.packets.filter fun p => p.stage == .working && pkOp p.ws == 6 && field (pkWord p.ws 5) 7 0 == c
  (if (s.core c).savedTeams.any (·.due) then ps.take 1 else ps).foldl (fun s p => s.finishPk p.id .done 0) s

/-- The saved team of core `cur` whose restore is due is placed back, once the core is free, which
takes no team while a retirement is deferred (R421); after a retirement its record follows (R420). -/
def execTeamRestore (s : State) : Out :=
  .next (
    let k := s.core s.cur
    match k.team, k.savedTeams.find? (·.due) with
    | none, some x =>
      (match launchOf s x.team.launch with
      | some l =>
        let home := if x.team.paired then [s.cur - s.cur % 2, s.cur - s.cur % 2 + 1] else [s.cur]
        if k.offline || home.any (fun d => !(s.core d).retireDue.isEmpty) then s
        else
          let s0 := s.restoreTeam s.cur l x
          let s1 := if x.spared then s0.logSpare s.cur x.team.launch else s0
          if (teamCores s1 s.cur).all fun d => (s1.core d).savedTeams.all fun y => !(y.due && y.team.launch == x.team.launch) then
            (teamCores s1 s.cur).foldl State.finishRestores s1
          else s1
      | none => s)
    | _, _ => s)

/-! ### Time slices (R427) -/

/-- IEEE 1588 time in ticks (R396). -/
def ieeeNow (s : State) : Nat := (s.time + s.hub.timeoff.toNat) % 2 ^ 64

/-- The first boundary of the grid after an instant. -/
def boundaryAfter (p : Plinth) (now : Nat) : Nat :=
  if p.slice = 0 then 0 else if now < p.sliceOrigin then p.sliceOrigin
  else p.sliceOrigin + ((now - p.sliceOrigin) / p.slice + 1) * p.slice

def sharedCores (s : State) : List Nat :=
  (List.range Config.nCores).filter fun c => (numbered s.hub.cfg.parts).any fun x => bitAt s.hub.cfg.shared x.1 && bitAt x.2 c

/-- The request of a boundary waits on a core, or does so no more. -/
def State.sliceWaits (s : State) (c : Nat) (on : Bool) : State :=
  let rest := s.hub.sliceDue.filter (· != c)
  { s with hub := { s.hub with sliceDue := if on then rest ++ [c] else rest } }

/-- The Plinth asks for a switch on a core of a time-shared partition, at once or when a request that is under way there is
complete; a core that is free is given to the next tenant. -/
def sliceCoreOver (s : State) (c : Nat) : State :=
  if (s.core c).team.isNone then s.modCore c fun k => { k with savedTeams := firstDue k.savedTeams }
  else if !canSave s c then s
  else if noRequest s (widen s c) then s.request c 0 s.hub.plinth.grace none false
  else s.sliceWaits c ((widen s c).any fun d => (s.core d).pre.any fun p => !ofSlice p)

/-- A core on which the request of a boundary waits: its team comes back from a retirement first; else, once the core is free or its
request is complete, the boundary takes it. -/
def sliceCoreLate (s : State) (c : Nat) : State :=
  let k := s.core c
  if !(sharedCores s).contains c then s.sliceWaits c false
  else if k.team.isNone && k.savedTeams.any fun y => y.due && y.kind == 1 then s
  else sliceCoreOver (s.sliceWaits c false) c

/-- A boundary of the time slices has come. The next one follows by the slice length in force now (R388). Between boundaries the
cores on which one still waits are looked at. -/
def execTimeSliceBoundary (s : State) : Out :=
  .next (
    let h := s.hub
    if !h.offsetSet || h.nextSlice = 0 || ieeeNow s < h.nextSlice then h.sliceDue.foldl sliceCoreLate s
    else
      let s1 := (sharedCores s).foldl sliceCoreOver s
      { s1 with hub := { s1.hub with nextSlice := boundaryAfter h.plinth (ieeeNow s) } })

end Sys2Proof.Machine
end

