-- ==== Sys2Proof/Machine/Hub.lean ====
section
/-! DEFINITION. The hub: features (R390, R391), mailboxes (R373 to R376), the start and the completion of packets (R367 to
R372), shootdowns (R365), the pager's completions (R364), the notify latch (R394), the clock (R396), Plinth parameters
(R388), power-on reset (R392, R393), attestation (R425). -/

namespace Sys2Proof.Machine

open Sys2Proof

/-! ### Features (R390, R391) -/

/-- OFFER: the features of the device under the configuration block's ceiling. -/
def offer (s : State) : Nat := 0x1FF &&& s.hub.cfg.ceiling

/-- A write of FCTL. -/
def State.writeFctl (s : State) (v : Nat) : State :=
  if bitAt v 0 && s.launches.isEmpty then { s with hub := { s.hub with fagr := offer s &&& s.hub.freq } } else s

def execFeatureGo (v : Nat) (s : State) : Out := .next (s.writeFctl v)

/-- The packet uses a feature that has not been agreed; whether an image is paired is judged when it is read. -/
def featureBad (s : State) (ws : List Quad) : Bool :=
  match pkOp ws with
  | 0 => false
  | 1 | 7 => !(agreed s 0 && agreed s 1)
  | 2 | 3 | 4 => !(agreed s 0 && agreed s 2)
  | _ => !(agreed s 0 && agreed s 4)

/-! ### Malformed packets (R370) -/

/-- Bits of a packet's word that no field of its operation uses (R369, R370, R378, R384 to R386). -/
def pkReserved (op : Nat) : Nat → Nat
  | 0 => 0xFFF80000
  | 1 => 0xFFFFFFFFF000F000
  | 2 => 0xFFFF000000000000
  | 3 => 0
  | 4 => 0xFFFFF00000000000
  | n =>
    let addr := 0xFFFFF00000000000
    let all := 0xFFFFFFFFFFFFFFFF
    let row (l : List Nat) : Nat := l.getD (n - 5) all
    match op with
    | 1 => row [addr, addr, addr, 0xFFFFFFFFFFE00000, 0, 0, addr, 0xFFFFFFFFFFFFFFF0]
    | 2 => row [addr, 0xFFFFFFFFFFC00000]
    | 3 => row [all, 0xFFFFFFFFFFC0FFFF]
    | 4 => row [0xFFFFFFFFFFFFFFC0, 0]
    | 5 => row [0xFFFFFFFFFFFFFC00, 0]
    | 6 => row [0xFFFFFFFFFFFFFF00]
    | 7 => row [addr, 0, 0, 0, 0]
    | _ => all

/-- A field of the packet breaks the range or the multiple that its table states (log entry 13). -/
def pkRange (ws : List Quad) : Bool :=
  pkCaddr ws % 16 != 0 || match pkOp ws with
    | 1 => pkWord ws 5 % 64 != 0 || pkWord ws 6 % 4096 != 0 || pkWord ws 7 % 4096 != 0 || field (pkWord ws 8) 15 0 == 0
        || pkWord ws 10 % 2 ^ 30 != 0 || pkWord ws 11 % 16 != 0 || decide (8 < pkWord ws 12)
    | _ => false

def badPacket (ws : List Quad) : Bool :=
  decide (7 < pkOp ws) || field (pkWord ws 0) 15 8 != 1
    || (List.range 16).any (fun j => pkWord ws j &&& pkReserved (pkOp ws) j != 0) || pkRange ws

/-! ### Starting a packet (R368, R370) -/

/-- The launch that a packet's record names from the start: an MQLOAD's, however it ends (R371). -/
def pkLaunch (ws : List Quad) : Nat := if pkOp ws = 2 then field (pkWord ws 6) 15 0 else 0

/-- The packet leaves its queue: the queue moves on, past a LAUNCH or an MQKICK once that has started (R370, R387). A packet that
is malformed or uses a feature not agreed has no other effect. -/
def State.startPacket (s : State) (q : Nat) (ws : List Quad) : State :=
  let x := queueAt s q
  let id := s.hub.nextPk
  let later := pkOp ws == 1 || pkOp ws == 4
  let p : Packet := ⟨id, q, ws, .started, .done, 0, pkLaunch ws, none, false, 0, 0, 0, 0⟩
  let s1 := { s with hub := { s.hub with packets := s.hub.packets ++ [p], nextPk := id + 1 } }.setQueue q
    { x with head := if later then x.head else (x.head + 1) % 2 ^ 32, next := none, cwait := none,
             blocked := if later then some id else none }
  if badPacket ws then s1.finishPk id .fault 1
  else if featureBad s ws then s1.finishPk id .fault 2
  else s1

/-! ### Mailboxes (R373 to R376) -/

def mboxAt (s : State) (m : Nat) : Mailbox := tblGet s.hub.mboxes m Mailbox.reset

def State.setMbox (s : State) (m : Nat) (x : Mailbox) : State :=
  { s with hub := { s.hub with mboxes := tblPut s.hub.mboxes m x } }

/-- The mailbox changes, in this tick. -/
def State.putMbox (s : State) (m : Nat) (v : Quad) (full : Bool) : State :=
  s.setMbox m { mboxAt s m with val := v, full := full, at_ := some s.time }

/-- The mailbox has taken no change in this tick (R376). -/
def mboxFree (s : State) (m : Nat) : Bool := (mboxAt s m).at_ != some s.time

/-- The queues whose next packet waits to consume the mailbox, in the order their waits began (R376). -/
def consumers (s : State) (m : Nat) : List (Nat × List Quad) :=
  let waiting := s.hub.queues.filterMap fun x => match x.2.cwait, x.2.next with
    | some w, some ws => if pkCmb ws = m && x.2.en then some (w.2, x.1, ws) else none
    | _, _ => none
  (sortBy (fun a b => decide (a.1 < b.1) || (a.1 == b.1 && decide (a.2.1 ≤ b.2.1))) waiting).map (·.2)

/-- The packets that wait to produce into the mailbox, in the order their waits began. -/
def producers (s : State) (m : Nat) : List Packet :=
  sortBy (fun (a b : Packet) =>
      let x : Nat := (a.pdl.map (·.2)).getD 0
      let y : Nat := (b.pdl.map (·.2)).getD 0
      decide (x < y) || (x == y && decide (a.q ≤ b.q)))
    (s.hub.packets.filter fun p => p.stage == .finished && p.pdl.isSome && pkPmb p.ws == m)

/-- The mailbox is full: a waiting consumer takes the value in the same step (R376). -/
def State.fillMbox (s : State) (m : Nat) (v : Quad) : State :=
  match consumers s m with
  | (q, ws) :: _ => (s.putMbox m v false).startPacket q ws
  | [] => s.putMbox m v true

/-- A write of MBV, or of MBC when `full` is set, takes effect (R373). -/
def State.changeMbox (s : State) (m : Nat) (full : Bool) (v : Nat) : State :=
  let x := mboxAt s m
  if !full then s.putMbox m (BitVec.ofNat 64 v) x.full
  else if bitAt v 0 then s.fillMbox m x.val
  else s.putMbox m x.val false

/-- A system core writes MBV or MBC: at once, or in the first tick after the writes that wait before it (R376). -/
def State.writeMbox (s : State) (m : Nat) (full : Bool) (v : Nat) : State :=
  let x := mboxAt s m
  if 4096 ≤ m then s
  else if mboxFree s m && x.late.isEmpty then s.changeMbox m full v
  else s.setMbox m { x with late := x.late ++ [(full, v)] }

/-- A tick brings each mailbox the first of the writes that wait for it (R376). -/
def State.lateMboxes (s : State) : State :=
  (s.hub.mboxes.map (·.1)).foldl (fun s m => match (mboxAt s m).late with
    | (full, v) :: r => (s.setMbox m { mboxAt s m with late := r }).changeMbox m full v
    | [] => s) s

def execMailboxWrite (m : Nat) (full : Bool) (v : Nat) (s : State) : Out := .next (s.writeMbox m full v)

/-! ### Command queues (R367, R368, R375) -/

/-- A write of QTAIL. -/
def State.writeTail (s : State) (q v : Nat) : State :=
  let x := queueAt s q
  let new := v % 2 ^ 32
  let ahead (t : Nat) : Nat := (t + 2 ^ 32 - x.head) % 2 ^ 32
  if 256 ≤ q then s
  else if 2 ^ x.log2n < ahead new || ahead new < ahead x.tail then s.setQueue q { x with err := true, errAt := some s.time }
  else s.setQueue q { x with tail := new }

def execQtailWrite (q v : Nat) (s : State) : Out := .next (s.writeTail q v)

/-- The words of packet `i` of a queue. -/
def packetWords (s : State) (x : CmdQueue) (i : Nat) : List Quad :=
  (List.range 16).map fun j => BitVec.ofNat 64 (busRead s (x.base + 128 * (i % 2 ^ x.log2n) + 8 * j) 8)

/-- The packet that is next to start in a queue, as it was read or is to be read now (R368). -/
def nextPacket (s : State) (x : CmdQueue) : Option (List Quad) :=
  match x.next with
  | some ws => some ws
  | none => if x.en && x.head != x.tail && x.blocked.isNone then some (packetWords s x x.head) else none

/-- Every earlier packet of the queue has completed, when the packet asks for it. -/
def orderOk (s : State) (q : Nat) (ws : List Quad) : Bool := !pkOrder ws || !(s.hub.packets.any fun p => p.q == q)

/-- The packet of queue `q` can take its value: the mailbox is full and no wait that began earlier comes first (R376). -/
def canConsume (s : State) (q m : Nat) : Bool :=
  (mboxAt s m).full && mboxFree s m && match consumers s m with | x :: _ => x.1 == q | [] => true

/-- The queue has a packet able to start now. -/
def ableQ (s : State) (q : Nat) : Bool :=
  let x := queueAt s q
  match nextPacket s x with
  | some ws => x.en && x.blocked.isNone && orderOk s q ws && (!pkCwait ws || canConsume s q (pkCmb ws))
  | none => false

/-- It is the queue's turn among those able to start: ascending, one packet of each in a round (R368). -/
def turnOf (s : State) (q : Nat) : Bool :=
  let able := (s.hub.queues.map (·.1)).filter (ableQ s)
  match able.find? fun n => decide (s.hub.rr ≤ n) with
  | some n => n == q
  | none => able.head? == some q

/-- The next packet of queue `cur` is read, begins its consume wait, or starts: also from a wait that has found its mailbox full
since the queue is served again (R375). -/
def execPacketStart (s : State) : Out :=
  .next (
    let q := s.cur
    let x := queueAt s q
    match nextPacket s x with
    | none => s
    | some ws =>
      let s1 := s.setQueue q { x with next := some ws }
      let m := pkCmb ws
      if !x.en || x.blocked.isSome || !orderOk s q ws then s1
      else if pkCwait ws && !(mboxAt s m).full then
        (if x.cwait.isSome then s1
        else s1.setQueue q { x with next := some ws, cwait := some (s.time + pkSpan s ws, s.time) })
      else if !turnOf s q then s1
      else
        let s2 := { s1 with hub := { s1.hub with rr := (q + 1) % 256 } }
        let s3 := if pkCwait ws then s2.putMbox m (mboxAt s m).val false else s2
        s3.startPacket q ws)

/-- The consume wait of queue `cur` has passed its deadline: the packet completes TIMEOUT without executing (R375). -/
def execConsumeDeadlineExpiry (s : State) : Out :=
  .next (
    let x := queueAt s s.cur
    match x.cwait, x.next with
    | some w, some ws =>
      if s.time < w.1 then s
      else
        let id := s.hub.nextPk
        let p : Packet := ⟨id, s.cur, ws, .finished, .timeout, 0, pkLaunch ws, none, false, 0, 0, 0, 0⟩
        { s with hub := { s.hub with packets := s.hub.packets ++ [p], nextPk := id + 1 } }.setQueue s.cur
          { x with head := (x.head + 1) % 2 ^ 32, next := none, cwait := none }
    | _, _ => s)

/-! ### Completion (R371, R375, R412) -/

def recordBits (s : State) (p : Packet) : Nat :=
  statusCode p.status + p.reason * 2 ^ 8 + p.launch % 2 ^ 16 * 2 ^ 16 + field (pkWord p.ws 0) 63 32 * 2 ^ 32
    + s.time % 2 ^ 64 * 2 ^ 64

def stampBits (p : Packet) : Nat :=
  p.fault % 2 ^ 64 + p.io % 2 ^ 64 * 2 ^ 64 + p.out % 2 ^ 64 * 2 ^ 128 + p.exec % 2 ^ 64 * 2 ^ 192

/-- The record, with the execution stamp of a LAUNCH before it, and QDONE. -/
def State.writeRecord (s : State) (p : Packet) : State :=
  let a := pkCaddr p.ws
  let s1 := if a = 0 || pkOp p.ws != 1 then s else s.busStore (a + 16) 32 (stampBits p)
  let s2 := if a = 0 then s1 else s1.busStore a 16 (recordBits s p)
  let x := queueAt s2 p.q
  { s2 with hub := { s2.hub with packets := s2.hub.packets.filter fun y => y.id != p.id } }.setQueue p.q
    { x with done := (x.done + 1) % 2 ^ 32 }

/-- Packet `ix`, whose work has completed, produces and writes its record. -/
def execPacketProduce (s : State) : Out :=
  .next (match packetAt s s.ix with
    | none => s
    | some p =>
      if p.stage != .finished then s
      else if p.pdl.isNone then s.writeRecord p
      else
        let m := pkPmb p.ws
        if (mboxAt s m).full || !mboxFree s m || (producers s m).head?.map (·.id) != some p.id then s
        else
          (s.modPacket p.id fun p => { p with pdl := none }).fillMbox m (p.ws.getD 3 0) |>.writeRecord p)

/-- The produce wait of packet `ix` has passed its deadline: PARTIAL with reason PRODUCE (R375). -/
def execProduceDeadlineExpiry (s : State) : Out :=
  .next (match packetAt s s.ix with
    | none => s
    | some p => match p.pdl with
      | none => s
      | some w =>
        if p.stage != .finished || s.time < w.1 then s
        else s.modPacket p.id fun p => { p with status := .partialDone, reason := 14, pdl := none })

/-- A NOP packet has started: its mailbox steps are its only effects (R370). -/
def execNopPacket (s : State) : Out :=
  .next (match startedPk s s.ix 0 with
    | none => s
    | some p => s.finishPk p.id .done 0)

/-! ### PREEMPT and RESTORE (R356, R370) -/

/-- The RETIRE of a core whose team cannot be saved waits until every team has ended that the request would have taken, and
meanwhile their cores take no new one (R421, log entry 80). -/
def State.deferRetire (s : State) (c : Nat) : State :=
  (widen s c).foldl (fun s d => s.modCore d fun k =>
    if k.retireDue.contains c then k else { k with retireDue := k.retireDue ++ [c] }) s

/-- PREEMPT packet `ix`: the request is refused, or taken once no earlier one is under way on its cores. -/
def execPreempt (s : State) : Out :=
  .next (match startedPk s s.ix 5 with
    | none => s
    | some p =>
      let c := field (pkWord p.ws 5) 7 0
      let kind := field (pkWord p.ws 5) 9 8
      let cs := widen s c
      let work (s : State) : State := s.modPacket p.id fun p => { p with stage := .working }
      if 2 ≤ kind || (s.core c).team.isNone || (kind == 0 && !canSave s c) then s.finishPk p.id .fault 13
      else if !canSave s c then work (s.deferRetire c)
      else if noRequest s cs then work (s.retireOr c kind (pkWord p.ws 6) (some p.id))
      else s)

def markDue (tm : Team) (y : SavedTeam) : SavedTeam := if y.team == tm then { y with due := true } else y

/-- RESTORE packet `ix`: the saved team of the core, on both cores of a paired team, is restored once the core is free. -/
def execRestore (s : State) : Out :=
  .next (match startedPk s s.ix 6 with
    | none => s
    | some p =>
      let c := field (pkWord p.ws 5) 7 0
      let l := (s.core c).savedTeams
      match (l.filter fun y => !y.due).head?.or l.head? with
      | none => s
      | some x =>
        let mark (d : Nat) (s : State) : State :=
          s.modCore d fun k => { k with savedTeams := k.savedTeams.map (markDue x.team) }
        let s1 := mark c s
        let s2 := if x.team.paired then mark (partnerOf c) s1 else s1
        s2.modPacket p.id fun p => { p with stage := .working })

/-! ### Shootdowns and the pager (R364, R365) -/

/-- The translation lies in the range of the shootdown. -/
def inShoot (launch lo n : Nat) (x : TlbEnt) : Bool :=
  x.space == launch && decide (x.va < lo + n) && decide (lo < x.va + x.bytes)

/-- The translations that have placed parts of an operation, or are to place them, each with the record that it is of: a kick's
open record is the last. -/
def placedBy (o : Op) : List (Nat × TlbEnt) :=
  match o.kind with
  | .ckick _ _ recs =>
    (numbered recs).flatMap (fun x => x.2.pages.map fun y => (x.1, y))
      ++ (match openRec recs with | some (j, _) => o.pages.map fun y => (j, y) | none => [])
  | _ => o.pages.map fun y => (0, y)

/-- Two ranges share a byte. -/
def rangesMeet (lo n a k : Nat) : Bool := decide (a < lo + n) && decide (lo < a + k)

/-- The translation of the page has placed the part. -/
def partOn (x : Shot) (a : Part) : Bool := rangesMeet x.va x.bytes a.gva a.len

/-- The metadata of a part of a copy lies in the page. -/
def metaOn (x : Shot) (y : CopyArg) (a : Part) : Bool :=
  y.xp && match planOf y with
    | some p => rangesMeet x.va x.bytes (y.maddr + a.off / p.db / 2) (a.dlen / p.db / 2 + 1)
    | none => false

/-- Every part that the dropped translation had placed has been performed: a COLL reads its record and its table as it is
accepted (log entry 82). -/
def shotPast (s : State) (x : Shot) : Bool :=
  (s.posted.all fun p => p.op != x.op || !rangesMeet x.va x.bytes p.page.1 p.page.2)
    && match opAt s x.op with
      | none => true
      | some o => match o.kind with
        | .ckick _ _ recs => (match recs[x.item]? with
          | some r => r.accepted && r.parts.all fun a => a.st != 0 || !partOn x a
          | none => true)
        | .coll .. => o.accepted
        | .copy y => o.accepted && o.parts.all fun a => a.st != 0 || !(partOn x a || metaOn x y a)
        | _ => o.accepted && o.parts.all fun a => a.st != 0 || !partOn x a

/-- A write of the shootdown control register: with GO, every translation cache drops the range. -/
def State.writeShoot (s : State) (v : Nat) : State :=
  let launch := field v 15 0
  let lo := s.hub.shootAddr.toNat
  let n := field v 47 16 * 65536
  if !bitAt v 63 || !s.hub.shootDone then s
  else
    let hit := (s.ops.filter fun o => !o.sup && o.launch == launch).flatMap fun o =>
      ((placedBy o).filter fun y => inShoot launch lo n y.2).map fun y => (⟨o.id, y.1, y.2.va, y.2.bytes⟩ : Shot)
    let posts := s.posted.filter fun p => p.launch == launch && decide (p.page.1 < lo + n) && decide (lo < p.page.1 + p.page.2)
    let drop (k : Core) : Core := { k with tlb := k.tlb.filter fun x => !inShoot launch lo n x }
    { s with cores := s.cores.map drop
             hub := { s.hub with shootLaunch := launch, shootCount := field v 47 16, shootDone := false,
                                 shootOps := hit, shootPosts := posts.map (·.id) } }

def execShootdownGo (v : Nat) (s : State) : Out := .next (s.writeShoot v)

/-- Every part that a dropped translation had placed has been performed: DONE. -/
def execShootdownDone (s : State) : Out :=
  .next (
    if s.hub.shootDone || !(s.hub.shootOps.all (shotPast s)) || postedAny s s.hub.shootPosts then s
    else { s with hub := { s.hub with shootDone := true, shootOps := [], shootPosts := [] } })

/-- A write of a die's pager completion register (R364). -/
def State.writePager (s : State) (die v : Nat) : State :=
  let hit (x : PSlot) : Bool := x.die == die && x.slot == field v 10 0 && x.seq == field v 51 12 && x.ended.isNone
  if field v 63 52 != 0 || !(s.hub.pslots.any hit) then s
  else
    let st : Status := if bitAt v 11 then .fault else .done
    let f (x : PSlot) : PSlot := if hit x then { x with ended := some st, endedAt := s.time } else x
    { s with hub := { s.hub with pslots := s.hub.pslots.map f } }.settleWaits

def execPagerCompletion (die v : Nat) (s : State) : Out := .next (s.writePager die v)

/-! ### The notify latch (R394) -/

def State.notify (s : State) (v : Quad) : State := { s with hub := { s.hub with nlatch := s.hub.nlatch ||| v } }

def execNotifyWrite (v : Nat) (s : State) : Out := .next (s.notify (BitVec.ofNat 64 v))

def execNlatchRead (s : State) : Out :=
  .next { s with hub := { s.hub with lastRead := s.hub.nlatch, nlatch := 0, plinthAwake := false } }

def execPlinthWake (s : State) : Out :=
  .next (if s.hub.nlatch = 0 then s else { s with hub := { s.hub with plinthAwake := true } })

/-- The TIME master has reached a programmed instant; before the first lock it does not fire (R396). -/
def execTimept (s : State) : Out := .next (if s.hub.offsetSet then s.notify (1#64 <<< 61) else s)

/-! ### The clock (R396, R423) -/

def execPtpFirstLock (ptp : Nat) (s : State) : Out :=
  .next (
    if s.hub.offsetSet then s
    else
      { s with hub := { s.hub with
          timeoff := BitVec.ofNat 64 (ptp + 2 ^ 64 - s.time % 2 ^ 64), offsetSet := true, locked := true
          nextSlice := boundaryAfter s.hub.plinth ptp } })

def execPtpLockLoss (s : State) : Out := .next { s with hub := { s.hub with locked := false } }

def execPtpLockRegained (s : State) : Out :=
  .next (if s.hub.offsetSet then { s with hub := { s.hub with locked := true }, svc := { s.svc with holdover := none } } else s)

/-- A second has passed without any port: the clock goes on at the rate it last disciplined, undisciplined. -/
def execClockHoldoverExpiry (s : State) : Out :=
  .next (match s.svc.holdover with
    | none => s
    | some d => if s.time < d then s else { s with hub := { s.hub with locked := false }, svc := { s.svc with holdover := none } })

/-! ### Plinth parameters (R388) -/

def clampTo (lo hi v : Nat) : Nat := max lo (min hi v)

/-- A parameter takes a value, clamped to its range. -/
def setParam (x : Plinth) (p : Param) (v : Nat) : Plinth :=
  match p with
  | .dlmax => { x with dlmax := clampTo 1024 (2 ^ 48) v }
  | .escl => { x with escl := clampTo 1 255 v }
  | .ghi => { x with ghi := clampTo 0 16384 v }
  | .gdist => { x with gdist := clampTo 0 3 v }
  | .lmin => { x with lmin := clampTo 0 65535 v }
  | .awin => { x with awin := clampTo 0 65535 v }
  | .qlim die q => { x with qlim := tblPut x.qlim (64 * die + q) (clampTo 1 16384 v) }
  | .predK => { x with predK := clampTo 1 7 v }
  | .gating => { x with gating := clampTo 0 65535 v }
  | .bw r => { x with bw := tblPut x.bw r (clampTo 1 4096 v) }
  | .lroute k => { x with lroute := tblPut x.lroute k (clampTo 1 65535 v) }
  | .slice => { x with slice := clampTo 0 (2 ^ 40) v }
  | .powerCap => { x with powerCap := clampTo 1000 3200 v }
  | .grace => { x with grace := v }

/-- Every parameter clamped to its range. -/
def clampAll (x : Plinth) : Plinth :=
  { dlmax := clampTo 1024 (2 ^ 48) x.dlmax, escl := clampTo 1 255 x.escl, ghi := clampTo 0 16384 x.ghi,
    gdist := clampTo 0 3 x.gdist, lmin := clampTo 0 65535 x.lmin, awin := clampTo 0 65535 x.awin,
    qlim := x.qlim.map fun y => (y.1, clampTo 1 16384 y.2), predK := clampTo 1 7 x.predK, gating := clampTo 0 65535 x.gating,
    bw := x.bw.map fun y => (y.1, clampTo 1 4096 y.2), lroute := x.lroute.map fun y => (y.1, clampTo 1 65535 y.2),
    slice := clampTo 0 (2 ^ 40) x.slice, sliceOrigin := x.sliceOrigin, grace := x.grace, powerCap := clampTo 1000 3200 x.powerCap }

/-- The boundary that a first slice length brings with it. -/
def startSlices (s : State) : State :=
  if s.hub.offsetSet && s.hub.nextSlice = 0 then
    { s with hub := { s.hub with nextSlice := boundaryAfter s.hub.plinth (ieeeNow s) } }
  else s

/-- Firmware writes a parameter: the running image the register, the shadow image (`sub` = 1) its shadow (R424). -/
def execPlinthParameterWrite (p : Param) (v : Nat) (s : State) : Out :=
  .next (
    if s.sub = 1 then
      (if s.svc.fwState = 3 then { s with svc := { s.svc with shadow := setParam s.svc.shadow p v } } else s)
    else (startSlices { s with hub := { s.hub with plinth := setParam s.hub.plinth p v } }).settleGran)

/-! ### Configuration blocks and power-on reset (R392, R393) -/

def cfgSeq (b : CfgBlock) : Nat := ofLe ((b.bytes.drop 8).take 8)

/-- The block is well formed, and its hash and its signature check. -/
def cfgValid (b : CfgBlock) : Bool :=
  let w (at_ n : Nat) : Nat := ofLe ((b.bytes.drop at_).take n)
  w 0 4 == 0x4B433357 && w 4 4 == 1 && w 16 4 + 64 == b.bytes.length && decide (w 16 4 ≤ 0xFE000)
    && ((b.bytes.drop 20).take 44).all (· == 0) && b.hash == Config.sm3 b.bytes && Config.sm2Checks b.hash b.sig

/-- The block to use: valid, not below the rollback counter, of the highest SEQ. -/
def cfgChoice (h : Hub) : Option CfgBlock :=
  let ok (b : Option CfgBlock) : Option CfgBlock := b.filter fun x => cfgValid x && decide (h.cfgRollback ≤ cfgSeq x)
  match ok h.flashA, ok h.flashB with
  | some a, some b => some (if cfgSeq a < cfgSeq b then b else a)
  | some a, none => some a
  | none, b => b

def cfgUse (b : CfgBlock) : CfgUse :=
  { device := b.device, parts := b.parts, shared := b.shared, ceiling := b.ceiling, split := b.split, pciHost := b.pciHost,
    safe := false }

/-- The hub as the root of trust sets it at power-up; flash and the rollback counters keep their contents. -/
def Hub.powerUp (h : Hub) : Hub :=
  let kept : Hub := { Hub.reset with flashA := h.flashA, flashB := h.flashB, cfgRollback := h.cfgRollback }
  match cfgChoice h with
  | some b => { kept with cfg := cfgUse b, plinth := clampAll b.plinth, cfgRollback := cfgSeq b }
  | none => kept

/-- What the service unit keeps over a power cycle: firmware images, rollback counter, spares, the upper half of SEQ,
raised by one (R418, R420, R422, R424). -/
def Service.powerUp (v : Service) : Service :=
  { Service.reset with
    slseq := (v.slseq / 2 ^ 32 + 1) * 2 ^ 32, fwA := v.fwA, fwB := v.fwB, fwMeasA := v.fwMeasA, fwMeasB := v.fwMeasB,
    fwRollback := v.fwRollback, spares := v.spares, retired := v.retired, rowSpares := v.rowSpares, chanSpare := v.chanSpare }

def execPowerOnReset (s : State) : Out :=
  .next { State.reset with
    cores := s.cores.map fun (k : Core) => { Core.reset with offline := k.offline }
    hub := s.hub.powerUp, svc := s.svc.powerUp, moves := s.moves, freeCtr := s.freeCtr }

/-! ### Attestation (R425) -/

/-- Bits 511:0 of an entry of a report. -/
def attHead (obj st launch seq : Nat) (meas : BitVec 256) : Nat :=
  obj + st * 2 ^ 8 + launch % 2 ^ 16 * 2 ^ 16 + seq % 2 ^ 64 * 2 ^ 32 + meas.toNat * 2 ^ 96

/-- An entry of 128 bytes, signed on its own. -/
def attEntry (nonce : BitVec 256) (head : Nat) : List Byte :=
  leBytes 64 head ++ leBytes 64 (Config.sm2Sign (Config.sm3 (leBytes 32 nonce.toNat ++ leBytes 64 head))).toNat

/-- The bytes of an image in memory: the header and the sections. -/
def imageSpan (i : Image) : Nat := max (i.codeOff + 8 * i.coden) (max (i.liveOff + 192 * i.nlive) (i.dataOff + i.dsize))

/-- The entries of a report: the firmware and what is staged, the configuration block, the ROM, the images of live
launches. -/
def attHeads (s : State) : List Nat :=
  let v := s.svc
  let run := if v.fwActive then (v.fwB, v.fwMeasB) else (v.fwA, v.fwMeasA)
  let oth := if v.fwActive then (v.fwA, v.fwMeasA) else (v.fwB, v.fwMeasB)
  let cfg := match cfgChoice s.hub with
    | some b => if s.hub.cfg.safe then (0, Config.sm3 []) else (cfgSeq b, Config.sm3 b.bytes)
    | none => (0, Config.sm3 [])
  [attHead 1 (if v.fwState = 0 then 0 else 1) 0 run.1.seq run.2]
    ++ (if v.fwState = 0 then [] else [attHead 1 2 0 oth.1.seq oth.2])
    ++ [attHead 2 0 0 cfg.1 cfg.2, attHead 3 0 0 (Config.ownSeq 0) Config.romMeasure]
    ++ s.launches.map fun l => attHead 4 0 l.num (Config.ownSeq l.num) (Config.sm3 (busBytes s l.img.addr (imageSpan l.img)))

/-- The header of a report: MAGIC, VERSION, SEQ, the nonce and n (log entry 14 gives their places). -/
def attHeader (s : State) (n : Nat) : List Byte :=
  leBytes 64 (0x54544157 + 2 ^ 32 + s.svc.attSeq % 2 ^ 64 * 2 ^ 64 + s.svc.attnonce.toNat * 2 ^ 128 + n % 2 ^ 64 * 2 ^ 384)

/-- A write of ATTREQ: the report's address is kept, and with GO the root of trust writes a report, and raises ROT. -/
def State.writeAttreq (s0 : State) (v : Nat) : State :=
  let s := { s0 with svc := { s0.svc with attreq := BitVec.ofNat 64 (field v 43 0) } }
  if !bitAt v 63 then s
  else
    let hs := attHeads s
    let bs := attHeader s hs.length ++ hs.foldl (fun l h => l ++ attEntry s.svc.attnonce h) []
    let s1 := s.storeCells (busCells s (shiftCells (field v 43 0) (numbered bs)))
    { s1 with svc := { s1.svc with attSeq := s1.svc.attSeq + 1 } }.notify (1#64 <<< 62)

def execAttreqGo (v : Nat) (s : State) : Out := .next (s.writeAttreq v)

end Sys2Proof.Machine
end

