-- ==== Sys2Proof/Machine/Launch.lean ====
section
/-! DEFINITION. Launches: images (R332, R333) and the checks of a LAUNCH (R372, R378, R379), the placement of teams (R25,
R380, R381) and of supervisor kernels (R350, R384), the ends of teams (R150, R421) and of launches (R377, R382). -/

namespace Sys2Proof.Machine

open Sys2Proof

/-! ### Images (R332, R333) -/

def imageOf (a v : Nat) : Image :=
  { addr := a, paired := bitAt v 48, entry := field v 78 64, coden := field v 95 80, regs := field v 106 96,
    group := field v 118 112, team := field v 140 128, stack := field v 159 144, nlive := field v 170 160,
    dbase := field v 214 192, dsize := field v 246 224, codeOff := field v 287 256, liveOff := field v 319 288,
    dataOff := field v 351 320 }

/-- Bytes of memory that the front end can read (R54). -/
def readable (s : State) (a n : Nat) : Bool := (runFault s false 1030 a n 0).isNone

def headReserved (v : Nat) : Bool :=
  field v 63 49 != 0 || bitAt v 79 || field v 111 107 != 0 || field v 127 119 != 0 || field v 143 141 != 0
    || field v 191 171 != 0 || field v 223 215 != 0 || field v 255 247 != 0 || field v 511 352 != 0

/-- The image breaks R332 or R333, or cannot be read; a supervisor's data section does not count (R384). -/
def imageBad (s : State) (a v : Nat) (sup : Bool) : Bool :=
  let i := imageOf a v
  field v 31 0 != 0x4E474956 || field v 47 32 != 1 || headReserved v || i.coden == 0 || decide (32768 < i.coden)
    || i.regs == 0 || i.regs % 32 != 0 || decide (1024 < i.regs) || !([16, 32, 64].contains i.group)
    || decide (1024 < i.nlive) || i.codeOff % 64 != 0 || i.liveOff % 64 != 0 || i.dataOff % 64 != 0
    || !readable s (a + i.codeOff) (8 * i.coden) || !readable s (a + i.liveOff) (192 * i.nlive)
    || (!sup && (decide (Config.sliceBytes < i.dbase + i.dsize) || !readable s (a + i.dataOff) i.dsize))

def perCore (i : Image) : Nat := if i.paired then i.team / 2 else i.team

/-- The team breaks R22. -/
def limitsBad (i : Image) : Bool :=
  let unit := if i.paired then 2 * i.group else i.group
  i.team == 0 || i.team % unit != 0 || decide (2048 < perCore i) || decide (0x80000 < perCore i * i.regs * 4)

/-! ### Partitions and free cores (R381) -/

/-- The core can take a team of the launch now: it is powered, not lent, not about to be, and holds no saved team of the
launch (log entry 12). -/
def freeCore (s : State) (launch c : Nat) : Bool :=
  let k := s.core c
  !s.svc.computeDown && k.team.isNone && !k.offline && k.retireDue.isEmpty && k.savedTeams.all fun y => !y.due && y.team.launch != launch

/-- Where a team can stand in a core mask: the first core of each place, in ascending order. -/
def placesOf (mask : Nat) (paired : Bool) : List Nat :=
  (List.range Config.nCores).filter fun c => bitAt mask c && (!paired || (c % 2 == 0 && bitAt mask (c + 1)))

def freePlaces (s : State) (mask : Nat) (paired : Bool) (launch : Nat) : List Nat :=
  (placesOf mask paired).filter fun c => freeCore s launch c && (!paired || freeCore s launch (c + 1))

/-! ### The checks of a LAUNCH (R372) -/

/-- A preload record (R379): its source, its offset, its bytes. -/
def preloadAt (s : State) (plist j : Nat) : Nat := busRead s (plist + 16 * j) 16

def preloadBad (v : Nat) : Bool :=
  field v 63 44 != 0 || field v 95 87 != 0 || field v 127 119 != 0
    || decide (Config.sliceBytes < field v 86 64 + field v 118 96)

/-- The reason a LAUNCH is refused at its checks, the first in the order of the codes. -/
def launchReason (s : State) (ws : List Quad) : Option Nat :=
  let a := pkWord ws 5
  let v := busRead s a 64
  let i := imageOf a v
  let part := field (pkWord ws 8) 19 16
  let mask := s.hub.cfg.parts.getD part 0
  let teams := field (pkWord ws 8) 15 0
  let bad := !readable s a 64
  if !bad && i.paired && !agreed s 3 then some 2
  else if bad || imageBad s a v false then some 3
  else if limitsBad i then some 4
  else if (placesOf mask i.paired).isEmpty || (bitAt s.hub.cfg.shared part && pkWord ws 7 == 0) then some 5
  else if s.launches.any fun l => !l.closing && (l.qmask.toNat &&& pkWord ws 9) != 0 then some 6
  else if bitAt (pkWord ws 8) 20 && decide ((freePlaces s mask i.paired 0).length < teams) then some 7
  else if !readable s (pkWord ws 11) (16 * pkWord ws 12)
      || (List.range (pkWord ws 12)).any (fun j => preloadBad (preloadAt s (pkWord ws 11) j)) then some 8
  else none

/-! ### Placement of a team (R25, R380) -/

/-- A thread as it is placed: every register zero, flags and counters clear, deadlines at DLMAX (R25). -/
def newThread (id : Ident) : Thread :=
  { id := id, pos := ⟨.ready, 0, 0, 0, none, 0, 0, none, 0⟩, v := List.replicate id.nregs 0, p := 1, dl := List.replicate 4 allOnes,
    flags := List.replicate 12 0, q := List.replicate 5 0, flt := List.replicate 5 false, fltNew := (0, [], []),
    rs := ⟨0, 0, List.replicate 8 0⟩, gst := Guest.zero, sr := Special.zero, toc := 0, esc := false, wait := none,
    hold := none, gw := none, xfer := none, acc := [], res := [], replies := [], ops := [], seen := [], pend := [],
    spec := .plain, frec := none, arr := [], spent := [], outer := [], cut := none, dbg := ⟨none, false, false, none, [], false⟩, hot := (0, 0), late := (0, []) }

/-- A thread enters its slot and stands at the entry clause, a halt under way stopping it there (R415): no gather hold is taken
there and it is no arrival, a collective bit applies (R25). -/
def placeThread (ck : Clock) (entry : Nat) (id : Ident) (k : Core) : Core :=
  let g := (tblGet k.gen id.slot 0 + 1) % 2 ^ 16
  let t := newThread { id with gen := g }
  let v := k.dbgNow.haltr
  let u := if v.getLsbD 10 && !v.getLsbD 9 && haltNames v.toNat t then haltDueIn t else t
  let x := arriveAt ck k u entry none (.dispatch none)
  { k with threads := k.threads ++ [{ x with pos := { x.pos with arr := none } }], gen := tblPut k.gen id.slot g }

/-- The threads of a kernel take slots from `base` on, in ascending TID order from `lo`. -/
def placeThreads (ck : Clock) (i : Image) (launch tmx base lo n : Nat) (sup : Bool) (k : Core) : Core :=
  (List.range n).foldl (fun k j => placeThread ck i.entry ⟨base + j, 0, sup, launch, lo + j, tmx, i.group, i.regs⟩ k) k

/-- The words of an image's code section (R333). -/
def imageCode (s : State) (i : Image) : List Quad :=
  (List.range i.coden).map fun j => BitVec.ofNat 64 (busRead s (i.addr + i.codeOff + 8 * j) 8)

/-- The preload records of a launch: source, offset, bytes. -/
def preloads (s : State) (l : Launch) : List (Nat × Nat × Nat) :=
  (List.range l.pcount).map fun j =>
    let v := preloadAt s l.plist j
    (field v 43 0, field v 86 64, field v 118 96)

/-- Steps 1 to 3: the slice is zeroed, the data image is copied, and so are the preloads up to one that cannot be read
(R380). -/
def State.fillSlice (s : State) (c : Nat) (l : Launch) : State :=
  let at_ := sliceAt c
  s.refill c [] fun s =>
    let s1 := (s.endStrays c).clearRange at_ (at_ + Config.sliceBytes)
    let s2 := s1.copyIn (l.img.addr + l.img.dataOff) (at_ + l.img.dbase) l.img.dsize
    ((preloads s l).takeWhile fun p => readable s p.1 p.2.2).foldl (fun s p => s.copyIn p.1 (at_ + p.2.1) p.2.2) s2

/-- Step 4 and the load of the code: the core as its team finds it. -/
def readyCore (s : State) (l : Launch) (tmx : Nat) (k : Core) : Core :=
  { k with team := some ⟨l.num, tmx, l.img.paired⟩, code := imageCode s l.img, threads := leftBehind k, saved := [],
           g := k.g.filter fun x => 65536 ≤ x.1, tags := [], act := false, bank0 := ActBank.zero, bank1 := ActBank.zero,
           mx := Matrix.placed s.cycle s.hub.plinth.gating, es := [], faultQ := [], faultWait := [], tlb := [],
           dbg := blockIn s.time k, dbgNow := blockIn s.time k, dbgDue := none, haltDue := false }

/-- The cores of a team that stands from core `c` on. -/
def placeCores (i : Image) (c : Nat) : List Nat := if i.paired then [c, c + 1] else [c]

/-- Steps 1 to 4 of one team. An array that an operation already accepted needs, a supervisor's or an MMAP's, wakes again
(R227). -/
def State.prepareTeam (s : State) (l : Launch) (tmx c : Nat) : State :=
  (placeCores l.img c).foldl (fun s d =>
    let s1 := (s.fillSlice d l).modCore d (readyCore s l tmx)
    if mxBusy s1 d then s1.wakeArray d else s1) s

/-- Step 5: the threads are placed, on the leader the lower half of a paired team (R23). -/
def State.seatTeam (s : State) (l : Launch) (tmx c : Nat) : State :=
  (placeCores l.img c).foldl (fun s d =>
    let lo := if d = c then 0 else perCore l.img
    (s.modCore d (placeThreads s.clock l.img l.num tmx 0 lo (perCore l.img) false)).settle d) s

/-- Every preload of the launch can be read. -/
def preloadsRead (s : State) (l : Launch) : Bool := (preloads s l).all fun p => readable s p.1 p.2.2

def State.modLaunch (s : State) (n : Nat) (f : Launch → Launch) : State :=
  { s with launches := s.launches.map fun l => if l.num = n then f l else l }

/-- Teams from `placed` on take the places named, all of a co-resident launch before any of their threads. A preload read that
fails ends the launch's placements in step 3 of the first (R380). -/
def State.placeAt (s : State) (l : Launch) (places : List Nat) : State :=
  if !preloadsRead s l then
    ((places.take 1).flatMap (placeCores l.img)).foldl (fun s d => s.fillSlice d l)
      (s.modLaunch l.num fun l => { l with preloadFail := true })
  else
    let who := (numbered places).map fun x => (l.placed + x.1, x.2)
    let s1 := who.foldl (fun s x => s.prepareTeam l x.1 x.2) s
    let s2 := who.foldl (fun s x => s.seatTeam l x.1 x.2) s1
    s2.modLaunch l.num fun l => { l with placed := l.placed + places.length }

/-! ### LAUNCH (R378, R381) -/

/-- The next launch number. -/
def nextLaunch (s : State) : Nat :=
  let used := s.launches.map (·.num)
  let from_ := s.hub.lastLaunch
  (((List.range 65535).map fun j => (from_ + j) % 65535 + 1).find? fun n => !used.contains n).getD 0

def newLaunch (s : State) (p : Packet) (num : Nat) : Launch :=
  let w := pkWord p.ws
  { num := num, img := imageOf (w 5) (busRead s (w 5) 64), root := w 6, save := w 7, teams := field (w 8) 15 0,
    part := field (w 8) 19 16, coresident := bitAt (w 8) 20, qmask := p.ws.getD 9 0, swbv := p.ws.getD 10 0,
    plist := w 11, pcount := w 12, pk := p.id, placed := 0, ended := 0, mark := s.hist.length, preloadFail := false, closing := false }

/-- LAUNCH packet `ix`: refused at its checks, or started when its first team can be placed. -/
def execLaunch (s : State) : Out :=
  .next (match startedPk s s.ix 1 with
    | none => s
    | some p =>
      match launchReason s p.ws with
      | some r => s.finishPk p.id .fault r
      | none =>
        let l := newLaunch s p (nextLaunch s)
        let places := freePlaces s (s.hub.cfg.parts.getD l.part 0) l.img.paired l.num
        if places.isEmpty then s
        else
          let s1 := { s with launches := s.launches ++ [l], hub := { s.hub with lastLaunch := l.num } }
          let s2 := s1.modPacket p.id fun p => { p with stage := .working, launch := l.num, counting := true }
          (s2.unblock p.id).placeAt l (places.take (if l.coresident then l.teams else 1)))

/-- The next team of launch `ix` takes the lowest free place of its partition (R24, R381). -/
def execTeamPlacement (s : State) : Out :=
  .next (match launchOf s s.ix with
    | none => s
    | some l =>
      let places := freePlaces s (s.hub.cfg.parts.getD l.part 0) l.img.paired l.num
      if l.closing || l.preloadFail || l.teams ≤ l.placed || places.isEmpty then s
      else s.placeAt l (places.take 1))

/-! ### The end of a team (R150, R382, R421) -/

/-- Every thread of the team has exited, and every operation they issued has completed (R150). -/
def teamOver (s : State) (c : Nat) (tm : Team) : Bool :=
  (teamCores s c).all fun d =>
    (userThreads (s.core d)).all (fun t => t.pos.st == .exited) && (s.core d).saved.isEmpty
      && s.ops.all fun o => !(o.core == d && o.launch == tm.launch && !o.sup)

/-- The core after its team: free, its fault queue empty, its trace selection over (R409). -/
def freedCore (k : Core) : Core :=
  { k with team := none, code := [], threads := leftBehind k, faultQ := [], faultWait := [],
           dbg := match k.team with | some x => endSel x.launch x.tmx k.dbg | none => k.dbg,
           mx := { k.mx with latch := none } }

/-- A retirement is made that waited for the end of teams, once all of them have ended; the PREEMPT packets that asked for it
complete (R421). -/
def State.retireLate (launch : Nat) (s : State) (r : Nat) : State :=
  if s.cores.any fun k => k.team.isSome && k.retireDue.contains r then s
  else
    let s1 := { s with cores := s.cores.map fun (k : Core) => { k with retireDue := k.retireDue.filter (· != r) } }
    (s1.hub.packets.filter fun p => p.stage == .working && pkOp p.ws == 5 && field (pkWord p.ws 5) 7 0 == r
      && field (pkWord p.ws 5) 9 8 == 1).foldl (fun s p => s.finishPk p.id .done 0) (s1.retireFree r launch)

/-- A request that found the team gone is complete, the Plinth's with the restore of the next tenant (R427), with the retirement that it asked for, and so are the retirements that
waited for the team (R420, R421). -/
def State.afterTeam (s : State) (launch c : Nat) : State :=
  let k := s.core c
  let s1 := match k.pre with
    | some p =>
      let s' := if c != p.target then s
        else if p.off then s.goOffline c launch
        else if p.kind = 1 then (s.modCore c sparedCore).logSpare c launch
        else s
      let nextTenant (l : List SavedTeam) : List SavedTeam := if ofSlice p then firstDue l else l
      (s'.modCore c fun k => { k with pre := some { p with saved := true }, savedTeams := nextTenant k.savedTeams }).closeRequest c
    | none => s
  k.retireDue.foldl (State.retireLate launch) s1

/-- The team of core `cur` ends, and its cores become free. -/
def execTeamEnd (s : State) : Out :=
  .next (match (s.core s.cur).team with
    | none => s
    | some tm =>
      if !teamOver s s.cur tm then s
      else
        let cs := teamCores s s.cur
        let s1 := cs.foldl (fun s d => (dropWakes s d tm.launch).modCore d freedCore) s
        cs.foldl (fun s d => s.afterTeam tm.launch d) (s1.modLaunch tm.launch fun l => { l with ended := l.ended + 1 }))

/-! ### The end of a launch (R260, R377, R382) -/

/-- A kick is over: KSTAT says so, and the record of an MQKICK follows (R386, R387). -/
def State.endKick (s : State) (m : Nat) (x : Kick) (st : Status) (reason : Nat) : State :=
  let sl := tblGet s.hub.maqs m MaqSlot.reset
  let s1 := { s with hub := { s.hub with
    maqs := tblPut s.hub.maqs m { sl with lastSeq := x.seq, status := statusCode st, reason := reason } } }
  match x.pk with
  | some id => s1.finishPk id st reason
  | none => s1

/-- The kicks that wait at a slot complete FAULT with MQ_SLOT (R385). -/
def State.failKicks (s : State) (m : Nat) : State :=
  match (tblGet s.hub.maqs m MaqSlot.reset).obj with
  | none => s
  | some o =>
    let s1 := o.kicks.foldl (fun s x => s.endKick m x .fault 10) s
    let sl := tblGet s1.hub.maqs m MaqSlot.reset
    { s1 with hub := { s1.hub with maqs := tblPut s1.hub.maqs m { sl with obj := some { o with kicks := [] } } } }

/-- The slot is free. -/
def State.freeMaq (s : State) (m : Nat) : State :=
  let sl := tblGet s.hub.maqs m MaqSlot.reset
  { s with hub := { s.hub with maqs := tblPut s.hub.maqs m { sl with obj := none } } }

/-- A Maquette bound to the launch is unloaded, and an MQUNLOAD that waits for it completes. -/
def State.dropMaq (s : State) (m : Nat) : State :=
  match (tblGet s.hub.maqs m MaqSlot.reset).obj with
  | none => s
  | some o =>
    let s1 := (s.failKicks m).freeMaq m
    match o.unloading with
    | some id => s1.finishPk id .done 0
    | none => s1

/-- Steps 1 to 4 of R382. -/
def State.closeLaunch (s : State) (l : Launch) : State :=
  let mine (s : State) : List Entry := s.gran.entries.filter fun x => x.launch == l.num
  let s1 := s.pruneAll (((mine s).filter (·.tiller)).map fun x => (x.die, x.ix))
  let s2 := freeConds s1 ((s1.gran.conds.filter fun c => c.launch == l.num).map (·.num))
  let s3 := (mine s2).foldl (fun s x => s.freeEntry x.die x.ix) s2
  let s4 := ((s3.hub.maqs.filter fun x => match x.2.obj with | some o => o.launch == l.num | none => false).map (·.1)).foldl
    State.dropMaq s3
  (s4.modLaunch l.num fun l => { l with closing := true }).settleGran

/-- Launch `ix`, whose teams have all ended, releases what it holds; once its posted writes have been performed it ends. -/
def execLaunchEnd (s : State) : Out :=
  .next (match launchOf s s.ix with
    | none => s
    | some l =>
      if l.ended < l.placed || !(l.preloadFail || l.placed == l.teams) then s
      else
        let s1 := if l.closing then s else s.closeLaunch l
        if s1.posted.any fun p => p.launch == l.num then s1
        else
          let rest := s1.launches.filter fun x => x.num != l.num
          let s2 := { s1 with launches := rest, hist := if rest.isEmpty then [] else s1.hist }
          s2.finishPk l.pk (if l.preloadFail then .fault else .done) (if l.preloadFail then 8 else 0))

/-! ### SUPPLACE (R350, R384) -/

/-- A supervisor image is refused: IMAGE, or LIMITS. -/
def supReason (s : State) (a : Nat) : Option Nat :=
  let v := busRead s a 64
  let i := imageOf a v
  if !readable s a 64 || imageBad s a v true then some 3
  else if i.paired || limitsBad i || decide (64 < i.team) then some 4
  else none

/-- A killed supervisor thread has an effect still to come: an access not yet committed, a table image on its way, or a word
that waits for its release. -/
def supStray (t : Thread) : Bool := t.pos.st == .exited && !(t.acc.isEmpty && t.res.isEmpty && t.pend.isEmpty)

/-- The supervisor kernel of a core is killed: each of its threads exits, and the results of their engine operations reach no
thread any more (R150, R384). -/
def State.killSup (s : State) (c : Nat) : State :=
  let s1 := ((supThreads (s.core c)).filter live).foldl (fun s t =>
    match threadAt (s.core c).threads t.id.slot with | some u => s.killThread c u | none => s) s
  { s1 with ops := s1.ops.map fun o => if o.sup && o.core == c then { o with threads := [] } else o }

/-- A new supervisor kernel takes the place of the old one on a core, and the fault block is cleared. What the old one's threads
issued and has not committed stays with them, above the slots. -/
def placeSup (s : State) (i : Image) (c : Nat) (k : Core) : Core :=
  let old := userThreads k
  let k1 : Core := { k with
    sup := some ⟨imageCode s i, i.group, i.addr + i.codeOff⟩, threads := old ++ aboveSlots old ((supThreads k).filter supStray),
    g := userG k.g, svRec := none, svOvf := 0
    issue := match k.issue with
      | some is => if is.sup then some { is with slots := [], widx := is.head.len + 1, mark := none } else some is
      | none => none }
  placeThreads s.clock i (supLaunch c) 0 Config.nUserSlots 0 i.team true k1

/-- SUPPLACE packet `ix`: it waits while the compute dies are powered down (R429). -/
def execSupplace (s : State) : Out :=
  .next (match (startedPk s s.ix 7).filter fun _ => !s.svc.computeDown with
    | none => s
    | some p =>
      match supReason s (pkWord p.ws 5) with
      | some r => s.finishPk p.id .fault r
      | none =>
        let i := imageOf (pkWord p.ws 5) (busRead s (pkWord p.ws 5) 64)
        let mask := joinWords ((p.ws.drop 6).take 4)
        let cs := (List.range Config.nCores).filter (bitAt mask)
        (cs.foldl (fun s c => ((s.killSup c).modCore c (placeSup s i c)).settle c) s).finishPk p.id .done 0)

end Sys2Proof.Machine
end

