-- ==== Sys2Proof/Machine/Maquette.lean ====
section
/-! DEFINITION. Maquettes (R255, R339, R340, R385) and kicks (R342, R343, R386, R387). -/

namespace Sys2Proof.Machine

open Sys2Proof

def maqAt (s : State) (m : Nat) : MaqSlot := tblGet s.hub.maqs m MaqSlot.reset
def State.setMaq (s : State) (m : Nat) (x : MaqSlot) : State := { s with hub := { s.hub with maqs := tblPut s.hub.maqs m x } }
def State.modObj (s : State) (m : Nat) (f : Maq → Maq) : State :=
  let x := maqAt s m
  s.setMaq m { x with obj := x.obj.map f }

/-! ### The object (R339) -/

/-- A successor value: none, a local task, or a reference passed unchanged. -/
def succOk (ntask v : Nat) : Bool := field v 31 16 != 0 || decide (v ≤ ntask)

/-- The overflow list of a descriptor lies among the object's overflow words. -/
def ovfOk (d : Desc) (ovfOff novf : Nat) : Bool :=
  d.ovfn == 0 || (decide (ovfOff ≤ d.ovf) && (d.ovf - ovfOff) % 4 == 0 && decide (d.ovf + 4 * d.ovfn ≤ ovfOff + 4 * novf))

/-- A descriptor of a Maquette of `ntask` tasks meets R242, R255 and R339, and the launch holds its queue. -/
def maqDescOk (s : State) (launch ntask ovfOff novf v : Nat) : Bool :=
  let d := descOf v
  !malformed v && d.kind != 2 && d.succ.all (succOk ntask) && ovfOk d ovfOff novf && holdsQ s launch d.queue

/-- A Maquette object in memory, as it is copied; none when it is invalid (R385). -/
def readMaq (s : State) (a launch : Nat) : Option Maq :=
  let h := busRead s a 64
  let n := field h 63 48
  let novf := field h 95 80
  let toff := field h 159 128
  let ooff := field h 191 160
  let words (j : Nat) : List Quad := (List.range 8).map fun k => BitVec.ofNat 64 (busRead s (a + toff + 64 * j + 8 * k) 8)
  let ds := (List.range n).map words
  let ovf := (List.range novf).map fun j => busRead s (a + ooff + 4 * j) 4
  if !readable s a 64 || field h 31 0 != 0x5551414D || field h 47 32 != 1 || n == 0 || decide (4096 < n)
      || field h 67 64 == 0 || field h 79 68 != 0 || field h 127 96 != 0 || field h 511 192 != 0
      || toff % 64 != 0 || ooff % 4 != 0 || !readable s (a + toff) (64 * n) || !readable s (a + ooff) (4 * novf)
      || !(ds.all fun d => maqDescOk s launch n ooff novf (joinWords d)) || !(ovf.all (succOk n)) then none
  else some ⟨launch, field h 67 64, ds, ovf, ooff, [], 0, [], none⟩

def pkSlot (ws : List Quad) : Nat := field (pkWord ws 6) 21 16

def liveLaunch (s : State) (n : Nat) : Bool := match launchOf s n with | some l => !l.closing | none => false

/-- MQLOAD packet `ix`. -/
def execMqload (s : State) : Out :=
  .next (match startedPk s s.ix 2 with
    | none => s
    | some p =>
      let m := pkSlot p.ws
      let n := field (pkWord p.ws 6) 15 0
      let s1 := s.modPacket p.id fun p => { p with launch := n }
      if (maqAt s m).obj.isSome then s1.finishPk p.id .fault 10
      else if !liveLaunch s n then s1.finishPk p.id .fault 12
      else match readMaq s (pkWord p.ws 5) n with
        | none => s1.finishPk p.id .fault 9
        | some o => (s1.setMaq m { maqAt s m with obj := some o }).finishPk p.id .done 0)

/-- The slot's last instance has ended: the unload completes. -/
def State.tryUnload (s : State) (id m : Nat) : State :=
  match (maqAt s m).obj with
  | some o => if o.live.isEmpty then (s.freeMaq m).finishPk id .done 0 else s
  | none => s

/-- MQUNLOAD packet `ix`: new kicks are refused and the waiting ones fail at once; it completes with the last instance. -/
def execMqunload (s : State) : Out :=
  .next (match packetAt s s.ix with
    | none => s
    | some p =>
      let m := pkSlot p.ws
      if pkOp p.ws != 3 then s
      else if p.stage == .started then
        (match (maqAt s m).obj with
        | none => s.finishPk p.id .fault 10
        | some o =>
          if o.unloading.isSome then s.finishPk p.id .fault 10
          else
            let s1 := (s.failKicks m).modObj m fun o => { o with unloading := some p.id }
            (s1.modPacket p.id fun p => { p with stage := .working }).tryUnload p.id m)
      else if p.stage == .working then s.tryUnload p.id m
      else s)

/-! ### Kicks (R386, R387) -/

/-- A kick takes the slot's next sequence number and enters its list, or is refused at a slot that is empty or being
unloaded. -/
def State.enterKick (s : State) (m v : Nat) (pk : Option Nat) : State :=
  let x := maqAt s m
  let k : Kick := ⟨(x.kseq + 1) % 2 ^ 32, field v 43 0, field v 63 44 != 0, pk⟩
  let s1 := s.setMaq m { x with kseq := k.seq }
  match x.obj with
  | none => s1.endKick m k .fault 10
  | some o => if o.unloading.isSome then s1.endKick m k .fault 10 else s1.modObj m fun o => { o with kicks := o.kicks ++ [k] }

def kicksFull (s : State) (m : Nat) : Bool :=
  match (maqAt s m).obj with | some o => o.unloading.isNone && decide (16 ≤ o.kicks.length) | none => false

/-- A write of KICK takes a sequence number: it enters a kick, or is dropped when the list is full or Maquettes have not been
agreed (R387, R391). -/
def State.writeKick (s : State) (m v : Nat) : State :=
  let x := maqAt s m
  let s1 := s.setMaq m { x with kickReg := BitVec.ofNat 64 (field v 43 0) }
  if 64 ≤ m then s
  else if !agreed s 2 || kicksFull s m then s1.setMaq m { maqAt s1 m with kseq := (x.kseq + 1) % 2 ^ 32, drop := true }
  else s1.enterKick m v none

def execKickWrite (sm v : Nat) (s : State) : Out := .next (s.writeKick sm v)

/-- KSTAT (R386). -/
def kstat (s : State) (m : Nat) : Nat :=
  let x := maqAt s m
  x.lastSeq % 2 ^ 32 + x.status * 2 ^ 32 + x.reason * 2 ^ 36
    + (match x.obj with | some o => o.live.length % 16 * 2 ^ 44 + o.kicks.length % 32 * 2 ^ 48 | none => 0)
    + (if x.drop then 2 ^ 53 else 0)

def State.readKstat (s : State) (m : Nat) : State :=
  if 64 ≤ m then { s with hub := { s.hub with lastRead := 0 } }
  else
    let s1 := s.setMaq m { maqAt s m with drop := false }
    { s1 with hub := { s1.hub with lastRead := BitVec.ofNat 64 (kstat s m) } }

def execKstatRead (sm : Nat) (s : State) : Out := .next (s.readKstat sm)

/-- MQKICK packet `ix` acts as a write to KICK; it waits while the list is full (R386, R387). -/
def execMqkick (s : State) : Out :=
  .next (match startedPk s s.ix 4 with
    | none => s
    | some p =>
      let m := field (pkWord p.ws 5) 5 0
      if kicksFull s m then s
      else
        let s1 := (s.modPacket p.id fun p => { p with stage := .working }).unblock p.id
        (s1.setMaq m { maqAt s1 m with kickReg := BitVec.ofNat 64 (field (pkWord p.ws 6) 43 0) }).enterKick m (pkWord p.ws 6) (some p.id))

/-! ### Patches (R342, R343) -/

/-- The entries of a patch table, none when the table cannot be read or has a reserved bit set. -/
def patchTable (s : State) (a ntask : Nat) : Option (List Nat) :=
  if a = 0 then some []
  else
    let w := busRead s a 8
    let n := field w 15 0
    let es := (List.range n).map fun j => busRead s (a + 8 + 16 * j) 16
    let bad (e : Nat) : Bool := decide (ntask ≤ field e 13 0) || field e 15 14 != 0 || field e 23 19 != 0 || field e 63 32 != 0
    if a % 16 != 0 || !readable s a 8 || field w 63 16 != 0 || decide (4096 < n) || !readable s (a + 8) (16 * n) || es.any bad then none
    else some es

/-- The bytes of a mask are replaced. -/
def maskBytes (mask old new : Nat) : Nat → Nat
  | 0 => 0
  | n + 1 => maskBytes mask old new n + (if bitAt mask n then field new (8 * n + 7) (8 * n) else field old (8 * n + 7) (8 * n)) * 2 ^ (8 * n)

def patchOne (ds : List (List Quad)) (e : Nat) : List (List Quad) :=
  ds.modify (field e 13 0) fun ws => ws.modify (field e 18 16) fun w =>
    BitVec.ofNat 64 (maskBytes (field e 31 24) w.toNat (field e 127 64) 8)

/-! ### Instances (R255, R340) -/

/-- The die of a task with AMODE 0: that of the launch's lowest-numbered core (R385). -/
def maqDie (s : State) (launch : Nat) : Nat :=
  let on (c : Nat) : Bool := (match (s.core c).team with | some tm => tm.launch == launch | none => false)
    || (s.core c).savedTeams.any fun y => y.team.launch == launch
  dieOf (((List.range Config.nCores).find? on).getD 0)

/-- Entries for every task, or none (R255). -/
def allocTasks (m cp launch die : Nat) : List Desc → State → Option (State × List Entry)
  | [], s => some (s, [])
  | d :: r, s =>
    match canPut s d die with
    | none => none
    | some (td, ix) =>
      let x := { newEntry s td ix launch d (openState d.dep) with maq := some (m, cp) }
      match allocTasks m cp launch die r (s.addEntry x) with
      | some (s1, l) => some (s1, x :: l)
      | none => none

/-- A successor value names its task's new reference. -/
def localRef (es : List Entry) (v : Nat) : Nat :=
  if v = 0 || field v 31 16 != 0 then v else ((es[v - 1]?).map fun x => (taskRef x).toNat).getD 0

/-- The instance: entries with rewritten successors, and its own overflow lists. -/
def State.instantiate (s : State) (m : Nat) (o : Maq) (ds : List Desc) : Option State :=
  match allocTasks m o.nextCopy o.launch (maqDie s o.launch) ds s with
  | none => none
  | some (s1, es) =>
    let f (x : Entry) : Entry :=
      if x.maq = some (m, o.nextCopy) then { x with desc := { x.desc with succ := x.desc.succ.map (localRef es) } } else x
    let s2 := { s1 with gran := { s1.gran with entries := s1.gran.entries.map f } }
    some (s2.modObj m fun o => { o with live := o.live ++ [(o.nextCopy, o.ovf.map (localRef es))], nextCopy := o.nextCopy + 1 })

/-- The kick at the head of Maquette slot `cur` leaves the list once the Granary can allocate the tasks' entries: refused whole,
or instantiated whole. One that is refused waits for the entries of the tasks as loaded (R387). -/
def execKickDepart (s : State) : Out :=
  .next (
    let m := s.cur
    match (maqAt s m).obj with
    | none => s
    | some o =>
      match o.kicks with
      | [] => s
      | k :: rest =>
        if o.maxLive ≤ o.live.length then s
        else
          let pop (s : State) : State := s.modObj m fun o => { o with kicks := rest }
          let room := (s.instantiate m o (o.descs.map fun d => descOf (joinWords d))).isSome
          let refuse : State := if room then (pop s).endKick m k .fault 11 else s
          if k.bad then refuse
          else match patchTable s k.ptab o.descs.length with
            | none => refuse
            | some es =>
              let ds := es.foldl patchOne o.descs
              if !(ds.all fun d => maqDescOk s o.launch o.descs.length o.ovfOff o.ovf.length (joinWords d)) then refuse
              else match s.instantiate m o (ds.map fun d => descOf (joinWords d)) with
                | none => s
                | some s1 => ((pop s1).endKick m k .done 0).settleGran)

end Sys2Proof.Machine
end

