-- ==== Sys2Proof/Machine/Fleet.lean ====
section
/-! DEFINITION. Service: soft errors (R419), the retirement of cores (R420, R421), HBM sparing (R422), Ethernet lanes
(R423), firmware hand-over (R424), telemetry and thermal limits (R428, R429). -/

namespace Sys2Proof.Machine

open Sys2Proof

/-! ### Soft errors (R417, R419) -/

def memCode : ErrMem → Nat
  | .registers => 0 | .slice => 1 | .accumulators => 2 | .instructionStore => 3 | .hbm => 4

/-- The launch that a unit's error affects: that of the core's team. -/
def unitLaunch (s : State) (unit : Nat) (m : ErrMem) : Nat :=
  if m == .hbm then 0 else ((s.core unit).team.map (·.launch)).getD 0

/-- The launch that an uncorrectable error affects: that of the operation that meets it, when one does (R417). -/
def victimLaunch (s : State) (unit : Nat) (m : ErrMem) (victim : Nat) : Nat :=
  match m with
  | .registers | .instructionStore => unitLaunch s unit m
  | .slice | .accumulators | .hbm => match opAt s victim with
    | some o => if o.sup then 0 else o.launch
    | none => unitLaunch s unit m

/-- The errors corrected in a core pass the firmware threshold (R420). -/
def pastThreshold (k : Core) : Bool := decide (Config.retireAt < k.corrected.foldl (fun n x => n + x.2) 0)

/-- The Plinth is to retire the core; an uncorrectable error weighs more than a count (R420). The front end asks it for that
decision through bit CFG of NLATCH (R394). -/
def State.wantRetire (s : State) (c : Nat) (hard : Bool) : State :=
  let w := (s.core c).retireWant
  if w.isNone || (hard && w == some false) then (s.modCore c fun k => { k with retireWant := some hard }).notify (1#64 <<< 63)
  else s

/-- A corrected error is counted; every 256th of a memory of a unit makes a KIND 1 record. -/
def State.countError (s : State) (unit : Nat) (m : ErrMem) : State :=
  let old := if m == .hbm then tblGet s.svc.hbmCorrected unit 0 else tblGet (s.core unit).corrected (memCode m) 0
  let s1 :=
    if m == .hbm then { s with svc := { s.svc with hbmCorrected := tblPut s.svc.hbmCorrected unit (old + 1) } }
    else
      let s' := s.modCore unit fun k => { k with corrected := tblPut k.corrected (memCode m) (old + 1) }
      if pastThreshold (s'.core unit) then s'.wantRetire unit false else s'
  if (old + 1) % 256 = 0 then s1.logRec 1 unit (unitLaunch s unit m) (memCode m) else s1

/-- A single-bit error in unit `unit`: corrected on the read and written back, so no value changes. -/
def execSingleBitError (unit : Nat) (m : ErrMem) (s : State) : Out := .next (s.countError unit m)

/-- The first part that waits, among those of a list. -/
def firstWaiting (ps : List Part) : Option (Nat × Part) :=
  (numbered ps).find? fun x => x.2.st == 0 && !x.2.posted && x.2.cause == .none

/-- A part of record `j` of a kick is faulted (R217, R419). -/
def State.faultRec (s : State) (o : Op) (base j : Nat) (r : KickRec) (i : Nat) (a : Part) : State :=
  let r1 : KickRec := { r with parts := setPart r.parts i 2, cause := joinCause r.cause .uncorrectable }
  let s1 := s.modOp o.id fun o => noteRec (modRec o j fun _ => r1)
  let s2 := if r1.parts.all fun a => a.st != 0 then s1.endRec o base j (recStatus r1) else s1
  s2.countBytes o.core r.bar r.tag (partBytes a) true

/-- The record that a kick has fetched could not be read: it is accepted with that cause (R217, R419). -/
def State.faultOpen (s : State) (o : Op) (j : Nat) : State :=
  s.modOp o.id fun o => modRec o j fun r => { r with cause := .uncorrectable }

/-- The first part of an operation that waits is faulted; its bytes count as not delivered. A slice word that a kick cannot read
is one of its record list while it has a record open. -/
def State.faultPart (s : State) (o : Op) (m : ErrMem) : State :=
  let s1 := match o.kind with
    | .ckick base _ recs =>
      (match (if m == ErrMem.slice then openRec recs else none) with
      | some (j, _) => s.faultOpen o j
      | none => match (numbered recs).findSome? (fun (x : Nat × KickRec) => (firstWaiting x.2.parts).map fun y => (x, y)) with
      | some ((j, r), i, a) => s.faultRec o base j r i a
      | none => s)
    | k =>
      (match firstWaiting o.parts with
      | some (i, a) =>
        let s' := s.modOp o.id fun o => { o with cause := joinCause o.cause .uncorrectable, parts := setPart o.parts i 2 }
        (match k with
        | .copy x => s'.countBytes o.core x.bar x.tag (partBytes a) true
        | .wload .. | .mma _ => s'.restArrays o
        | _ => s')
      | none => s)
  s1.finishIfOver o.id

/-- The word at issue reads the register in the thread of a slot: it traps there when it issues (R344, R345). -/
def markReg (victim : Nat) (k : Core) : Core :=
  match k.issue with
  | some is => if is.slots.contains victim then { k with regErr := victim :: k.regErr } else k
  | none => k

/-- The word that the core issues next: in its slot, else the header of the sheaf that the winnower would choose (R30, R31). -/
def nextWordOf (s : State) (c : Nat) : Option (Bool × Nat) :=
  let k := s.core c
  match k.issue with
  | some is => if !is.slots.isEmpty then some (is.sup, is.hdr + is.widx) else headerNext s c
  | none => headerNext s c
where
  headerNext (s : State) (c : Nat) : Option (Bool × Nat) :=
    ((chooseSheaf s.time s.cycle (s.core c)).head?).map fun t => (t.id.sup, t.pos.hdr)

/-- The word is fetched again from the kernel image, within 2,048 cycles (R419). -/
def State.startRefetch (s : State) (c : Nat) : State :=
  match nextWordOf s c with
  | some (sup, ix) => s.modCore c fun k => if k.refetch.isSome then k else { k with refetch := some (sup, ix, s.cycle + 2048) }
  | none => s

/-- What an uncorrectable error does: `victim` is the slot of the thread whose word reads the register, or the operation
whose engine reads the word, or 0 for a direct access to a slice. -/
def State.doubleError (s : State) (unit : Nat) (m : ErrMem) (victim : Nat) : State :=
  let op : State := match opAt s victim with | some o => s.faultPart o m | none => s
  match m with
  | .registers => (s.modCore unit (markReg victim)).wantRetire unit true
  | .slice => (if victim = 0 then s.killTeam unit else op).wantRetire unit true
  | .accumulators | .hbm => op
  | .instructionStore => s.startRefetch unit

def execDoubleBitError (unit : Nat) (m : ErrMem) (victim : Nat) (s : State) : Out :=
  .next ((s.doubleError unit m victim).logRec 2 unit (victimLaunch s unit m victim) (memCode m))

/-- The word that core `c` is about to issue fails its parity: its sheaf stalls (R419). -/
def execIfetchParityError (c : Nat) (s : State) : Out := .next (s.startRefetch c)

/-- Where word `ix` of the code of a core lies in the kernel image: its address, none beyond the image's code (R332, R333). -/
def imageWordAt (s : State) (c : Nat) (sup : Bool) (ix : Nat) : Option Nat :=
  let k := s.core c
  if (codeOf k sup).length ≤ ix then none
  else if sup then k.sup.map fun x => x.at_ + 8 * ix
  else (k.team.bind fun x => launchOf s x.launch).map fun l => l.img.addr + l.img.codeOff + 8 * ix

/-- A word of the instruction store takes the value that the image holds now. -/
def putWordAt (sup : Bool) (ix : Nat) (w : Quad) (k : Core) : Core :=
  if sup then { k with sup := k.sup.map fun x => { x with code := x.code.set ix w } } else { k with code := k.code.set ix w }

/-- The word has been fetched again from the kernel image; or the image read has failed, and the team ends (R419). -/
def execIfetchRefetchComplete (c : Nat) (ok : Bool) (s : State) : Out :=
  .next (match (s.core c).refetch with
    | none => s
    | some (sup, ix, _) =>
      let s1 := s.modCore c fun k => { k with refetch := none }
      match imageWordAt s c sup ix with
      | none => s1.countError c .instructionStore
      | some a =>
        if ok && readable s a 8 then
          (s1.modCore c (putWordAt sup ix (BitVec.ofNat 64 (busRead s a 8)))).countError c .instructionStore
        else (s1.killTeam c).logRec 2 c (unitLaunch s c .instructionStore) 3)

/-! ### Retirement (R420, R421) -/

/-- The Plinth retires core `c`, on an uncorrectable error when `hard`, once the core's errors ask for it. -/
def execCoreRetirement (c : Nat) (hard : Bool) (s : State) : Out :=
  .next (
    let k := s.core c
    if k.retireWant != some hard || k.offline then s
    else match k.team with
      | none => if k.pre.isSome then s else s.retireFree c 0
      | some _ =>
        let cs := widen s c
        let s1 := s.modCore c fun k => { k with retireWant := none }
        if !canSave s c then
          let s2 := s1.deferRetire c
          (if hard then cs.foldl State.killTeam s2 else s2)
        else if noRequest s cs then s1.retireOr c 1 s.hub.plinth.grace none
        else s)

/-! ### HBM sparing (R422): no value of memory changes -/

def execHbmRowSpare (stack chan bank row : Nat) (s : State) : Out :=
  .next (
    let used := s.svc.rowSpares.filter fun x => x.1 == stack && x.2.1 == chan && x.2.2.1 == bank
    if 4 ≤ used.length || used.any fun x => x.2.2.2 == row then s
    else
      { s with svc := { s.svc with rowSpares := s.svc.rowSpares ++ [(stack, chan, bank, row)] } }.logRec 5 (stack * 32 + chan) 0
        (bank % 2 ^ 8 + row % 2 ^ 32 * 2 ^ 8))

/-- A channel passes its threshold: the stack's spare takes its place; a further one stays in use, and reads of its pages fail
until the driver has moved them. -/
def execHbmChannelSpare (stack chan : Nat) (s : State) : Out :=
  .next (
    if (s.svc.chanSpare.any fun x => x.1 == stack) || 8 ≤ stack || 32 ≤ chan then
      (if 8 ≤ stack || 32 ≤ chan || tblGet s.svc.chanSpare stack 32 = chan || s.svc.badChans.contains (stack, chan) then s
      else { s with svc := { s.svc with badChans := s.svc.badChans ++ [(stack, chan)] } })
    else { s with svc := { s.svc with chanSpare := tblPut s.svc.chanSpare stack chan } }.logRec 6 (stack * 32 + chan) 0 0)

/-! ### Ethernet lanes (R423) -/

def maxLanes (s : State) : Nat := if portsSplit s then 2 else 4
/-- The lanes that a port or a half of one runs on: a half of a split port on no more than 2, whatever the whole port was restored
to (R423). -/
def lanesOf (s : State) (port half : Nat) : Nat := min (tblGet s.svc.lanes (2 * port + half) (maxLanes s)) (maxLanes s)

/-- Ten milliseconds, the time within which a port has retrained. -/
def retrainTicks : Nat := 12000000

/-- Port `p` half `h` exists: two ports, whose halves are ports of their own when they are split. -/
def portExists (s : State) (port half : Nat) : Bool := decide (port < 2) && (half == 0 || (half == 1 && portsSplit s))

/-- Some port is up. -/
def anyPortUp (s : State) : Bool :=
  [(0, 0), (0, 1), (1, 0), (1, 1)].any fun x => portExists s x.1 x.2 && !linkDown s (2 * x.1 + x.2)

/-- Without any port the TIME master holds the clock for a second. -/
def watchPorts (s : State) : State :=
  if anyPortUp s then { s with svc := { s.svc with holdover := none } }
  else if s.svc.holdover.isSome then s
  else { s with svc := { s.svc with holdover := some (s.time + 1200000000) } }

def execLaneFailure (port half : Nat) (s : State) : Out :=
  .next (
    let n := lanesOf s port half
    let key := 2 * port + half
    if !portExists s port half || n ≤ 1 then s
    else
      let s1 := { s with svc := { s.svc with
        lanes := tblPut s.svc.lanes key (n / 2), retrain := tblPut s.svc.retrain key (s.time + retrainTicks) } }
      watchPorts (s1.logRec 7 key 0 (n / 2)))

/-- Port `cur` half `sub` is up again. -/
def execPortRetrainComplete (s : State) : Out :=
  .next (
    let key := 2 * s.cur + s.sub
    if tblGet s.svc.retrain key 0 = 0 then s
    else watchPorts { s with svc := { s.svc with retrain := tblPut s.svc.retrain key 0 } })

/-- The Plinth has found lanes good again: the port half takes a greater one of its widths. -/
def execLaneRestore (port half lanes : Nat) (s : State) : Out :=
  .next (
    let key := 2 * port + half
    if !portExists s port half || lanes ≤ lanesOf s port half || maxLanes s < lanes || (lanes != 2 && lanes != 4) then s
    else { s with svc := { s.svc with lanes := tblPut s.svc.lanes key lanes } }.logRec 8 key 0 lanes)

/-! ### Firmware (R424) -/

def Service.inactive (v : Service) : FwImage := if v.fwActive then v.fwA else v.fwB
def Service.staged (v : Service) : BitVec 256 := if v.fwActive then v.fwMeasA else v.fwMeasB

/-- The inactive slot takes an image and its measurement. -/
def Service.stage (v : Service) (img : FwImage) (meas : BitVec 256) (st : Nat) : Service :=
  if v.fwActive then { v with fwA := img, fwMeasA := meas, fwState := st } else { v with fwB := img, fwMeasB := meas, fwState := st }

def execFwLoad (img : FwImage) (s : State) : Out :=
  .next (if s.svc.fwState != 0 then s
    else { s with svc := s.svc.stage img (Config.sm3 img.bytes) 1 }.logRec 9 0 0 img.seq)

/-- An abort clears the inactive slot. -/
def State.abortFw (s : State) : State :=
  { s with svc := s.svc.stage FwImage.empty 0 0 }.logRec 11 0 0 s.svc.inactive.seq

def execFwVerify (s : State) : Out :=
  .next (
    let i := s.svc.inactive
    if s.svc.fwState != 1 then s
    else if Config.sm2Checks s.svc.staged i.sig && decide (s.svc.fwRollback ≤ i.seq) then
      { s with svc := { s.svc with fwState := 2 } }
    else s.abortFw)

/-- The shadow context starts from the parameters in force. -/
def execFwShadowStart (s : State) : Out :=
  .next (if s.svc.fwState != 2 then s else { s with svc := { s.svc with fwState := 3, shadow := s.hub.plinth } })

def execFwCommit (s : State) : Out :=
  .next (
    if s.svc.fwState != 3 then s
    else
      let seq := s.svc.inactive.seq
      let s1 := { s with
        hub := { s.hub with plinth := s.svc.shadow }
        svc := { s.svc with fwState := 0, fwActive := !s.svc.fwActive, fwRollback := max s.svc.fwRollback seq } }
      ((startSlices s1).logRec 10 0 0 seq).settleGran)

/-- The new image gives up, which only a hand-over in SHADOW can. -/
def execFwAbort (s : State) : Out := .next (if s.svc.fwState = 3 then s.abortFw else s)

/-! ### Telemetry and limits (R428, R429) -/

def telemInterval : Nat := 1200000

def telemBits (x : TelemInput) (clk : Nat) : BitVec 128 :=
  let tj := (List.range 4).foldl (fun n j => n + x.tj.getD j 0 % 2 ^ 8 * 2 ^ (8 * j)) 0
  BitVec.ofNat 128 (x.pwr % 2 ^ 16 + x.tin % 2 ^ 8 * 2 ^ 16 + x.flow % 2 ^ 8 * 2 ^ 24 + tj * 2 ^ 32 + clk % 2 ^ 16 * 2 ^ 64)

def anyTj (x : TelemInput) (n : Nat) : Bool := x.tj.any fun t => decide (n ≤ t)

/-- The clock takes a new value, with a record of a fall. -/
def State.setClock (s : State) (clk : Nat) (kind : Option Nat) : State :=
  let s1 := { s with svc := { s.svc with clk := clk } }
  match kind with
  | some k => if clk = s.svc.clk then s1 else s1.logRec k 0 0 clk
  | none => s1

/-- The step of the clock that the first limit that applies makes. -/
def clockStep (s : State) (x : TelemInput) (hot : Bool) : State :=
  let down := max 300 (s.svc.clk - 50)
  if hot then s.setClock down (some 12)
  else if s.hub.plinth.powerCap < x.pwr then s.setClock down (some 13)
  else s.setClock (min 1200 (s.svc.clk + 50)) none

/-- The flow has been below 0.5 L/min since when. -/
def lowFlow (s : State) (x : TelemInput) : Option Nat :=
  if x.flow < 5 then some (s.svc.lowFlowSince.getD s.time) else none

/-- The flow has stayed below 0.5 L/min for a second. -/
def starved (s : State) (x : TelemInput) : Bool :=
  decide (x.flow < 5) && match s.svc.lowFlowSince with | some t => decide (t + 1200000000 ≤ s.time) | none => false

/-- The compute dies are powered down: launch state is lost; the hub, the notify latch and the log stay up. -/
def State.powerDown (s : State) : State :=
  { s with
    cores := s.cores.map fun (k : Core) => { Core.reset with dbg := blockIn s.time k, dbgNow := blockIn s.time k, offline := k.offline }
    ops := [], posted := [], barPost := [], colls := [], joins := [], skips := [], free := [], gran := Granary.reset,
    launches := [], hist := [], svc := { s.svc with computeDown := true } }

/-- An interval's readings are judged, and the first limit that applies acts (R429). -/
def execTelemInterval (x : TelemInput) (s : State) : Out :=
  .next (
    if s.time < s.svc.nextTelem then s
    else
      let hot := anyTj x 100 || (s.svc.hot && anyTj x 95)
      let s0 := { s with svc := { s.svc with hot := hot, lowFlowSince := lowFlow s x } }
      let s1 := if anyTj x 110 || starved s x then s0.powerDown else clockStep s0 x hot
      { s1 with svc := { s1.svc with telem := telemBits x s1.svc.clk, nextTelem := s.svc.nextTelem + telemInterval } })

/-- A limit of the first row is met between intervals. -/
def execThermalShutdown (x : TelemInput) (s : State) : Out :=
  .next (if anyTj x 110 || starved s x then s.powerDown else s)

end Sys2Proof.Machine
end

