-- ==== Sys2Proof/Machine/Registers.lean ====
section
/-! DEFINITION. The hub's registers as software reads and writes them (R366), the debug blocks (R397, R398), the
supervisor fault blocks (R384), and the accesses of system cores to memory (R407). -/

namespace Sys2Proof.Machine

open Sys2Proof

/-! ### Halts (R397 to R399, R404) -/

/-- Every thread that HALTR names is parked or has exited, or has parked at its boundary (R398, R404). -/
def haltOver (k : Core) (v : Nat) : Bool :=
  k.threads.all fun t => !haltNames v t || t.pos.st == .exited || t.pos.st == .saved
    || if bitAt v 9 then !t.dbg.tb else t.pos.st == .parked

/-- Hardware clears GO once the halt is complete; written while no user team is on the core, it waits for the next (R415). -/
def clearHalt (k : Core) : Core :=
  if k.dbgNow.haltr.getLsbD 10 && k.dbgDue.isNone && k.team.isSome && haltOver k k.dbgNow.haltr.toNat then
    let go (b : DbgBlock) : DbgBlock := { b with haltr := b.haltr &&& ~~~(1#32 <<< 10) }
    { k with dbg := go k.dbg, dbgNow := go k.dbgNow }
  else k

/-- A write to the debug block: it comes into force at the core's next clause issue, 256 cycles on at the latest (R398). -/
def dbgWritten (cyc : Nat) (k : Core) (b : DbgBlock) : Core :=
  { k with dbg := b, dbgDue := some (k.dbgDue.getD (cyc + 256)) }

/-- The word of HALTR and STEP is written. -/
def State.writeHaltr (s : State) (c v : Nat) : State :=
  if Config.nCores ≤ c then s
  else s.modCore c fun k =>
    { dbgWritten s.cycle k { k.dbg with haltr := BitVec.ofNat 32 (field v 10 0), step := BitVec.ofNat 32 (field v 40 32) } with
      haltDue := bitAt v 10 }

/-- A write with GO of core `c`'s word at offset 0 of its debug block, which holds HALTR and STEP. -/
def execHaltrGo (c v : Nat) (s : State) : Out := .next (s.writeHaltr c v)

def readInto (s : State) (v : Nat) : State := { s with hub := { s.hub with lastRead := BitVec.ofNat 64 v } }

/-- A read of TRDROP, which clears it. -/
def execTrdropRead (c : Nat) (s : State) : Out :=
  .next (readInto (s.modCore c fun k => { k with dbg := { k.dbg with trdrop := 0 } }) (s.core c).dbg.trdrop)

/-! ### The debug block (R397) -/

/-- A value of several 64-bit words with word `j` replaced. -/
def putWord (old j v : Nat) : Nat := old - old / 2 ^ (64 * j) % 2 ^ 64 * 2 ^ (64 * j) + v % 2 ^ 64 * 2 ^ (64 * j)

def wordOf (x j : Nat) : Nat := x / 2 ^ (64 * j) % 2 ^ 64

def ibpMask (v : Nat) : Reg := BitVec.ofNat 32 v &&& 0x5FFFFFFF#32

/-- A write of one word of a debug block, HALTR's and the read-only ones apart. -/
def writeDbg (b : DbgBlock) (off v : Nat) : DbgBlock :=
  let q (n : Nat) : Quad := BitVec.ofNat 64 n
  if off = 0x008 then { b with tstopq := q v }
  else if off = 0x010 then { b with trcfg := q v &&& 0x0000FFFF0003FFFF#64, sel := none }
  else if off = 0x018 then
    let l := field v 48 44
    { b with trbase := q (field v 43 0 + (if 12 ≤ l && l ≤ 28 then l else 12) * 2 ^ 44) }
  else if off = 0x020 then { b with trrd := field v 63 32 }
  else if 0x040 ≤ off && off < 0x060 then
    let n := (off - 0x040) / 4
    { b with ibp := (b.ibp.set n (ibpMask v)).set (n + 1) (ibpMask (v / 2 ^ 32)) }
  else if 0x060 ≤ off && off < 0x080 then { b with wp := b.wp.set ((off - 0x060) / 8) (q v &&& 0x0003FFFFFFFFFFFF#64) }
  else b

def readDbg (b : DbgBlock) (off : Nat) : Nat :=
  let pair (x y : Nat) : Nat := x % 2 ^ 32 + y % 2 ^ 32 * 2 ^ 32
  if off = 0 then pair b.haltr.toNat b.step.toNat
  else if off = 0x008 then b.tstopq.toNat
  else if off = 0x010 then b.trcfg.toNat
  else if off = 0x018 then b.trbase.toNat
  else if off = 0x020 then pair b.trptr b.trrd
  else if off = 0x028 then b.trdrop
  else if 0x040 ≤ off && off < 0x060 then
    let n := (off - 0x040) / 4
    pair (b.ibp.getD n 0).toNat (b.ibp.getD (n + 1) 0).toNat
  else if 0x060 ≤ off && off < 0x080 then (b.wp.getD ((off - 0x060) / 8) 0).toNat
  else 0

/-! ### Supervisor fault blocks (R384) -/

/-- The control word: VALID, SLOT, OVF. -/
def svControl (k : Core) : Nat :=
  (match k.svRec with | some r => 1 + (r.slot - Config.nUserSlots) % 2 ^ 11 * 2 | none => 0) + k.svOvf % 2 ^ 8 * 2 ^ 16

/-- A read of the control word of core `c`, which clears OVF. -/
def execSvfaultCtlRead (c : Nat) (s : State) : Out :=
  .next (readInto (s.modCore c fun k => { k with svOvf := 0 }) (svControl (s.core c)))

/-! ### Every other register (R366) -/

/-- A write of a command queue's register (R367). -/
def State.writeQueue (s : State) (q r v : Nat) : State :=
  let x := queueAt s q
  if r = 0 then (if x.en then s else s.setQueue q { x with base := field v 43 0 })
  else if r = 8 then
    let n := field v 4 0
    s.setQueue q { x with
      log2n := if x.en then x.log2n else if 4 ≤ n && n ≤ 16 then n else 4
      en := bitAt v 8, err := x.err && (!bitAt v 9 || x.errAt == some s.time) }
  else if r = 0x10 then s.writeTail q v
  else s

def readQueue (s : State) (q r : Nat) : Nat :=
  let x := queueAt s q
  if r = 0 then x.base
  else if r = 8 then x.log2n + (if x.en then 2 ^ 8 else 0) + (if x.err then 2 ^ 9 else 0)
  else if r = 0x10 then x.tail else if r = 0x18 then x.head else if r = 0x20 then x.done else 0

/-- FREQ, the only writable word among the features; GO of FCTL (R390). -/
def State.writeFeature (s : State) (off v : Nat) : State :=
  if 0x40 ≤ off && off < 0x60 then { s with hub := { s.hub with freq := putWord s.hub.freq ((off - 0x40) / 8) v } }
  else if off = 0x80 then s.writeFctl v
  else s

def readFeature (s : State) (off : Nat) : Nat :=
  if off = 0 then 0x0001010101010101
  else if 0x20 ≤ off && off < 0x40 then wordOf (offer s) ((off - 0x20) / 8)
  else if 0x40 ≤ off && off < 0x60 then wordOf s.hub.freq ((off - 0x40) / 8)
  else if 0x60 ≤ off && off < 0x80 then wordOf s.hub.fagr ((off - 0x60) / 8)
  else 0

/-- SVROOT, the shootdown registers, the pager's registers (R363 to R365, R405). -/
def State.writePaging (s : State) (off v : Nat) : State :=
  let h := s.hub
  let q (n : Nat) : Quad := BitVec.ofNat 64 n
  if off = 0 then { s with hub := { h with svroot := q (field v 43 0) } }
  else if off = 0x10 then { s with hub := { h with shootAddr := q v } }
  else if off = 0x18 then s.writeShoot v
  else if 0x100 ≤ off && off < 0x120 then s.writePager ((off - 0x100) / 8) v
  else if 0x200 ≤ off && off < 0x220 then { s with hub := { h with prbase := tblPut h.prbase ((off - 0x200) / 8) (field v 43 0) } }
  else if 0x280 ≤ off && off < 0x2A0 then { s with hub := { h with prhead := tblPut h.prhead ((off - 0x280) / 8) (field v 31 0) } }
  else s

def readPaging (s : State) (off : Nat) : Nat :=
  let h := s.hub
  if off = 0 then h.svroot.toNat
  else if off = 0x10 then h.shootAddr.toNat
  else if off = 0x18 then h.shootLaunch + h.shootCount * 2 ^ 16 + (if h.shootDone then 2 ^ 62 else 0)
  else if 0x200 ≤ off && off < 0x220 then tblGet h.prbase ((off - 0x200) / 8) 0
  else if 0x240 ≤ off && off < 0x260 then tblGet h.prtail ((off - 0x240) / 8) 0
  else if 0x280 ≤ off && off < 0x2A0 then tblGet h.prhead ((off - 0x280) / 8) 0
  else 0

/-- The service log, attestation and telemetry (R417, R418, R425). -/
def State.writeService (s : State) (off v : Nat) : State :=
  let x := s.svc
  if off = 0 then { s with svc := { x with slbase := field v 43 0 } }
  else if off = 0x10 then { s with svc := { x with slrd := field v 31 0 } }
  else if 0x40 ≤ off && off < 0x60 then
    { s with svc := { x with attnonce := BitVec.ofNat 256 (putWord x.attnonce.toNat ((off - 0x40) / 8) v) } }
  else if off = 0x60 then s.writeAttreq v
  else s

def readService (s : State) (off : Nat) : Nat :=
  let x := s.svc
  if off = 0 then x.slbase
  else if off = 0x08 then x.slptr
  else if off = 0x10 then x.slrd
  else if off = 0x20 then (if x.fwActive then 1 else 0) + x.fwState * 2
  else if 0x40 ≤ off && off < 0x60 then wordOf x.attnonce.toNat ((off - 0x40) / 8)
  else if off = 0x60 then x.attreq.toNat
  else if 0x80 ≤ off && off < 0x90 then wordOf x.telem.toNat ((off - 0x80) / 8)
  else if off = 0xA0 then s.hub.timeoff.toNat
  else if off = 0xA8 then (if s.hub.locked then 1 else 0) + (if s.hub.offsetSet then 2 else 0)
  else 0

/-- What word `j` of a window register holds of a write (R395): a reserved field takes none of it, and so reads as zero (R11). -/
def windowWord (j v : Nat) : Nat :=
  if j = 0 then field v 3 0 else if j = 1 then v else if j = 2 then field v 11 0 + 2 ^ 32 * field v 63 32 else 0

/-- A write of the 8-byte word at an offset of the hub register space. -/
def State.writeHub (s : State) (off v : Nat) : State :=
  if off % 8 ≠ 0 then s
  else if off < 0x1000 then s.writeFeature off v
  else if off < 0x5000 then s.writeQueue ((off - 0x1000) / 0x40) (off % 0x40) v
  else if 0x10000 ≤ off && off < 0x20000 then s.writeMbox ((off - 0x10000) / 0x10) (off % 0x10 == 8) v
  else if 0x20000 ≤ off && off < 0x20400 then (if off % 0x10 = 0 then s.writeKick ((off - 0x20000) / 0x10) v else s)
  else if 0x40000 ≤ off && off < 0x50000 then s.writePaging (off - 0x40000) v
  else if 0x50000 ≤ off && off < 0x60000 then s.writeService (off - 0x50000) v
  else if off = 0x60000 then s.notify (BitVec.ofNat 64 v)
  else if 0x70000 ≤ off && off < 0x90000 then
    let w := (off - 0x70000) / 0x20
    let j := off % 0x20 / 8
    let x := BitVec.ofNat 256 (putWord (tblGet s.hub.windows w 0).toNat j (windowWord j v))
    { s with hub := { s.hub with windows := tblPut s.hub.windows w x } }
  else if 0x100000 ≤ off && off < 0x120000 then
    let c := (off - 0x100000) / 0x200
    if off % 0x200 = 0 then s.writeHaltr c v else s.modCore c fun k => dbgWritten s.cycle k (writeDbg k.dbg (off % 0x200) v)
  else s

/-- What a read of the 8-byte word at an offset of the hub register space returns. -/
def readHub (s : State) (off : Nat) : Nat :=
  if off % 8 ≠ 0 then 0
  else if off < 0x1000 then readFeature s off
  else if off < 0x5000 then readQueue s ((off - 0x1000) / 0x40) (off % 0x40)
  else if 0x10000 ≤ off && off < 0x20000 then
    let x := mboxAt s ((off - 0x10000) / 0x10)
    if off % 0x10 = 0 then x.val.toNat else if x.full then 1 else 0
  else if 0x20000 ≤ off && off < 0x20400 then
    let m := (off - 0x20000) / 0x10
    if off % 0x10 = 0 then (maqAt s m).kickReg.toNat else kstat s m
  else if 0x30000 ≤ off && off < 0x34000 then
    let k := s.core ((off - 0x30000) / 0x40)
    let r := off % 0x40
    if r < 0x20 then wordOf ((k.svRec.map recBits).getD 0) (r / 8) else if r = 0x20 then svControl k else 0
  else if 0x40000 ≤ off && off < 0x50000 then readPaging s (off - 0x40000)
  else if 0x50000 ≤ off && off < 0x60000 then readService s (off - 0x50000)
  else if 0x70000 ≤ off && off < 0x90000 then wordOf (tblGet s.hub.windows ((off - 0x70000) / 0x20) 0).toNat (off % 0x20 / 8)
  else if 0x100000 ≤ off && off < 0x120000 then readDbg (s.core ((off - 0x100000) / 0x200)).dbg (off % 0x200)
  else 0

/-- A write of a hub register. -/
def execRegisterWrite (off v : Nat) (s : State) : Out := .next (s.writeHub off v)

/-! ### System cores (R366, R407) -/

def hubBase : Nat := 0x10000000000

/-- A read of a hub register by a system core, with what the read clears. -/
def State.readHubReg (s : State) (off : Nat) : State :=
  let s1 :=
    if 0x20000 ≤ off && off < 0x20400 && off % 0x10 = 8 then s.readKstat ((off - 0x20000) / 0x10)
    else if 0x30000 ≤ off && off < 0x34000 && off % 0x40 = 0x20 then
      s.modCore ((off - 0x30000) / 0x40) fun k => { k with svOvf := 0 }
    else if 0x100000 ≤ off && off < 0x120000 && off % 0x200 = 0x28 then
      s.modCore ((off - 0x100000) / 0x200) fun k => { k with dbg := { k.dbg with trdrop := 0 } }
    else s
  readInto s1 (readHub s off)

/-- Where the peer table stands for system cores: one word an entry, beyond the map of R54 (log entry 69). -/
def peerBase : Nat := 0x100000000000

/-- An entry of the peer table is written (R383): the device in bits 15:0, the connection in bits 31:16, valid with bit 63. -/
def State.writePeer (s : State) (i v : Nat) : State :=
  let ps := if bitAt v 63 then tblPut s.hub.peers i (field v 15 0, field v 31 16) else s.hub.peers.filter fun x => x.1 != i
  { s with hub := { s.hub with peers := ps } }

def readPeer (s : State) (i : Nat) : Nat :=
  match s.hub.peers.find? fun x => x.1 == i with
  | some x => x.2.1 + x.2.2 * 2 ^ 16 + 2 ^ 63
  | none => 0

/-- A load or a store of a system core at its commit point: in the hub register space and in the peer table one aligned word,
elsewhere the bytes of memory, in the aperture those that its window names, which it writes where WR = 1 (R395). A hole stores
nothing, and what it reads as is free (log entry 5). -/
def State.systemAccess (s : State) (store : Bool) (a n v : Nat) : State :=
  if hubBase ≤ a && a < hubBase + 2 ^ 24 then
    (if n ≠ 8 || a % 8 ≠ 0 then s else if store then s.writeHub (a - hubBase) v else s.readHubReg (a - hubBase))
  else if peerBase ≤ a && a < peerBase + 8 * 4096 then
    (if n ≠ 8 || a % 8 ≠ 0 then s else if store then s.writePeer ((a - peerBase) / 8) v
    else readInto s (readPeer s ((a - peerBase) / 8)))
  else if !readable s a n then (if store then s else { readInto s (Config.freePick s.freeCtr) with freeCtr := s.freeCtr + 1 })
  else if store then (if mayWrite s a n then ((s.storeN (busAt s a) n v).inertWaits a).settleWaits else s)
  else readInto s (memRead s.mem (busAt s a) n)

def execSystemCoreMemoryAccess (store : Bool) (addr size v : Nat) (s : State) : Out :=
  .next (s.systemAccess store addr size v)

end Sys2Proof.Machine
end

