-- ==== Sys2Proof/Machine/Task.lean ====
section
/-! DEFINITION. The Granary's words: TASK.TAKE, TASK.PUT, TASK.DONE, TASK.DEP, TASK.COORD, TASK.WAITF, SPAWN, COND.NEW,
COND.SET and LIKE (R245 to R264), and the end of an affinity window (R247). -/

namespace Sys2Proof.Machine

open Sys2Proof

/-! ### Taking -/

/-- A mask that names none of the launch's queues gives ABSENT; else the taker waits, and is served when it can be (R246). -/
def taskTakeWord (f : Full) (e : Env) (t : Thread) (s : State) : State :=
  let mask := readG e.k t f.b.toNat &&& qmaskOf s t.id.launch
  if mask = 0 then s.endWordAt e t (.ok (statusNow e t f.d.toNat .absent))
  else (s.endWordAt e t (.ok (waitWord e t (.take mask) .task f.dsel f.d.toNat))).settleGran
def execTaskTake (f : Full) (s : State) : Out :=
  .next (settleWord (wordFold (.taskTake f) (taskTakeWord f) s))

/-! ### Putting and spawning -/

/-- The eight loads of a descriptor (R245). -/
def descLoads (e : Env) (phys : Nat) (path : Path) : List Access :=
  (List.range 8).map fun j => ⟨accId e j, path, .desc j, phys + 8 * j, 8, e.ck.cyc, false, false, none, 0, []⟩

/-- A word that reads a descriptor at Va: its loads enter their path queue, and the thread waits. A detached thread's word
allocates nothing (R262), and a tiller's TASK.PUT suspends while its commit queue is full (R261, R278). -/
def descWord (f : Full) (x : Option SpawnArg) (e : Env) (t : Thread) (s : State) : State :=
  let a := readV t f.a.toNat
  match checkAcc e t a 64 8 true false with
  | .trap c code => s.endWordAt e t (.trap c code (addrArg a))
  | .at_ p w =>
    if isDetached t then s.endWordAt e t (.ok (statusNow e t f.d.toNat .withdrawn))
    else if x.isNone && runsTiller t && decide (Config.nCommit < commitUsed s e.c + 1) then suspendAt e t s
    else
      let u := { t with acc := t.acc ++ descLoads e p w }
      (s.endWordAt e t (.ok (waitWord e u (.desc x (List.replicate 8 0) (t.acc.map (·.id)) (seenPosts e.s t)) .task f.dsel f.d.toNat)))
def execTaskPut (f : Full) (s : State) : Out := .next (settleWord (wordFold (.taskPut f) (descWord f none) s))

/-- The spawn block: the condition reference, then P, SIDE and SITE (R257). -/
def spawnArg (f : Full) (t : Thread) : SpawnArg :=
  let v := (readV t (f.b.toNat + 1)).toNat
  ⟨(readV t f.b.toNat).toNat, field v 7 0, bitAt v 8, field v 20 9, opxB f 0, opxB f 1, field v 31 21 != 0⟩

def spawnWord (f : Full) (e : Env) (t : Thread) (s : State) : State := descWord f (some (spawnArg f t)) e t s
def execSpawn (f : Full) (s : State) : Out := .next (settleWord (wordFold (.spawn f) (spawnWord f) s))

/-! ### Finishing, counting, handing out -/

/-- A release form: it waits in its thread until R253 lets it act. -/
def pendWord (f : Full) (act : GAct) (e : Env) (t : Thread) (s : State) : State :=
  let fl := flagOf e.is f.fsel
  let u := addFlag { t with pend := t.pend ++ [⟨act, fl, t.acc.map (·.id), seenPosts e.s t, e.ck.cyc⟩] } fl
  (s.endWordAt e t (.ok u)).settleGran

/-- A reply that needs no release: it acts now, and its registers are due after the latency. -/
def replyNow (f : Full) (lat : Nat) (regs : List (Nat × Reg)) (e : Env) (t : Thread) (s : State) : State :=
  s.endWordAt e t (.ok (lateResult e t f.fsel lat regs 0))

/-- A reply with a status, which counts for R44. -/
def replyStatus (f : Full) (lat : Nat) (st : Status) (more : List (Nat × Reg)) (e : Env) (t : Thread) (s : State) : State :=
  s.endWordAt e t (.ok (lateStatus e t f.fsel lat f.d.toNat st more))

/-- An instruction that a tiller's thread holds until its commit (R263), and a detached one's (R262). -/
def heldWord (f : Full) (act : GAct) (lat : Nat) (plain : Env → Thread → State → State) (e : Env) (t : Thread) (s : State) : State :=
  if isDetached t then replyStatus f lat .withdrawn [] e t s
  else if runsTiller t then
    holdOrSuspend e t (lateStatus e t f.fsel Config.latHeld f.d.toNat .done []) (heldFor anyWord t)
      [.act act (16 * e.ck.cyc)] s
  else plain e t s

def taskDoneWord (f : Full) (e : Env) (t : Thread) (s : State) : State :=
  pendWord f (.done (readV t f.a.toNat).toNat f.d.toNat) e t s
def execTaskDone (f : Full) (s : State) : Out := .next (wordFold (.taskDone f) (taskDoneWord f) s)

def taskDepWord (f : Full) (e : Env) (t : Thread) (s : State) : State :=
  let act : GAct := .dep (readV t f.a.toNat).toNat (intOf .s32 (readB32 e t f).toNat) f.d.toNat
  heldWord f act (granLat e.c act) (pendWord f act) e t s
def execTaskDep (f : Full) (s : State) : Out := .next (wordFold (.taskDep f) (taskDepWord f) s)

/-- Tuple `i` of an index space (R251). -/
def coordRegs (d : Desc) (reg i : Nat) : List (Nat × Reg) :=
  [(reg + 1, regOf (i % d.ext0)), (reg + 2, regOf (i / d.ext0 % extent1 d)), (reg + 3, regOf (i / (d.ext0 * extent1 d)))]

/-- One tuple is handed out: the entry is no longer eligible once the last one is. -/
def dispense (x : Entry) : Entry :=
  let y := { x with next := x.next + 1 }
  if exhausted y then { y with st := .running } else y

def taskCoordWord (f : Full) (e : Env) (t : Thread) (s : State) : State :=
  let r := (readV t f.a.toNat).toNat
  let d := f.d.toNat
  let lat := granLat e.c (.done r d)
  match viewRef s r with
  | .stale => replyStatus f lat .stale [] e t s
  | .none => replyStatus f lat .absent [] e t s
  | .entry x =>
    if x.desc.kind ≠ 1 || !x.holders.contains (holderOf e.c t) then replyStatus f lat .absent [] e t s
    else if exhausted x then replyStatus f lat .done [] e t s
    else replyStatus f lat .partialDone (coordRegs x.desc d x.next) e t (s.modEntry x.die x.ix dispense)
def execTaskCoord (f : Full) (s : State) : Out := .next (wordFold (.taskCoord f) (taskCoordWord f) s)

/-! ### TASK.WAITF (R252, R361) -/

/-- A wait on a future that lends the thread's slot when a wake record is free on the die. -/
def taskWaitfWord (f : Full) (e : Env) (t : Thread) (s : State) : State :=
  let h := readPair t f.a.toNat
  let u := settleThread { s with cycle := e.ck.cyc } e.c (waitWord e t (.future h false true) .task f.dsel f.d.toNat)
  let s1 := s.endWordAt e t (.ok u)
  if u.wait.isNone || t.id.sup || wakeFree s (dieOf e.c) = 0 then s1
  else
    let w : Wake := ⟨dieOf e.c, e.c, t.id.launch, t.id.tid, none⟩
    ({ s1 with gran := { s1.gran with wakes := s1.gran.wakes ++ [w] } }).lend e.c
def execTaskWaitf (f : Full) (s : State) : Out :=
  .next (settleWord (wordFold (.taskWaitf f) (taskWaitfWord f) s))

/-! ### Conditions -/

def condNewWord (f : Full) (e : Env) (t : Thread) (s : State) : State :=
  if isDetached t then s.endWordAt e t (.ok (statusNow e t f.d.toNat .withdrawn))
  else (s.endWordAt e t (.ok (waitWord e t .condNew .task f.dsel f.d.toNat))).settleGran
def execCondNew (f : Full) (s : State) : Out :=
  .next (settleWord (wordFold (.condNew f) (condNewWord f) s))

def condSetWord (f : Full) (e : Env) (t : Thread) (s : State) : State :=
  let act : GAct := .condSet (readV t f.a.toNat).toNat ((readB32 e t f).getLsbD 0) f.d.toNat
  heldWord f act Config.latGranFar (pendWord f act) e t s
def execCondSet (f : Full) (s : State) : Out := .next (wordFold (.condSet f) (condSetWord f) s)

/-! ### LIKE (R264) -/

/-- Bits 18:16 and the likelihood of LIKE.task. -/
def likeTask (s : State) (r : Nat) : Nat :=
  match viewRef s r with
  | .entry x =>
    if x.pruned then 4 * 2 ^ 16 + chainLike x.chain
    else if !x.tiller then 65535
    else
      chainLike x.chain + (match x.st with | .queued => 1 | .running => 2 | .finished => 3 | _ => 0) * 2 ^ 16
  | _ => 7 * 2 ^ 16

/-- LIKE.seed: the old value of the site, and the new one set. -/
def likeSeed (f : Full) (site v : Nat) (e : Env) (t : Thread) (s : State) : State :=
  replyNow f Config.latGranFar [(f.d.toNat, regOf (predOf s site))] e t (s.seedSite site v)

def likeSiteWord (f : Full) (e : Env) (t : Thread) (s : State) : State :=
  replyNow f Config.latGranFar [(f.d.toNat, regOf (predOf s (field (readV t f.a.toNat).toNat 11 0)))] e t s
def execLikeSite (f : Full) (s : State) : Out := .next (wordFold (.likeSite f) (likeSiteWord f) s)

def likeTaskWord (f : Full) (e : Env) (t : Thread) (s : State) : State :=
  replyNow f Config.latGranFar [(f.d.toNat, regOf (likeTask s (readV t f.a.toNat).toNat))] e t s
def execLikeTask (f : Full) (s : State) : Out := .next (wordFold (.likeTask f) (likeTaskWord f) s)

/-- A detached thread's seed has no effect, and it reads the site (R262). -/
def likeSeedWord (f : Full) (e : Env) (t : Thread) (s : State) : State :=
  let site := field (readV t f.a.toNat).toNat 11 0
  let v := field (readB32 e t f).toNat 7 0
  if isDetached t then replyNow f Config.latGranFar [(f.d.toNat, regOf (predOf s site))] e t s
  else heldWord f (.seed site v) Config.latGranFar (likeSeed f site v) e t s
def execLikeSeed (f : Full) (s : State) : Out := .next (wordFold (.likeSeed f) (likeSeedWord f) s)

/-! ### The affinity window (R247) -/

/-- An affinity window has ended: takers look again. -/
def execAffinityWindowExpiry (s : State) : Out := .next s.settleGran

end Sys2Proof.Machine
end

