-- ==== Sys2Proof/Machine/Tiller.lean ====
section
/-! DEFINITION. The commit step of a resolved tiller (R93) and the withdrawal of a suspended one (R261). -/

namespace Sys2Proof.Machine

open Sys2Proof

/-- The pending commit step of entry `ix` of die `cur`, once its releases hold. -/
def execTillerCommit (s : State) : Out :=
  .next (match entryAt s s.cur s.ix with
    | some x => if x.committing then (s.granWork [.commit s.cur s.ix]).settleGran else s
    | none => s)

/-- The tiller returns to its queue with its chain: its held items go as at a prune (R261). -/
def State.requeue (s : State) (x : Entry) : State :=
  (s.dropStore x).modEntry x.die x.ix fun y => { y with st := .queued, holders := [] }

/-- The withdrawal counts as a TIMEOUT (R44). -/
def withdrawThread (s : State) (die ix : Nat) (t : Thread) : Thread :=
  if runsEntry die ix t then countTimeout s.hub.plinth.escl (detach s die ix false t) else t

/-- The thread is suspended and its deadline has passed: the tiller that it runs. -/
def overdueTiller (s : State) (t : Thread) : Option (Nat × Nat) :=
  match t.wait with
  | some w => match w.kind with
    | .suspended => if dlPassed s.time w.dl then tillerOf t else none
    | _ => none
  | none => none

/-- The suspension of thread `sub` of core `cur` passes its deadline: its tiller is withdrawn. -/
def execTillerWithdrawal (s : State) : Out :=
  .next (match s.thread s.cur s.sub with
    | none => s
    | some t =>
      match overdueTiller s t with
      | none => s
      | some (die, ix) =>
        match entryAt s die ix with
        | none => s
        | some x =>
          if x.committing then s
          else
            let s1 := s.requeue x
            ((s1.modCore s.cur fun k => { k with threads := k.threads.map (withdrawThread s1 die ix) }).settle s.cur).settleGran)

end Sys2Proof.Machine
end

