-- ==== Sys2Proof/Machine/Dispatch.lean ====
section
/-! DEFINITION. One meaning per constructor of `Instr`. -/

namespace Sys2Proof.Machine

open Sys2Proof

def exec (i : Instr) (s : State) : Host.Outcome State Fault Refusal :=
  match i with
  | .mov f => Sys2Proof.Machine.execMov f s
  | .sel f => Sys2Proof.Machine.execSel f s
  | .add f => Sys2Proof.Machine.execAdd f s
  | .sub f => Sys2Proof.Machine.execSub f s
  | .mul f => Sys2Proof.Machine.execMul f s
  | .mulh f => Sys2Proof.Machine.execMulh f s
  | .mad f => Sys2Proof.Machine.execMad f s
  | .div f => Sys2Proof.Machine.execDiv f s
  | .rem f => Sys2Proof.Machine.execRem f s
  | .min f => Sys2Proof.Machine.execMin f s
  | .max f => Sys2Proof.Machine.execMax f s
  | .abs f => Sys2Proof.Machine.execAbs f s
  | .neg f => Sys2Proof.Machine.execNeg f s
  | .and f => Sys2Proof.Machine.execAnd f s
  | .or f => Sys2Proof.Machine.execOr f s
  | .xor f => Sys2Proof.Machine.execXor f s
  | .andn f => Sys2Proof.Machine.execAndn f s
  | .not f => Sys2Proof.Machine.execNot f s
  | .shl f => Sys2Proof.Machine.execShl f s
  | .shrl f => Sys2Proof.Machine.execShrl f s
  | .shra f => Sys2Proof.Machine.execShra f s
  | .rotl f => Sys2Proof.Machine.execRotl f s
  | .bfx f => Sys2Proof.Machine.execBfx f s
  | .bfi f => Sys2Proof.Machine.execBfi f s
  | .perm f => Sys2Proof.Machine.execPerm f s
  | .clz f => Sys2Proof.Machine.execClz f s
  | .popc f => Sys2Proof.Machine.execPopc f s
  | .brev f => Sys2Proof.Machine.execBrev f s
  | .lea f => Sys2Proof.Machine.execLea f s
  | .addD f => Sys2Proof.Machine.execAddD f s
  | .setp f => Sys2Proof.Machine.execSetp f s
  | .pand f => Sys2Proof.Machine.execPand f s
  | .por f => Sys2Proof.Machine.execPor f s
  | .pxor f => Sys2Proof.Machine.execPxor f s
  | .pnot f => Sys2Proof.Machine.execPnot f s
  | .movi x => Sys2Proof.Machine.execMovi x s
  | .addi x => Sys2Proof.Machine.execAddi x s
  | .bra x => Sys2Proof.Machine.execBra x s
  | .brc x => Sys2Proof.Machine.execBrc x s
  | .call x => Sys2Proof.Machine.execCall x s
  | .calli f => Sys2Proof.Machine.execCalli f s
  | .ret f => Sys2Proof.Machine.execRet f s
  | .loop x => Sys2Proof.Machine.execLoop x s
  | .lend x => Sys2Proof.Machine.execLend x s
  | .exit f => Sys2Proof.Machine.execExit f s
  | .nop f => Sys2Proof.Machine.execNop f s
  | .gfetch f => Sys2Proof.Machine.execGfetch f s
  | .dispatchOp f => Sys2Proof.Machine.execDispatchOp f s
  | .dispatchPc f => Sys2Proof.Machine.execDispatchPc f s
  | .gnext f => Sys2Proof.Machine.execGnext f s
  | .gjmp f => Sys2Proof.Machine.execGjmp f s
  | .gjmpRel f => Sys2Proof.Machine.execGjmpRel f s
  | .gbrc f => Sys2Proof.Machine.execGbrc f s
  | .gset f => Sys2Proof.Machine.execGset f s
  | .gget f => Sys2Proof.Machine.execGget f s
  | .fadd f => Sys2Proof.Machine.execFadd f s
  | .fsub f => Sys2Proof.Machine.execFsub f s
  | .fmul f => Sys2Proof.Machine.execFmul f s
  | .ffma f => Sys2Proof.Machine.execFfma f s
  | .fmin f => Sys2Proof.Machine.execFmin f s
  | .fmax f => Sys2Proof.Machine.execFmax f s
  | .fsetp f => Sys2Proof.Machine.execFsetp f s
  | .fclass f => Sys2Proof.Machine.execFclass f s
  | .cvt f => Sys2Proof.Machine.execCvt f s
  | .cvtpk f => Sys2Proof.Machine.execCvtpk f s
  | .cvtup f => Sys2Proof.Machine.execCvtup f s
  | .cvtSr f => Sys2Proof.Machine.execCvtSr f s
  | .cvtpkSr f => Sys2Proof.Machine.execCvtpkSr f s
  | .padd2 f => Sys2Proof.Machine.execPadd2 f s
  | .pmul2 f => Sys2Proof.Machine.execPmul2 f s
  | .pfma2 f => Sys2Proof.Machine.execPfma2 f s
  | .dot2 f => Sys2Proof.Machine.execDot2 f s
  | .dot4 f => Sys2Proof.Machine.execDot4 f s
  | .dot8 f => Sys2Proof.Machine.execDot8 f s
  | .fmule f => Sys2Proof.Machine.execFmule f s
  | .rcp f => Sys2Proof.Machine.execRcp f s
  | .rsqrt f => Sys2Proof.Machine.execRsqrt f s
  | .sqrt f => Sys2Proof.Machine.execSqrt f s
  | .exp2 f => Sys2Proof.Machine.execExp2 f s
  | .log2 f => Sys2Proof.Machine.execLog2 f s
  | .tanh f => Sys2Proof.Machine.execTanh f s
  | .sin f => Sys2Proof.Machine.execSin f s
  | .cos f => Sys2Proof.Machine.execCos f s
  | .tbl f => Sys2Proof.Machine.execTbl f s
  | .tblld f => Sys2Proof.Machine.execTblld f s
  | .tblsw f => Sys2Proof.Machine.execTblsw f s
  | .ld f => Sys2Proof.Machine.execLd f s
  | .ldI f => Sys2Proof.Machine.execLdI f s
  | .st f => Sys2Proof.Machine.execSt f s
  | .stRel f => Sys2Proof.Machine.execStRel f s
  | .atom f => Sys2Proof.Machine.execAtom f s
  | .barInit f => Sys2Proof.Machine.execBarInit f s
  | .barArrive f => Sys2Proof.Machine.execBarArrive f s
  | .barWait f => Sys2Proof.Machine.execBarWait f s
  | .barWaitAcq f => Sys2Proof.Machine.execBarWaitAcq f s
  | .barArwt f => Sys2Proof.Machine.execBarArwt f s
  | .slotClaim f => Sys2Proof.Machine.execSlotClaim f s
  | .slotTake f => Sys2Proof.Machine.execSlotTake f s
  | .slotFree f => Sys2Proof.Machine.execSlotFree f s
  | .fence f => Sys2Proof.Machine.execFence f s
  | .sleepu f => Sys2Proof.Machine.execSleepu f s
  | .dlset f => Sys2Proof.Machine.execDlset f s
  | .dladd f => Sys2Proof.Machine.execDladd f s
  | .dlget f => Sys2Proof.Machine.execDlget f s
  | .shfl f => Sys2Proof.Machine.execShfl f s
  | .vote f => Sys2Proof.Machine.execVote f s
  | .redux f => Sys2Proof.Machine.execRedux f s
  | .scan f => Sys2Proof.Machine.execScan f s
  | .sample f => Sys2Proof.Machine.execSample f s
  | .cntfAdd f => Sys2Proof.Machine.execCntfAdd f s
  | .cntfGet f => Sys2Proof.Machine.execCntfGet f s
  | .cntfClr f => Sys2Proof.Machine.execCntfClr f s
  | .copyIn f => Sys2Proof.Machine.execCopyIn f s
  | .copyOut f => Sys2Proof.Machine.execCopyOut f s
  | .copyRel f => Sys2Proof.Machine.execCopyRel f s
  | .ckick f => Sys2Proof.Machine.execCkick f s
  | .wload f => Sys2Proof.Machine.execWload f s
  | .mma f => Sys2Proof.Machine.execMma f s
  | .mmaR f => Sys2Proof.Machine.execMmaR f s
  | .mmap f => Sys2Proof.Machine.execMmap f s
  | .gather f => Sys2Proof.Machine.execGather f s
  | .coll f => Sys2Proof.Machine.execColl f s
  | .ratom f => Sys2Proof.Machine.execRatom f s
  | .fwait f => Sys2Proof.Machine.execFwait f s
  | .fwaitAcq f => Sys2Proof.Machine.execFwaitAcq f s
  | .ftest f => Sys2Proof.Machine.execFtest f s
  | .fcancel f => Sys2Proof.Machine.execFcancel f s
  | .ftime f => Sys2Proof.Machine.execFtime f s
  | .fsleep f => Sys2Proof.Machine.execFsleep f s
  | .waitn f => Sys2Proof.Machine.execWaitn f s
  | .qrd f => Sys2Proof.Machine.execQrd f s
  | .taskTake f => Sys2Proof.Machine.execTaskTake f s
  | .taskPut f => Sys2Proof.Machine.execTaskPut f s
  | .taskDone f => Sys2Proof.Machine.execTaskDone f s
  | .taskDep f => Sys2Proof.Machine.execTaskDep f s
  | .taskCoord f => Sys2Proof.Machine.execTaskCoord f s
  | .taskWaitf f => Sys2Proof.Machine.execTaskWaitf f s
  | .spawn f => Sys2Proof.Machine.execSpawn f s
  | .condNew f => Sys2Proof.Machine.execCondNew f s
  | .condSet f => Sys2Proof.Machine.execCondSet f s
  | .likeSite f => Sys2Proof.Machine.execLikeSite f s
  | .likeTask f => Sys2Proof.Machine.execLikeTask f s
  | .likeSeed f => Sys2Proof.Machine.execLikeSeed f s
  | .trap f => Sys2Proof.Machine.execTrap f s
  | .bkpt f => Sys2Proof.Machine.execBkpt f s
  | .phint f => Sys2Proof.Machine.execPhint f s
  | .yield f => Sys2Proof.Machine.execYield f s
  | .sysr f => Sys2Proof.Machine.execSysr f s
  | .sysw f => Sys2Proof.Machine.execSysw f s
  | .supPwait f => Sys2Proof.Machine.execSupPwait f s
  | .supPrd f => Sys2Proof.Machine.execSupPrd f s
  | .supPwr f => Sys2Proof.Machine.execSupPwr f s
  | .supResume f => Sys2Proof.Machine.execSupResume f s
  | .supKill f => Sys2Proof.Machine.execSupKill f s
  | .supSave f => Sys2Proof.Machine.execSupSave f s
  | .supLoad f => Sys2Proof.Machine.execSupLoad f s
  | .pairedMovB32 h => Sys2Proof.Machine.execPairedMovB32 h s
  | .pairedAddS32 h => Sys2Proof.Machine.execPairedAddS32 h s
  | .pairedSubS32 h => Sys2Proof.Machine.execPairedSubS32 h s
  | .pairedMulS32 h => Sys2Proof.Machine.execPairedMulS32 h s
  | .pairedMinS32 h => Sys2Proof.Machine.execPairedMinS32 h s
  | .pairedMaxS32 h => Sys2Proof.Machine.execPairedMaxS32 h s
  | .pairedMinN32 h => Sys2Proof.Machine.execPairedMinN32 h s
  | .pairedMaxN32 h => Sys2Proof.Machine.execPairedMaxN32 h s
  | .pairedAndB32 h => Sys2Proof.Machine.execPairedAndB32 h s
  | .pairedOrB32 h => Sys2Proof.Machine.execPairedOrB32 h s
  | .pairedXorB32 h => Sys2Proof.Machine.execPairedXorB32 h s
  | .pairedAndnB32 h => Sys2Proof.Machine.execPairedAndnB32 h s
  | .pairedNotB32 h => Sys2Proof.Machine.execPairedNotB32 h s
  | .pairedShlB32 h => Sys2Proof.Machine.execPairedShlB32 h s
  | .pairedShrlB32 h => Sys2Proof.Machine.execPairedShrlB32 h s
  | .pairedShraS32 h => Sys2Proof.Machine.execPairedShraS32 h s
  | .pairedRotlB32 h => Sys2Proof.Machine.execPairedRotlB32 h s
  | .pairedPermB32 h => Sys2Proof.Machine.execPairedPermB32 h s
  | .pairedClzB32 h => Sys2Proof.Machine.execPairedClzB32 h s
  | .pairedPopcB32 h => Sys2Proof.Machine.execPairedPopcB32 h s
  | .pairedBrevB32 h => Sys2Proof.Machine.execPairedBrevB32 h s
  | .pairedNegS32 h => Sys2Proof.Machine.execPairedNegS32 h s
  | .pairedAbsS32 h => Sys2Proof.Machine.execPairedAbsS32 h s
  | .pairedFaddF32 h => Sys2Proof.Machine.execPairedFaddF32 h s
  | .pairedFsubF32 h => Sys2Proof.Machine.execPairedFsubF32 h s
  | .pairedFmulF32 h => Sys2Proof.Machine.execPairedFmulF32 h s
  | .pairedFminF32 h => Sys2Proof.Machine.execPairedFminF32 h s
  | .pairedFmaxF32 h => Sys2Proof.Machine.execPairedFmaxF32 h s
  | .pairedPadd2Bf16 h => Sys2Proof.Machine.execPairedPadd2Bf16 h s
  | .pairedPmul2Bf16 h => Sys2Proof.Machine.execPairedPmul2Bf16 h s
  | .pairedPadd2F16 h => Sys2Proof.Machine.execPairedPadd2F16 h s
  | .pairedPmul2F16 h => Sys2Proof.Machine.execPairedPmul2F16 h s
  | .pairedPand h => Sys2Proof.Machine.execPairedPand h s
  | .pairedPor h => Sys2Proof.Machine.execPairedPor h s
  | .pairedPxor h => Sys2Proof.Machine.execPairedPxor h s
  | .pairedPnot h => Sys2Proof.Machine.execPairedPnot h s
  | .pairedSetpEq h => Sys2Proof.Machine.execPairedSetpEq h s
  | .pairedSetpNe h => Sys2Proof.Machine.execPairedSetpNe h s
  | .pairedSetpLt h => Sys2Proof.Machine.execPairedSetpLt h s
  | .pairedSetpLe h => Sys2Proof.Machine.execPairedSetpLe h s
  | .pairedSetpGt h => Sys2Proof.Machine.execPairedSetpGt h s
  | .pairedSetpGe h => Sys2Proof.Machine.execPairedSetpGe h s
  | .pairedFsetpLt h => Sys2Proof.Machine.execPairedFsetpLt h s
  | .pairedFsetpLe h => Sys2Proof.Machine.execPairedFsetpLe h s
  | .pairedFsetpEq h => Sys2Proof.Machine.execPairedFsetpEq h s
  | .pagerCompletion die v => Sys2Proof.Machine.execPagerCompletion die v s
  | .coreRetirement c hard => Sys2Proof.Machine.execCoreRetirement c hard s
  | .singleBitError unit m => Sys2Proof.Machine.execSingleBitError unit m s
  | .doubleBitError unit m victim => Sys2Proof.Machine.execDoubleBitError unit m victim s
  | .ifetchParityError c => Sys2Proof.Machine.execIfetchParityError c s
  | .ifetchRefetchComplete c ok => Sys2Proof.Machine.execIfetchRefetchComplete c ok s
  | .hbmRowSpare stack chan bank row => Sys2Proof.Machine.execHbmRowSpare stack chan bank row s
  | .hbmChannelSpare stack chan => Sys2Proof.Machine.execHbmChannelSpare stack chan s
  | .laneFailure port half => Sys2Proof.Machine.execLaneFailure port half s
  | .laneRestore port half lanes => Sys2Proof.Machine.execLaneRestore port half lanes s
  | .telemInterval x => Sys2Proof.Machine.execTelemInterval x s
  | .thermalShutdown x => Sys2Proof.Machine.execThermalShutdown x s
  | .fwLoad img => Sys2Proof.Machine.execFwLoad img s
  | .attreqGo v => Sys2Proof.Machine.execAttreqGo v s
  | .ptpFirstLock ptp => Sys2Proof.Machine.execPtpFirstLock ptp s
  | .notifyWrite v => Sys2Proof.Machine.execNotifyWrite v s
  | .qtailWrite q v => Sys2Proof.Machine.execQtailWrite q v s
  | .mailboxWrite m full v => Sys2Proof.Machine.execMailboxWrite m full v s
  | .featureGo v => Sys2Proof.Machine.execFeatureGo v s
  | .kickWrite sm v => Sys2Proof.Machine.execKickWrite sm v s
  | .kstatRead sm => Sys2Proof.Machine.execKstatRead sm s
  | .shootdownGo v => Sys2Proof.Machine.execShootdownGo v s
  | .haltrGo c v => Sys2Proof.Machine.execHaltrGo c v s
  | .trdropRead c => Sys2Proof.Machine.execTrdropRead c s
  | .svfaultCtlRead c => Sys2Proof.Machine.execSvfaultCtlRead c s
  | .registerWrite off v => Sys2Proof.Machine.execRegisterWrite off v s
  | .plinthParameterWrite p v => Sys2Proof.Machine.execPlinthParameterWrite p v s
  | .collPeerArrival x => Sys2Proof.Machine.execCollPeerArrival x s
  | .systemCoreMemoryAccess store addr size v => Sys2Proof.Machine.execSystemCoreMemoryAccess store addr size v s
  | .winnowerChoice => Sys2Proof.Machine.execWinnowerChoice s
  | .traceIntervalEnd => Sys2Proof.Machine.execTraceIntervalEnd s
  | .gatherWindowExpiry => Sys2Proof.Machine.execGatherWindowExpiry s
  | .collectiveDeadlineExpiry => Sys2Proof.Machine.execCollectiveDeadlineExpiry s
  | .waitDeadlineExpiry => Sys2Proof.Machine.execWaitDeadlineExpiry s
  | .yieldHoldExpiry => Sys2Proof.Machine.execYieldHoldExpiry s
  | .directAccessCommit => Sys2Proof.Machine.execDirectAccessCommit s
  | .resultLands => Sys2Proof.Machine.execResultLands s
  | .delayedTransferArrival => Sys2Proof.Machine.execDelayedTransferArrival s
  | .cntfRowServe => Sys2Proof.Machine.execCntfRowServe s
  | .engineAccept => Sys2Proof.Machine.execEngineAccept s
  | .translationWalk => Sys2Proof.Machine.execTranslationWalk s
  | .pagerRequestPost => Sys2Proof.Machine.execPagerRequestPost s
  | .enginePartPerformed => Sys2Proof.Machine.execEnginePartPerformed s
  | .postedWritePerformed => Sys2Proof.Machine.execPostedWritePerformed s
  | .operationCompletion => Sys2Proof.Machine.execOperationCompletion s
  | .counterReport => Sys2Proof.Machine.execCounterReport s
  | .promiseTimeReached => Sys2Proof.Machine.execPromiseTimeReached s
  | .engineReplyLimit => Sys2Proof.Machine.execEngineReplyLimit s
  | .subarrayGate => Sys2Proof.Machine.execSubarrayGate s
  | .subarrayWakeComplete => Sys2Proof.Machine.execSubarrayWakeComplete s
  | .affinityWindowExpiry => Sys2Proof.Machine.execAffinityWindowExpiry s
  | .tillerCommit => Sys2Proof.Machine.execTillerCommit s
  | .tillerWithdrawal => Sys2Proof.Machine.execTillerWithdrawal s
  | .wakeRecordFire => Sys2Proof.Machine.execWakeRecordFire s
  | .phintSave => Sys2Proof.Machine.execPhintSave s
  | .graceDeadlineExpiry => Sys2Proof.Machine.execGraceDeadlineExpiry s
  | .teamDrainComplete => Sys2Proof.Machine.execTeamDrainComplete s
  | .teamRestore => Sys2Proof.Machine.execTeamRestore s
  | .timeSliceBoundary => Sys2Proof.Machine.execTimeSliceBoundary s
  | .parkComplete => Sys2Proof.Machine.execParkComplete s
  | .faultRecordEnqueue => Sys2Proof.Machine.execFaultRecordEnqueue s
  | .teamPlacement => Sys2Proof.Machine.execTeamPlacement s
  | .teamEnd => Sys2Proof.Machine.execTeamEnd s
  | .launchEnd => Sys2Proof.Machine.execLaunchEnd s
  | .portRetrainComplete => Sys2Proof.Machine.execPortRetrainComplete s
  | .clockHoldoverExpiry => Sys2Proof.Machine.execClockHoldoverExpiry s
  | .fwVerify => Sys2Proof.Machine.execFwVerify s
  | .fwShadowStart => Sys2Proof.Machine.execFwShadowStart s
  | .fwCommit => Sys2Proof.Machine.execFwCommit s
  | .fwAbort => Sys2Proof.Machine.execFwAbort s
  | .powerOnReset => Sys2Proof.Machine.execPowerOnReset s
  | .ptpLockLoss => Sys2Proof.Machine.execPtpLockLoss s
  | .timept => Sys2Proof.Machine.execTimept s
  | .nlatchRead => Sys2Proof.Machine.execNlatchRead s
  | .plinthWake => Sys2Proof.Machine.execPlinthWake s
  | .packetStart => Sys2Proof.Machine.execPacketStart s
  | .consumeDeadlineExpiry => Sys2Proof.Machine.execConsumeDeadlineExpiry s
  | .packetProduce => Sys2Proof.Machine.execPacketProduce s
  | .produceDeadlineExpiry => Sys2Proof.Machine.execProduceDeadlineExpiry s
  | .nopPacket => Sys2Proof.Machine.execNopPacket s
  | .launch => Sys2Proof.Machine.execLaunch s
  | .mqload => Sys2Proof.Machine.execMqload s
  | .mqunload => Sys2Proof.Machine.execMqunload s
  | .mqkick => Sys2Proof.Machine.execMqkick s
  | .preempt => Sys2Proof.Machine.execPreempt s
  | .restore => Sys2Proof.Machine.execRestore s
  | .supplace => Sys2Proof.Machine.execSupplace s
  | .kickDepart => Sys2Proof.Machine.execKickDepart s
  | .shootdownDone => Sys2Proof.Machine.execShootdownDone s
  | .ptpLockRegained => Sys2Proof.Machine.execPtpLockRegained s
  | .supSaveLoadComplete => Sys2Proof.Machine.execSupSaveLoadComplete s

end Sys2Proof.Machine
end

