-- ==== Sys2Proof/Machine/Timing.lean ====
section
/-! DEFINITION. What a word's issue costs (R308 to R312): the register-file, slice, partner-path and unit components of its
stall, and the hold of R180. The contention of R311 at the target slice acts at the commit (Commit.lean). -/

namespace Sys2Proof.Machine

open Sys2Proof

/-! ### The register-file component (R309) -/

/-- The V registers that a field names. -/
def rfRegs : RF → Nat → List Nat
  | .v, n => [n]
  | .pair, n => [n, n + 1]
  | .blk k _, n => (List.range k).map (n + ·)
  | _, _ => []

/-- The instruction reads its D field. -/
def readsD : Instr → Bool
  | .mad _ | .ffma _ | .pfma2 _ | .dot2 _ | .dot4 _ | .dot8 _ | .bfi _ | .st _ | .stRel _ | .barInit _ | .cntfAdd _ => true
  | _ => false

/-- The registers that an instruction reads, as R309 counts them. -/
def readRegs (i : Instr) : List Nat :=
  match fullOf i, immOf i with
  | some f, _ => match accepts i with
    | none => []
    | some x =>
      let b := match i with
        | .mmaR _ | .mmap _ => [f.b.toNat, f.b.toNat + 2]
        | _ => if f.ub then [] else rfRegs x.b f.b.toNat
      rfRegs x.a f.a.toNat ++ b ++ if readsD i then rfRegs x.d f.d.toNat else []
  | none, some x => [x.a.toNat]
  | none, none => []

/-- An MMA.r or MMAP that the reuse latch serves (R225). -/
def latchServes (k : Core) (is : Issue) (i : Instr) : Bool :=
  let hit (f : Full) : Bool := match k.mx.latch with
    | none => false
    | some l => l.ty == f.ty && k.threads.any fun t => inSheaf is t && l.sup == t.id.sup && l.gix == gixOf t
  match i with
  | .mmaR f | .mmap f => hit f
  | _ => false

/-- The greatest count of one value in a list. -/
def mostOf (l : List Nat) : Nat := l.foldl (fun m x => max m (l.count x)) 0

def rfStall (k : Core) (is : Issue) (i : Instr) : Nat :=
  if latchServes k is i then 0 else (mostOf ((readRegs i).map (· % 4)) + 1) / 2 - 1

/-! ### The slice and path components (R310, R311) -/

/-- The word reaches a slice through the program port. -/
def usesPort : Instr → Bool
  | .ld _ | .ldI _ | .st _ | .stRel _ | .atom _ | .barInit _ | .barArrive _ | .barWait _ | .barWaitAcq _ | .barArwt _
  | .gfetch _ | .dispatchOp _ | .dispatchPc _ | .call _ | .calli _ | .ret _ | .taskPut _ | .spawn _ | .tblld _
  | .cntfClr _ => true
  | _ => false

/-- The accesses that have joined the queues of core `c` between two states. -/
def newAccesses (s s1 : State) (c : Nat) : List Access :=
  (s1.core c).threads.flatMap fun t => match s.thread c t.id.slot with
    | some u => t.acc.drop u.acc.length
    | none => []

/-- The accesses that the word makes: a trial of its meaning shows them. -/
def wordAccesses (i : Instr) (s : State) : List Access :=
  if !usesPort i then []
  else match exec i s with
    | .next s1 => newAccesses s s1 s.cur
    | _ => []

/-- Accesses of one word that fall in one bank word are one access (R310). -/
def merges (a : Access) : Bool :=
  match a.kind with
  | .load .. | .store _ | .gfetch _ | .dispCount | .dispEntry | .fill _ => true
  | _ => false

/-- Accesses that the slice component counts: a table image and the clear of a filter are units' work (R312). -/
def counted (a : Access) : Bool := match a.kind with | .tblld _ => false | _ => decide (a.size ≤ 16)

/-- The accesses by bank word, each access of the kinds that merge once for its word. -/
def portWords (l : List Access) : List Nat :=
  ((l.filter merges).flatMap bankWords).eraseDups ++ (l.filter fun a => !merges a).flatMap bankWords

def sliceStall (l : List Access) : Nat := mostOf ((portWords l).map bankOfWord) - 1

/-- 32 bank words pass the partner path in a cycle. -/
def pathStall (l : List Access) : Nat := ((l.flatMap bankWords).eraseDups.length + 31) / 32 - 1

/-- A TBLLD holds the program port: a word that reaches the own slice waits for the cycle after its last (R312). -/
def portStall (k : Core) (slot : Nat) (own : List Access) : Nat := if own.isEmpty then 0 else k.portBusy - slot

/-! ### The unit component (R312) -/

/-- Guard-true threads of the word. -/
def guardTrue (e : Env) (i : Instr) : List Thread := e.k.threads.filter (takesWord e i)

/-- The threads' register `a` is a tag reference, of which each tag takes one change in a cycle. -/
def tagStall (e : Env) (i : Instr) (f : Full) : Nat := mostOf ((guardTrue e i).map fun t => (readV t f.a.toNat).toNat) - 1

/-- The distinct bases that CNTF.CLR clears. -/
def clrBases (e : Env) (f : Full) : Nat :=
  (((guardTrue e (.cntfClr f)).map fun t => (readV t f.a.toNat).toNat).eraseDups).length

def unitStall (e : Env) (i : Instr) : Nat :=
  match i with
  | .div _ | .rem _ => 7
  | .rcp _ | .rsqrt _ | .sqrt _ | .exp2 _ | .log2 _ | .tanh _ | .sin _ | .cos _ | .tbl _ =>
    ((guardTrue e i).length + 15) / 16 - 1
  | .cntfClr f => 43 * clrBases e f
  | .slotClaim f | .slotTake f | .slotFree f => tagStall e i f
  | _ => 0

/-! ### The stall -/

/-- The stall of a word at its slot cycle: the greatest of its components. The slot is the current core's (R308). An illegal word
that decodes costs what its fields give, and one that does not costs none (DESIGN CHOICE, log entry 98). -/
def stallOf (i : Instr) (s : State) : Nat :=
  match i, s.env with
  | .cntfAdd _, _ | .cntfGet _, _ | _, none => 0
  | _, some e =>
    let l := wordAccesses i s
    let own := l.filter fun a => a.path == .own
    let far := l.filter fun a => a.path == .partner
    max (max (rfStall e.k e.is i) (max (sliceStall (own.filter counted)) (sliceStall (far.filter counted))))
      (max (pathStall (far.filter counted)) (max (unitStall e i) (portStall e.k e.ck.cyc own)))

/-- The registers that an instruction writes at once: a long-latency word writes none when it issues. -/
def writesNow (i : Instr) : List Nat :=
  match fullOf i, immOf i, halfOf i with
  | some f, _, _ => match accepts i with
    | some x => (match i with
      | .st _ | .stRel _ | .barInit _ => []
      | _ => if x.fsel then [] else rfRegs x.d f.d.toNat)
    | none => []
  | none, some x, _ => (match i with
    | .movi _ | .addi _ => [x.d.toNat]
    | _ => [])
  | none, none, some (.x, h) | none, none, some (.y, h) => [h.d.toNat]
  | none, none, some _ => []
  | none, none, none => []

/-- The slots in which a word has written registers at once, with those registers: threads that took it, and that neither
parked nor wait (R315). -/
def wroteIn (e : Env) (i : Instr) (s1 : State) : List (Nat × List Nat) :=
  (e.k.threads.filter fun t => takesWord e i t && legalHere e i t
    && match s1.thread e.c t.id.slot with | some u => u.frec.isNone && u.wait.isNone | none => false).map
    fun t => (t.id.slot, writesNow i)

/-- What is kept of a core's port: the banks of the last 16 cycles. -/
def logPort (now : Nat) (l : List (Nat × List Nat × List Nat)) (k : Core) : Core :=
  { k with portLog := l ++ k.portLog.filter fun x => decide (now ≤ x.1 + 16) }

/-- The banks in which a word still has accesses to make `j` cycles before it issues: the program port serves one access in a bank
in a cycle, the last ones in the cycle of its issue (R310). -/
def banksBefore (j : Nat) (l : List Access) : List Nat :=
  let bs := (portWords (l.filter counted)).map bankOfWord
  bs.eraseDups.filter fun b => decide (j < bs.count b)

/-- A clear of a filter holds its whole port while it holds its sheaf (R207). -/
def clears (i : Instr) (w : Path) (l : List Access) : List Nat :=
  match i with
  | .cntfClr _ => if l.any fun a => a.path == w && !counted a then [wholePort] else []
  | _ => []

/-- What a word takes of its port and of the partner's in the cycles of its stall, which ends in cycle `at_` (R308, R310,
R311, log entry 88). -/
def stallLog (i : Instr) (l : List Access) (at_ n : Nat) : List (Nat × List Nat × List Nat) :=
  let of (w : Path) (j : Nat) : List Nat := clears i w l ++ banksBefore j (l.filter fun a => a.path == w)
  (List.range n).map fun j => (at_ - (j + 1), of .own (j + 1), of .partner (j + 1))

/-- A table image holds the whole port for six cycles from its issue on (R179). -/
def tableLog (l : List Access) : List (Nat × List Nat × List Nat) :=
  l.flatMap fun a => match a.kind with
    | .tblld _ => (List.range 6).map fun j => (a.cyc + j, [wholePort], [])
    | _ => []

/-- After a word: the registers it has written, and the banks it has taken (R311, R313, R315). -/
def State.noteWord (s1 : State) (s : State) (is : List Instr) : State :=
  match s.env with
  | none => s1
  | some e =>
    let new := newAccesses s s1 e.c
    let l := new.filter fun a => counted a && !(match a.kind with | .cntf .. => true | _ => false)
    let far := (l.filter fun a => a.path == .partner).flatMap banksOf
    let own := (l.filter fun a => a.path == .own).flatMap banksOf
    s1.modCore e.c fun k => logPort s.cycle ((s.cycle, own, far) :: tableLog new) { k with
      issue := k.issue.map fun x => { x with wrote := is.flatMap fun i => wroteIn e i s1 } }

/-! ### A stalled word's registers (R308) -/

/-- What the threads of the sheaf read now for a word. -/
def readingsOf (e : Env) (i : Instr) : List Reading :=
  (e.k.threads.filter (inSheaf e.is)).map fun t =>
    ⟨t.id.slot, t.v, t.gst, match fullOf i with | some f => if f.ub then readUniform e t f.b.toNat else 0 | none => 0⟩

/-- The word in the slot waits out a stall of `n` cycles from this slot cycle on, with what it has read; its accesses take their
banks (R308, R310). -/
def State.stallWord (s : State) (c : Nat) (i : Instr) (n : Nat) : State :=
  match ({ s with cur := c } : State).env with
  | none => s
  | some e => s.modCore c fun k => logPort s.cycle (stallLog i (wordAccesses i { s with cur := c }) (e.is.next + n) n) { k with
      issue := some { e.is with next := e.is.next + n, stalls := e.is.stalls + n, stalled := some (readingsOf e i) } }

/-- The threads as a stalled word read them at its slot cycle. -/
def State.asRead (s : State) (c : Nat) : State :=
  match (s.core c).issue with
  | none => s
  | some is => if is.stalled.isNone then s
    else
      let f (t : Thread) : Thread := match readingOf is t with
        | some r => { t with v := r.v, gst := r.gst }
        | none => t
      s.modCore c fun k => { k with threads := k.threads.map f }

/-- One value after a word that read `b` and left `u`, where `t` stands now: what the word wrote, else what has landed. -/
def afterWord {α : Type} [DecidableEq α] (b t u : α) : α := if u = b then t else u

/-- The registers after a word which read `b` and left `u`, and which wrote those of `ws`. -/
def afterRegs (ws : List Nat) (b t u : List Reg) : List Reg :=
  if u.length ≠ t.length then u
  else (List.range u.length).map fun n =>
    if ws.contains n then u.getD n 0 else afterWord (b.getD n 0) (t.getD n 0) (u.getD n 0)

def afterGuest (b t u : Guest) : Guest :=
  { u with gpc := afterWord b.gpc t.gpc u.gpc, gir := afterWord b.gir t.gir u.gir, gop := afterWord b.gop t.gop u.gop,
           ga0 := afterWord b.ga0 t.ga0 u.ga0, ga1 := afterWord b.ga1 t.ga1 u.ga1 }

/-- After a stalled word: what landed during its stall stands in the registers that the word has not written (R17, R308).
`s0` is the machine before it, `b` that machine as the word read it. -/
def State.keepLanded (s1 s0 b : State) (c : Nat) (i : Instr) : State :=
  match ({ b with cur := c } : State).env with
  | none => s1
  | some e => if e.is.stalled.isNone then s1
    else
      let wrote := wroteIn e i s1
      let f (u : Thread) : Thread :=
        match s0.thread c u.id.slot, b.thread c u.id.slot with
        | some t, some r =>
          if t.id.gen = u.id.gen then
            { u with v := afterRegs (wrote.flatMap fun w => if w.1 = u.id.slot then w.2 else []) r.v t.v u.v,
                     gst := afterGuest r.gst t.gst u.gst }
          else u
        | _, _ => u
      s1.modCore c fun k => { k with threads := k.threads.map f, saved := k.saved.map f }

end Sys2Proof.Machine
end

