-- ==== Sys2Proof/Machine/Sched.lean ====
section
/-! DEFINITION. What a step does beside a meaning: the issue of the word in a core's slot (R31, R32, R129, R308, R399 to
R401, R419), an event, a tick of TIME (R8, R41, R412), and the default order of moves (log entry 2). -/

namespace Sys2Proof.Machine

open Sys2Proof

/-! ### The word at issue -/

/-- The word that a core's slot issues next. -/
def issueWord (k : Core) (is : Issue) : Quad := wordAt k is.sup (is.hdr + is.widx)

/-- The slot has a word whose cycle has come. -/
def wordDue (s : State) (c : Nat) : Option Issue :=
  ((s.core c).issue).filter fun is => !is.slots.isEmpty && decide (is.next ≤ s.cycle)

/-- The word waits another cycle: for a refetch (R419), or for a table image (R180). -/
def State.waitCycle (s : State) (c : Nat) : State :=
  s.modCore c fun k => { k with issue := k.issue.map fun is => { is with next := s.cycle + 1, stalls := is.stalls + 1 } }

/-- The thread stands where it was resumed, at a word of the clause (R400). -/
def firstWord (is : Issue) (t : Thread) : Bool := t.dbg.fresh && t.pos.widx == is.widx && is.widx != 0

/-- A stop that falls on the word parks the thread before it; the others pass their first position (R399 to R401). -/
def stopWord (ck : Clock) (k : Core) (is : Issue) (t : Thread) : Thread :=
  if !inSheaf is t then t
  else match stopAt k t is.hdr is.widx (firstWord is t) with
    | some code => park ck t .halt is.widx code 0
    | none => { t with dbg := { t.dbg with fresh := false } }

def State.stopWords (s : State) (c : Nat) (is : Issue) : State :=
  s.modCore c fun k => { k with threads := k.threads.map (stopWord s.clock k is) }

/-- The word is no legal instruction whatever thread meets it: it parks the threads for which a guard in it holds, a
header all of them (R129). -/
def parkBad (ck : Clock) (is : Issue) (w : Quad) (t : Thread) : Thread :=
  let gs := rawGuards w.toNat
  if inSheaf is t && (gs.isEmpty || gs.any (guardHolds t)) then park ck t .illegal is.widx 0 0 else t

def State.parkBads (s : State) (c : Nat) (is : Issue) (w : Quad) : State :=
  s.modCore c fun k => { k with threads := k.threads.map (parkBad s.clock is w) }

/-- A half of a paired word that is illegal in a thread is illegal for the whole word there (R128, R129). -/
def pairIllegal (e : Env) (a b : Instr) (t : Thread) : Bool :=
  (takesWord e a t || takesWord e b t) && !(legalHere e a t && legalHere e b t)

/-- Both halves are open: half A keeps its writes until half B has read (R122). -/
def State.openPair (s : State) (c : Nat) (a b : Instr) : State :=
  match s.env with
  | none => s
  | some e => s.modCore c fun k => { k with
      threads := k.threads.map fun (t : Thread) => if pairIllegal e a b t then park e.ck t .illegal e.is.widx 0 0 else t
      issue := some { e.is with half := some [] } }

/-- The word has trapped in the thread of a slot. -/
def trapped (s : State) (c sl : Nat) : Bool := ((s.thread c sl).bind (·.frec)).isSome

/-- A register that the word reads has an uncorrectable error in the threads marked: those that take the word, and in which no
other cause comes first, park with REGISTER_ERROR (R344, R345, R419). `s1` is a trial of the word. -/
def trapRegs (s s1 : State) (e : Env) (is : List Instr) : State :=
  let hit (t : Thread) : Bool :=
    e.k.regErr.contains t.id.slot && is.any (fun i => takesWord e i t) && !trapped s1 e.c t.id.slot
  s.modCore e.c fun k => { k with
    threads := k.threads.map fun (t : Thread) => if hit t then park e.ck t .registerError e.is.widx 0 0 else t
    regErr := [] }

/-- The machine in which a word issues, once its register errors have trapped; `f` is the word. -/
def readRegisters (s : State) (is : List Instr) (f : State → Out) : State :=
  match s.env with
  | none => s
  | some e => if e.k.regErr.isEmpty then s
    else match f s with
      | .next s1 => trapRegs s s1 e is
      | _ => s

/-- The word issues, with the registers as they stood at its slot cycle: its meaning, what it leaves in the slot, and the slot
moves on (R31, R308, R315). -/
def runWord (s0 : State) (c : Nat) (i : Instr) : Out :=
  let s := readRegisters (s0.asRead c) [i] (exec i)
  match exec i s with
  | .next s1 => .next (advance ((s1.keepLanded s0 (s0.asRead c) c i).noteWord s [i]) c)
  | r => r

/-- One instruction in the slot of core `c`: at its slot cycle the stops on it and its stall, unless R180 holds it; then its
issue, a stall later (R308). -/
def runOne (s : State) (c : Nat) (is : Issue) (i : Instr) : Out :=
  let s0 := { s with cur := c }
  if is.stalled.isSome then runWord s0 c i
  else if tableHeld s0 i then .next (s0.waitCycle c)
  else
    let s1 := s0.stopWords c is
    let n := stallOf i s1
    if n = 0 then runWord s1 c i else .next (s1.stallWord c i n)

/-- Half A, then half B (R122). -/
def execPair (a b : Instr) (s : State) : Out :=
  match exec a s with
  | .next s1 => exec b s1
  | r => r

/-- A paired word runs (R120 to R122). -/
def runPair (s : State) (c : Nat) (is : Issue) (a b : Instr) : Out :=
  let s1 := readRegisters (({ s with cur := c }.stopWords c is).openPair c a b) [a, b] (execPair a b)
  match execPair a b s1 with
  | .next s2 => .next (advance (s2.noteWord s1 [a, b]) c)
  | r => r

/-- A core is asked to issue: the word in its slot, once its cycle has come. -/
def issueOn (s : State) (c : Nat) : Out :=
  match wordDue s c with
  | none => .next s
  | some is =>
    if (s.core c).refetch.isSome then .next (s.waitCycle c)
    else match decodeWord (issueWord (s.core c) is) with
      | .one i => runOne s c is i
      | .pair a b => runPair s c is a b
      | .bad _ => .next (advance ((s.stopWords c is).parkBads c is (issueWord (s.core c) is)) c)

/-! ### Events -/

/-- The unit that an event names. -/
def State.unit (s : State) (cur sub ix : Nat) : State := { s with cur := cur, sub := sub, ix := ix }

/-- An event happens in its unit; a word is no event. -/
def fire (s : State) (i : Instr) (cur sub ix : Nat) : Out :=
  if isEvent i then exec i (s.unit cur sub ix) else .next s

/-! ### A tick of TIME -/

/-- Resident ticks are left to a register in budget mode, while it has any (R41). -/
def tickDl (x : Quad) : Quad := if x != allOnes && dlMode x && dlValue x != 0 then x - 1 else x

def tickDeadline (d : Deadline) : Deadline := { d with left := d.left.map (· - 1) }

/-- A thread that holds a slot, unless it has been saved there: its budgets count (R41, R47). -/
def tickThread (t : Thread) : Thread :=
  if t.pos.st == .saved then t
  else
    { t with dl := t.dl.map tickDl, wait := t.wait.map fun w => { w with dl := tickDeadline w.dl },
             gw := t.gw.map fun g => { g with dl := tickDeadline g.dl } }

/-- An address lies in the external aperture, as the operation's pages translate it. -/
def inAperture (o : Op) (va : Nat) : Bool := (pageAt o va).isSome && isAperture (physAt o va)

/-- A part of the operation is in flight to or from the external aperture, the metadata of an expanding copy included. -/
def apertureOp (o : Op) : Bool :=
  let meta_ (a : Part) : Bool := match o.kind with
    | .copy x => x.xp && match planOf x with
      | some p => inAperture o (x.maddr + a.off / p.db / 2)
      | none => false
    | _ => false
  match o.kind with
  | .ckick _ _ recs => recs.any fun r => r.accepted && r.parts.any fun a => a.st == 0 && inAperture (recOp o r) a.gva
  | _ => o.accepted && (allParts o).any fun a => a.st == 0 && (inAperture o a.gva || meta_ a)

/-- The operation is a COLL that waits for a rank on another device. -/
def awaitsPeer (s : State) (o : Op) : Bool :=
  match o.kind, collArg o.kind with
  | .coll _ _ _ _ _ _ _ (some (cid, k, _)), some x =>
    (match callAt s cid k with
    | some c => !callFull c && (List.range c.ranks).any fun r =>
        !(c.joined.any fun j => j.rank == r) && field (memberAt s o (commTable s o x) r) 15 0 != s.hub.cfg.device
    | none => false)
  | _, _ => false

/-- The launch moves data over the external aperture, or waits on another device (R412). -/
def launchIo (s : State) (n : Nat) : Bool :=
  (s.posted.any fun p => p.launch == n && p.aperture)
    || s.ops.any fun o => !o.sup && o.launch == n && (apertureOp o || awaitsPeer s o)

/-- The tick counts under the first class that applies (R412). -/
def tickPacket (s : State) (p : Packet) : Packet :=
  if !p.counting then p
  else if s.hub.pslots.any fun x => x.launch == p.launch && x.ended.isNone then { p with fault := p.fault + 1 }
  else if launchIo s p.launch then { p with io := p.io + 1 }
  else if s.cores.all fun k => (k.team.map (·.launch)) != some p.launch then { p with out := p.out + 1 }
  else { p with exec := p.exec + 1 }

/-- TIME moves on by a tick, and the arithmetic clock by its share of one (R8, R429). -/
def tickClock (s : State) : State :=
  let f := s.frac + s.svc.clk
  { s with
    time := s.time + 1, cycle := s.cycle + f / 1200, frac := f % 1200, phase := 0
    cores := s.cores.map fun (k : Core) => { k with threads := k.threads.map tickThread }
    hub := { s.hub with packets := s.hub.packets.map (tickPacket s) } }

/-- Writes to debug blocks whose 256 cycles have passed come into force (R398). -/
def ripenDbg (s : State) : State :=
  ((List.range s.cores.length).filter fun c => match (s.core c).dbgDue with
    | some x => decide (x ≤ s.cycle)
    | none => false).foldl State.takeDbg s

def tick (s : State) : State := ripenDbg (tickClock s).lateMboxes

/-! ### What is due in a tick, and the order of a tick (log entry 2) -/

/-- An event with its unit. -/
abbrev Ev := Instr × Nat × Nat × Nat

def numbers {α : Type} (l : List α) : List Nat := List.range l.length

/-- An access to a ring-slot tag. -/
def tagAccess (a : Access) : Bool := match a.kind with | .slotClaim .. | .slotTake _ | .slotFree .. => true | _ => false

/-- The own core's changes of a tag come before those that partner parts count there (R76). -/
def accessRank (a : Access) (c sl : Nat) : Nat :=
  match a.path with
  | .own => if tagAccess a then tickRank 0 1 c sl else tickRank 1 0 c sl
  | .partner => tickRank 2 0 c sl

/-- Of the words that issue in a tick, those that resolve and then those that complete tasks come first, then the lower core
(R254). -/
def issueRank (s : State) (c : Nat) : Nat :=
  match (s.core c).issue with
  | none => tickRank 6 2 c 0
  | some is => match decodeWord (issueWord (s.core c) is) with
    | .one (.condSet _) => tickRank 6 0 c 0
    | .one (.taskDone _) => tickRank 6 1 c 0
    | _ => tickRank 6 2 c 0

/-- A FENCE, whose deadline comes before the completions of its tick (R43). -/
def fenceWait (w : Wait) : Bool := match w.kind with | .fence .. => true | _ => false

def barrierWait (w : Wait) : Bool := match w.kind with | .barrier .. => true | _ => false

/-- Part `j` of an operation counts on a tag of the partner's: bit 31 of the tag reference names it (R76, R193). -/
def countsFar (s : State) (id j : Nat) : Bool :=
  match opAt s id with
  | none => false
  | some o => match o.kind with
    | .copy x => farTag x.tag
    | .ckick _ _ recs => (recs[j / 65536]?).any fun r => farTag r.tag
    | _ => false

/-- The performance of a posted write counts there. -/
def landsFar (s : State) (id : Nat) : Bool :=
  match s.posted.find? fun p => p.id == id with
  | some p => p.part.any (countsFar s p.op)
  | none => false

/-- Acceptances by the copy engines open a tick, the lower core first (R214). -/
def acceptsOnly (s : State) : Bool := decide (s.phase < tickRank 0 1 0 0)

/-- The rank of an event that the tick gives no place: it comes before all that has one, but for the reads that R11 puts first. -/
def freeRank (s : State) : Nat := if acceptsOnly s then max 1 s.phase else 1

/-- A read from outside that clears what it reads: it returns the value before the events of its tick (R11, R394). -/
def readsClear : Instr → Bool
  | .nlatchRead | .svfaultCtlRead _ | .trdropRead _ | .kstatRead _ => true
  | .systemCoreMemoryAccess store a .. => !store && decide (hubBase ≤ a)
  | _ => false

/-- A supervisor's gathering of core `c` may be made whole by a SUP.PWAIT that ends in this tick (R43). -/
def latePwait (s : State) (c sl : Nat) : Bool :=
  decide (Config.nUserSlots ≤ sl) && (s.core c).threads.any fun t => t.wait.any fun w => w.kind == .supWait

/-- The rank of an event in its tick. The end of a gathering comes behind the waits that end in its tick, whose threads may make
the gathering whole (R43). -/
def eventRank (s : State) (i : Instr) (c sl ix : Nat) : Nat :=
  match i with
  | .directAccessCommit => (match (s.thread c sl).bind fun t => t.acc[ix]? with
    | some a => accessRank a c sl
    | none => s.phase)
  | .enginePartPerformed => if countsFar s ix sl then tickRank 0 2 0 0 else freeRank s
  | .postedWritePerformed => if landsFar s ix then tickRank 0 2 0 0 else freeRank s
  | .engineAccept => (match opAt s ix with
    | some o => if o.cls = 0 then tickRank 0 0 o.core 2 else freeRank s
    | none => freeRank s)
  | .resultLands => tickRank 3 0 c sl
  | .gatherWindowExpiry | .yieldHoldExpiry => 0
  | .delayedTransferArrival => tickRank 4 0 c sl
  | .cntfRowServe => tickRank 7 0 c sl
  | .promiseTimeReached | .phintSave => tickRank 8 0 c sl
  | .waitDeadlineExpiry => (match (s.thread c sl).bind (·.wait) with
    | some w => if fenceWait w then s.phase else if w.kind == .supWait then tickRank 11 1 c sl else tickRank 8 1 c sl
    | none => s.phase)
  | .collectiveDeadlineExpiry => if latePwait s c sl then tickRank 11 2 c sl else tickRank 8 2 c sl
  | .graceDeadlineExpiry | .tillerWithdrawal | .engineReplyLimit | .wakeRecordFire
  | .consumeDeadlineExpiry => tickRank 8 1 c sl
  | .produceDeadlineExpiry => tickRank 8 1 0 0
  | .parkComplete => tickRank 11 0 c sl
  | .winnowerChoice => tickRank 10 0 c 0
  | x => if readsClear x then 0 else freeRank s

/-- The rank of a move; a tick comes behind everything. -/
def moveRank (s : State) : Move → Option Nat
  | .event i c sl ix => some (eventRank s i c sl ix)
  | .issue c => some (issueRank s c)
  | .granary => some ((granRank s).getD s.phase)
  | .tick => none

/-- The rank in which a move that is asked for is made: its own, but for the deadline of a barrier, which serialises withdrawal
against completion (R43): the list says which of the two it records first. -/
def askedRank (s : State) (m : Move) : Option Nat :=
  match m with
  | .event .waitDeadlineExpiry c sl _ => if ((s.thread c sl).bind (·.wait)).any barrierWait then some s.phase else moveRank s m
  | _ => moveRank s m

/-- What is due of a thread, by what it holds: `dueMove` looks whether it can happen. -/
def threadDues (s : State) (c : Nat) (t : Thread) : List Move :=
  let sl := t.id.slot
  let ev (i : Instr) (j : Nat) : Move := .event i c sl j
  (numbers t.acc).filterMap (fun j => match t.acc[j]? with
      | some a => if dueCycle s a ≤ s.cycle && canCommit s c t j then
          some (ev (if isCntf a then .cntfRowServe else .directAccessCommit) j) else none
      | none => none)
    ++ ((numbers t.res).filter (canLand s c t)).map (ev .resultLands)
    ++ (if t.xfer.any fun x => x.at_ ≤ s.cycle then [ev .delayedTransferArrival 0] else [])
    ++ (if t.hold.any fun h => h.yield_ && h.until_ ≤ s.cycle then [ev .yieldHoldExpiry 0] else [])
    ++ (match t.wait with
      | none => []
      | some w => (if dlPassed s.time w.dl then [ev .waitDeadlineExpiry 0, ev .tillerWithdrawal 0] else [])
        ++ (match w.kind with | .fsleep .. => [ev .promiseTimeReached 0] | _ => []))
    ++ ((numbers t.replies).filter fun j => match t.replies[j]? with
      | some r => decide (r.issued + 65536 ≤ s.time)
      | none => false).map (ev .engineReplyLimit)
    ++ (if t.frec.isSome then [ev .parkComplete 0] else [])

/-- A core has threads to choose from. -/
def choosable (s : State) (k : Core) : Bool :=
  slotFree s.cycle k && !k.offline && k.refetch.isNone && k.threads.any fun t => candidate k t && decide (t.pos.free ≤ s.cycle)

/-- What is due of a core. -/
def coreDues (s : State) (c : Nat) : List Move :=
  let k := s.core c
  let ev (b : Bool) (i : Instr) : List Move := if b then [.event i c 0 0] else []
  (if trOn k && k.dbg.intvEnd ≤ s.time then [.event .traceIntervalEnd c 0 0] else [])
    ++ (if k.threads.isEmpty then [] else
      k.threads.flatMap (threadDues s c)
        ++ ev (k.threads.any fun t => gatherHeld t && t.hold.any fun h => decide (h.until_ ≤ s.cycle)) .gatherWindowExpiry
        ++ [false, true].flatMap (fun sup => if k.threads.any fun t => t.id.sup == sup && t.gw.any fun g => dlPassed s.time g.dl then
            [.event .collectiveDeadlineExpiry c (if sup then Config.nUserSlots else 0) 0] else [])
        ++ (if s.svc.computeDown then [] else
          (if (wordDue s c).isSome then [.issue c] else []) ++ ev (choosable s k) .winnowerChoice))
    ++ (match k.pre with
      | none => []
      | some p =>
        if p.saved then []
        else if p.grace ≤ s.time then ev (!p.graceOver || (userThreads k).any (savable k)) .graceDeadlineExpiry
        else ((userThreads k).filter (savable k)).map fun t => .event .phintSave c t.id.slot 0)
    ++ ev (k.refetch.any fun x => decide (x.2.2 ≤ s.cycle)) (.ifetchRefetchComplete c true)

/-- What is due of the hub and of the Granary. -/
def hubDues (s : State) : List Move :=
  (s.hub.queues.filter fun x => x.2.cwait.any fun w => decide (w.1 ≤ s.time)).map (fun x => .event .consumeDeadlineExpiry x.1 0 0)
    ++ (s.hub.packets.filter fun p => p.pdl.any fun w => decide (w.1 ≤ s.time)).map (fun p => .event .produceDeadlineExpiry 0 0 p.id)
    ++ ((List.range 4).flatMap fun d =>
      (numbers (s.gran.wakes.filter fun w => w.die == d)).map fun j => .event .wakeRecordFire d 0 j)
    ++ (if (s.hub.nextSlice != 0 && s.hub.offsetSet) || !s.hub.sliceDue.isEmpty then [.event .timeSliceBoundary 0 0 0] else [])
    ++ (if (granRank s).isSome then [.granary] else [])

/-- The moves due in this tick whose rank lies from `s.phase` on and below `lim`, in order of rank. -/
def duesBelow (s : State) (lim : Option Nat) : List (Nat × Move) :=
  let all := (List.range s.cores.length).flatMap (coreDues s) ++ hubDues s
  sortBy (fun a b => decide (a.1 ≤ b.1)) (all.filterMap fun m => match moveRank s m with
    | some r => if s.phase ≤ r && (match lim with | some n => decide (r < n) | none => true) then some (r, m) else none
    | none => none)

/-! ### The default order (log entry 2) -/

/-- The events without a stated time that can happen in a thread. -/
def threadEvents (c : Nat) (t : Thread) : List Ev :=
  let sl := t.id.slot
  if t.ops.isEmpty then [] else (List.range 5).map fun q => (Instr.counterReport, c, sl, q)

def coreEvents (s : State) (c : Nat) : List Ev :=
  (s.core c).threads.flatMap (threadEvents c)
    ++ [(.faultRecordEnqueue, c, 0, 0), (.supSaveLoadComplete, c, 0, 0), (.subarrayWakeComplete, c, 0, 0),
        (.subarrayGate, c, 0, 0), (.teamEnd, c, 0, 0), (.teamDrainComplete, c, 0, 0), (.teamRestore, c, 0, 0)]
    ++ match (s.core c).retireWant with | some hard => [(.coreRetirement c hard, c, 0, 0)] | none => []

/-- The parts of an operation, as `enginePartPerformed` numbers them. -/
def partNumbers (o : Op) : List Nat :=
  match o.kind with
  | .copy _ | .gather .. => numbers o.parts
  | .ckick _ _ recs => (numbers recs).flatMap fun j => match recs[j]? with
    | some r => (numbers r.parts).map fun i => 65536 * j + i
    | none => []
  | _ => [0]

def opEvents (o : Op) : List Ev :=
  [(.translationWalk, 0, 0, o.id), (.engineAccept, 0, 0, o.id)]
    ++ (partNumbers o).map (fun j => (Instr.enginePartPerformed, 0, j, o.id)) ++ [(.operationCompletion, 0, 0, o.id)]

/-- The events of a packet. -/
def packetEvents (p : Packet) : List Ev :=
  let one (i : Instr) : Ev := (i, 0, 0, p.id)
  [one (match pkOp p.ws with
    | 0 => .nopPacket | 1 => .launch | 2 => .mqload | 3 => .mqunload | 4 => .mqkick | 5 => .preempt | 6 => .restore
    | _ => .supplace), one .packetProduce]

/-- The events of a die's pager slots. -/
def dieEvents (s : State) (d : Nat) : List Ev :=
  (s.hub.pslots.filter fun x => x.die == d && !x.posted).map fun x => (Instr.pagerRequestPost, d, 0, x.slot)

/-- The events of the engines, of the Granary and of the hub. -/
def hubEvents (s : State) : List Ev :=
  s.ops.flatMap opEvents ++ (s.posted.map fun p => (Instr.postedWritePerformed, 0, 0, p.id))
    ++ (List.range 4).flatMap (dieEvents s)
    ++ ((s.gran.entries.filter fun x => x.committing).map fun x => (Instr.tillerCommit, x.die, 0, x.ix))
    ++ (if s.gran.entries.isEmpty then [] else [(.affinityWindowExpiry, 0, 0, 0)])
    ++ s.hub.packets.flatMap packetEvents
    ++ (s.hub.queues.map fun x => (Instr.packetStart, x.1, 0, 0))
    ++ (s.launches.flatMap fun l => [(Instr.teamPlacement, 0, 0, l.num), (.launchEnd, 0, 0, l.num)])
    ++ (s.hub.maqs.map fun x => (Instr.kickDepart, x.1, 0, 0))
    ++ (s.svc.retrain.filter fun x => x.2 != 0 && decide (x.2 ≤ s.time)).map (fun x => (Instr.portRetrainComplete, x.1 / 2, x.1 % 2, 0))
    ++ [(.shootdownDone, 0, 0, 0), (.clockHoldoverExpiry, 0, 0, 0), (.plinthWake, 0, 0, 0),
        (.fwVerify, 0, 0, 0)]

/-- Nothing can happen on the core. -/
def idleCore (k : Core) : Bool :=
  k.team.isNone && k.sup.isNone && k.threads.isEmpty && k.savedTeams.isEmpty && k.pre.isNone && k.faultWait.isEmpty
    && k.mx.waking.isNone && (k.mx.idleFor == 0 || k.mx.gated != 0) && k.retireWant.isNone

/-- A wake record is held for a thread that is saved, or waits in TASK.WAITF in its slot until it may be (R252, R361). -/
def wakeKept (s : State) (w : Wake) : Bool :=
  let k := s.core w.core
  let its (t : Thread) : Bool := !t.id.sup && t.id.launch == w.launch && t.id.tid == w.tid
  let lending (t : Thread) : Bool := t.wait.any fun x => match x.kind with | .future _ _ true => true | _ => false
  k.saved.any its || (k.savedTeams.any fun x => x.threads.any its) || k.threads.any fun t => its t && lending t

/-- The halts that are complete are cleared, whatever completed them (R398), and the wake records of threads whose waits have
ended in their slots are free. -/
def endStep (s : State) : State :=
  { s with cores := s.cores.map clearHalt, gran := { s.gran with wakes := s.gran.wakes.filter (wakeKept s) } }

/-- A move is made. A request to issue stops the machine once the compute dies are powered down (R429). -/
def perform (s : State) : Move → Out
  | .event i cur sub ix => fire s i cur sub ix
  | .issue c => if s.svc.computeDown then .fault .computeDiesDown else issueOn s c
  | .granary => .next s.settleGran
  | .tick => .next (tick s)

/-- The move changes the machine now, and not only what it names as the unit of the event. -/
def effective (s : State) (m : Move) : Bool :=
  match m with
  | .issue _ => true
  | _ => match perform { s with phase := (moveRank s m).getD 0 } m with
    | .next s1 => { s1 with phase := s.phase, cur := s.cur, sub := s.sub, ix := s.ix } != s
    | _ => true

/-- The first move that is due below a rank. -/
def dueFirst (s : State) (lim : Option Nat) : Option Move := ((duesBelow s lim).map (·.2)).find? (effective s)

/-- The first event without a stated time that can happen, core by core and then in the hub and the engines, and the agent
that makes it: none when every agent has had its turn. -/
def freeMove (s : State) : Option (Move × Nat) :=
  let evs (a : Nat) : List Ev := if a < 256 then (if idleCore (s.core a) then [] else coreEvents s a) else hubEvents s
  ((List.range 257).filter fun a => decide (s.turn ≤ a)).findSome? fun a =>
    (((evs a).map fun x => Move.event x.1 x.2.1 x.2.2.1 x.2.2.2).find? fun m =>
      ((moveRank s m).all fun r => decide (s.phase ≤ r)) && effective s m).map fun m => (m, a)

/-- A move is made next, in its rank. -/
def State.taken (s : State) (m : Move) : Move × State := (m, { s with phase := (moveRank s m).getD s.phase })

/-- A move that is asked for is made next; `s1` is the machine that makes it. -/
def State.takenAs (s1 : State) (r : Nat) (m : Move) : Move × State := (m, { s1 with phase := r })

/-- A move is asked for: what is due before it in the tick comes first, and what may no longer come in the tick waits for the
next one. `s1` is the machine once the move is no longer asked for. -/
def asked (s s1 : State) (m : Move) : Move × State :=
  match askedRank s m with
  | none => (match dueFirst s none with
    | some d => s.taken d
    | none => (m, s1))
  | some r =>
    if r < s.phase then s.taken ((dueFirst s none).getD .tick)
    else match dueFirst s (some r) with
      | some d => s.taken d
      | none => s1.takenAs r m

/-- The move that comes next, and the machine that makes it: as the list asks, else as the default order does. -/
def takeMove (s : State) : Move × State :=
  match s.moves with
  | m :: r => asked s { s with moves := r } m
  | [] => match if acceptsOnly s then freeMove s else none with
    | some (m, a) => asked s { s with turn := a } m
    | none => asked s { s with turn := 0 } .tick

/-! ### Placing an instruction at the fetch -/

/-- The thread that `withFetchWord` places: alone in its sheaf, at word 1, as one that has just been resumed there. -/
def fetchThread (launch : Nat) (sup : Bool) : Thread :=
  let t := newThread ⟨if sup then Config.nUserSlots else 0, 1, sup, launch, 0, 0, 16, 1024⟩
  { t with pos := { t.pos with st := .inSheaf, widx := 1, gmask := 1 }, dbg := { t.dbg with fresh := true } }

/-- The header of the clause that `withFetchWord` places: one word, collective when that word is a cross-lane one. -/
def fetchHeader (w : Nat) : Quad :=
  let coll := match decodeNat (w % 2 ^ 64) with | .one i => (crossMask i).isSome | _ => false
  BitVec.ofNat 64 (3 * 2 ^ 62 + 2 ^ 57 + 15 * 2 ^ 41 + 15 * 2 ^ 37 + coll.toNat * 2 ^ 32)

/-- The word is one that only a supervisor thread may run (R117, R126). -/
def supWord (w : Nat) : Bool :=
  match decodeNat (w % 2 ^ 64) with
  | .one i => !privOk false i
  | .pair a b => !privOk false a || !privOk false b
  | .bad _ => false

/-- Core `k` with word `w` in its slot, due at cycle `cyc`. -/
def fetchCore (w cyc now : Nat) (k : Core) : Core :=
  let sup := supWord w
  let code := [fetchHeader w, BitVec.ofNat 64 (w % 2 ^ 64)]
  { k with
    sup := if sup then some ⟨code, 16, 0⟩ else k.sup
    code := if sup then k.code else code
    threads := [fetchThread ((k.team.map (·.launch)).getD 1) sup]
    issue := (toHeader (fetchHeader w)).map fun h =>
      { sup := sup, hdr := 0, head := h, widx := 1, slots := [if sup then Config.nUserSlots else 0], first := 1, next := cyc,
        wrote := [], stalled := none, half := none, stalls := 0, start := now, mark := none, groups := [] }
    portBusy := 0, refetch := none, regErr := [], dbgDue := none }

end Sys2Proof.Machine
end

