-- ==== Sys2Proof/Machine/Step.lean ====
section
/-! DEFINITION. One step of the machine: one move (log entry 2). -/

namespace Sys2Proof.Machine

open Sys2Proof

/-- A step makes the next move. -/
def step (s : State) : Host.Outcome State Fault Refusal :=
  let x := takeMove s
  match perform x.2 x.1 with
  | .next s1 => .next (endStep s1)
  | r => r

/-- `s` with the word `w` in the issue slot of core 0, in a clause of its own run by one thread, and that slot's issue as
the next move. Every instruction is one word of 64 bits (R112). -/
def State.withFetchWord (s : State) (_nbits w : Nat) : State :=
  { s with cores := s.cores.set 0 (fetchCore w s.cycle s.time (s.core 0)), moves := [.issue 0], phase := 0,
           svc := { s.svc with computeDown := false } }

end Sys2Proof.Machine
end

