-- ==== Sys2Proof/Safety.lean ====
section
/-! DEFINITION. What counts as a safe run, in the terms that the statements use: no step of it stops the machine, and every
state it passes keeps the forms that the model's operations rely on. -/

namespace Sys2Proof

open Machine

/-- The step from `s` answers a next state: no fault and no refusal. -/
def stepsOn (s : State) : Prop := ∃ t, step s = .next t

/-- `t` is reached from `s` by steps that all answer a next state. -/
inductive Reaches (s : State) : State → Prop
  | here : Reaches s s
  | step {t u : State} : Reaches s t → Machine.step t = .next u → Reaches s u

/-- A run from `s` never stops. -/
def Safe (s : State) : Prop := ∀ t, Reaches s t → stepsOn t

/-- The memory keeps its canonical form: addresses rise, and no byte listed is one that an unlisted address reads as. -/
def memOk (s : State) : Prop := memWf s.mem = true

/-- No completed halt keeps HALTR.GO, once the last write of the debug block is in force: hardware clears it (R398). -/
def haltsSettled (s : State) : Prop :=
  ∀ k ∈ s.cores, (k.dbgNow.haltr.getLsbD 10 && k.dbgDue.isNone && k.team.isSome && haltOver k k.dbgNow.haltr.toNat) = false

end Sys2Proof
end

