-- ==== Sys2Proof/Certificates/Slice0/Terms.lean ====
section
/-! DEFINITION. The terms in which the statements of this slice speak: how a word ends in each thread of its core, and short
names for operands. -/

namespace Sys2Proof.Spec

open Sys2Proof Sys2Proof.Machine

/-- How one thread of the core ends a word whose effect in a thread is `eff`: a thread outside the sheaf or with a false
guard is unchanged (R32), a thread for which the word is illegal parks (R129, R344), every other has the effect. -/
def meets (e : Env) (i : Instr) (eff : Env → Thread → TRes) (t : Thread) : Thread :=
  if takesWord e i t = true then
    (if legalHere e i t = true then
      (match eff e t with
      | .ok u => wordDone e.is u
      | .trap cause code arg => park e.ck t cause e.is.widx code arg)
    else park e.ck t .illegal e.is.widx 0 0)
  else t

/-- The machine after a word that acts in each thread of its core alone: nothing but the core's threads changes. -/
def after (e : Env) (i : Instr) (eff : Env → Thread → TRes) (s : State) : State :=
  s.withCore e.c { e.k with threads := e.k.threads.map (meets e i eff) }

/-- The word completes: `exec` answers the next state that `eff` gives, wherever a word is at issue. -/
def Runs (i : Instr) (eff : Env → Thread → TRes) : Prop :=
  ∀ s e, s.env = some e → exec i s = .next (after e i eff s)

/-- As `Runs`, and the arrivals that the word brings about release what they release (R34, R38). -/
def RunsOn (i : Instr) (eff : Env → Thread → TRes) : Prop :=
  ∀ s e, s.env = some e → exec i s = .next (settleWord (after e i eff s))

/-- As `Runs` and `RunsOn`, for machines at issue that meet `P`. -/
def RunsIf (P : Env → Prop) (i : Instr) (eff : Env → Thread → TRes) : Prop :=
  ∀ s e, s.env = some e → P e → exec i s = .next (after e i eff s)
def RunsOnIf (P : Env → Prop) (i : Instr) (eff : Env → Thread → TRes) : Prop :=
  ∀ s e, s.env = some e → P e → exec i s = .next (settleWord (after e i eff s))

/-- No thread of the core runs a tiller (R261). -/
def noTillers (e : Env) : Prop := ∀ t ∈ e.k.threads, runsTiller t = false

/-- The word has exactly one taker, `t`, alone in its slot; it is legal there, and illegal in no thread that takes it. -/
def Alone (e : Env) (i : Instr) (t : Thread) : Prop :=
  takers e i = [t.id.slot] ∧ threadAt e.k.threads t.id.slot = some t
    ∧ (∀ u ∈ e.k.threads, u.id.slot = t.id.slot → u = t)
    ∧ ∀ u ∈ e.k.threads, takesWord e i u = true → legalHere e i u = true

/-- A transfer to word `h`: an arrival at the header there, or a trap before any effect when no header is there (R33,
R145). -/
def jump (e : Env) (t u : Thread) (h : Nat) : TRes :=
  if isHeader e.k t.id.sup h = true then .ok (arriveAt e.ck e.k u h none .flow) else .trap .illegal 0 0

/-- The eight 4-byte stores of a spill at physical address `p`, the oldest entry lowest (R147). -/
def spillOf (e : Env) (t : Thread) (p : Nat) : List Access :=
  (List.range 8).map fun j =>
    { id := accId e j, path := .own, kind := .store ((t.rs.ent.getD j 0).setWidth 64), phys := p + 4 * j, size := 4,
      cyc := e.ck.cyc, inv := false, rel := false, flag := none, after := 0, posts := [] }

/-- What a call to word `h` does in a thread that runs no tiller (R145 to R147). -/
def callTo (e : Env) (t : Thread) (h : Nat) : TRes :=
  let back : Reg := BitVec.ofNat 32 (e.is.hdr + e.is.head.len + 1)
  if isHeader e.k t.id.sup h = false then .trap .illegal 0 0
  else if t.rs.depth = 65535 then .trap .returnOverflow 0 0
  else if t.rs.held ≠ 8 then
    jump e t { t with rs := ⟨t.rs.depth + 1, t.rs.held + 1, t.rs.ent.set t.rs.held back⟩ } h
  else
    match checkAccOwn e t (t.sr.sp - 32) 32 4 false true with
    | .trap c code => .trap c code ((t.sr.sp - 32).setWidth 64)
    | .at_ p _ =>
      jump e t { t with
        sr := { t.sr with sp := t.sr.sp - 32 }, rs := ⟨t.rs.depth + 1, 1, t.rs.ent.set 0 back⟩
        acc := if isDetached t && !inOutBuf t (t.sr.sp - 32) 32 then t.acc else t.acc ++ spillOf e t p } h

/-! ### Operands by name (R117, R119) -/

def a32 (f : Full) (t : Thread) : Reg := readV t f.a.toNat
def a64 (f : Full) (t : Thread) : Quad := readPair t f.a.toNat
def d32 (f : Full) (t : Thread) : Reg := readV t f.d.toNat
def d64 (f : Full) (t : Thread) : Quad := readPair t f.d.toNat

/-- Vb, or bits 31:0 of the uniform operand. -/
def b32 (f : Full) (e : Env) (t : Thread) : Reg := readB32 e t f

/-- Vb.d, or the uniform operand. -/
def b64 (f : Full) (e : Env) (t : Thread) : Quad := readB64 e t f

/-- Bits 7:0 of operand B: a shift's count (R137). -/
def count (f : Full) (e : Env) (t : Thread) : Nat := ((readB32 e t f).setWidth 8).toNat

/-- The destination takes `x`, or as a pair `y` when the type is 64 bits wide. -/
def put (f : Full) (x : Reg) (y : Quad) (t : Thread) : Thread :=
  if tyBits f.ty = 64 then writePair t f.d.toNat y else writeV t f.d.toNat x

/-- The types of integer arithmetic (R134). -/
def IntTy (f : Full) : Prop := f.ty = .s32 ∨ f.ty = .n32

/-- The value of a register under an integer type: signed for .s32 (R132). -/
def val (f : Full) (x : Reg) : Int := if f.ty = .s32 then x.toInt else x.toNat

/-- R139: one result byte of PERM, from its 5-bit code. -/
def permByteOf (x : Reg) (code : Nat) : BitVec 8 :=
  if code < 4 then x.extractLsb' (8 * code) 8
  else if code < 12 then (x.extractLsb' (4 * (code - 4)) 4).setWidth 8
  else if code < 20 then (x.extractLsb' (4 * (code - 12)) 4).signExtend 8
  else if code = 21 then 0xFF else 0

/-- R142: the conditions EQ, NE, LT, LE, GT, GE between two integers. -/
def holds (cc : Nat) (x y : Int) : Prop :=
  (cc = 0 ∧ x = y) ∨ (cc = 1 ∧ x ≠ y) ∨ (cc = 2 ∧ x < y) ∨ (cc = 3 ∧ x ≤ y) ∨ (cc = 4 ∧ x > y) ∨ (cc = 5 ∧ x ≥ y)

/-- A value under the type of SETP: signed for .s32 and .s64 (R132, R142). -/
def cmpVal (f : Full) (x : Reg) (y : Quad) : Int :=
  if tyBits f.ty = 64 then (if isSigned f.ty then y.toInt else y.toNat) else if isSigned f.ty then x.toInt else x.toNat

/-! ### Exact values (R94, R101, R102) -/

/-- The rational value of a finite float value. -/
def ratOf : FV → Option Rat
  | .fin neg m e => some ((if neg then -1 else 1) * (m : Rat) * (2 : Rat) ^ e)
  | _ => none

/-- Bias, fraction bits and greatest finite value of a float format (R94, R95). -/
def fmtTable : Ty → Int × Nat × Rat
  | .f32 => (127, 23, (2 - (2 : Rat) ^ (-23 : Int)) * 2 ^ 127)
  | .f16 => (15, 10, 65504)
  | .bf16 => (127, 7, (2 - (2 : Rat) ^ (-7 : Int)) * 2 ^ 127)
  | .e5m2 => (15, 2, 57344)
  | .e4m3 => (7, 3, 448)
  | _ => (1, 1, 6)

section Grid
variable {K : Type} [Field K] [LinearOrder K] [IsStrictOrderedRing K] [FloorRing K]

/-- The unit of the grid at a magnitude (R102). -/
def ulpAt (ty : Ty) (a : K) : K := (2 : K) ^ (max (Int.log 2 a) (1 - (fmtTable ty).1) - ((fmtTable ty).2.1 : Int))

/-- The magnitude that R102 rounds `a` to. -/
def roundedMag (ty : Ty) (rm : Rm) (neg : Bool) (a : K) : K :=
  let u := ulpAt ty a
  let lo := (⌊a / u⌋ : K) * u
  let hi := lo + u
  if a = lo then lo
  else match rm with
    | .rne => if a - lo < hi - a then lo else if hi - a < a - lo then hi else if ⌊a / u⌋ % 2 = 0 then lo else hi
    | .rz => lo
    | .rup => if neg then lo else hi
    | .rdn => if neg then hi else lo

/-- The flags that R102 sets apart from overflow: NX when inexact, UF when also below the least normal magnitude. -/
def roundedFlags (ty : Ty) (a : K) : Reg :=
  let u := ulpAt ty a
  if a = (⌊a / u⌋ : K) * u then 0 else if a < (2 : K) ^ (1 - (fmtTable ty).1) then 0x18 else 0x10

/-- R102: `r` is Round of the nonzero value of sign `neg` and magnitude `a`: the value and the flags that R102's steps name,
and above the greatest finite value what the Overflow table names, with OF and NX. -/
def IsRound (ty : Ty) (rm : Rm) (sat neg : Bool) (a : K) (r : Rounded) : Prop :=
  let y := roundedMag ty rm neg a
  let gives (x : K) : Prop := ∃ q : Rat, ratOf (fvOf ty r.code) = some q ∧ (q : K) = (if neg then -1 else 1) * x
  let top : Rat := (fmtTable ty).2.2
  if (top : K) < y then
    r.flags = roundedFlags ty a ||| 0x14
      ∧ (if ty = .e4m3 ∧ sat = false then r.code = 0x7F
        else if ty = .e4m3 ∨ ty = .e2m1 then gives top
        else if rm = .rne ∨ (rm = .rup ∧ neg = false) ∨ (rm = .rdn ∧ neg = true) then fvOf ty r.code = .inf neg
        else gives top)
  else r.flags = roundedFlags ty a ∧ gives y ∧ fvNeg (fvOf ty r.code) = neg

end Grid

/-! ### Special operands (R95, R96, R108, R164) -/

/-- The canonical NaN of the formats of scalar and packed arithmetic, without a flag and with IV. -/
def plainNan (ty : Ty) : Rounded := ⟨if ty = .f32 then 0x7FC00000 else if ty = .f16 then 0x7E00 else 0x7FC0, 0⟩
def badNan (ty : Ty) : Rounded := ⟨(plainNan ty).code, 1⟩

/-- An infinity and a zero of those formats, without a flag. -/
def infinity (ty : Ty) (neg : Bool) : Rounded :=
  ⟨(if ty = .f32 then 0x7F800000 else if ty = .f16 then 0x7C00 else 0x7F80) + if neg then 2 ^ (tyBits ty - 1) else 0, 0⟩
def zero (ty : Ty) (neg : Bool) : Rounded := ⟨if neg then 2 ^ (tyBits ty - 1) else 0, 0⟩

/-- One value is a zero and the other an infinity. -/
def zeroByInf (a b : FV) : Prop := (ratOf a = some 0 ∧ ∃ x, b = .inf x) ∨ (ratOf b = some 0 ∧ ∃ x, a = .inf x)

/-- The product of two values is the infinity of sign `x`. -/
def infProduct (a b : FV) (x : Bool) : Prop :=
  (∃ y, a = .inf y ∨ b = .inf y) ∧ a ≠ .nan ∧ b ≠ .nan ∧ ¬ zeroByInf a b ∧ x = (fvNeg a != fvNeg b)

/-- R96: the sign of an exact zero sum of addends of signs `x` and `y`. -/
def zeroSign (rm : Rm) (x y : Bool) : Bool := if x = y then x else decide (rm = .rdn)

/-- R164: the special results of a sum. -/
def SumCases (ty : Ty) (rm : Rm) (a b : FV) (r : Rounded) : Prop :=
  (a = .nan ∨ b = .nan → r = plainNan ty)
  ∧ (∀ x, a = .inf x → b = .inf (!x) → r = badNan ty)
  ∧ (∀ x, a = .inf x → b ≠ .nan → b ≠ .inf (!x) → r = infinity ty x)
  ∧ (∀ x, b = .inf x → a ≠ .nan → a ≠ .inf (!x) → r = infinity ty x)
  ∧ ∀ x y, ratOf a = some x → ratOf b = some y → x + y = 0 → r = zero ty (zeroSign rm (fvNeg a) (fvNeg b))

/-- R164: the special results of a product. -/
def ProductCases (ty : Ty) (a b : FV) (r : Rounded) : Prop :=
  (zeroByInf a b → r = badNan ty)
  ∧ (a = .nan ∨ b = .nan → r = plainNan ty)
  ∧ (∀ x, infProduct a b x → r = infinity ty x)
  ∧ ∀ x y, ratOf a = some x → ratOf b = some y → x * y = 0 → r = zero ty (fvNeg a != fvNeg b)

/-- R164: the special results of a product and an addend rounded once. -/
def FmaCases (ty : Ty) (rm : Rm) (a b d : FV) (r : Rounded) : Prop :=
  (zeroByInf a b → r = badNan ty)
  ∧ (¬ zeroByInf a b → a = .nan ∨ b = .nan ∨ d = .nan → r = plainNan ty)
  ∧ (∀ x, infProduct a b x → d = .inf (!x) → r = badNan ty)
  ∧ (∀ x, infProduct a b x → d ≠ .nan → d ≠ .inf (!x) → r = infinity ty x)
  ∧ (∀ x y z, ratOf a = some y → ratOf b = some z → d = .inf x → r = infinity ty x)
  ∧ ∀ x y z, ratOf a = some x → ratOf b = some y → ratOf d = some z → x * y + z = 0 →
      r = zero ty (zeroSign rm (fvNeg a != fvNeg b) (fvNeg d))

/-- R108: the special results of `m` products and an addend rounded once to FP32. -/
def DotCases (m : Nat) (a b : Nat → FV) (d : FV) (r : Rounded) : Prop :=
  let hasNan : Prop := d = .nan ∨ ∃ k < m, a k = .nan ∨ b k = .nan
  let clash : Prop := ∃ k < m, zeroByInf (a k) (b k)
  let hasInf (x : Bool) : Prop := d = .inf x ∨ ∃ k < m, infProduct (a k) (b k) x
  (hasNan → r = plainNan .f32)
  ∧ (¬ hasNan → clash ∨ (hasInf true ∧ hasInf false) → r = badNan .f32)
  ∧ (∀ x, ¬ hasNan → ¬ clash → hasInf x → ¬ hasInf (!x) → r = infinity .f32 x)
  ∧ ∀ (y z : Nat → Rat) (c : Rat), (∀ k < m, ratOf (a k) = some (y k) ∧ ratOf (b k) = some (z k)) → ratOf d = some c →
      ((List.range m).map fun k => y k * z k).sum + c = 0 →
      ((∀ k < m, fvNeg (a k) ≠ fvNeg (b k)) ∧ fvNeg d = true → r = zero .f32 true)
      ∧ ((∃ k < m, fvNeg (a k) = fvNeg (b k)) ∨ fvNeg d = false → r = zero .f32 false)

/-- The order of values that are not NaN, in which the zeros agree (R165, R166). -/
def below (a b : FV) : Prop :=
  a ≠ .nan ∧ b ≠ .nan ∧ ((a = .inf true ∧ b ≠ .inf true) ∨ (b = .inf false ∧ a ≠ .inf false)
    ∨ ∃ x y, ratOf a = some x ∧ ratOf b = some y ∧ x < y)
def same (a b : FV) : Prop := (∃ x, a = .inf x ∧ b = .inf x) ∨ ∃ x, ratOf a = some x ∧ ratOf b = some x

/-- R163, R164: `r` is `a + b` rounded once. -/
def IsSum (ty : Ty) (rm : Rm) (a b : FV) (r : Rounded) : Prop :=
  SumCases ty rm a b r
  ∧ ∀ x y, ratOf a = some x → ratOf b = some y → x + y ≠ 0 → IsRound ty rm false (decide (x + y < 0)) |x + y| r

/-- R163, R164: `r` is `a × b` rounded once. -/
def IsProduct (ty : Ty) (rm : Rm) (a b : FV) (r : Rounded) : Prop :=
  ProductCases ty a b r
  ∧ ∀ x y, ratOf a = some x → ratOf b = some y → x * y ≠ 0 → IsRound ty rm false (decide (x * y < 0)) |x * y| r

/-! ### Values across lanes (R108, R110, R165, R204) -/

/-- The FP32 value of a code. -/
def f32 (x : Nat) : FV := fvOf .f32 x

/-- R108: `r` is the exact sum of values over a positive count, rounded once, with R108's special cases. -/
def SumOver (ty : Ty) (count : Nat) (vs : List FV) (r : Rounded) : Prop :=
  (FV.nan ∈ vs → r = plainNan ty)
  ∧ (FV.nan ∉ vs → FV.inf true ∈ vs → FV.inf false ∈ vs → r = badNan ty)
  ∧ (∀ x, FV.nan ∉ vs → FV.inf x ∈ vs → FV.inf (!x) ∉ vs → r = infinity ty x)
  ∧ ∀ qs : List Rat, vs.map ratOf = qs.map some →
      (qs.sum ≠ 0 → IsRound ty .rne false (decide (qs.sum < 0)) (|qs.sum| / count) r)
      ∧ (qs.sum = 0 → r = zero ty (!vs.isEmpty && vs.all fvNeg))

/-- R181: TBL between two entries when f is not 0: `f` is infinite of sign `y`, or the rational `q`. -/
def IsBetween (e0 e1 : FV) (f : Bool ⊕ Rat) (r : Rounded) : Prop :=
  (e0 = .nan ∨ e1 = .nan → r = plainNan .f32)
  ∧ (e0 ≠ .nan → e1 ≠ .nan → (∃ y, e0 = .inf y ∨ e1 = .inf y) → r = badNan .f32)
  ∧ ∀ a c, ratOf e0 = some a → ratOf e1 = some c →
    match f with
    | .inl y => if a = c then r = badNan .f32 else r = infinity .f32 (y != decide (c < a))
    | .inr q =>
      let z := a + q * (c - a)
      if z = 0 then ratOf (f32 r.code) = some 0 ∧ r.flags = 0 else IsRound .f32 .rne false (decide (z < 0)) |z| r

/-- R178, R181: `r` is what the activation table gives for the operand of code `x`. -/
def IsTable (b : ActBank) (x : Nat) (r : Rounded) : Prop :=
  let d := b.desc.toNat
  let x0 := f32 (d % 2 ^ 32)
  let sh : Int := (b.desc.extractLsb' 32 8).toInt
  let clamp := b.desc.getLsbD 40
  let bad : Prop := x0 = .nan ∨ (∃ y, x0 = .inf y) ∨ d / 2 ^ 41 ≠ 0
  let code (k : Nat) : Nat := (tblGet b.ent k 0).toNat
  let ent (k : Nat) : FV := f32 (code k)
  let exact (k : Nat) : Prop := (ent k = .nan → r = plainNan .f32) ∧ (ent k ≠ .nan → r = ⟨code k, 0⟩)
  (bad → r = badNan .f32)
  ∧ (¬ bad → f32 x = .nan → r = plainNan .f32)
  ∧ (¬ bad → ∀ y, f32 x = .inf y →
      if clamp = true then exact (if y then 0 else 1023)
      else IsBetween (ent (if y then 0 else 1022)) (ent (if y then 1 else 1023)) (.inl y) r)
  ∧ (¬ bad → ∀ q p, ratOf (f32 x) = some q → ratOf x0 = some p →
      let u := (q - p) * 2 ^ (-sh)
      if u < 0 then (if clamp = true then exact 0 else IsBetween (ent 0) (ent 1) (.inr u) r)
      else if 1023 ≤ u then
        (if clamp = true then exact 1023
        else IsBetween (ent 1022) (ent 1023) (.inr (u - 1022)) r)
      else if u = ⌊u⌋ then exact ⌊u⌋.toNat
      else IsBetween (ent ⌊u⌋.toNat) (ent (⌊u⌋.toNat + 1)) (.inr (u - ⌊u⌋)) r)

/-- R108, R204: `r` is the exact sum of the codes' values, rounded once. -/
def SumAcross (l : List Nat) (r : Rounded) : Prop := SumOver .f32 1 (l.map f32) r

/-- R164, R204: `r` is what the sums `p := p + v`, each rounded, make of `p` over the codes, with all their flags. -/
def SumAlong (p : Rounded) : List Nat → Rounded → Prop
  | [], r => r = p
  | v :: l, r => ∃ q, IsSum .f32 .rne (f32 p.code) (f32 v) q ∧ SumAlong ⟨q.code, q.flags ||| p.flags⟩ l r

/-- R204: the running sum starts from the first value taken exactly; an empty set gives +0. -/
def RunningSum : List Nat → Rounded → Prop
  | [], r => r = ⟨0, 0⟩
  | x :: l, r => ∃ c, (f32 x = .nan → c = 0x7FC00000) ∧ (f32 x ≠ .nan → c = x) ∧ SumAlong ⟨c, 0⟩ l r

/-- R165, R204: `r` is the least (`low`) or the greatest of the codes that are not NaN, -0 below +0. -/
def IsExtreme (low : Bool) (l : List Nat) (r : Nat) : Prop :=
  let v := l.filter fun x => decide (f32 x ≠ .nan)
  (l = [] → r = if low then 0x7F800000 else 0xFF800000)
  ∧ (l ≠ [] → v = [] → r = 0x7FC00000)
  ∧ (v ≠ [] → r ∈ v ∧ ∀ x ∈ v,
      if low then ¬ below (f32 x) (f32 r) ∧ (same (f32 x) (f32 r) → fvNeg (f32 x) = true → fvNeg (f32 r) = true)
      else ¬ below (f32 r) (f32 x) ∧ (same (f32 x) (f32 r) → fvNeg (f32 r) = true → fvNeg (f32 x) = true))

open Classical in
/-- R102, R110: SampleIndex of the weights `w` and the uniform value `u` is `ix`, `none` for ABSENT, with `flags`: IV for a NaN
weight and those of its roundings. -/
def IsSample (w : List Nat) (u : Nat) (ix : Option Nat) (flags : Reg) : Prop :=
  ∃ (v : Nat → Nat) (p : Nat → Rounded),
    (∀ i < w.length, if below (f32 0) (f32 (w.getD i 0)) then v i = w.getD i 0 else v i = 0)
    ∧ p 0 = ⟨v 0, 0⟩
    ∧ (∀ i, i + 1 < w.length → IsSum .f32 .rne (f32 (p i).code) (f32 (v (i + 1))) (p (i + 1)))
    ∧ let total := f32 (p (w.length - 1)).code
      let sums : Reg := (List.range w.length).foldl (fun m i => m ||| (p i).flags) (if ∃ x ∈ w, f32 x = .nan then 1 else 0)
      if same total (f32 0) ∨ total = .inf false then ix = none ∧ flags = sums
      else ∃ tau, IsProduct .f32 .rne (if f32 u = .nan ∨ below (f32 u) (f32 0) then f32 0 else f32 u) total tau
        ∧ flags = sums ||| tau.flags
        ∧ ∃ i, ix = some i ∧ i < w.length
          ∧ ((below (f32 tau.code) (f32 (p i).code) ∧ ∀ j < i, ¬ below (f32 tau.code) (f32 (p j).code))
            ∨ ((∀ j < w.length, ¬ below (f32 tau.code) (f32 (p j).code)) ∧ v i ≠ 0 ∧ ∀ j, i < j → j < w.length → v j = 0))

/-- An integer nearest a rational in a rounding mode (R103). -/
def roundedInt (rm : Rm) (x : Rat) : Int :=
  match rm with
  | .rne => if x - ⌊x⌋ < 1 / 2 then ⌊x⌋ else if 1 / 2 < x - ⌊x⌋ then ⌊x⌋ + 1 else if ⌊x⌋ % 2 = 0 then ⌊x⌋ else ⌊x⌋ + 1
  | .rz => if 0 ≤ x then ⌊x⌋ else ⌈x⌉
  | .rup => ⌈x⌉
  | .rdn => ⌊x⌋

/-- The FP32 values of the operands of a float word. -/
def fA (f : Full) (t : Thread) : FV := fvOf .f32 (a32 f t).toNat
def fB (f : Full) (e : Env) (t : Thread) : FV := fvOf .f32 (b32 f e t).toNat
def fD (f : Full) (t : Thread) : FV := fvOf .f32 (d32 f t).toNat

/-- Element `i` of a register of elements of a type (R100). -/
def elem (ty : Ty) (x : Reg) (i : Nat) : Nat := x.toNat / 2 ^ (tyBits ty * i) % 2 ^ tyBits ty

/-- The register takes a code, and FSR the flags raised with it (R105, R106). -/
def withFlags (t : Thread) (d code : Nat) (flags : Reg) : Thread := setFsr (writeV t d (BitVec.ofNat 32 code)) flags

/-! ### Accesses, statuses, waits (R17, R19, R41, R44, R80) -/

/-- The count of a completion flag rises by one (R17, R316). -/
def raised (fl : Option Nat) (l : List Nat) : List Nat :=
  match fl with
  | none => l
  | some n => l.set n (l.getD n 0 + 1)

/-- The posted writes that a release of thread `t` waits for: those in flight, N pages apart, of operations whose completion
the thread has observed (R88). -/
def owed (e : Env) (t : Thread) : List Nat :=
  (e.s.posted.filter fun p => t.seen.contains p.op && p.kind != 2).map (·.id)

/-- Access `j` of the word joins the path queue of its thread, a release with what it waits for, and the flag that the word
names is raised (R17, R80, R88). -/
def queued (e : Env) (t : Thread) (j : Nat) (kind : AccKind) (p n : Nat) (path : Path) (inv rel : Bool) (fl : Option Nat) :
    Thread :=
  { t with
    acc := t.acc ++ [{ id := 16 * e.ck.cyc + j, path := path, kind := kind, phys := p, size := n, cyc := e.ck.cyc, inv := inv,
                       rel := rel, flag := fl, after := 0, posts := if rel then owed e t else [] }]
    flags := raised fl t.flags }

/-- The flag of a word: SET1 of its header, or SET2 with FSEL; 12 to 15 name none (R17, R125). -/
def flagFor (e : Env) (f : Full) : Option Nat :=
  let n := if f.fsel then e.is.head.set2 else e.is.head.set1
  if n < 12 then some n else none

/-- An access of `n` bytes at local address `a` meets its checks: a trap holds the address (R345, R348), else `k` follows at
the physical address, over the path. -/
def accessAt (e : Env) (t : Thread) (a : Reg) (n align : Nat) (load store : Bool) (k : Nat → Path → TRes) : TRes :=
  match checkAcc e t a n align load store with
  | .trap c code => .trap c code (a.setWidth 64)
  | .at_ p w => k p w

/-- The codes of the statuses (R42). -/
def codeOfStatus : Status → Reg
  | .done => 0 | .timeout => 1 | .cancelled => 2 | .fault => 3 | .withdrawn => 4 | .partialDone => 5 | .stale => 6
  | .absent => 7

/-- A status other than TIMEOUT is written, and the count of consecutive TIMEOUTs starts again (R19, R42, R44). -/
def status (t : Thread) (reg : Nat) (st : Status) : Thread := { writeV t reg (codeOfStatus st) with toc := 0 }

/-- The effective deadline of a wait that starts now under a deadline register (R41). -/
def deadline (e : Env) (x : Quad) : Deadline :=
  let lim := e.ck.now + e.ck.dlmax
  if x = allOnes then ⟨lim, none⟩
  else if x.getLsbD 63 then ⟨lim, some (x.toNat % 2 ^ 62)⟩
  else ⟨min (x.toNat % 2 ^ 62) lim, none⟩

/-- The thread waits from now on: for `kind`, under deadline register `n`, its status due in V register `reg`. -/
def waiting (e : Env) (t : Thread) (kind : WaitKind) (st : TState) (n reg : Nat) : Thread :=
  { t with
    pos := { t.pos with st := st, widx := 0, since := e.ck.now }
    wait := some { kind := kind, dl := deadline e (t.dl.getD n (allOnes)), reg := reg, next := nextHdr e.k t,
                   start := e.ck.now } }

/-- A result of the word is due `lat` cycles after issue, and its flag is raised until it lands (R314, R316). -/
def later (e : Env) (t : Thread) (f : Full) (lat : Nat) (regs : List (Nat × Reg)) : Thread :=
  { t with
    res := t.res ++ [{ at_ := e.ck.cyc + lat, seq := e.ck.cyc, regs := regs, guest := none, fsr := 0, flag := flagFor e f,
                       table := none, status := false }]
    flags := raised (flagFor e f) t.flags }

/-- As `later`, with a status that is not TIMEOUT first in Vd, which returns the count of R44 to zero as it lands (R19). -/
def laterStatus (e : Env) (t : Thread) (f : Full) (lat : Nat) (st : Status) (more : List (Nat × Reg)) : Thread :=
  { t with
    res := t.res ++ [{ at_ := e.ck.cyc + lat, seq := e.ck.cyc, regs := (f.d.toNat, codeOfStatus st) :: more, guest := none, fsr := 0,
                       flag := flagFor e f, table := none, status := true }]
    flags := raised (flagFor e f) t.flags }

/-- R395: `n` bytes of a unit outside the cores are written at a physical address, where its window permits it. -/
def busPut (s : State) (a n v : Nat) : State :=
  if mayWrite s a n = true then s.store (busAt s a) (leBytes n v) else s

/-- R411: a record of 32 bytes enters the trace ring of core `c`, or is dropped and counted when it does not fit. -/
def ringPut (s : State) (c x : Nat) : State :=
  let k := s.core c
  let size := 2 ^ (k.dbgNow.trbase.toNat / 2 ^ 44 % 2 ^ 5)
  let base := k.dbgNow.trbase.toNat % 2 ^ 44
  if size < (k.dbg.trptr + 2 ^ 32 - k.dbgNow.trrd) % 2 ^ 32 + 32 then
    s.withCore c { k with dbg := { k.dbg with trdrop := min (k.dbg.trdrop + 1) 65535 } }
  else
    (busPut s (base + k.dbg.trptr % size) 32 x).withCore c
      { k with dbg := { k.dbg with trptr := (k.dbg.trptr + 32) % 2 ^ 32 } }

/-- Registers have been written in this cycle, so that no result of a word which issued earlier lands in them in it (R315). -/
def noted (e : Env) (regs : List Nat) (t : Thread) : Thread :=
  { t with late := (e.ck.cyc, (if t.late.1 = e.ck.cyc then t.late.2 else []) ++ regs.map fun n => (n, e.ck.cyc)) }

/-- The wait of the thread is over: its status is written and counted after its further registers, and it goes on to the header
after its clause (R27, R42). -/
def leavesWith (e : Env) (u : Thread) (reg : Nat) (st : Status) (more : List Nat) : Thread :=
  fallThrough e.ck e.k (noted e (reg :: more) (writeStatus e.ck.escl { u with wait := none } reg st)) .flow
def leaves (e : Env) (u : Thread) (reg : Nat) (st : Status) : Thread := leavesWith e u reg st []

/-- The word's only thread ends it as `u`. -/
def ends (s : State) (e : Env) (u : Thread) : State := s.withThread e.c (wordDone e.is u)

/-- A word of thread `t` alone issues an operation with operands `kind` in a free slot of its class, `n` with SEQ `q`: the
handle is in Vd.d, the operation waits for acceptance, the counter of the class has risen, memory is unchanged (R68 to R72,
R210); with no slot free the thread traps (R70, R210). -/
def Issues (s : State) (e : Env) (t : Thread) (i : Instr) (d cls : Nat) (kind : OpKind) (rel : Bool) : Prop :=
  Alone e i t →
  (∀ n q, allocSlot e.k cls = some (n, q) → ∃ s' o x, exec i s = .next s'
    ∧ s'.thread e.c t.id.slot = some (wordDone e.is (writePair
        { t with ops := t.ops ++ [⟨cls, s.nextOp, none⟩], q := t.q.set cls (t.q.getD cls 0 + 1) } d
        (BitVec.ofNat 64 (cls * 2 ^ 60 + e.c * 2 ^ 51 + n * 2 ^ 40 + q % 2 ^ 40))))
    ∧ s'.ops = s.ops ++ [o] ∧ s'.nextOp = s.nextOp + 1
    ∧ o.id = s.nextOp ∧ o.core = e.c ∧ o.cls = cls ∧ o.slot = n ∧ o.seq = q ∧ o.launch = t.id.launch ∧ o.sup = t.id.sup
    ∧ o.threads = [t.id.tid] ∧ o.kind = kind ∧ o.rel = rel ∧ o.accepted = false ∧ o.held = false ∧ o.cause = .none
    ∧ eslotAt (s'.core e.c) cls n = some x ∧ x.seq = q ∧ x.op = s.nextOp ∧ x.ended = none ∧ x.launch = t.id.launch
    ∧ s'.mem = s.mem ∧ s'.gran = s.gran ∧ s'.posted = s.posted)
  ∧ (allocSlot e.k cls = none →
      exec i s = .next (s.withThread e.c (park e.ck t .engineFull e.is.widx 0 (BitVec.ofNat 64 cls))))

/-- R59: the codes of the causes. -/
def causeNumber : EFault → Nat
  | .none => 0 | .noncanonical => 1 | .notMapped => 2 | .malformed => 3 | .permission => 4 | .hole => 5 | .badMeta => 6
  | .badFormat => 7 | .bounds => 8 | .uncorrectable => 9

/-- R59 to R61, R88, R233: what a wait or a test that finds an ended operation does to its thread: after FAULT of an engine
operation EFC, EFA, and for NOT_MAPPED PGF, take their values; the completion joins what a release waits for while a posted write of
it is in flight; the summary is that of a class 1, 2 or 3 operation that ended DONE or FAULT, else 0. -/
def FaultsAreNoted : Prop := ∀ (s : State) (t : Thread) (x : Ended),
  let u := observe s t x
  (x.st = .fault → x.cls < 5 → u.sr = { t.sr with
    efc := BitVec.ofNat 32 (causeNumber x.cause + x.cls * 2 ^ 8), efa := BitVec.ofNat 64 x.fva
    pgf := if x.cause = .notMapped then x.pgf else t.sr.pgf })
  ∧ (x.st ≠ .fault ∨ 5 ≤ x.cls → u.sr = t.sr)
  ∧ u = { t with sr := u.sr, seen := u.seen }
  ∧ (∀ id, id ∈ u.seen ↔ id ∈ t.seen ∨ (id = x.op ∧ (x.st = .done ∨ x.st = .fault) ∧ ∃ p ∈ s.posted, p.op = x.op))
  ∧ summaryOf x = if (x.cls = 1 ∨ x.cls = 2 ∨ x.cls = 3) ∧ (x.st = .done ∨ x.st = .fault) then x.summary else 0

/-! ### What a part of an operation writes (R64, R83, R108, R111, R221, R229, R230, R232) -/

/-- The bytes that a read of a run of translated addresses takes; an invariant read may take older ones (R63, R85). -/
def taken (s : State) (o : Op) (va n : Nat) (inv : Bool) : List Byte :=
  (List.range n).map fun j =>
    let p := busAt s (physAt o (va + j))
    if inv then invByte s o.launch [] p else memGet s.mem p

/-- The cells that a write part leaves on the global side. -/
def sent (s : State) (o : Op) (x : CopyArg) (a : Part) : List Host.Cell :=
  (List.range a.len).map fun j =>
    (busAt s (physAt o (a.gva + j)), memGet s.mem (localPhys o.core x.laddr + a.off + j))

/-- R83, R84, R213: a part of a COPY that may be performed moves its bytes into the slice, or out of it, there at once to a slice,
else as a posted write; its bytes count the barrier and the tag, but for one posted on an S page, which is not complete before it
has been performed; the last part ends the operation. A part that meets a closed window or a failing channel counts its bytes as
undelivered (R395, R422), and so does one that faulted at acceptance and counts on the partner's tag (R76). -/
def CopyParts (s : State) : Prop :=
  ∀ o x p a, opAt s s.ix = some o → o.kind = .copy x → planOf x = some p → o.parts[s.sub]? = some a → o.accepted = true →
    let counted (short : Bool) (y : State) : Mem := (y.countBytes o.core x.bar x.tag (partBytes a) short).mem
    let ended (s' : State) (st : Nat) : Prop :=
      ((∀ j q, o.parts[j]? = some q → j ≠ s.sub → q.st ≠ 0) → opAt s' s.ix = none)
        ∧ ∀ o', opAt s' s.ix = some o' → o'.parts = setPart o.parts s.sub st
    (a.cause = .none → partReady s o o.rel (o.parts.take s.sub) a = false → exec .enginePartPerformed s = .next s)
    ∧ (a.cause ≠ .none → a.st = 0 → ∃ s', exec .enginePartPerformed s = .next s' ∧ ended s' 2 ∧ s'.posted = s.posted
        ∧ s'.mem = counted true s)
    ∧ (a.cause = .none → partReady s o o.rel (o.parts.take s.sub) a = true → metaFree s o x a = true →
      let nibs := if x.xp then nibbles s o x.maddr (a.off / p.db) (a.dlen / p.db) else []
      let home := isSlicePhys (physAt o a.gva) = true
      let posts (s' : State) (part : Option Nat) : Prop := ∃ w, s'.posted = s.posted ++ [w] ∧ w.id = s.nextPosted ∧ w.op = o.id
        ∧ w.kind = a.kind ∧ w.launch = o.launch ∧ w.part = part ∧ w.cells = sent s o x a
      (copyStart s o x p a = none → ∃ s', exec .enginePartPerformed s = .next s'
        ∧ (x.out = false → ended s' 1 ∧ s'.posted = s.posted ∧ s'.mem = counted false
            (s.store (localPhys o.core x.laddr + a.off) (fillBytes x p (taken s o a.gva a.len a.inv) nibs).1))
        ∧ (x.out = true → home → ended s' 1 ∧ s'.posted = s.posted ∧ s'.mem = counted false (s.storeCells (sent s o x a)))
        ∧ (x.out = true → ¬ home → a.kind ≠ 0 → ended s' 1 ∧ s'.mem = counted false s ∧ posts s' none)
        ∧ (x.out = true → ¬ home → a.kind = 0 → s'.mem = s.mem ∧ posts s' (some s.sub)
            ∧ ∃ o', opAt s' s.ix = some o' ∧ o'.parts = markPosted o.parts s.sub))
      ∧ ∀ y, copyStart s o x p a = some y → ∃ s', exec .enginePartPerformed s = .next s' ∧ ended s' 2 ∧ s'.posted = s.posted
        ∧ s'.mem = counted true (s.logPart o x p a y.1))

/-- R108, R221: `r` is accumulator entry `n` of one row: 128 exact products and `c`, rounded once. -/
def IsEntry (b : WBuf) (ty : Ty) (row : List Nat × List Nat) (c : Reg) (n : Nat) (r : Rounded) : Prop :=
  let w (k : Nat) : FV := scaledElem b.fmt (weightAt b k n) (wscaleAt b k n)
  let x (k : Nat) : FV := scaledElem ty (row.1.getD k 0) (row.2.getD (k / 32) 127)
  DotCases 128 w x (f32 c.toNat) r
  ∧ ∀ (y z : Nat → Rat) (q : Rat), (∀ k < 128, ratOf (w k) = some (y k) ∧ ratOf (x k) = some (z k)) →
      ratOf (f32 c.toNat) = some q → let t := ((List.range 128).map fun k => y k * z k).sum + q
      t ≠ 0 → IsRound .f32 .rne false (decide (t < 0)) |t| r

/-- R221, R226: an MMA, MMA.r or MMAP that comes first in awake arrays and breaks no rule writes the entries of its rows and no
other, in each array it uses; with OUT it writes them out. -/
def MatrixParts (s : State) : Prop :=
  ∀ o x, opAt s s.ix = some o → o.kind = .mma x → o.accepted = true → o.cause = .none → mxFirst s o = true →
    mxAwake s o = true → mmaFault s o x = .none → (x.paired = true → x.fromRegs = true) →
    (∀ c ∈ mxCores o, c < s.cores.length) →
    ∃ s', exec .enginePartPerformed s = .next s' ∧ (o.parts = [onePart] → opAt s' s.ix = none)
      ∧ (∀ c ∈ mxCores o,
          let mx := (s.core c).mx
          let new := (s'.core c).mx.acc
          (∀ m < mmaRows x, ∀ n < 128,
            let j := 128 * (mmaRow0 x + m) + n
            ∃ r, IsEntry (bufOf mx (mmaBuf x)) x.ty (mmaRowAt s o.core x m) (if mmaAcc x then tblGet mx.acc j 0 else 0) n r
              ∧ tblGet new j 0 = BitVec.ofNat 32 r.code)
          ∧ ∀ j, j < 128 * mmaRow0 x ∨ 128 * (mmaRow0 x + mmaRows x) ≤ j → tblGet new j 0 = tblGet mx.acc j 0)
      ∧ (mmaOut x = false → s'.mem = s.mem)
      ∧ (mmaOut x = true → mxCores o = [o.core] → s'.mem = (s.store (localPhys o.core x.out)
          ((List.range (mmaRows x * 128)).flatMap fun j => leBytes (mmaElem x)
            (outEntry x (tblGet (s'.core o.core).mx.acc (128 * mmaRow0 x + j) 0)).code)).mem)

/-- R229: entry `n` of the pooled output: the exact sum or mean over the valid rows, rounded once; +0 without a row. -/
def IsPooled (x : GatherArg) (rows : List (List Nat)) (n : Nat) (r : Rounded) : Prop :=
  (rows = [] → r = ⟨0, 0⟩)
  ∧ (rows ≠ [] → SumOver .f32 (if x.pool = 1 then 1 else rows.length) (rows.map fun l => elemVal x.ty (l.getD n 0)) r)

/-- R83, R85, R229: a part of a row of a GATHER is read: unpooled it is written at its index's place; the last part writes the
pooled output and ends the operation. -/
def GatherParts (s : State) : Prop :=
  ∀ o x a, opAt s s.ix = some o → gatherArg o.kind = some x → x.count < 2 ^ 16 → o.parts[s.sub]? = some a → o.accepted = true →
    gatherReady s o s.sub a = true →
    let bytes := taken s o a.gva a.len false
    (s.sub + 1 ≠ o.parts.length → startFault s o a.gva a.len false = none →
      ∃ s' o', exec .enginePartPerformed s = .next s' ∧ opAt s' s.ix = some o' ∧ o'.parts = setPart o.parts s.sub 1
        ∧ (x.pool = 0 → s'.mem = (s.store (localPhys o.core x.out + a.off) bytes).mem ∧ o'.rows = o.rows)
        ∧ (x.pool ≠ 0 → s'.mem = s.mem ∧ o'.rows = o.rows ++ [(a.off, bytes)]))
    ∧ (s.sub + 1 = o.parts.length →
      ∃ s', ∃ es : List Rounded, exec .enginePartPerformed s = .next s' ∧ opAt s' s.ix = none
        ∧ (x.pool = 0 → s'.mem = s.mem)
        ∧ (x.pool ≠ 0 → es.length = x.rowlen ∧ (∀ n r, es[n]? = some r → IsPooled x (wholeRows o x) n r)
          ∧ s'.mem = (s.store (localPhys o.core x.out) (es.flatMap fun r => leBytes 4 r.code)).mem))

open Classical in
/-- R111: `r` is the sum of block-scaled elements (code, scale): each value is rounded to a multiple of the unit that the greatest
scale sets, and the exact sum of the multiples is rounded once. -/
def BlockSum (ty out : Ty) (es : List (Nat × Nat)) (r : Rounded) : Prop :=
  let vs := es.map fun e => elemVal ty e.1
  let hasNan : Prop := FV.nan ∈ vs ∨ ∃ e ∈ es, e.2 = 255
  (hasNan → r = plainNan out)
  ∧ (¬ hasNan → FV.inf true ∈ vs → FV.inf false ∈ vs → r = badNan out)
  ∧ (∀ x, ¬ hasNan → FV.inf x ∈ vs → FV.inf (!x) ∉ vs → r = infinity out x)
  ∧ ∀ qs : List Rat, ¬ hasNan → vs.map ratOf = qs.map some →
      let top := (es.map (·.2)).foldl max 0
      let least : Int := if ty = .e4m3 then -9 else if ty = .e5m2 then -16 else if ty = .e2m1 then -1 else 0
      let unit : Rat := 2 ^ ((top : Int) - 127 + least - 24)
      let exact := (List.zip qs es).map fun y => y.1 * 2 ^ ((y.2.2 : Int) - 127) / unit
      let total := (exact.map (roundedInt .rne)).sum
      let nx : Reg := if ∀ y ∈ exact, (roundedInt .rne y : Rat) = y then 0 else 0x10
      (total = 0 → r = ⟨0, nx⟩)
      ∧ (total ≠ 0 → ∃ q, IsRound out .rne false (decide (total < 0)) (|(total : Rat)| * unit) q
          ∧ r.code = q.code ∧ r.flags = q.flags ||| nx)

/-- R230: element `i` of the sum over the ranks' images. -/
def IsReduced (x : CollArg) (ims : List (List Byte)) (i : Nat) (r : Rounded) : Prop :=
  let out : Ty := if x.ofmt then .bf16 else .f32
  let es := ims.map fun im => imageElem x.ty x.n im i
  if x.ty = .f32 ∨ x.ty = .f16 ∨ x.ty = .bf16 then SumOver out 1 (es.map fun e => elemVal x.ty e.1) r
  else BlockSum x.ty out es r

/-- R230, R231: once every rank has joined the call a COLL writes its destination: the sums, its share of them, all the images in
rank order, or rank 0's; it waits until then, and a call of unlike operands ends it BAD_FORMAT with nothing written. -/
def CollParts (s : State) : Prop :=
  ∀ o (x : CollArg) cid k rank call, opAt s s.ix = some o →
    o.kind = .coll x.ty x.ofmt x.op x.src x.dst x.comm x.n (some (cid, k, rank)) → o.accepted = true →
    teamAway s o = false → callAt s cid k = some call →
    let ims := (sortBy (fun a b => decide (a.rank ≤ b.rank)) call.joined).map (·.data)
    let writes (s' : State) (bs : List Byte) : Prop := s'.mem = (s.store (localPhys o.core x.dst) bs).mem
    let sums (s' : State) (lo n : Nat) : Prop := ∃ es : List Rounded, es.length = n
      ∧ (∀ i r, es[i]? = some r → IsReduced x ims (lo + i) r)
      ∧ writes s' (es.flatMap fun r => leBytes (if x.ofmt then 2 else 4) r.code)
    (callFull call = false → exec .enginePartPerformed s = .next s)
    ∧ (callFull call = true → callMatches x call = false →
        ∃ s', exec .enginePartPerformed s = .next s' ∧ s'.mem = s.mem)
    ∧ (callFull call = true → callMatches x call = true → (x.ty = .f32 ∨ x.ty = .f16 ∨ x.ty = .bf16 ∨ blockScaled x.ty = true) →
        ∃ s', exec .enginePartPerformed s = .next s' ∧ (o.parts = [onePart] → opAt s' s.ix = none)
          ∧ (x.op = 0 → sums s' 0 x.n)
          ∧ (x.op = 1 → sums s' (rank * (x.n / call.ranks)) (x.n / call.ranks))
          ∧ (x.op = 2 → writes s' ims.flatten)
          ∧ (x.op = 3 → writes s' (ims.getD 0 [])))

/-- R90, R232: a RATOM whose part may be performed leaves the new value at its target, and the old one in V(d+2), or the pair from
V(d+2), of its thread, here one that waits for nothing; a register that a later-issued word has written in this cycle stays as it
wrote it (R315). -/
def AtomicParts (s : State) : Prop :=
  ∀ o op ty addr (b cmp : Quad) d a, opAt s s.ix = some o → o.kind = .ratom op ty addr b cmp d → o.parts = [a] →
    o.accepted = true → partReady s o false [] a = true →
    let p := physAt o addr
    let n := tyBits ty / 8
    let old := memRead s.mem p n
    ∃ s', exec .enginePartPerformed s = .next s' ∧ opAt s' s.ix = none
      ∧ s'.mem = (s.store p (leBytes n (atomNew op ty old b.toNat cmp.toNat))).mem
      ∧ ∀ t ∈ (s.core o.core).threads, t.id.launch = o.launch → t.id.tid ∈ o.threads → t.pos.st ≠ .exited → t.wait = none →
          let passed (j : Nat) : Prop := t.late.1 = s.cycle ∧ ∃ y ∈ t.late.2, y.1 = j ∧ o.cyc < y.2
          d + 3 < t.v.length → ∃ u ∈ (s'.core o.core).threads, u.id = t.id
            ∧ (¬ passed (d + 2) → readV u (d + 2) = BitVec.ofNat 32 old)
            ∧ (n = 8 → ¬ passed (d + 3) → readV u (d + 3) = BitVec.ofNat 32 (old / 2 ^ 32))
            ∧ ∀ j, ((j = d + 2 ∨ (n = 8 ∧ j = d + 3)) → passed j) → readV u j = readV t j

/-! ### The Granary (R242 to R260) -/

/-- Pairs in lexicographic order: the first pair that differs has the smaller number on the left. -/
def firstLex : List (Int × Int) → Prop
  | [] => True
  | (a, b) :: r => a < b ∨ (a = b ∧ firstLex r)

/-- R242, R251: the size of an index space; an extent of 0 beyond the first is read as 1. -/
def spaceOf (d : Desc) : Nat := d.ext0 * (if d.ext1 = 0 then 1 else d.ext1) * (if d.ext2 = 0 then 1 else d.ext2)

/-- R258: Like of a chain. -/
def likeOf (x : Entry) : Nat := x.chain.foldl (fun l y => l * y.p / 256) 65535

/-- R246, R247: the task is queued for the launch, in a queue of the mask, with tuples left, and admits a taker on core `c`. -/
def Eligible (s : State) (c launch : Nat) (mask : Quad) (x : Entry) : Prop :=
  x ∈ s.gran.entries ∧ x.st = .queued ∧ x.launch = launch ∧ mask.getLsbD x.desc.queue = true
  ∧ (x.desc.kind = 1 → x.next < spaceOf x.desc)
  ∧ (x.desc.amode = 1 → c = x.desc.acore ∨ x.readyAt + s.hub.plinth.awin ≤ s.time)
  ∧ (x.desc.amode = 2 → c / 64 = x.die) ∧ (3 ≤ x.desc.amode → c = x.desc.acore)

/-- R246: the task that Choose returns to a taker of a launch on core `c`, and whether it is gleaned. -/
def IsChoice (s : State) (c launch : Nat) (mask : Quad) (x : Entry) (gleaned : Bool) : Prop :=
  let ok := Eligible s c launch mask
  let far (y : Entry) : Int := |(y.die : Int) - (c / 64 : Nat)|
  let queuedWith (y : Entry) : Nat :=
    (s.gran.entries.filter fun z => z.die == y.die && z.desc.queue == y.desc.queue && z.st == .queued).length
  let here (y : Entry) : Prop := ok y ∧ y.tiller = false ∧ y.die = c / 64
  let there (y : Entry) : Prop := ok y ∧ y.tiller = false ∧ y.die ≠ c / 64 ∧ y.desc.amode ≤ 1
    ∧ far y ≤ s.hub.plinth.gdist ∧ s.hub.plinth.ghi < queuedWith y
  let guess (y : Entry) : Prop := ok y ∧ y.tiller = true ∧ s.hub.plinth.lmin ≤ likeOf y
  let rank (y z : Entry) : List (Int × Int) := [(-y.desc.prio, -z.desc.prio), (y.readyAt, z.readyAt), (y.ix, z.ix)]
  (gleaned = false ∧ here x ∧ ∀ y, here y → firstLex (rank x y))
  ∨ (gleaned = true ∧ (∀ y, ¬ here y) ∧ there x
    ∧ ∀ y, there y → firstLex ((far x, far y) :: ((x.die : Int), (y.die : Int)) :: rank x y))
  ∨ (gleaned = false ∧ (∀ y, ¬ here y) ∧ (∀ y, ¬ there y) ∧ guess x ∧ ∀ y, guess y →
      firstLex [(-(likeOf x : Int), -(likeOf y : Int)), (x.born, y.born), (x.die, y.die), (x.ix, y.ix)])

/-- The bits of a task reference (R241). -/
def refOf (x : Entry) : Reg := BitVec.ofNat 32 (x.ix + x.die * 2 ^ 14 + x.seq % 2 ^ 16 * 2 ^ 16)

/-- R248: Vd to V(d+7) as a take that gives DONE writes them. -/
def blockOf (d : Nat) (x : Entry) (gleaned : Bool) : List (Nat × Reg) :=
  [(d, 0), (d + 1, refOf x), (d + 2, x.desc.arg0.setWidth 32), (d + 3, (x.desc.arg0 >>> 32).setWidth 32),
   (d + 4, x.desc.arg1.setWidth 32), (d + 5, (x.desc.arg1 >>> 32).setWidth 32), (d + 6, BitVec.ofNat 32 x.desc.entry),
   (d + 7, BitVec.ofNat 32 (x.desc.kind + x.desc.prio * 2 ^ 3 + x.desc.queue * 2 ^ 6 + x.tiller.toNat * 2 ^ 12
      + gleaned.toNat * 2 ^ 13 + (if x.tiller = true then likeOf x else 65535) * 2 ^ 16))]

/-- The thread in slot `sl` of core `c` has ended its wait: it has `regs`, and its other V registers as before. -/
def Answered (s s1 : State) (c : Nat) (t : Thread) (regs : List (Nat × Reg)) : Prop :=
  s.thread c t.id.slot = some t →
  ∃ u, s1.thread c t.id.slot = some u ∧ u.wait = none ∧ u.v.length = t.v.length ∧ ∀ n, n < t.v.length →
    readV u n = match regs.find? fun x => x.1 == n with | some x => x.2 | none => readV t n

/-- Nothing waits on the Granary but thread `t` of core `c`, with no word behind a release, and its turn in the tick has come. -/
def OnlyWaits (s : State) (c : Nat) (t : Thread) : Prop :=
  tickRank 6 2 0 0 ≤ s.phase ∧ (c, t) ∈ everyThread s ∧ (∀ z ∈ everyThread s, granWaits z.2 = true → z = (c, t)) ∧ t.pend = []

/-- R245, R246: among waiting takers the one that has waited longest, then on the lower core, then in the lower slot, of those
for which a task can be chosen, takes it: the entry as R246 leaves it, and the block; with no choice for any they wait on. -/
def TakersAreServed (s : State) : Prop :=
  let waits (z : Nat × Thread) (w : Wait) (mask : Quad) : Prop := z ∈ everyThread s ∧ z.2.wait = some w ∧ w.kind = .take mask
  tickRank 6 2 0 0 ≤ s.phase →
  (∀ z ∈ everyThread s, granWaits z.2 = true → z.2.pend = [] ∧ ∃ w mask, z.2.wait = some w ∧ w.kind = .take mask) →
  (granNext s = none ∧ ∀ z w mask, waits z w mask → ∀ x gl, ¬ IsChoice s z.1 z.2.id.launch mask x gl)
  ∨ ∃ z w mask x gl, waits z w mask ∧ IsChoice s z.1 z.2.id.launch mask x gl
    ∧ (∀ y v m a b, waits y v m → IsChoice s y.1 y.2.id.launch m a b →
        firstLex [(w.start, v.start), (z.1, y.1), (z.2.id.slot, y.2.id.slot)])
    ∧ ∃ s1, granNext s = some s1 ∧ s1.mem = s.mem ∧ Answered s s1 z.1 z.2 (blockOf w.reg x gl)
      ∧ let who : Holder := ⟨z.1, z.2.id.launch, z.2.id.tmx, z.2.id.sup, z.2.id.tid⟩
        s1.gran.entries = s.gran.entries.map fun y => if y.die = x.die ∧ y.ix = x.ix then
          { y with st := if y.desc.kind = 1 then y.st else .running, gleaned := gl, provCore := z.1
                   holders := if who ∈ y.holders then y.holders else y.holders ++ [who] } else y

/-- R244, R245: entry `ix` of die `die` is where a task of a thread on die `own` goes: the lowest free one, with QLIM not reached. -/
def IsPlace (s : State) (d : Desc) (own die ix : Nat) : Prop :=
  die = (if d.amode = 0 then own else d.acore / 64) ∧ die < 4 ∧ ix < 16384
  ∧ (∀ y ∈ s.gran.entries, ¬ (y.die = die ∧ y.ix = ix)) ∧ (∀ j < ix, ∃ y ∈ s.gran.entries, y.die = die ∧ y.ix = j)
  ∧ (s.gran.entries.filter fun y => y.die == die && y.desc.queue == d.queue).length
      < tblGet s.hub.plinth.qlim (64 * die + d.queue) 16384

/-- A new entry of `t` in that place, its SEQ the next one of the entry, 0 left out (R241). -/
def NewEntry (s : State) (t : Thread) (d : Desc) (die ix : Nat) (x : Entry) : Prop :=
  let last := tblGet s.gran.seqs (16384 * die + ix) 0
  x.die = die ∧ x.ix = ix ∧ x.seq = (if (last + 1) % 2 ^ 16 = 0 then 1 else (last + 1) % 2 ^ 16) ∧ x.launch = t.id.launch
  ∧ x.desc = d ∧ x.dep = d.dep ∧ x.readyAt = s.time ∧ x.born = s.time ∧ x.holders = [] ∧ x.next = 0 ∧ x.prov = []
  ∧ x.pruned = false ∧ x.committing = false ∧ x.maq = none

/-- R242, R245, R253, R256, R257, R262, R263: how the words that read a descriptor or wait for an entry or a condition end: the faults of
a descriptor, the new entry or condition and its reference, what SPAWN answers by its condition, WITHDRAWN in a detached thread; with
no entry free they wait on. -/
def EntriesAreMade (s : State) : Prop := ∀ c t w, OnlyWaits s c t → t.wait = some w →
  let replies (s1 : State) (regs : List (Nat × Reg)) : Prop := granNext s = some s1 ∧ s1.mem = s.mem ∧ Answered s s1 c t regs
  let only (n : Reg) : Prop := ∃ s1, replies s1 [(w.reg, n)] ∧ s1.gran = s.gran
  let fault (n : Reg) : Prop := ∃ s1, replies s1 [(w.reg, 3), (w.reg + 1, n)] ∧ s1.gran = s.gran
  let full (d : Desc) : Prop := ∀ die ix, ¬ IsPlace s d (c / 64) die ix
  let attached : Prop := isDetached t = false
  (isDetached t = true → (∃ d, w.kind = .put d) ∨ (∃ d a, w.kind = .spawn d a) ∨ w.kind = .condNew → only 4)
  ∧ (∀ a ws ids posts, w.kind = .desc a ws ids posts → attached →
      (∀ b ∈ t.acc, isDescRead b = false ∧ b.id ∉ ids) → (∀ p ∈ s.posted, p.id ∉ posts) →
      let v := joinWords ws
      let d := descOf v
      let held : Prop := (qmaskOf s t.id.launch).getLsbD d.queue = true
      let going (k : WaitKind) : Prop := granNext s = some (s.waitKind c t.id.slot k)
      (a = none →
        (malformed v = true ∨ d.kind = 2 → fault 7)
        ∧ (malformed v = false → d.kind ≠ 2 →
          ((d.amode ≠ 0 ∧ bitAt (partMask s t.id.launch) d.acore = false) ∨ ¬ held → fault 8)
          ∧ (d.amode = 0 ∨ bitAt (partMask s t.id.launch) d.acore = true → held → going (.put d))))
      ∧ ∀ b, a = some b →
        (malformed v = true ∨ d.kind ≠ 2 ∨ b.rsvd = true → fault 7)
        ∧ (malformed v = false → d.kind = 2 → b.rsvd = false →
          let n := (parentChain s t).length + if viewCond s t.id.launch b.cref = .resolved b.side then 0 else 1
          (8 < n ∨ ¬ held → fault 8) ∧ (n ≤ 8 → held → going (.spawn d b))))
  ∧ (∀ d, w.kind = .put d → attached →
      (full d → granNext s = none)
      ∧ ∀ die ix, IsPlace s d (c / 64) die ix → ∃ s1 x, replies s1 [(w.reg, 0), (w.reg + 1, refOf x)] ∧ NewEntry s t d die ix x
        ∧ x.st = (if runsTiller t = true then .held else if d.dep = 0 then .queued else .pending) ∧ x.tiller = false ∧ x.chain = []
        ∧ (runsTiller t = false → s1.gran.entries = s.gran.entries ++ [x])
        ∧ s1.gran.entries.map (fun y => { y with prov := [], provCore := 0 })
          = (s.gran.entries ++ [x]).map fun y => { y with prov := [], provCore := 0 })
  ∧ (∀ d a, w.kind = .spawn d a → attached →
      let q := if a.psrc = true then tblGet s.gran.pred a.site 128 else a.p
      let makes (chain : List Link) (learners : List Cond) : Prop :=
        (full d → granNext s = none)
        ∧ ∀ die ix, IsPlace s d (c / 64) die ix → ∃ s1 x, replies s1 [(w.reg, 0), (w.reg + 1, refOf x)] ∧ NewEntry s t d die ix x
          ∧ x.st = .queued ∧ x.tiller = !chain.isEmpty ∧ x.chain = chain ∧ x.parent = runOf t
          ∧ s1.gran.entries = s.gran.entries ++ [x] ∧ s1.gran.conds = learners
      (viewCond s t.id.launch a.cref = .stale → only 6)
      ∧ (viewCond s t.id.launch a.cref = .absent ∨ viewCond s t.id.launch a.cref = .resolved (!a.side) → only 7)
      ∧ (viewCond s t.id.launch a.cref = .resolved a.side → makes (parentChain s t) s.gran.conds)
      ∧ ∀ n, viewCond s t.id.launch a.cref = .live n → makes (parentChain s t ++ [⟨n, a.side, q⟩])
          (s.gran.conds.map fun x => if a.learn = true ∧ x.live = true ∧ x.num = n then
            { x with learners := x.learners ++ [(a.site, a.side)] } else x))
  ∧ (w.kind = .condNew → attached →
      let used (n : Nat) : Prop := ∃ x ∈ s.gran.conds, x.live = true ∧ x.num = n
      ((∀ n < 4096, used n) → granNext s = none)
      ∧ ∀ n, n < 4096 → ¬ used n → (∀ j < n, used j) → ∃ s1 x, replies s1 [(w.reg, 0), (w.reg + 1, BitVec.ofNat 32 (n + x.seq * 2 ^ 12))]
        ∧ s1.gran.conds = x :: s.gran.conds.filter (fun y => y.num != n) ∧ x.num = n ∧ x.launch = t.id.launch ∧ x.live = true
        ∧ x.val = none ∧ 0 < x.seq ∧ x.owners = (specs t).filterMap runKey)

/-- R249: one decrement: a stale reference, or one that names no pending entry, is skipped; at zero the task is queued. -/
def decremented (s : State) (r : Nat) : State :=
  match viewRef s r with
  | .entry x => if x.st = .pending then s.modEntry x.die x.ix fun y =>
      { y with dep := y.dep - 1, st := if y.dep = 1 ∨ y.dep = 0 then .queued else .pending
               readyAt := if y.dep = 1 ∨ y.dep = 0 then s.time else y.readyAt } else s
  | _ => s

/-- R249, R250, R253, R260: a TASK.DONE, TASK.DEP or COND.SET of a thread in no tiller acts once its release conditions hold: what
becomes of the task, its successors and the count, and the answer with its latency. -/
def PendingWordsAct (s : State) : Prop := ∀ c t p, (c, t) ∈ everyThread s → s.thread c t.id.slot = some t → specs t = [] →
  (∀ z ∈ everyThread s, granWaits z.2 = true → z = (c, t)) → t.pend = [p] → p.cyc = s.cycle →
  (∀ a ∈ t.acc, a.id ∉ p.after) → (∀ q ∈ s.posted, q.id ∉ p.posts) →
  let answers (s1 : State) (lat : Nat) (regs : List (Nat × Reg)) : Prop :=
    granNext s = some s1 ∧ ∃ u, s1.thread c t.id.slot = some u ∧ u.pend = [] ∧ u.v = t.v
      ∧ u.res = t.res ++ [⟨s.cycle + lat, p.cyc, regs, none, 0, p.flag, none, true⟩]
  let near (r : Nat) : Nat := if r / 2 ^ 14 % 4 = c / 64 then 48 else 96
  let who : Holder := ⟨c, t.id.launch, t.id.tmx, t.id.sup, t.id.tid⟩
  (∀ r delta d, p.act = .dep r delta d →
    let tells (st : Reg) (f : List Entry → List Entry) : Prop :=
      ∃ s1, answers s1 (near r) [(d, st)] ∧ s1.gran.entries = f s.gran.entries ∧ s1.mem = s.mem
    (viewRef s r = .stale → tells 6 id) ∧ (viewRef s r = .none → tells 7 id)
    ∧ ∀ x, viewRef s r = .entry x →
      let n : Int := (x.dep : Int) + delta
      (x.st ≠ .pending → tells 7 id)
      ∧ (x.st = .pending → (n < 0 ∨ 65535 < n → tells 3 id)
        ∧ (0 ≤ n → n ≤ 65535 → tells 0 fun l => l.map fun y => if y.die = x.die ∧ y.ix = x.ix then
            { y with dep := n.toNat, st := if n = 0 then .queued else .pending
                     readyAt := if n = 0 then s.time else y.readyAt } else y)))
  ∧ (∀ r d, p.act = .done r d →
    let tells (regs : List (Nat × Reg)) (l : List Entry) : Prop :=
      ∃ s1, answers s1 (near r) regs ∧ s1.gran.entries = l ∧ s1.mem = s.mem
    (viewRef s r = .stale ∨ viewRef s r = .none → tells [(d, 7)] s.gran.entries)
    ∧ ∀ x, viewRef s r = .entry x → x.pruned = false →
      (who ∉ x.holders → tells [(d, 7)] s.gran.entries)
      ∧ (who ∈ x.holders → x.st ≠ .finished → x.tiller = true → tells [(d, 0)]
          (s.gran.entries.map fun y => if y.die = x.die ∧ y.ix = x.ix then { y with st := .finished } else y))
      ∧ (who ∈ x.holders → x.st ≠ .finished → x.tiller = false → x.maq = none →
        let last : Prop := x.desc.kind ≠ 1 ∨ (spaceOf x.desc ≤ x.next ∧ x.holders.erase who = [])
        let word (j : Nat) : EFault ⊕ Nat := granBytes s x.launch (x.desc.ovf + 4 * j) 4
        let freed (refs : List Nat) : List Entry :=
          ((x.desc.succ ++ refs).foldl decremented s).gran.entries.filter fun y => !(y.die == x.die && y.ix == x.ix)
        (¬ last → tells [(d, 0)] (s.gran.entries.map fun y =>
          if y.die = x.die ∧ y.ix = x.ix then { x with holders := x.holders.erase who } else y))
        ∧ (last → ∀ refs : List Nat, (∀ j < refs.length, word j = .inr (refs.getD j 0)) →
          (refs.length = x.desc.ovfn → tells [(d, 0)] (freed refs))
          ∧ ∀ cause, refs.length < x.desc.ovfn → word refs.length = .inl cause →
              tells [(d, 3), (d + 1, BitVec.ofNat 32 (efaultCode cause))] (freed refs))))
  ∧ ∀ r v d, p.act = .condSet r v d →
    let tells (st : Reg) (s2 : State) : Prop := ∃ s1, answers s1 96 [(d, st)] ∧ s1.gran = s2.gran ∧ s1.mem = s2.mem
    (viewCond s t.id.launch r = .stale → tells 6 s)
    ∧ (viewCond s t.id.launch r = .absent ∨ (∃ b, viewCond s t.id.launch r = .resolved b) → tells 7 s)
    ∧ ∀ n, viewCond s t.id.launch r = .live n → 
        let s2 := (s.modThread c t.id.slot fun u => { u with pend := u.pend.tail }).granWork [.resolve n v]
        granNext s = some (s2.modThread c t.id.slot fun u =>
          { u with res := u.res ++ [⟨s2.cycle + 96, p.cyc, [(d, 0)], none, 0, p.flag, none, true⟩] })

/-- R259, R260: one resolution of condition `n` to `v`, where the tillers it prunes hold stores alone and own no condition: those
whose side is the other one are pruned, queued and finished ones freed; the others lose the entry of their chain; the sites of those
spawned with LEARN move; the condition is free and keeps its value; those whose chain is now empty are to commit, in spawn order. -/
def ConditionResolves (s : State) : Prop := ∀ n v,
  let r := s.resolveOne n v
  let key (x : Entry) : Nat × Nat := (x.die, x.ix)
  let on (x : Entry) : Prop := x.tiller = true ∧ x.pruned = false ∧ ∃ l ∈ x.chain, l.cond = n
  let against (x : Entry) : Prop := on x ∧ ∃ l ∈ x.chain, l.cond = n ∧ l.side ≠ v
  let less (x : Entry) : Entry := { x with prov := [], chain := if x.tiller = true then x.chain.filter fun l => l.cond != n else x.chain }
  let bare (l : List Entry) : List Entry := l.map fun x => { x with prov := [] }
  (s.gran.entries.map key).Nodup →
  (∀ x ∈ s.gran.entries, against x → x.maq = none ∧ (∀ h ∈ x.prov, ∃ a, h = .store a)
    ∧ ∀ y ∈ s.gran.conds, y.live = true → (x.die, x.ix, x.seq) ∉ y.owners) →
  (∀ x ∈ s.gran.entries, against x →
    if x.st = .running then ∃ y ∈ r.1.gran.entries, key y = key x ∧ y.pruned = true ∧ y.st = x.st
    else ∀ y ∈ r.1.gran.entries, key y ≠ key x)
  ∧ (∀ x ∈ s.gran.entries, ¬ against x → less x ∈ bare r.1.gran.entries)
  ∧ (∀ y ∈ r.1.gran.entries, ∃ x ∈ s.gran.entries, key x = key y)
  ∧ r.1.gran.conds = s.gran.conds.map (fun x => if x.num = n ∧ x.live = true then
      { x with live := false, val := some v, owners := [], learners := [] } else x)
  ∧ r.1.gran.pred = (((s.gran.conds.find? fun x => x.num == n && x.live).map (·.learners)).getD []).foldl (fun m x =>
      let q : Int := (tblGet m x.1 128 : Nat)
      tblPut m x.1 (q + ⌊(((if v = x.2 then 256 else 0) - q : Int) : Rat) / 2 ^ s.hub.plinth.predK⌋).toNat) s.gran.pred
  ∧ r.1.mem = s.mem
  ∧ (r.2 = [] → s.granWork [.resolve n v] = r.1)
  ∧ r.2 = (r.1.gran.entries.filter fun y => y.tiller && !y.pruned && y.chain.isEmpty
      && s.gran.entries.any fun x => x.tiller && !x.pruned && (x.chain.any fun l => l.cond == n) && x.die == y.die && x.ix == y.ix).map
        fun x => .commit x.die x.ix

/-- R253, R254: the pass in which all that waits on the Granary meets its present state makes one action after another, until none
can be made. -/
def GranaryPass (s : State) : Prop :=
  let fences (x : State) : Prop := ∃ z ∈ everyThread x, atFence z.2 = true
  (granNext s = none → ¬ fences s → s.settleGran = s)
  ∧ ∀ s1, granNext s = some s1 → granNext s1 = none → ¬ fences s1 → s.settleGran = s1

/-! ### Halves of a paired word (R120 to R122, R127) -/

/-- What a half gives from its first source, which is its destination before, and its second: the destination and the
flags. -/
inductive HalfKind
  | reg (g : Reg → Reg → Reg)
  | float (g : Reg → Reg → Rounded)
  | pred (g : Bool → Bool → Bool)
  | test (g : Reg → Bool × Reg)

/-- R127: the halves and what each gives. -/
def halfTable : List ((Half → Instr) × HalfKind) :=
  let f (x : Reg) : FV := fvOf .f32 x.toNat
  let n (y : Reg) : Nat := (y.setWidth 8).toNat
  let duo (ty : Ty) (g : Ty → Rm → FV → FV → Rounded) (x y : Reg) : Rounded :=
    let r (j : Nat) : Rounded := g ty .rne (fvOf ty (elem ty x j)) (fvOf ty (elem ty y j))
    ⟨(r 0).code + 2 ^ 16 * (r 1).code, (r 0).flags ||| (r 1).flags⟩
  [(.pairedMovB32, .reg fun _ y => y), (.pairedAddS32, .reg fun x y => x + y), (.pairedSubS32, .reg fun x y => x - y),
   (.pairedMulS32, .reg fun x y => x * y), (.pairedMinS32, .reg fun x y => if x.toInt ≤ y.toInt then x else y),
   (.pairedMaxS32, .reg fun x y => if x.toInt ≤ y.toInt then y else x), (.pairedMinN32, .reg fun x y => if x ≤ y then x else y),
   (.pairedMaxN32, .reg fun x y => if x ≤ y then y else x), (.pairedAndB32, .reg fun x y => x &&& y),
   (.pairedOrB32, .reg fun x y => x ||| y), (.pairedXorB32, .reg fun x y => x ^^^ y),
   (.pairedAndnB32, .reg fun x y => x &&& ~~~y), (.pairedNotB32, .reg fun _ y => ~~~y),
   (.pairedShlB32, .reg fun x y => x <<< n y), (.pairedShrlB32, .reg fun x y => x >>> n y),
   (.pairedShraS32, .reg fun x y => x.sshiftRight (n y)), (.pairedRotlB32, .reg fun x y => x.rotateLeft (n y)),
   (.pairedPermB32, .reg fun x y => permByteOf x (y.extractLsb' 15 5).toNat ++ permByteOf x (y.extractLsb' 10 5).toNat
     ++ permByteOf x (y.extractLsb' 5 5).toNat ++ permByteOf x (y.extractLsb' 0 5).toNat),
   (.pairedClzB32, .reg fun _ y => y.clz), (.pairedPopcB32, .reg fun _ y => BitVec.ofNat 32 ((List.range 32).countP y.getLsbD)),
   (.pairedBrevB32, .reg fun _ y => y.reverse), (.pairedNegS32, .reg fun _ y => -y),
   (.pairedAbsS32, .reg fun _ y => if y.toInt < 0 then -y else y),
   (.pairedFaddF32, .float fun x y => addRound .f32 .rne (f x) (f y)),
   (.pairedFsubF32, .float fun x y => addRound .f32 .rne (f x) (f (y ^^^ 0x80000000))),
   (.pairedFmulF32, .float fun x y => mulRound .f32 .rne (f x) (f y)),
   (.pairedFminF32, .reg fun x y => BitVec.ofNat 32 (minCode .f32 x.toNat y.toNat)),
   (.pairedFmaxF32, .reg fun x y => BitVec.ofNat 32 (maxCodeOf .f32 x.toNat y.toNat)),
   (.pairedPadd2Bf16, .float (duo .bf16 addRound)), (.pairedPmul2Bf16, .float (duo .bf16 mulRound)),
   (.pairedPadd2F16, .float (duo .f16 addRound)), (.pairedPmul2F16, .float (duo .f16 mulRound)),
   (.pairedPand, .pred fun a b => a && b), (.pairedPor, .pred fun a b => a || b), (.pairedPxor, .pred fun a b => a ^^ b),
   (.pairedPnot, .pred fun _ b => !b), (.pairedSetpEq, .test fun y => (decide (y = 0), 0)),
   (.pairedSetpNe, .test fun y => (decide (y ≠ 0), 0)), (.pairedSetpLt, .test fun y => (decide (y.toInt < 0), 0)),
   (.pairedSetpLe, .test fun y => (decide (y.toInt ≤ 0), 0)), (.pairedSetpGt, .test fun y => (decide (0 < y.toInt), 0)),
   (.pairedSetpGe, .test fun y => (decide (0 ≤ y.toInt), 0)), (.pairedFsetpLt, .test fun y => fcompare 2 false (f y) (f 0)),
   (.pairedFsetpLe, .test fun y => fcompare 3 false (f y) (f 0)), (.pairedFsetpEq, .test fun y => fcompare 0 false (f y) (f 0))]

/-- A thread `u` takes what a half gives from the sources as they stand in `t`. -/
def takeHalf (e : Env) (h : Half) (x : HalfKind) (t u : Thread) : Thread :=
  let d := h.d.toNat
  let y : Reg := if h.us then (readUniform e t h.s.toNat).setWidth 32 else readV t h.s.toNat
  match x with
  | .reg g => writeV u d (g (readV t d) y)
  | .float g => withFlags u d (g (readV t d) y).code (g (readV t d) y).flags
  | .pred g => writeP u d (g (readP t d) (readP t h.s.toNat))
  | .test g => setFsr (writeP u d (g y).1) (g y).2

end Sys2Proof.Spec
end

