-- ==== Sys2Proof/Certificates/Slice0/Obligations.lean ====
section
/-! DEFINITION. The statements of this slice. -/

open Sys2Proof Sys2Proof.Machine Sys2Proof.Spec

/-! ### Moves, integers, logic, predicates (R133 to R144) -/

/-- R133, R136: MOV copies A, or the uniform operand; SEL picks Va or B by its predicate (OPX bits 2:0, negated by bit 3);
the logic words combine Va and B bit by bit; at 64 bits all of them act on pairs. -/
def Obligations.MovesAndLogicGiveTheirResults : Prop := ∀ f : Full,
  Runs (.mov f) (fun e t => .ok (put f (if f.ub then b32 f e t else a32 f t) (if f.ub then b64 f e t else a64 f t) t))
  ∧ Runs (.sel f) (fun e t =>
      let p := readP t (f.opx.toNat % 8) != f.opx.getLsbD 3
      .ok (put f (if p then a32 f t else b32 f e t) (if p then a64 f t else b64 f e t) t))
  ∧ Runs (.and f) (fun e t => .ok (put f (a32 f t &&& b32 f e t) (a64 f t &&& b64 f e t) t))
  ∧ Runs (.or f) (fun e t => .ok (put f (a32 f t ||| b32 f e t) (a64 f t ||| b64 f e t) t))
  ∧ Runs (.xor f) (fun e t => .ok (put f (a32 f t ^^^ b32 f e t) (a64 f t ^^^ b64 f e t) t))
  ∧ Runs (.andn f) (fun e t => .ok (put f (a32 f t &&& ~~~(b32 f e t)) (a64 f t &&& ~~~(b64 f e t)) t))
  ∧ Runs (.not f) (fun _ t => .ok (put f (~~~(a32 f t)) (~~~(a64 f t)) t))

/-- R98, R134: without SAT, integer arithmetic wraps at 32 bits; MIN and MAX compare by the type's sign; no flag changes. -/
def Obligations.IntegerArithmeticWraps : Prop := ∀ f : Full, IntTy f → f.sat = false →
  Runs (.add f) (fun e t => .ok (writeV t f.d.toNat (a32 f t + b32 f e t)))
  ∧ Runs (.sub f) (fun e t => .ok (writeV t f.d.toNat (a32 f t - b32 f e t)))
  ∧ Runs (.mul f) (fun e t => .ok (writeV t f.d.toNat (a32 f t * b32 f e t)))
  ∧ Runs (.mad f) (fun e t => .ok (writeV t f.d.toNat (a32 f t * b32 f e t + d32 f t)))
  ∧ Runs (.min f) (fun e t =>
      .ok (writeV t f.d.toNat (if val f (a32 f t) ≤ val f (b32 f e t) then a32 f t else b32 f e t)))
  ∧ Runs (.max f) (fun e t =>
      .ok (writeV t f.d.toNat (if val f (a32 f t) ≤ val f (b32 f e t) then b32 f e t else a32 f t)))
  ∧ Runs (.neg f) (fun _ t => .ok (writeV t f.d.toNat (-(a32 f t))))
  ∧ (f.ty = .s32 → Runs (.abs f) (fun _ t =>
      .ok (writeV t f.d.toNat (if (a32 f t).toInt < 0 then -(a32 f t) else a32 f t))))

/-- R98, R105, R134: with SAT the exact result is clamped to the type's range, and IS (bit 5 of FSR) is set when the clamp
changed it. -/
def Obligations.SaturationClampsAndSetsIS : Prop := ∀ f : Full, IntTy f → f.sat = true →
  let lo : Int := if f.ty = .s32 then -2 ^ 31 else 0
  let hi : Int := if f.ty = .s32 then 2 ^ 31 - 1 else 2 ^ 32 - 1
  let clamped (z : Int) (t : Thread) : TRes :=
    let c := max lo (min hi z)
    .ok (setFsr (writeV t f.d.toNat (BitVec.ofInt 32 c)) (if c = z then 0 else 0x20))
  let x (t : Thread) : Int := val f (a32 f t)
  let y (e : Env) (t : Thread) : Int := val f (b32 f e t)
  Runs (.add f) (fun e t => clamped (x t + y e t) t)
  ∧ Runs (.sub f) (fun e t => clamped (x t - y e t) t)
  ∧ Runs (.mul f) (fun e t => clamped (x t * y e t) t)
  ∧ Runs (.mad f) (fun e t => clamped (x t * y e t + val f (d32 f t)) t)
  ∧ (f.ty = .s32 →
      Runs (.div f) (fun e t => clamped (if y e t = 0 then -1 else (x t).tdiv (y e t)) t)
      ∧ Runs (.neg f) (fun _ t => clamped (-(x t)) t)
      ∧ Runs (.abs f) (fun _ t => clamped (max (x t) (-(x t))) t))

/-- R134, R135: MULH gives the high 32 bits of the exact product; DIV truncates towards zero and gives all ones for a zero
divisor, REM gives the remainder with the dividend's sign and the dividend for a zero divisor. -/
def Obligations.MulhDivRemGiveTheirResults : Prop := ∀ f : Full, IntTy f → f.sat = false →
  Runs (.mulh f) (fun e t =>
    .ok (writeV t f.d.toNat (if f.ty = .s32 then (((a32 f t).signExtend 64 * (b32 f e t).signExtend 64) >>> 32).setWidth 32
      else (((a32 f t).setWidth 64 * (b32 f e t).setWidth 64) >>> 32).setWidth 32)))
  ∧ Runs (.div f) (fun e t =>
    .ok (writeV t f.d.toNat (if b32 f e t = 0 then BitVec.allOnes 32
      else if f.ty = .s32 then (a32 f t).sdiv (b32 f e t) else a32 f t / b32 f e t)))
  ∧ Runs (.rem f) (fun e t =>
    .ok (writeV t f.d.toNat (if b32 f e t = 0 then a32 f t
      else if f.ty = .s32 then (a32 f t).srem (b32 f e t) else a32 f t % b32 f e t)))

/-- R137: shifts by bits 7:0 of operand B; a count at or above the width shifts everything out, and ROTL takes it modulo
the width. -/
def Obligations.ShiftsGiveTheirResults : Prop := ∀ f : Full, tyBits f.ty = 32 ∨ tyBits f.ty = 64 →
  Runs (.shl f) (fun e t => .ok (put f (a32 f t <<< count f e t) (a64 f t <<< count f e t) t))
  ∧ Runs (.shrl f) (fun e t => .ok (put f (a32 f t >>> count f e t) (a64 f t >>> count f e t) t))
  ∧ (isSigned f.ty = true →
      Runs (.shra f) (fun e t => .ok (put f ((a32 f t).sshiftRight (count f e t)) ((a64 f t).sshiftRight (count f e t)) t)))
  ∧ Runs (.rotl f) (fun e t => .ok (put f ((a32 f t).rotateLeft (count f e t)) ((a64 f t).rotateLeft (count f e t)) t))

/-- R138: position p is bits 4:0 of B and the length l bits 13:8, cut to what the register holds above p; BFX extracts the
field, sign-extended for .s32, and BFI replaces it.
R139, R140: PERM builds its four bytes from the codes in bits 19:0 of B; CLZ counts leading zeros, POPC counts ones,
BREV reverses the bits, at the type's width. -/
def Obligations.BitFieldsAndPermutationsGiveTheirResults : Prop :=
  (∀ f : Full,
  let p (e : Env) (t : Thread) : Nat := ((b32 f e t).setWidth 5).toNat
  let l (e : Env) (t : Thread) : Nat := min (((b32 f e t) >>> 8).setWidth 6).toNat (32 - p e t)
  Runs (.bfx f) (fun e t =>
      .ok (writeV t f.d.toNat (if isSigned f.ty then ((a32 f t).extractLsb' (p e t) (l e t)).signExtend 32
        else ((a32 f t).extractLsb' (p e t) (l e t)).setWidth 32)))
  ∧ ∃ r : Env → Thread → Reg, Runs (.bfi f) (fun e t => .ok (writeV t f.d.toNat (r e t)))
      ∧ ∀ e t j, j < 32 → (r e t).getLsbD j =
          if p e t ≤ j ∧ j < p e t + l e t then (a32 f t).getLsbD (j - p e t) else (d32 f t).getLsbD j)
  ∧ (∀ f : Full,
  (∃ r : Env → Thread → Reg, Runs (.perm f) (fun e t => .ok (writeV t f.d.toNat (r e t)))
      ∧ ∀ e t j, j < 4 → (r e t).extractLsb' (8 * j) 8 = permByteOf (a32 f t) ((b32 f e t).extractLsb' (5 * j) 5).toNat)
  ∧ (tyBits f.ty = 32 ∨ tyBits f.ty = 64 →
      Runs (.clz f) (fun _ t => .ok (writeV t f.d.toNat (if tyBits f.ty = 64 then (a64 f t).clz.setWidth 32 else (a32 f t).clz)))
      ∧ Runs (.popc f) (fun _ t =>
          .ok (writeV t f.d.toNat (if tyBits f.ty = 64 then BitVec.ofNat 32 ((List.range 64).countP (a64 f t).getLsbD)
            else BitVec.ofNat 32 ((List.range 32).countP (a32 f t).getLsbD))))
      ∧ Runs (.brev f) (fun _ t => .ok (put f (a32 f t).reverse (a64 f t).reverse t))))

/-- R133, R141: LEA adds B shifted by OPX bits 1:0 to Va, ADD.d adds at 64 bits, MOVI and ADDI use the 32-bit immediate. -/
def Obligations.AddressesAndImmediatesGiveTheirResults : Prop :=
  (∀ f : Full,
    Runs (.lea f) (fun e t => .ok (writeV t f.d.toNat (a32 f t + b32 f e t * BitVec.ofNat 32 (2 ^ (f.opx.toNat % 4)))))
    ∧ Runs (.addD f) (fun e t => .ok (writePair t f.d.toNat (a64 f t + b64 f e t))))
  ∧ ∀ x : Imm,
    Runs (.movi x) (fun _ t => .ok (writeV t x.d.toNat x.imm))
    ∧ Runs (.addi x) (fun _ t => .ok (writeV t x.d.toNat (readV t x.a.toNat + x.imm)))

/-- R142 to R144: SETP compares by the type's sign under one of the six conditions; the predicate words combine Pa and Pb,
each negated by its OPX bit; a write to P0 is discarded and P0 reads true (R119). -/
def Obligations.PredicatesGiveTheirResults : Prop :=
  (∀ f : Full, tyBits f.ty = 32 ∨ tyBits f.ty = 64 → f.opx.toNat < 6 →
    ∃ r : Env → Thread → Bool, Runs (.setp f) (fun e t => .ok (writeP t f.d.toNat (r e t)))
      ∧ ∀ e t, r e t = true ↔ holds f.opx.toNat (cmpVal f (a32 f t) (a64 f t)) (cmpVal f (b32 f e t) (b64 f e t)))
  ∧ (∀ f : Full,
      let p (t : Thread) : Bool := readP t f.a.toNat ^^ f.opx.getLsbD 0
      let q (t : Thread) : Bool := readP t f.b.toNat ^^ f.opx.getLsbD 1
      Runs (.pand f) (fun _ t => .ok (writeP t f.d.toNat (p t && q t)))
      ∧ Runs (.por f) (fun _ t => .ok (writeP t f.d.toNat (p t || q t)))
      ∧ Runs (.pxor f) (fun _ t => .ok (writeP t f.d.toNat (p t ^^ q t)))
      ∧ Runs (.pnot f) (fun _ t => .ok (writeP t f.d.toNat (!p t))))
  ∧ ∀ (t : Thread) (b : Bool) (n m : Nat), n < 8 → m < 8 →
      readP (writeP t n b) m = (if m = 0 then true else if m = n then b else readP t m)

/-! ### Floats (R94 to R110, R161 to R181) -/

/-- R102: Round of a finite nonzero value gives, in every format and mode, the value that R102's steps name with its flags;
above the greatest finite value it gives what the Overflow table names, with OF and NX. -/
def Obligations.RoundFollowsItsRule : Prop := ∀ (ty : Ty) (rm : Rm) (sat neg : Bool) (m : Nat) (e : Int),
  isF ty = true → 0 < m → IsRound ty rm sat neg ((m : Rat) * (2 : Rat) ^ e) (roundTo ty rm sat (.fin neg m e))

/-- R163: FADD, FSUB, FMUL and FFMA write Round of the exact sum, difference, product, or product plus Vd, and raise no
flag of their own for finite operands. -/
def Obligations.FloatArithmeticRoundsTheExactResult : Prop := ∀ f : Full,
  let ok (i : Instr) (g : Rat → Rat → Rat → Rat) : Prop :=
    ∃ v : Env → Thread → FV × Reg,
      Runs i (fun e t => let r := roundTo .f32 f.rm false (v e t).1; .ok (withFlags t f.d.toNat r.code (r.flags ||| (v e t).2)))
      ∧ ∀ e t a b d, ratOf (fA f t) = some a → ratOf (fB f e t) = some b → ratOf (fD f t) = some d →
          ratOf (v e t).1 = some (g a b d) ∧ (v e t).2 = 0
  ok (.fadd f) (fun a b _ => a + b) ∧ ok (.fsub f) (fun a b _ => a - b) ∧ ok (.fmul f) (fun a b _ => a * b)
    ∧ ok (.ffma f) (fun a b d => a * b + d)

/-- R96, R163, R164: in FADD, FSUB (whose b takes the opposite sign first), FMUL and FFMA a zero times an infinity gives the
canonical NaN with IV, any other NaN operand the canonical NaN without a flag, and the addition of infinities of opposite
signs the canonical NaN with IV; otherwise an infinite operand or product gives its infinity; an exact zero takes the sign of
R96, and in FMUL the exclusive OR of the operands' signs. -/
def Obligations.SpecialOperandsGiveTheirResults : Prop := ∀ f : Full,
  let gives (i : Instr) (P : FV → FV → FV → Rounded → Prop) : Prop :=
    ∃ r : Env → Thread → Rounded, Runs i (fun e t => .ok (withFlags t f.d.toNat (r e t).code (r e t).flags))
      ∧ ∀ e t, P (fA f t) (fB f e t) (fD f t) (r e t)
  gives (.fadd f) (fun a b _ r => SumCases .f32 f.rm a b r)
  ∧ gives (.fsub f) (fun a b _ r => SumCases .f32 f.rm a (fvMinus b) r)
  ∧ gives (.fmul f) (fun a b _ r => ProductCases .f32 a b r)
  ∧ gives (.ffma f) (fun a b d r => FmaCases .f32 f.rm a b d r)

/-- R165 to R167: FMIN and FMAX give one of their operands, the lesser or the greater, infinities among them and -0 below +0,
the other one of a NaN, and set no flag; FSETP compares exact values and infinities as magnitudes, an unordered pair giving U
or NE, with IV under LT, LE, GT and GE; FCLASS writes the one bit of the class of its operand. -/
def Obligations.FloatChoicesAndComparisons : Prop := ∀ f : Full,
  (∃ r s : Env → Thread → Reg, Runs (.fmin f) (fun e t => .ok (writeV t f.d.toNat (r e t)))
    ∧ Runs (.fmax f) (fun e t => .ok (writeV t f.d.toNat (s e t)))
    ∧ ∀ e t,
      (below (fA f t) (fB f e t) → r e t = a32 f t ∧ s e t = b32 f e t)
      ∧ (below (fB f e t) (fA f t) → r e t = b32 f e t ∧ s e t = a32 f t)
      ∧ (fA f t = .nan → fB f e t ≠ .nan → r e t = b32 f e t ∧ s e t = b32 f e t)
      ∧ (fA f t ≠ .nan → fB f e t = .nan → r e t = a32 f t ∧ s e t = a32 f t)
      ∧ (fA f t = .nan → fB f e t = .nan → r e t = 0x7FC00000 ∧ s e t = 0x7FC00000)
      ∧ (a32 f t = 0x80000000 ∧ b32 f e t = 0 ∨ a32 f t = 0 ∧ b32 f e t = 0x80000000 → r e t = 0x80000000 ∧ s e t = 0)
      ∧ (a32 f t = b32 f e t → fA f t ≠ .nan → r e t = a32 f t ∧ s e t = a32 f t))
  ∧ (f.opx.toNat % 8 < 6 → ∃ (p : Env → Thread → Bool) (fl : Env → Thread → Reg),
    Runs (.fsetp f) (fun e t => .ok (setFsr (writeP t f.d.toNat (p e t)) (fl e t)))
    ∧ ∀ e t,
      let a := fA f t
      let b := fB f e t
      let cc := f.opx.toNat % 8
      (a ≠ .nan → b ≠ .nan →
        fl e t = 0 ∧ (p e t = true ↔ (cc = 0 ∧ same a b) ∨ (cc = 1 ∧ ¬ same a b) ∨ (cc = 2 ∧ below a b) ∨ (cc = 3 ∧ ¬ below b a)
          ∨ (cc = 4 ∧ below b a) ∨ (cc = 5 ∧ ¬ below a b)))
      ∧ (a = .nan ∨ b = .nan →
        p e t = (f.opx.getLsbD 3 || decide (cc = 1)) ∧ fl e t = if 2 ≤ cc then 1 else 0))
  ∧ ∃ n : Thread → Nat, Runs (.fclass f) (fun _ t => .ok (writeV t f.d.toNat (BitVec.ofNat 32 (2 ^ n t))))
    ∧ ∀ t, isF f.ty = true →
      let v := fvOf f.ty (a32 f t).toNat
      (v = .nan → n t = 8) ∧ (v = .inf true → n t = 0) ∧ (v = .inf false → n t = 7)
      ∧ ∀ x, ratOf v = some x →
        let low := (2 : Rat) ^ (1 - (fmtTable f.ty).1)
        (x = 0 → n t = if fvNeg v then 3 else 4)
        ∧ (0 < x → n t = if x < low then 5 else 6) ∧ (x < 0 → n t = if -x < low then 2 else 1)

/-- R103, R168: CVT rounds the exact value of its source into a float type, and into an integer type gives the nearest
integer in the mode, clamped: IV when clamped, else NX when inexact; NaN gives 0 and IV, an infinity the end of the range
and IV. A narrow integer result fills its register by its sign. -/
def Obligations.CvtConverts : Prop := ∀ (f : Full) (src : Ty), tyOf f.opx.toNat = some src → f.opx.toNat < 32 →
  (isF f.ty = true → Runs (.cvt f) (fun _ t =>
      let r := roundTo f.ty f.rm f.sat (elemVal src (if tyBits src = 64 then (a64 f t).toNat else (a32 f t).toNat))
      .ok (withFlags t f.d.toNat r.code r.flags)))
  ∧ (isF f.ty = false → isF src = true → ∃ (z : Thread → Int) (fl : Thread → Reg),
      Runs (.cvt f) (fun _ t => .ok (setFsr (put f (BitVec.ofInt 32 (z t)) (BitVec.ofInt 64 (z t)) t) (fl t)))
      ∧ ∀ t,
        let lo : Int := if isSigned f.ty then -2 ^ (tyBits f.ty - 1) else 0
        let hi : Int := if isSigned f.ty then 2 ^ (tyBits f.ty - 1) - 1 else 2 ^ tyBits f.ty - 1
        let v := fvOf src (a32 f t).toNat
        (v = .nan → z t = 0 ∧ fl t = 1) ∧ (v = .inf true → z t = lo ∧ fl t = 1) ∧ (v = .inf false → z t = hi ∧ fl t = 1)
        ∧ ∀ x, ratOf v = some x →
          z t = max lo (min hi (roundedInt f.rm x))
          ∧ fl t = if z t ≠ roundedInt f.rm x then 1 else if (z t : Rat) ≠ x then 0x10 else 0)

/-- R104: StochRound of a magnitude a between neighbours lo and hi of the grid picks hi when the random bits lie below
⌊(a - lo) × 2^32 / ulp⌋; the flags are those of R102. -/
def Obligations.StochRoundFollowsItsRule : Prop := ∀ (ty : Ty) (sat neg : Bool) (m r : Nat) (e : Int),
  isF ty = true → ty ≠ .f32 → 0 < m →
  let a : Rat := (m : Rat) * (2 : Rat) ^ e
  let u := ulpAt ty a
  let lo := (⌊a / u⌋ : Rat) * u
  let y := if (r : Int) < ⌊(a - lo) / u * 2 ^ 32⌋ then lo + u else lo
  let x := stochTo ty sat r (.fin neg m e)
  y ≤ (fmtTable ty).2.2 →
    x.flags = roundedFlags ty a ∧ ratOf (fvOf ty x.code) = some ((if neg then -1 else 1) * y)

/-- R169 to R171: CVT.sr rounds Va stochastically by B; CVTPK and CVTPK.sr convert the registers V(A + i) and pack element i
in bits w(i + 1) - 1 : wi, with the union of their flags; CVTUP writes element i, exact, into V(D + i). -/
def Obligations.PackingConversionsActByElement : Prop := ∀ f : Full,
  let w := tyBits f.ty
  let n := 32 / w
  Runs (.cvtSr f) (fun e t =>
    let r := stochTo f.ty f.sat (b32 f e t).toNat (fA f t)
    .ok (withFlags t f.d.toNat r.code r.flags))
  ∧ (isF f.ty = true → w < 32 → ∃ (c : Thread → Nat) (fl : Thread → Reg),
      Runs (.cvtpk f) (fun _ t => .ok (withFlags t f.d.toNat (c t) (fl t)))
      ∧ ∀ t,
        let r (i : Nat) : Rounded := roundTo f.ty f.rm f.sat (fvOf .f32 (readV t (f.a.toNat + i)).toNat)
        (∀ i, i < n → c t / 2 ^ (w * i) % 2 ^ w = (r i).code)
        ∧ fl t = ((List.range n).map fun i => (r i).flags).foldl (· ||| ·) 0)
  ∧ (isF f.ty = true → w < 32 → ∃ (c : Thread → Nat) (fl : Thread → Reg),
      Runs (.cvtpkSr f) (fun _ t => .ok (withFlags t f.d.toNat (c t) (fl t)))
      ∧ ∀ t,
        let r (i : Nat) : Rounded := stochTo f.ty f.sat (readV t (f.b.toNat + i)).toNat (fvOf .f32 (readV t (f.a.toNat + i)).toNat)
        (∀ i, i < n → c t / 2 ^ (w * i) % 2 ^ w = (r i).code)
        ∧ fl t = ((List.range n).map fun i => (r i).flags).foldl (· ||| ·) 0)
  ∧ (f.ty ∈ [Ty.s16, .n16, .s8, .n8, .s4, .n4] → tyOf f.opx.toNat ≠ some .f32 → ∃ (c : Thread → Nat) (fl : Thread → Reg),
      Runs (.cvtpk f) (fun _ t => .ok (withFlags t f.d.toNat (c t) (fl t)))
      ∧ ∀ t,
        let lo : Int := if isSigned f.ty then -2 ^ (w - 1) else 0
        let hi : Int := if isSigned f.ty then 2 ^ (w - 1) - 1 else 2 ^ w - 1
        let x (i : Nat) : Int := (readV t (f.a.toNat + i)).toInt
        (∀ i, i < n → ((c t / 2 ^ (w * i) % 2 ^ w : Nat) : Int) = max lo (min hi (x i)) % 2 ^ w)
        ∧ fl t = if ∀ i, i < n → lo ≤ x i ∧ x i ≤ hi then 0 else 0x20)
  ∧ (∀ src, tyOf f.opx.toNat = some src → f.opx.toNat < 32 → f.ty = .s32 → tyBits src < 32 → isF src = false →
      Runs (.cvtup f) (fun _ t =>
        .ok (writeVs t ((List.range (32 / tyBits src)).map fun i =>
          (f.d.toNat + i, if isSigned src then ((a32 f t).extractLsb' (tyBits src * i) (tyBits src)).signExtend 32
            else ((a32 f t).extractLsb' (tyBits src * i) (tyBits src)).setWidth 32)))))
  ∧ ∀ src, tyOf f.opx.toNat = some src → f.opx.toNat < 32 → f.ty = .f32 → tyBits src < 32 → isF src = true ∨ src = .e8m0 →
      ∃ c : Thread → Nat → Reg,
        Runs (.cvtup f) (fun _ t => .ok (writeVs t ((List.range (32 / tyBits src)).map fun i => (f.d.toNat + i, c t i))))
        ∧ ∀ t i x, i < 32 / tyBits src → ratOf (elemVal src (elem src (a32 f t) i)) = some x →
            ratOf (fvOf .f32 (c t i).toNat) = some x

/-- R108, R164, R172 to R174: the packed words round each 16-bit element by itself, with the special cases of R164; the dot
products round the exact sum of products and accumulator once, with the special cases of R108, or in integers wrap it, and
under .sat clamp it and set IS when the clamp changes it; FMULE scales by a power of two from a byte of B, and gives the
canonical NaN for 0xFF or a NaN, its operand for a zero or an infinity. -/
def Obligations.PackedDotsAndScalingRoundOnce : Prop := ∀ f : Full,
  let packed (i : Instr) (g : Rat → Rat → Rat → Rat) (P : FV → FV → FV → Rounded → Prop) : Prop :=
    ∃ v : Nat → Env → Thread → FV × Reg,
      let r (j : Nat) (e : Env) (t : Thread) := roundTo f.ty f.rm false (v j e t).1
      Runs i (fun e t => .ok (withFlags t f.d.toNat ((r 0 e t).code + 2 ^ 16 * (r 1 e t).code)
        ((r 0 e t).flags ||| (v 0 e t).2 ||| ((r 1 e t).flags ||| (v 1 e t).2))))
      ∧ ∀ j e t, j < 2 →
          let a := fvOf f.ty (elem f.ty (a32 f t) j)
          let b := fvOf f.ty (elem f.ty (b32 f e t) j)
          let d := fvOf f.ty (elem f.ty (d32 f t) j)
          (∀ x y z, ratOf a = some x → ratOf b = some y → ratOf d = some z →
            ratOf (v j e t).1 = some (g x y z) ∧ (v j e t).2 = 0)
          ∧ P a b d ⟨(r j e t).code, (r j e t).flags ||| (v j e t).2⟩
  let dot (i : Instr) (m : Nat) : Prop := ∀ tb, tyOf f.opx.toNat = some tb → f.opx.toNat < 32 →
    (isF f.ty = true → isF tb = true → ∃ v : Env → Thread → FV × Reg,
      let r (e : Env) (t : Thread) : Rounded := roundTo .f32 .rne false (v e t).1
      Runs i (fun e t => .ok (withFlags t f.d.toNat (r e t).code ((r e t).flags ||| (v e t).2)))
      ∧ ∀ e t,
          let a (k : Nat) : FV := fvOf f.ty (elem f.ty (a32 f t) k)
          let b (k : Nat) : FV := fvOf tb (elem tb (b32 f e t) k)
          (∀ z (x y : Nat → Rat), ratOf (fD f t) = some z → (∀ k, k < m → ratOf (a k) = some (x k)) →
            (∀ k, k < m → ratOf (b k) = some (y k)) →
            ratOf (v e t).1 = some (((List.range m).map fun k => x k * y k).sum + z) ∧ (v e t).2 = 0)
          ∧ DotCases m a b (fD f t) ⟨(r e t).code, (r e t).flags ||| (v e t).2⟩)
    ∧ (isI f.ty = true ∨ f.ty = .s4 ∨ f.ty = .n4 →
        let signed := isSigned f.ty || isSigned tb
        let lo : Int := if signed then -2 ^ 31 else 0
        let hi : Int := if signed then 2 ^ 31 - 1 else 2 ^ 32 - 1
        let z (e : Env) (t : Thread) : Int :=
          ((List.range m).map fun k => intOf f.ty (elem f.ty (a32 f t) k) * intOf tb (elem tb (b32 f e t) k)).sum
            + if signed then (d32 f t).toInt else (d32 f t).toNat
        (f.sat = false → Runs i (fun e t => .ok (writeV t f.d.toNat (BitVec.ofInt 32 (z e t)))))
        ∧ (f.sat = true → Runs i (fun e t =>
            let c := max lo (min hi (z e t))
            .ok (setFsr (writeV t f.d.toNat (BitVec.ofInt 32 c)) (if c = z e t then 0 else 0x20)))))
  ((f.ty = .bf16 ∨ f.ty = .f16) →
    packed (.padd2 f) (fun a b _ => a + b) (fun a b _ r => SumCases f.ty f.rm a b r)
    ∧ packed (.pmul2 f) (fun a b _ => a * b) (fun a b _ r => ProductCases f.ty a b r)
    ∧ packed (.pfma2 f) (fun a b d => a * b + d) (fun a b d r => FmaCases f.ty f.rm a b d r))
  ∧ dot (.dot2 f) 2 ∧ dot (.dot4 f) 4 ∧ dot (.dot8 f) 8
  ∧ ∃ c : Env → Thread → Rounded, Runs (.fmule f) (fun e t => .ok (withFlags t f.d.toNat (c e t).code (c e t).flags))
      ∧ ∀ e t,
        let s := (b32 f e t).toNat / 2 ^ (8 * (f.opx.toNat % 4)) % 256
        (s = 255 ∨ fA f t = .nan → c e t = ⟨0x7FC00000, 0⟩)
        ∧ (s ≠ 255 → (∃ x, fA f t = .inf x) ∨ ratOf (fA f t) = some 0 → c e t = ⟨(a32 f t).toNat, 0⟩)
        ∧ ∀ neg m k, fA f t = .fin neg m k → 0 < m → s ≠ 255 → c e t = roundTo .f32 f.rm false (.fin neg m (k + (s - 127)))

/-- R102, R175 to R178, R181, R314: a special function and TBL leave their result to land later, with the completion flag of the
word set; TBL gives the interpolation of R181 in the active bank (the sign of an exact zero sum apart, log entry 34); special
operands give what R176's table names, exact results without a flag. RCP, RSQRT and SQRT of the other finite
operands are the exact value rounded as R102 says; that the other five functions are too rests on log entry 9. -/
def Obligations.SpecialFunctionsLandLater : Prop :=
  (∀ (f : Full) (i : Instr) (g : Rm → FV → Rounded),
    (i, g) ∈ [(Instr.rcp f, rcpFn), (.rsqrt f, rsqrtFn), (.sqrt f, sqrtFn), (.exp2 f, exp2Fn), (.log2 f, log2Fn),
      (.tanh f, tanhFn), (.sin f, sinFn), (.cos f, cosFn)] →
    Runs i (fun e t =>
      let r := g f.rm (fA f t)
      .ok (lateResult e t f.fsel (13 + ((e.k.threads.filter (takesWord e i)).length + 15) / 16)
        [(f.d.toNat, BitVec.ofNat 32 r.code)] r.flags)))
  ∧ (∀ f : Full, ∃ v : Env → Thread → Rounded,
      Runs (.tbl f) (fun e t =>
        .ok (lateResult e t f.fsel (13 + ((e.k.threads.filter (takesWord e (.tbl f))).length + 15) / 16)
          [(f.d.toNat, BitVec.ofNat 32 (v e t).code)] (v e t).flags))
      ∧ ∀ e t, IsTable (if e.k.act then e.k.bank1 else e.k.bank0) (a32 f t).toNat (v e t))
  ∧ (∀ (rm : Rm) (neg : Bool) (m : Nat) (k : Int), 0 < m →
    let z : FV := .fin neg 0 k
    let inf : Nat := if neg then 0xFF800000 else 0x7F800000
    rcpFn rm z = ⟨inf, 2⟩ ∧ rsqrtFn rm z = ⟨inf, 2⟩ ∧ log2Fn rm z = ⟨0xFF800000, 2⟩
    ∧ sqrtFn rm z = ⟨if neg then 0x80000000 else 0, 0⟩ ∧ exp2Fn rm z = ⟨0x3F800000, 0⟩
    ∧ cosFn rm z = ⟨0x3F800000, 0⟩ ∧ sinFn rm z = ⟨if neg then 0x80000000 else 0, 0⟩
    ∧ tanhFn rm z = ⟨if neg then 0x80000000 else 0, 0⟩
    ∧ rcpFn rm (.inf neg) = ⟨if neg then 0x80000000 else 0, 0⟩ ∧ rsqrtFn rm (.inf false) = ⟨0, 0⟩
    ∧ exp2Fn rm (.inf neg) = ⟨if neg then 0 else 0x7F800000, 0⟩ ∧ tanhFn rm (.inf neg) = ⟨if neg then 0xBF800000 else 0x3F800000, 0⟩
    ∧ sinFn rm (.inf neg) = ⟨0x7FC00000, 1⟩ ∧ cosFn rm (.inf neg) = ⟨0x7FC00000, 1⟩
    ∧ rsqrtFn rm (.inf true) = ⟨0x7FC00000, 1⟩ ∧ sqrtFn rm (.inf true) = ⟨0x7FC00000, 1⟩
    ∧ log2Fn rm (.inf true) = ⟨0x7FC00000, 1⟩ ∧ sqrtFn rm (.inf false) = ⟨0x7F800000, 0⟩
    ∧ log2Fn rm (.inf false) = ⟨0x7F800000, 0⟩
    ∧ sqrtFn rm (.fin true m k) = ⟨0x7FC00000, 1⟩ ∧ rsqrtFn rm (.fin true m k) = ⟨0x7FC00000, 1⟩
    ∧ log2Fn rm (.fin true m k) = ⟨0x7FC00000, 1⟩
    ∧ (∀ g ∈ [rcpFn, rsqrtFn, sqrtFn, exp2Fn, log2Fn, tanhFn, sinFn, cosFn], g rm .nan = ⟨0x7FC00000, 0⟩))
  ∧ ∀ (rm : Rm) (x : Reg) (q : Rat), ratOf (fvOf .f32 x.toNat) = some q → q ≠ 0 →
    let v := fvOf .f32 x.toNat
    IsRound .f32 rm false (fvNeg v) |1 / q| (rcpFn rm v)
    ∧ (0 < q → IsRound .f32 rm false false (Real.sqrt (q : ℝ)) (sqrtFn rm v)
        ∧ IsRound .f32 rm false false (1 / Real.sqrt (q : ℝ)) (rsqrtFn rm v))
    ∧ (∀ n : Int, q = n → -149 ≤ n → n ≤ 127 → ratOf (fvOf .f32 (exp2Fn rm v).code) = some ((2 : Rat) ^ n) ∧ (exp2Fn rm v).flags = 0)
    ∧ (∀ n : Int, q = (2 : Rat) ^ n → ratOf (fvOf .f32 (log2Fn rm v).code) = some (n : Rat) ∧ (log2Fn rm v).flags = 0)
    ∧ (q = 1 → log2Fn rm v = ⟨0, 0⟩)
    ∧ (64 ≤ q → tanhFn rm v = ⟨if rm = .rne ∨ rm = .rup then 0x3F800000 else 0x3F7FFFFF, 0x10⟩)

/-! ### Control and the guest interpreter (R145 to R159) -/

/-- R33, R145, R148, R149, R151: BRA and BRC go to the header that the immediate names, BRC when its condition holds of
Va; LOOP loads a loop counter and leaves the loop at zero; LEND counts down and goes back while more than one pass was
left; NOP does nothing. -/
def Obligations.TransfersGoToTheirHeaders : Prop :=
  (∀ x : Imm,
    let h := (x.imm.setWidth 15).toNat
    RunsOn (.bra x) (fun e t => jump e t t h)
    ∧ ((x.imm.toNat / 2 ^ 15) % 8 < 6 → ∃ c : Thread → Bool,
        RunsOn (.brc x) (fun e t => if c t then jump e t t h else .ok t)
        ∧ ∀ t, c t = true ↔ holds (x.imm.toNat / 2 ^ 15 % 8) (readV t x.a.toNat).toInt 0)
    ∧ (x.d.toNat ≤ 1 →
      RunsOn (.loop x) (fun e t =>
        let n := readV t x.a.toNat
        let u : Thread := { t with sr := if x.d = 0 then { t.sr with lc0 := n } else { t.sr with lc1 := n } }
        if n = 0 then jump e t u h else .ok u)
      ∧ RunsOn (.lend x) (fun e t =>
        let n := if x.d = 0 then t.sr.lc0 else t.sr.lc1
        let u (k : Reg) : Thread := { t with sr := if x.d = 0 then { t.sr with lc0 := k } else { t.sr with lc1 := k } }
        if n = 0 ∨ n = 1 then .ok (u 0) else jump e t (u (n - 1)) h)))
  ∧ ∀ f : Full, Runs (.nop f) (fun _ t => .ok t)

/-- R145 to R147: CALL and CALLI push the index after their clause and go to their target, spilling the eight held entries
below SP when the stack is full; a target that is no header traps before the push, and a depth of 65,535 overflows. RET
pops the newest entry and goes there; with no entry held it reads eight back from SP, and with none at all it underflows. The
ARG of a spill that traps is its base address (log entry 24, DEDUCED), and a RET that reads back stands in state future with a
transit wait until its entries have come (log entry 72, DESIGN CHOICE).
R26, R150: after EXIT the thread is exited and keeps its slot; its wait, its return stack and its loop counters are
gone, and its queued accesses stay to take effect. -/
def Obligations.CallsReturnsAndExit : Prop :=
  ((∀ x : Imm, RunsOnIf noTillers (.call x) (fun e t => Spec.callTo e t (x.imm.setWidth 15).toNat))
  ∧ (∀ f : Full, RunsOnIf noTillers (.calli f) (fun e t => Spec.callTo e t (a32 f t).toNat))
  ∧ ∀ f : Full, RunsOn (.ret f) (fun e t =>
      if t.rs.depth = 0 then .trap .returnUnderflow 0 0
      else if t.rs.held = 0 then
        match checkAccOwn e t t.sr.sp 32 4 true false with
        | .trap c code => .trap c code (t.sr.sp.setWidth 64)
        | .at_ p _ =>
          .ok { t with
            acc := t.acc ++ (List.range 8).map fun j =>
              { id := accId e j, path := .own, kind := .fill j, phys := p + 4 * j, size := 4, cyc := e.ck.cyc, inv := false,
                rel := false, flag := none, after := 0, posts := [] }
            pos := { t.pos with st := .future, since := e.ck.now }
            xfer := some { ret := true, pcMode := false, at_ := e.ck.cyc + 6, cnt := none, ent := none,
                           words := List.replicate 8 0, win := none, gop := 0 }
            wait := some { kind := .transit e.is.widx, dl := ⟨0, none⟩, reg := 0, next := 0, start := e.ck.now } }
      else
        jump e t { t with rs := { t.rs with depth := t.rs.depth - 1, held := t.rs.held - 1 } }
          (t.rs.ent.getD (t.rs.held - 1) 0).toNat))
  ∧ (∀ (f : Full) (s : State) (e : Env) (t : Thread), s.env = some e →
  e.c < s.cores.length → t ∈ e.k.threads → takesWord e (.exit f) t = true → legalHere e (.exit f) t = true →
  (∀ u ∈ e.k.threads, u.id.slot = t.id.slot → u = t) →
  ∃ s' u, exec (.exit f) s = .next s' ∧ s'.thread e.c t.id.slot = some u
    ∧ u.id = t.id ∧ u.pos.st = .exited ∧ u.wait = none ∧ u.rs.depth = 0 ∧ u.rs.held = 0 ∧ u.sr.lc0 = 0 ∧ u.sr.lc1 = 0
    ∧ u.acc = t.acc ∧ s'.mem = s.mem)

/-- R11, R153, R154, R158, R159: the words that move GPC and those that read and write guest registers; a write of the reserved
bits 29:23 of GBPn is ignored. -/
def Obligations.GuestWordsGiveTheirResults : Prop := ∀ f : Full,
  let next (t : Thread) : Reg := t.gst.gpc + BitVec.ofNat 32 (2 ^ (t.gst.gdd.toNat % 4))
  let bp (t : Thread) : Reg := a32 f t &&& 0xC07FFFFF
  let pc (t : Thread) (x : Reg) : Thread := { t with gst := { t.gst with gpc := x } }
  Runs (.gnext f) (fun _ t => .ok (pc t (next t)))
  ∧ Runs (.gjmp f) (fun _ t => .ok (pc t (a32 f t)))
  ∧ Runs (.gjmpRel f) (fun _ t => .ok (pc t (t.gst.gpc + a32 f t)))
  ∧ (f.opx.toNat % 8 < 6 → ∃ c : Thread → Bool,
      Runs (.gbrc f) (fun e t => .ok (pc t (if c t then t.gst.gpc + b32 f e t else next t)))
      ∧ ∀ t, c t = true ↔ holds (f.opx.toNat % 8) (a32 f t).toInt 0)
  ∧ (f.opx.toNat ≤ 10 → ∃ g : Thread → Guest,
      Runs (.gset f) (fun _ t => .ok { t with gst := g t })
      ∧ ∀ t, g t =
        (match f.opx.toNat with
        | 0 => { t.gst with gpc := a32 f t } | 1 => { t.gst with gir := a64 f t } | 2 => { t.gst with gop := a32 f t }
        | 3 => { t.gst with ga0 := a32 f t } | 4 => { t.gst with ga1 := a32 f t } | 5 => { t.gst with gdd := a32 f t }
        | 6 => { t.gst with htb := a32 f t } | 7 => { t.gst with gbp0 := bp t } | 8 => { t.gst with gbp1 := bp t }
        | 9 => { t.gst with gbp2 := bp t } | _ => { t.gst with gbp3 := bp t }))
  ∧ (f.opx.toNat ≤ 10 →
      Runs (.gget f) (fun _ t =>
        .ok (if f.opx.toNat = 1 then writePair t f.d.toNat t.gst.gir
          else writeV t f.d.toNat
            (match f.opx.toNat with
            | 0 => t.gst.gpc | 2 => t.gst.gop | 3 => t.gst.ga0 | 4 => t.gst.ga1 | 5 => t.gst.gdd | 6 => t.gst.htb
            | 7 => t.gst.gbp0 | 8 => t.gst.gbp1 | 9 => t.gst.gbp2 | _ => t.gst.gbp3))))

/-- R154, R155: GFETCH first stops at an armed guest breakpoint on GPC, then meets the checks of its access, then a GDD that
is not valid, and then reads 2^ILEN bytes at GPC, with its completion flag set.
R155: of the bytes fetched GIR takes the value, GOP the opcode field and GA0 and GA1 the two operand fields, each
zero-extended or, where its bit of GDD says so, sign-extended. -/
def Obligations.GfetchReadsAndExtracts : Prop :=
  (∀ f : Full,
  Runs (.gfetch f) (fun e t =>
    let n := 2 ^ (t.gst.gdd.toNat % 4)
    if guestBreak t then .trap .guestBreakpoint 0 0
    else match checkAcc e t t.gst.gpc n n true false with
      | .trap c code => .trap c code (t.gst.gpc.setWidth 64)
      | .at_ p w =>
        if gddInvalid t.gst.gdd then .trap .guestDescriptor 0 0
        else .ok (pushAcc e t 0 (.gfetch t.gst.gdd) p n w false false (flagOf e.is f.fsel))))
  ∧ (∀ (gdd : Reg) (v : Nat), v < 2 ^ 64 → gddInvalid gdd = false →
  let g := gdd.toNat
  let opw := if g / 2 ^ 8 % 16 = 0 then 8 else g / 2 ^ 8 % 16
  let bits (lo w : Nat) (sx : Bool) : Reg :=
    if w = 0 then 0 else if sx then ((BitVec.ofNat 64 v).extractLsb' lo w).signExtend 32
    else ((BitVec.ofNat 64 v).extractLsb' lo w).setWidth 32
  guestDecode gdd v =
    (BitVec.ofNat 64 v, bits (g / 2 ^ 2 % 64) opw false, bits (g / 2 ^ 12 % 64) (g / 2 ^ 18 % 32) (gdd.getLsbD 23),
      bits (g / 2 ^ 12 % 64 + g / 2 ^ 18 % 32) (g / 2 ^ 24 % 32) (gdd.getLsbD 29)))

/-- R156, R157: DISPATCH traps without a table, checks the COUNT word at HTB and the watchpoints of both its reads, the lower of which is reported (R403), reads it and the entry at HTB + 4 + 4 × GOP,
and leaves its thread on the way to the handler: in state future with a transit wait (log entry 72, DESIGN CHOICE) that carries
the gather window of its clause (log entry 15, DEDUCED). -/
def Obligations.DispatchReadsTheTable : Prop := ∀ (f : Full) (pc : Bool),
  Runs (if pc then .dispatchPc f else .dispatchOp f) (fun e t =>
    let at_ := t.gst.htb.toNat + 4 + 4 * t.gst.gop.toNat
    let inside : Bool := decide (at_ + 4 ≤ 0x480000)
    let watch := if inside then watchAt e t (BitVec.ofNat 32 at_) 4 true false else none
    if t.gst.htb = 0 then .trap .guestUndefined 0 0
    else match checkAccOwn e t t.gst.htb 4 4 true false, watch with
      | .trap .watchpoint m, some n =>
        if n < m then .trap .watchpoint n (BitVec.ofNat 64 at_) else .trap .watchpoint m (t.gst.htb.setWidth 64)
      | .trap c code, _ => .trap c code (t.gst.htb.setWidth 64)
      | .at_ _ _, some n => .trap .watchpoint n (BitVec.ofNat 64 at_)
      | .at_ p _, none =>
          let u := pushAcc e t 0 .dispCount p 4 .own false false none
          let u := if inside then pushAcc e u 1 .dispEntry (sliceAt e.c + at_) 4 .own false false none else u
          .ok { u with
            pos := { u.pos with st := .future, since := e.ck.now }
            xfer := some { ret := false, pcMode := pc, at_ := e.ck.cyc + 6, cnt := none, ent := none, words := [],
                           win := if e.is.head.gth then some e.is.head.win else none, gop := t.gst.gop }
            wait := some { kind := .transit e.is.widx, dl := ⟨0, none⟩, reg := 0, next := 0, start := e.ck.now } })

/-! ### Direct accesses, waits, tables, lanes (R40, R41, R48 to R51, R177 to R207) -/

/-- R51, R345, R397, R403: an access first meets the lowest watchpoint that watches a byte of it, none of length 0, in a thread that
watchpoints concern; then BOUNDS, when bits 30:23 are set, the bytes leave the 4.5 MiB of the slice, or bit 31 asks for a partner that
holds no team of the launch; then ALIGNMENT; else it goes to its place in the slice. -/
def Obligations.LocalAddressesAreChecked : Prop := ∀ (e : Env) (t : Thread) (a : Reg) (n al : Nat) (load store : Bool),
  let far : Bool := a.getLsbD 31
  let off := a.toNat % 2 ^ 23
  let other := if e.c % 2 = 0 then e.c + 1 else e.c - 1
  let same : Prop := ∃ x y, (e.s.core e.c).team = some x ∧ (e.s.core other).team = some y ∧ x.launch = y.launch
  let hit (j : Nat) : Prop :=
    let w := e.k.dbgNow.wp.getD j 0
    w.getLsbD 49 = true ∧ w.toNat / 2 ^ 24 % 2 ^ 23 ≠ 0 ∧ w.getLsbD 23 = far ∧ ((load = true ∧ w.getLsbD 47 = true) ∨ (store = true ∧ w.getLsbD 48 = true))
      ∧ w.toNat % 2 ^ 23 < a.toNat % 2 ^ 31 + n ∧ a.toNat % 2 ^ 31 < w.toNat % 2 ^ 23 + w.toNat / 2 ^ 24 % 2 ^ 23
  let outside : Prop := a.toNat / 2 ^ 23 % 2 ^ 8 ≠ 0 ∨ 0x480000 < off + n ∨ (far = true ∧ ¬ same)
  let skips : Prop := t.id.sup = true ∨ t.dbg.skw = some (t.pos.hdr, e.is.widx)
  (¬ skips → ∀ j < 4, hit j → (∀ i < j, ¬ hit i) → checkAcc e t a n al load store = .trap .watchpoint j)
  ∧ (skips ∨ (∀ j < 4, ¬ hit j) →
    (outside → checkAcc e t a n al load store = .trap .bounds 0)
    ∧ (¬ outside → off % al ≠ 0 → checkAcc e t a n al load store = .trap .alignment 0)
    ∧ (¬ outside → off % al = 0 → checkAcc e t a n al load store =
        .at_ (0x040000000000 + 0x800000 * (if far then other else e.c) + off) (if far then .partner else .own)))

/-- R184 to R186, R262: a load, a store or an atomic, once checked, joins its path queue with what it needs at its commit
point; a detached thread's store or atomic outside its output buffer has no effect. -/
def Obligations.AccessesJoinTheirQueue : Prop := ∀ f : Full,
  let n := tyBits f.ty / 8
  let at_ (e : Env) (t : Thread) : Reg := if f.opx.getLsbD 0 then a32 f t + b32 f e t else a32 f t
  let load (inv : Bool) (e : Env) (t : Thread) : TRes := accessAt e t (at_ e t) n n true false fun p w =>
    .ok (queued e t 0 (.load f.d.toNat (f.ty == .s8 || f.ty == .s16)) p n w inv false (flagFor e f))
  let v (t : Thread) : Quad := if tyBits f.ty = 64 then d64 f t else (d32 f t).setWidth 64
  let store (rel : Bool) (e : Env) (t : Thread) : TRes := accessAt e t (at_ e t) n n false true fun p w =>
    if isDetached t && !inOutBuf t (at_ e t) n then .ok t else .ok (queued e t 0 (.store (v t)) p n w false rel none)
  let wide := tyBits f.ty = 64
  let cas := f.opx.toNat % 8 = 7
  let b (e : Env) (t : Thread) : Quad :=
    if cas then (if wide then readPair t (f.b.toNat + 2) else (readV t (f.b.toNat + 1)).setWidth 64)
    else if wide then b64 f e t else (b32 f e t).setWidth 64
  let cmp (t : Thread) : Quad :=
    if cas then (if wide then readPair t f.b.toNat else (readV t f.b.toNat).setWidth 64) else 0
  Runs (.ld f) (load false) ∧ Runs (.ldI f) (load true)
  ∧ RunsIf noTillers (.st f) (store false) ∧ RunsIf noTillers (.stRel f) (store true)
  ∧ RunsIf noTillers (.atom f) (fun e t => accessAt e t (a32 f t) n n true true fun p w =>
      if isDetached t && !inOutBuf t (a32 f t) n then .ok t
      else .ok (queued e t 0 (.atom (f.opx.toNat % 8) f.ty (b e t) (cmp t) f.d.toNat) p n w false false (flagFor e f)))

/-- R88, R92, R261: a store, plain or a release, of an unresolved tiller outside its output buffer is held: it joins the provisional store of its
entry while the commit queue of 32 items has room, and no path queue; without room, and at every atomic, the thread leaves
its sheaf at the word and waits for its tiller under DL3. Of several tillers that the thread runs, one taken while another runs,
every one outside whose buffer the store lies holds it, and in the commit queue it takes one entry (log entry 86, DEDUCED). -/
def Obligations.TillersHoldTheirStores : Prop := ∀ (f : Full) (s : State) (e : Env) (t : Thread) (die ix q o l p : Nat) (w : Path),
  let n := tyBits f.ty / 8
  let inside (b : Reg) (o l : Nat) : Bool := !b.getLsbD 31 && decide (o ≤ b.toNat % 2 ^ 23) && decide (b.toNat % 2 ^ 23 + n ≤ o + l)
  let holders (b : Reg) : List (Nat × Nat) := (t.spec :: t.outer).filterMap fun y => match y with
    | .running d x _ o l => if inside b o l then none else some (d, x)
    | _ => none
  let a := if f.opx.getLsbD 0 then a32 f t + b32 f e t else a32 f t
  let x (rel : Bool) : Access :=
    { id := 16 * e.ck.cyc, path := w, kind := .store (if tyBits f.ty = 64 then d64 f t else (d32 f t).setWidth 64),
      phys := p, size := n, cyc := e.ck.cyc, inv := false, rel := rel, flag := none, after := 0,
      posts := if rel then owed e t else [] }
  let stopped : Thread := waiting e { t with pos := { t.pos with widx := e.is.widx } } .suspended .task 3 0
  let stopped : Thread := { stopped with wait := stopped.wait.map fun y => { y with next := 0 } }
  s.env = some e → t.spec = .running die ix q o l →
  (∀ rel : Bool, let i : Instr := if rel then .stRel f else .st f
    Alone e i t → checkAcc e t a n n false true = .at_ p w → holders a ≠ [] →
    (commitUsed s e.c < 32 →
      exec i s = .next (((holders a).foldl (fun s z => s.modEntry z.1 z.2 fun y =>
        { y with prov := y.prov ++ [.store (x rel)], provCore := e.c }) s).withThread e.c (wordDone e.is t)))
    ∧ (32 ≤ commitUsed s e.c → exec i s = .next (s.withThread e.c stopped)))
  ∧ (Alone e (.atom f) t → checkAcc e t (a32 f t) n n true true = .at_ p w → holders (a32 f t) ≠ [] →
    exec (.atom f) s = .next (s.withThread e.c stopped))

/-- R206, R207: CNTF.ADD and CNTF.GET queue one access a row at the counter that the row's hash of the key selects, the
flag with the last; CNTF.CLR queues one store of 32 KiB of zeros for each base of the sheaf, from the lowest slot that
names it, and a store of no bytes at its place from the others, behind which their later accesses stay (log entry 70); a watchpoint
on any row records the base as ARG (log entry 24, DEDUCED).
R179, R180, R312: TBLLD reads one image of 4,112 bytes of the core's own slice and takes the program port for six
cycles; TBLSW is held while a load of the core is under way, and then inverts ACT once. -/
def Obligations.FilterAndTableWordsAct : Prop :=
  (∀ f : Full,
  let slot (r key : Nat) : Nat :=
    key * [0x9E3779B1, 0x85EBCA77, 0xC2B2AE3D, 0x27D4EB2F].getD r 0 % 2 ^ 32 / 2 ^ 20
  let rows (add : Bool) (e : Env) (t : Thread) (p : Nat) (w : Path) : List Access := (List.range 4).map fun r =>
    { id := 16 * e.ck.cyc + r, path := w,
      kind := .cntf add r (b32 f e t).toNat (if add then (d32 f t).toNat % 2 ^ 16 else 0) 0xFFFF f.d.toNat,
      phys := p + (0x2000 * r + 2 * slot r (b32 f e t).toNat), size := 2, cyc := e.ck.cyc, inv := false, rel := false,
      flag := if r = 3 then flagFor e f else none, after := 0, posts := [] }
  let word (add : Bool) (e : Env) (t : Thread) : TRes :=
    match checkFilter e t (a32 f t) (b32 f e t).toNat add with
    | .trap c code => .trap c code ((a32 f t).setWidth 64)
    | .at_ p w =>
      if add && isDetached t && !inOutBuf t (a32 f t) 32768 then .ok t
      else .ok { t with acc := t.acc ++ rows add e t p w, flags := raised (flagFor e f) t.flags }
  let clears (e : Env) (u : Thread) : Bool :=
    takesWord e (.cntfClr f) u && legalHere e (.cntfClr f) u && (!isDetached u || inOutBuf u (a32 f u) 32768)
  Runs (.cntfGet f) (word false) ∧ RunsIf noTillers (.cntfAdd f) (word true)
  ∧ RunsIf noTillers (.cntfClr f) (fun e t => match checkLocal e.s e.c (a32 f t) 32768 256 with
      | .bad c => .trap c 0 ((a32 f t).setWidth 64)
      | .good p w =>
        let first := !(e.k.threads.any fun u => decide (u.id.slot < t.id.slot) && clears e u && a32 f u == a32 f t)
        if clears e t then .ok (queued e t 0 (.store 0) p (if first then 32768 else 0) w false false none) else .ok t)
  ∧ ∀ (e : Env) (t : Thread) (a : Reg) (key : Nat) (store : Bool),
      (∀ r < 4, watchAt e t (a + BitVec.ofNat 32 (0x2000 * r + 2 * slot r key)) 2 true store = none) →
      checkFilter e t a key store =
        match checkLocal e.s e.c a 32768 256 with
        | .bad c => .trap c 0
        | .good p w => .at_ p w)
  ∧ (∀ (f : Full) (s : State) (e : Env) (t : Thread) (p : Nat) (w : Path),
  s.env = some e → e.c < s.cores.length →
  (Alone e (.tblld f) t → checkAccOwn e t (a32 f t) 4112 16 true false = .at_ p w →
    exec (.tblld f) s = .next ((s.withThread e.c (wordDone e.is
        (queued e t 0 (.tblld [t.id.slot]) p 4112 w false false (flagFor e f)))).modCore e.c fun k =>
      { k with portBusy := e.ck.cyc + 6 }))
  ∧ (takesWord e (.tblsw f) t = true → t ∈ e.k.threads →
    let loading : Prop := ∃ u ∈ e.k.threads, (∃ a ∈ u.acc, ∃ l, a.kind = .tblld l) ∨ ∃ r ∈ u.res, r.table ≠ none
    (loading → exec (.tblsw f) s = .next s)
    ∧ (¬ loading → e.ck.cyc ≠ e.k.portBusy + 5 → legalHere e (.tblsw f) t = true →
      exec (.tblsw f) s = .next ((after e (.tblsw f) (fun _ u => .ok u) s).modCore e.c fun k => { k with act := !k.act }))))

/-- R40, R41, R197, R198: DLSET writes a deadline register, bit 62 zero unless all bits are ones; DLADD moves VALUE by a
signed span between 0 and 2^62 - 1 and leaves MODE; DLGET reads it; SLEEPU waits for it and ends DONE. -/
def Obligations.DeadlineWordsGiveTheirResults : Prop := ∀ f : Full,
  let n := f.dsel.toNat
  let old (t : Thread) : Quad := t.dl.getD n (allOnes)
  let moved (t : Thread) : Quad :=
    if old t = allOnes then old t
    else BitVec.ofInt 64 (max 0 (min (2 ^ 62 - 1) (((old t).toNat % 2 ^ 62 : Nat) + (a64 f t).toInt))
      + (if (old t).getLsbD 63 then 2 ^ 63 else 0))
  let set (t : Thread) (x : Quad) : Thread := { t with dl := t.dl.set n x }
  Runs (.dlset f) (fun _ t => .ok (set t (if a64 f t = allOnes then a64 f t else a64 f t &&& ~~~(1#64 <<< 62))))
  ∧ Runs (.dladd f) (fun _ t => .ok (set t (moved t)))
  ∧ Runs (.dlget f) (fun _ t => .ok (writePair t f.d.toNat (old t)))
  ∧ Runs (.sleepu f) (fun e t =>
      let d := deadline e (old t)
      if d.at_ ≤ e.ck.now ∨ d.left = some 0 then .ok (status t f.d.toNat .done)
      else .ok (waiting e t .sleep .sleeping n f.d.toNat))

/-- R187 to R194, R262, R430: a barrier or SLOT word queues its access, and one that waits leaves its sheaf with it; in a
detached thread outside its output buffer none acts, and one that waits reports WITHDRAWN. -/
def Obligations.BarrierAndSlotWordsQueueTheirAccess : Prop := ∀ f : Full,
  let r := f.d.toNat
  let tok (t : Thread) : Nat := (readPair t f.b.toNat).toNat
  let bar (e : Env) (t : Thread) (kind : AccKind) (fl : Option Nat) (go : Thread → Thread) (out : Thread) : TRes :=
    accessAt e t (a32 f t) 16 16 true true fun p w =>
      if isDetached t && !inOutBuf t (a32 f t) 16 then .ok out else .ok (go (queued e t 0 kind p 16 w false false fl))
  let wait (e : Env) (st : TState) (u : Thread) : Thread := waiting e u .access st f.dsel.toNat r
  let slot (e : Env) (t : Thread) (bad : Bool) (kind : AccKind) (fl : Option Nat) (go : Thread → Thread) (out : Thread) : TRes :=
    let a := a32 f t
    let far : Bool := a.getLsbD 31
    let home := if far then (if e.c % 2 = 0 then e.c + 1 else e.c - 1) else e.c
    if a.toNat / 2 ^ 10 % 2 ^ 21 ≠ 0 ∨ (far && !partnerOpen e.s e.c) = true ∨ bad = true then .trap .bounds 0 (a.setWidth 64)
    else if isDetached t then .ok out
    else .ok (go (queued e t 0 kind (1024 * home + a.toNat % 2 ^ 10) 0 (if far then .partner else .own) false false fl))
  RunsIf noTillers (.barInit f) (fun e t => bar e t (.barInit (d32 f t).toNat) none id t)
  ∧ RunsIf noTillers (.barArrive f) (fun e t => bar e t (.barArrive (b32 f e t).toNat r) (flagFor e f) id t)
  ∧ RunsOnIf noTillers (.barWait f) (fun e t =>
      bar e t (.barWait (tok t % 2 ^ 32) (tok t / 2 ^ 32) false) none (wait e .barrier) (status t r .withdrawn))
  ∧ RunsOnIf noTillers (.barWaitAcq f) (fun e t =>
      bar e t (.barWait (tok t % 2 ^ 32) (tok t / 2 ^ 32) true) none (wait e .barrier) (status t r .withdrawn))
  ∧ RunsOnIf noTillers (.barArwt f) (fun e t =>
      bar e t (.barArwt (b32 f e t).toNat) none (wait e .barrier) (status t r .withdrawn))
  ∧ RunsOnIf noTillers (.slotClaim f) (fun e t =>
      slot e t (decide (0x7FFFFF < (b32 f e t).toNat)) (.slotClaim ((a32 f t).toNat % 2 ^ 10) (b32 f e t).toNat) none
        (wait e .future) (status t r .withdrawn))
  ∧ RunsOnIf noTillers (.slotTake f) (fun e t =>
      slot e t false (.slotTake ((a32 f t).toNat % 2 ^ 10)) none (wait e .future) (status t r .withdrawn))
  ∧ RunsIf noTillers (.slotFree f) (fun e t =>
      slot e t false (.slotFree ((a32 f t).toNat % 2 ^ 10) r) (flagFor e f) id t)

/-- R88, R89, R195, R196: FENCE ends DONE with its mask when the thread's earlier accesses have committed and every masked class
is drained (its operations complete, and from die scope on its posted writes performed), and the thread has then observed the
completions of those classes; until then it waits. -/
def Obligations.FenceWaitsForItsScope : Prop := ∀ f : Full, ∃ c : Env → Thread → Bool,
  RunsOnIf noTillers (.fence f) (fun e t =>
    let mask := f.a.toNat % 32
    if c e t then .ok (status (writeV (sawClasses e.s e.c t mask) (f.d.toNat + 1) (BitVec.ofNat 32 mask)) f.d.toNat .done)
    else .ok (waiting e t (.fence (f.opx.toNat % 8) mask (t.acc.map (·.id)) []) .future f.dsel.toNat f.d.toNat))
  ∧ ∀ e t, runsTiller t = false → (c e t = true ↔
      t.acc = [] ∧ ∀ k < 5, f.a.toNat.testBit k = true →
        (∀ o ∈ e.s.ops, o.core = e.c → o.cls = k → o.launch = t.id.launch → t.id.tid ∉ o.threads)
        ∧ (4 ≤ f.opx.toNat % 8 → ∀ p ∈ e.s.posted, p.core = e.c → p.tid = t.id.tid → p.launch = t.id.launch → p.cls ≠ k))

/-- R102, R110, R202, R203, R205: SHFL takes Va of the active thread at the source position, or its own; VOTE gives the ballot of Pa
and its all, any or uniform mode in Pb; SAMPLE gives SampleIndex of the active weights and DONE, or -1 and ABSENT, with IV for a
NaN weight and the flags of the roundings that R110 names.
R38, R201: the active threads of a word are those of the thread's group that are of the sheaf, with their guard true and
their position in the gathering mask; they are taken in order of position. -/
def Obligations.ShufflesVotesAndSamples : Prop :=
  (∀ f : Full,
  Runs (.shfl f) (fun e t =>
    let c := (b32 f e t).toNat % 64
    let mode := (b32 f e t).toNat / 64 % 4
    let p := lanePos t
    let q : Int := if mode = 0 then (c : Int) else if mode = 1 then (p : Int) - c else if mode = 2 then (p : Int) + c
      else ((p ^^^ c : Nat) : Int)
    let from_ (u : Thread) : Bool := decide ((lanePos u : Int) = q) && decide (q < (t.id.width : Int))
    let u : Thread := ((actives e (.shfl f) t).find? from_).getD t
    .ok (put f (a32 f u) (a64 f u) t))
  ∧ (f.opx.toNat / 8 ≤ 2 → ∃ (ballot : Env → Thread → Quad) (mode : Env → Thread → Bool),
      Runs (.vote f) (fun e t => .ok (writeP (writePair t f.d.toNat (ballot e t)) f.b.toNat (mode e t)))
      ∧ ∀ e t, let l := actives e (.vote f) t
        (∀ n < 64, (ballot e t).getLsbD n = true ↔ ∃ u ∈ l, lanePos u = n ∧ readP u f.a.toNat = true)
        ∧ (mode e t = true ↔ match f.opx.toNat / 8 with
          | 0 => ∀ u ∈ l, readP u f.a.toNat = true
          | 1 => ∃ u ∈ l, readP u f.a.toNat = true
          | _ => ∃ b, ∀ u ∈ l, readP u f.a.toNat = b))
  ∧ ∃ (ix : Env → Thread → Option Nat) (fl : Env → Thread → Reg),
    let ws (e : Env) (t : Thread) : List Nat := (List.range t.id.width).map fun p =>
        (((actives e (.sample f) t).find? fun u => lanePos u == p).map fun u => (a32 f u).toNat).getD 0
    Runs (.sample f) (fun e t =>
      let u := match ix e t with
        | some i => status (writeV t f.d.toNat (BitVec.ofNat 32 i)) (f.d.toNat + 1) .done
        | none => status (writeV t f.d.toNat (BitVec.allOnes 32)) (f.d.toNat + 1) .absent
      .ok (setFsr u (fl e t)))
    ∧ ∀ e t, 0 < t.id.width → IsSample (ws e t) (b32 f e t).toNat (ix e t) (fl e t))
  ∧ (∀ (e : Env) (i : Instr) (t : Thread),
  (∀ u, u ∈ actives e i t ↔ u ∈ e.k.threads ∧ u.id.sup = t.id.sup ∧ u.id.tid / u.id.width = t.id.tid / t.id.width
    ∧ takesWord e i u = true ∧ u.pos.gmask.getLsbD (u.id.tid % u.id.width) = true)
  ∧ (actives e i t).Pairwise fun u v => u.id.tid % u.id.width ≤ v.id.tid % v.id.width)

/-- R108, R164, R165, R204: REDUX reduces Va over the active set and SCAN over the active positions up to the thread's own, or below it: exact
sums narrowed once, least and greatest, bitwise; the float sums are the exact sum rounded once (REDUX) or a sum rounded at every step (SCAN), with the flags of the additions that make up the thread's
own value (log entry 33, DEDUCED), the float extremes those of FMIN and FMAX. -/
def Obligations.ReductionsAndScans : Prop := ∀ f : Full,
  let op := f.opx.toNat / 8
  let vals (e : Env) (i : Instr) (t : Thread) : List Reg := (actives e i t).map (a32 f ·)
  let part (e : Env) (t : Thread) : List Reg := ((actives e (.scan f) t).filter fun u =>
    if 4 ≤ op then decide (lanePos u < lanePos t) else decide (lanePos u ≤ lanePos t)).map (a32 f ·)
  let lo : Int := if f.ty = .s32 then -2 ^ 31 else 0
  let hi : Int := if f.ty = .s32 then 2 ^ 31 - 1 else 2 ^ 32 - 1
  let ints (o : Nat) (l : List Reg) (t : Thread) : TRes :=
    let zs := l.map (val f)
    let z : Int := match o with | 0 => zs.sum | 1 => zs.min?.getD hi | _ => zs.max?.getD lo
    let y : Int := if o = 0 ∧ f.sat = true then max lo (min hi z) else z
    .ok (setFsr (writeV t f.d.toNat (BitVec.ofInt 32 y)) (if y = z then 0 else 0x20))
  let floats (i : Instr) (o : Nat) (l : Env → Thread → List Reg) (sum : List Nat → Rounded → Prop) : Prop :=
    ∃ r : Env → Thread → Rounded, Runs i (fun e t => .ok (withFlags t f.d.toNat (r e t).code (r e t).flags))
      ∧ ∀ e t, let xs := (l e t).map (·.toNat)
        (o = 0 → sum xs (r e t)) ∧ (o ≠ 0 → IsExtreme (decide (o = 1)) xs (r e t).code ∧ (r e t).flags = 0)
  (IntTy f → op ≤ 2 → Runs (.redux f) (fun e t => ints op (vals e (.redux f) t) t))
  ∧ (f.ty = .f32 → op ≤ 2 → floats (.redux f) op (fun e t => vals e (.redux f) t) SumAcross)
  ∧ (3 ≤ op → op ≤ 5 → Runs (.redux f) (fun e t =>
      let l := vals e (.redux f) t
      .ok (writeV t f.d.toNat (match op with
        | 3 => l.foldl (· &&& ·) (BitVec.allOnes 32) | 4 => l.foldl (· ||| ·) 0 | _ => l.foldl (· ^^^ ·) 0))))
  ∧ (IntTy f → op ≤ 6 → op ≠ 3 → Runs (.scan f) (fun e t => ints (op % 4) (part e t) t))
  ∧ (f.ty = .f32 → op ≤ 6 → op ≠ 3 → floats (.scan f) (op % 4) part RunningSum)

/-! ### Engines, futures, tasks, system and supervisor words (R68 to R72, R199, R208 to R273) -/

/-- R208 to R232: an engine word of one thread, in no tiller, issues one operation with the operands that it names. -/
def Obligations.EngineWordsIssueOperations : Prop := ∀ (f : Full) (s : State) (e : Env) (t : Thread),
  s.env = some e → t.spec = .plain →
  let a := f.a.toNat
  let b := f.b.toNat
  let bit (n : Nat) : Bool := f.opx.getLsbD n
  let copy : CopyArg :=
    { out := bit 0, inv := bit 1, gaddr := (readPair t a).toNat, maddr := if bit 4 then (readPair t (a + 2)).toNat else 0,
      laddr := (readV t b).toNat, ctl := readV t (b + 1), bar := if bit 2 then some (readV t (b + 2)).toNat else none,
      tag := if bit 3 then some (readV t (b + 3)).toNat else none, xp := bit 4, cv := bit 5, ty := f.ty, sat := f.sat }
  let mma : MmaArg :=
    { ty := f.ty, ctl := readV t b, addr := (readV t a).toNat, scaddr := (readV t (b + 1)).toNat,
      out := (readV t (b + 2)).toNat, fromRegs := false, reuse := bit 4, paired := false, reach := false, gix := t.id.tid / t.id.width,
      sup := t.id.sup, width := t.id.width, rows := [] }
  let c := (readV t (b + 1)).toNat
  let cas := f.opx.toNat % 8 = 7
  let wide := tyBits f.ty = 64
  let go (i : Instr) (cls : Nat) (kind : OpKind) (rel : Bool) : Prop := Issues s e t i f.d.toNat cls kind rel
  go (.copyIn f) 0 (.copy copy) false ∧ go (.copyOut f) 0 (.copy copy) false ∧ go (.copyRel f) 0 (.copy copy) true
  ∧ go (.ckick f) 0 (.ckick (readV t a).toNat (readV t b).toNat []) false
  ∧ go (.wload f) 1 (.wload f.ty (if bit 0 then 1 else 0) (readV t a).toNat (if bit 1 then some (readV t b).toNat else none))
      false
  ∧ go (.mma f) 1 (.mma mma) false
  ∧ go (.gather f) 2 (.gather f.ty (f.opx.toNat % 4) (readPair t a).toNat (readV t b).toNat (readV t (b + 2)).toNat
      (c % 2 ^ 16) (c / 2 ^ 16 % 2 ^ 12) (readV t (b + 3)).toNat (decide (c / 2 ^ 28 ≠ 0))) false
  ∧ go (.coll f) 3 (.coll f.ty (bit 0) (f.opx.toNat / 2 % 8) (readV t a).toNat (readV t (a + 1)).toNat (readPair t b).toNat
      (readV t (b + 2)).toNat none) false
  ∧ go (.ratom f) 4 (.ratom (f.opx.toNat % 8) f.ty (readPair t a).toNat
      (if cas then (if wide then readPair t (b + 2) else (readV t (b + 1)).setWidth 64)
        else if wide then b64 f e t else (b32 f e t).setWidth 64)
      (if cas then (if wide then readPair t b else (readV t b).setWidth 64) else 0) f.d.toNat) false

/-- R223 to R226: MMA.r and MMAP issue one operation for the active threads, under the control block of the one in the lowest
slot: its rows are the element codes in Va and the registers after it, with the scales in the register after those when bit 21 of
CTL asks for them, or those of the reuse latch that its group holds. With REUSE an empty latch takes the rows, and a latch in use
stays; without it a latch in use empties; a latch of another format faults the operation and empties; another group's is left
alone. Every active thread has the handle and counts the operation; a guard-true thread that is not active gets the null handle
and no operation; with no slot free the active threads trap. -/
def Obligations.RegisterMatrixWordsTakeRows : Prop := ∀ (f : Full) (s : State) (e : Env) (t : Thread) (paired : Bool),
  let i : Instr := if paired then .mmap f else .mmaR f
  let b := f.b.toNat
  let regs := 128 * tyBits f.ty / 32
  let bytes : List Byte := (List.range regs).flatMap fun j => leBytes 4 (readV t (f.a.toNat + j)).toNat
  let scales : List Nat :=
    if (readV t b).getLsbD 21 then (leBytes 4 (readV t (f.a.toNat + regs)).toNat).map (·.toNat) else [127, 127, 127, 127]
  let rows : List (List Nat × List Nat) := (List.range t.id.width).map fun p =>
    if lanePos t = p then (elemsOf (tyBits f.ty) bytes, scales) else (List.replicate 128 0, [127, 127, 127, 127])
  let x : MmaArg :=
    { ty := f.ty, ctl := readV t b, addr := (readV t f.a.toNat).toNat, scaddr := (readV t (b + 1)).toNat,
      out := (readV t (b + 2)).toNat, fromRegs := true, reuse := false, paired := paired, reach := paired && e.c % 2 == 0 && partnerOpen s e.c, gix := t.id.tid / t.id.width,
      sup := t.id.sup, width := t.id.width, rows := rows }
  s.env = some e → t.spec = .plain →
  (isActive e i t = true → e.k.mx.latch = none → f.opx.getLsbD 4 = false →
    Issues s e t i f.d.toNat 1 (.mma x) false)
  ∧ (Alone e i t → isActive e i t = false → exec i s = .next (ends s e (writePair t f.d.toNat 0)))
  ∧ ∀ (u : Thread) (rest : List Thread), ((takers e i).filterMap (threadAt e.k.threads)).filter (isActive e i) = u :: rest →
    (∀ v ∈ e.k.threads, takesWord e i v = true → legalHere e i v = true ∧ v.spec = .plain) →
    (e.k.threads.map (·.id.slot)).Nodup → e.c < s.cores.length →
    let all := u :: rest
    let asked := (readV u b).getLsbD 21
    let row (v : Thread) : List Nat × List Nat :=
      (elemsOf (tyBits f.ty) ((List.range regs).flatMap fun j => leBytes 4 (readV v (f.a.toNat + j)).toNat),
        if asked then (leBytes 4 (readV v (f.a.toNat + regs)).toNat).map (·.toNat) else [127, 127, 127, 127])
    let own : List (List Nat × List Nat) := (List.range u.id.width).map fun p =>
      ((all.find? fun v => lanePos v == p).map row).getD (List.replicate 128 0, [127, 127, 127, 127])
    let reuse := f.opx.getLsbD 4
    let gix := u.id.tid / u.id.width
    let mine (l : Latch) : Bool := l.sup == u.id.sup && l.gix == gix
    let (taken, left, bad) : List (List Nat × List Nat) × Option Latch × Bool := match e.k.mx.latch with
      | none => (own, if reuse then some ⟨u.id.sup, gix, f.ty, own⟩ else none, false)
      | some l =>
        if !mine l then (own, some l, false)
        else if l.ty ≠ f.ty then ([], none, true)
        else (l.rows, if reuse then some l else none, false)
    let y : MmaArg :=
      { ty := f.ty, ctl := readV u b, addr := (readV u f.a.toNat).toNat, scaddr := (readV u (b + 1)).toNat,
        out := (readV u (b + 2)).toNat, fromRegs := true, reuse := reuse, paired := paired,
        reach := paired && e.c % 2 == 0 && partnerOpen s e.c, gix := gix, sup := u.id.sup, width := u.id.width, rows := taken }
    (∀ n q, allocSlot e.k 1 = some (n, q) → ∃ s' o, exec i s = .next s' ∧ s'.ops = s.ops ++ [o] ∧ o.kind = .mma y
      ∧ o.cause = (if bad then .badFormat else .none) ∧ o.threads = all.map (·.id.tid) ∧ o.id = s.nextOp ∧ o.slot = n ∧ o.seq = q
      ∧ (s'.core e.c).mx = { e.k.mx with latch := left } ∧ s'.mem = s.mem
      ∧ (∀ v ∈ all, s'.thread e.c v.id.slot = some (wordDone e.is (writePair
          { v with ops := v.ops ++ [⟨1, s.nextOp, none⟩], q := v.q.set 1 (v.q.getD 1 0 + 1) } f.d.toNat
          (BitVec.ofNat 64 (2 ^ 60 + e.c * 2 ^ 51 + n * 2 ^ 40 + q % 2 ^ 40)))))
      ∧ ∀ v ∈ e.k.threads, takesWord e i v = true → isActive e i v = false →
          s'.thread e.c v.id.slot = some (wordDone e.is (writePair v f.d.toNat 0)))
    ∧ (allocSlot e.k 1 = none → ∃ s', exec i s = .next s' ∧ s'.ops = s.ops
      ∧ ∀ v ∈ all, s'.thread e.c v.id.slot = some (park e.ck v .engineFull e.is.widx 0 1))

/-- R26, R42, R59 to R61, R87, R233, R236, R237: what FWAIT, FWAIT.acq, FSLEEP and WAITN make of the future or the counter that
they find: they end at once with its status, with EFC, EFA and PGF after FAULT and the summary where one is due, or wait for it; FWAIT.acq waits on while a
posted write of the operation, or one of what its release has ordered before it, is not in place; FSLEEP sleeps until it ends
(R26). -/
def Obligations.FutureWaitsMeetTheirFuture : Prop := ∀ (f : Full) (s : State) (e : Env), s.env = some e →
  let d := f.d.toNat
  let wait (t : Thread) (kind : WaitKind) (st : TState) : Thread := waiting e t kind st f.dsel.toNat d
  let kind (t : Thread) (k : WaitKind) : Thread := { t with wait := t.wait.map fun w => { w with kind := k } }
  let fwait (acq : Bool) (t : Thread) : Thread :=
    let h := a64 f t
    let w := wait t (.future h acq false) .future
    match viewFut s t.id.launch h with
    | .absent => leavesWith e (writeV w (d + 1) 0) d .absent [d + 1]
    | .stale => leavesWith e (writeV w (d + 1) 0) d .stale [d + 1]
    | .pending .. => w
    | .ended x _ =>
      let u := writeV (observe s w x) (d + 1) (summaryOf x)
      let ids := (s.posted.filter fun p => p.op == x.op).map (·.id) ++ x.relPosts
      let due := s.posted.any (fun p => ids.contains p.id || (x.relOps.contains p.op && p.kind != 2))
        || s.ops.any fun o => x.relOps.contains o.id && touchesSC o
      if acq = true ∧ x.st = .done ∧ due = true then kind u (.acquire ids x.relOps h.toNat) else leavesWith e u d x.st [d + 1]
  let fsleep (t : Thread) : Thread :=
    let h := a64 f t
    let w := wait t (.fsleep h false) .sleeping
    let asWait : Thread := kind w (.future h false true)
    let sleep : Thread := kind w (.fsleep h true)
    match viewFut s t.id.launch h with
    | .absent => leaves e w d .absent
    | .stale => leaves e w d .stale
    | .pending cls _ accepted promise =>
      if cls ≠ 0 then leaves e w d .absent
      else if accepted = false then w
      else match promise with
        | none => asWait
        | some p => if p ≤ e.ck.now then asWait else sleep
    | .ended x promise =>
      if x.cls ≠ 0 then leaves e w d .absent
      else if x.st = .fault ∨ x.st = .cancelled then leaves e (observe s w x) d x.st
      else match promise with
        | some p => if p ≤ e.ck.now then leaves e (observe s w x) d x.st else sleep
        | none => leaves e (observe s w x) d x.st
  let done (i : Instr) (g : Thread → Thread) : Prop := exec i s = .next (settleWord (after e i (fun _ t => .ok (g t)) s))
  done (.fwait f) (fwait false) ∧ done (.fwaitAcq f) (fwait true) ∧ done (.fsleep f) fsleep
  ∧ done (.waitn f) (fun t =>
      let w := wait t (.waitn f.opx.toNat (b32 f e t).toNat) .future
      if t.q.getD f.opx.toNat 0 ≤ (b32 f e t).toNat then leaves e w d .done else w)
  ∧ FaultsAreNoted

/-- R11, R59 to R61, R68 to R70, R233 to R235, R238, R314: FTEST reports what it finds without waiting, with EFC, EFA and PGF after
FAULT and the summary, TIMEOUT for an operation under way; FCANCEL
withdraws what can be withdrawn: an operation that waits, a copy, a kick or a gather at any time, a matrix operation until it
enters its array (log entry 79), a COLL until its call is whole, a RATOM until it is accepted, all in the step that issues the
word (log entry 36, DEDUCED); FTIME gives the promise; both answers land one cycle after issue (log entry 44, DEDUCED). QRD gives COUNT and FLT and clears FLT, but a
bit that a report of this very cycle has set is not read yet and stays.
R68 to R70: a handle of a class 0 to 4 slot reads as absent when its SEQ is 0 or not yet given, or the slot is unused or
another launch's; as stale when an older SEQ; else as the slot answer. -/
def Obligations.FutureTestsReport : Prop :=
  (∀ f : Full,
  let d := f.d.toNat
  Runs (.ftest f) (fun e t => .ok (match viewFut e.s t.id.launch (a64 f t) with
    | .absent => status (writeV t (d + 1) 0) d .absent
    | .stale => status (writeV t (d + 1) 0) d .stale
    | .pending .. => writeV (writeV t (d + 1) 0) d 1
    | .ended x _ => writeStatus e.ck.escl (writeV (observe e.s t x) (d + 1) (summaryOf x)) d x.st))
  ∧ Runs (.ftime f) (fun e t =>
      let give (p : Option Nat) : TRes := .ok (later e t f 1
        [(d, (BitVec.ofNat 64 (p.getD 0)).setWidth 32), (d + 1, (BitVec.ofNat 64 (p.getD 0) >>> 32).setWidth 32)])
      match viewFut e.s t.id.launch (a64 f t) with
      | .pending cls _ accepted p =>
        if cls ≠ 0 then give none
        else if accepted = true then give p
        else .ok { t with replies := t.replies ++ [⟨a64 f t, d, flagFor e f, e.ck.now, e.ck.cyc⟩], flags := raised (flagFor e f) t.flags }
      | .ended x p => give (if x.cls = 0 then p else none)
      | _ => give none)
  ∧ Runs (.qrd f) (fun e t =>
      let n := f.opx.toNat
      let fresh : Prop := t.fltNew.1 = e.ck.cyc
      let was := if fresh then t.fltNew.2.1.getD n false else t.flt.getD n false
      let left := if fresh then t.fltNew.2.2.getD n false else false
      .ok (writeV { t with flt := t.flt.set n left } d (BitVec.ofNat 32 (t.q.getD n 0 % 2 ^ 12 + if was then 2 ^ 31 else 0))))
  ∧ FaultsAreNoted
  ∧ ∀ (s : State) (e : Env) (t : Thread), s.env = some e → Alone e (.fcancel f) t →
      let x := cancelView s t.id.launch (a64 f t)
      let s1 := match x.2 with | some o => s.cancelOp o | none => s
      exec (.fcancel f) s = .next (s1.modThread e.c t.id.slot fun u => wordDone e.is (laterStatus e u f 1 x.1 []))
      ∧ (viewFut s t.id.launch (a64 f t) = .stale → x = (.stale, none))
      ∧ (∀ op acc p, viewFut s t.id.launch (a64 f t) = .pending 5 op acc p → x = (.absent, none))
      ∧ (∀ cls op acc p o, viewFut s t.id.launch (a64 f t) = .pending cls op acc p → cls < 5 → opAt s op = some o →
          let can : Bool := match o.kind with
            | .ratom .. => !o.accepted
            | .coll _ _ _ _ _ _ _ (some (cid, k, _)) => (callAt s cid k).all fun c => !callFull c
            | .wload .. | .mma _ => !(o.accepted && mxFirst s o && mxAwake s o)
            | _ => true
          x = if can then (.done, some o) else (.absent, none)))
  ∧ (∀ (s : State) (launch cls core slot seq : Nat) (x : ESlot),
  cls < 5 → core < 256 → slot < 2 ^ 11 → seq < 2 ^ 40 → slotOf (s.core core) launch cls slot = some x →
  let v := viewFut s launch (BitVec.ofNat 64 (cls * 2 ^ 60 + core * 2 ^ 51 + slot * 2 ^ 40 + seq))
  (seq = 0 ∨ x.seq < seq ∨ x.used = false ∨ x.launch ≠ launch → v = .absent)
  ∧ (x.used = true → x.launch = launch → 0 < seq → seq < x.seq → v = .stale)
  ∧ (x.used = true → x.launch = launch → 0 < seq → seq = x.seq →
      (x.ended = none → v = .pending x.cls x.op x.accepted x.promise)
      ∧ ∀ st, x.ended = some st → v = .ended ⟨x.op, x.cls, st, x.cause, x.fva, x.summary, x.pgf, x.relOps, x.relPosts⟩ x.promise))

/-- R245 to R257: the words of one thread, in no tiller, that put, take, spawn, finish and count tasks and that make and set
conditions: what each leaves in its thread, and the pass in which the Granary then serves what it can.
R242 to R263: what the Granary then does, one action after another until none can be made: which taker gets which task, what
becomes of a descriptor, of a word that waits for an entry or a condition, and of a word behind its release, and the steps of a
resolution. -/
def Obligations.TaskWordsReachTheGranaryWhichServesThem : Prop :=
  (∀ (f : Full) (s : State) (e : Env) (t : Thread),
  s.env = some e → t.spec = .plain →
  let d := f.d.toNat
  let ids := t.acc.map (·.id)
  let pends (act : GAct) : Thread :=
    { t with pend := t.pend ++ [⟨act, flagFor e f, ids, owed e t, e.ck.cyc⟩], flags := raised (flagFor e f) t.flags }
  let reads (x : Option SpawnArg) (p : Nat) (w : Path) : Thread :=
    let acc := t.acc ++ (List.range 8).map fun j =>
      ({ id := 16 * e.ck.cyc + j, path := w, kind := .desc j, phys := p + 8 * j, size := 8, cyc := e.ck.cyc, inv := false,
         rel := false, flag := none, after := 0, posts := [] } : Access)
    waiting e { t with acc := acc } (.desc x (List.replicate 8 0) ids (owed e t)) .task f.dsel.toNat d
  let v := (readV t (f.b.toNat + 1)).toNat
  let arg : SpawnArg :=
    { cref := (readV t f.b.toNat).toNat, p := v % 2 ^ 8, side := v.testBit 8, site := v / 2 ^ 9 % 2 ^ 12,
      psrc := f.opx.getLsbD 0, learn := f.opx.getLsbD 1, rsvd := decide (v / 2 ^ 21 ≠ 0) }
  let mask := tblGet e.k.g ((if t.id.sup then 1024 else 0) * 64 + t.id.tid / t.id.width * 64 + f.b.toNat) 0
    &&& qmaskOf s t.id.launch
  (Alone e (.taskTake f) t → exec (.taskTake f) s = .next (settleWord
    (if mask = 0 then ends s e (status t d .absent)
      else (ends s e (waiting e t (.take mask) .task f.dsel.toNat d)).settleGran)))
  ∧ (∀ p w, checkAcc e t (a32 f t) 64 8 true false = .at_ p w →
    (Alone e (.taskPut f) t → exec (.taskPut f) s = .next (settleWord (ends s e (reads none p w))))
    ∧ (Alone e (.spawn f) t → exec (.spawn f) s = .next (settleWord (ends s e (reads (some arg) p w)))))
  ∧ (Alone e (.taskDone f) t → exec (.taskDone f) s = .next (ends s e (pends (.done (a32 f t).toNat d))).settleGran)
  ∧ (Alone e (.taskDep f) t →
      exec (.taskDep f) s = .next (ends s e (pends (.dep (a32 f t).toNat (b32 f e t).toInt d))).settleGran)
  ∧ (Alone e (.condSet f) t →
      exec (.condSet f) s = .next (ends s e (pends (.condSet (a32 f t).toNat ((b32 f e t).getLsbD 0) d))).settleGran)
  ∧ (Alone e (.condNew f) t →
      exec (.condNew f) s = .next (settleWord (ends s e (waiting e t .condNew .task f.dsel.toNat d)).settleGran)))
  ∧ (∀ (s : State),
  GranaryPass s ∧ TakersAreServed s ∧ EntriesAreMade s ∧ PendingWordsAct s ∧ ConditionResolves s)

/-- R251, R252, R259, R264, R314: TASK.COORD hands the holder of a grid task its next tuple, PARTIAL, or DONE when none is left;
TASK.WAITF waits and lends its slot under a free wake record; the LIKE words read a site or a task, and LIKE.seed sets it, all when
they issue (log entry 26, DEDUCED). -/
def Obligations.TaskWordsReply : Prop := ∀ (f : Full) (s : State) (e : Env) (t : Thread), s.env = some e → t.spec = .plain →
  let d := f.d.toNat
  let r := (a32 f t).toNat
  let site := r % 2 ^ 12
  let here (die : Nat) : Nat := if die = e.c / 64 then 48 else 96
  let n (x : Entry) : Nat := if x.desc.ext1 = 0 then 1 else x.desc.ext1
  let m (x : Entry) : Nat := if x.desc.ext2 = 0 then 1 else x.desc.ext2
  let w := waiting e t (.future (a64 f t) false true) .task f.dsel.toNat d
  (Alone e (.taskCoord f) t → ∀ x, viewRef s r = .entry x → x.desc.kind = 1 → (⟨e.c, t.id.launch, t.id.tmx, t.id.sup, t.id.tid⟩ : Holder) ∈ x.holders →
    (x.desc.ext0 * n x * m x ≤ x.next →
      exec (.taskCoord f) s = .next (ends s e (laterStatus e t f (here (r / 2 ^ 14 % 4)) .done [])))
    ∧ (x.next < x.desc.ext0 * n x * m x →
      exec (.taskCoord f) s = .next (ends (s.modEntry x.die x.ix fun y =>
          { y with next := y.next + 1, st := if spaceSize y.desc ≤ y.next + 1 then .running else y.st }) e
        (laterStatus e t f (here (r / 2 ^ 14 % 4)) .partialDone
          [(d + 1, BitVec.ofNat 32 (x.next % x.desc.ext0)), (d + 2, BitVec.ofNat 32 (x.next / x.desc.ext0 % n x)),
           (d + 3, BitVec.ofNat 32 (x.next / (x.desc.ext0 * n x)))]))))
  ∧ (Alone e (.taskWaitf f) t → ∀ cls op acc p, viewFut s t.id.launch (a64 f t) = .pending cls op acc p →
    exec (.taskWaitf f) s = .next (settleWord (if t.id.sup = true ∨ wakeFree s (e.c / 64) = 0 then ends s e w
      else State.lend { ends s e w with gran := { s.gran with
        wakes := s.gran.wakes ++ [⟨e.c / 64, e.c, t.id.launch, t.id.tid, none⟩] } } e.c)))
  ∧ (Alone e (.likeSite f) t →
      exec (.likeSite f) s = .next (ends s e (later e t f 96 [(d, BitVec.ofNat 32 (tblGet s.gran.pred site 128))])))
  ∧ (Alone e (.likeTask f) t →
      exec (.likeTask f) s = .next (ends s e (later e t f 96 [(d, BitVec.ofNat 32 (likeTask s r))])))
  ∧ (Alone e (.likeSeed f) t →
      exec (.likeSeed f) s = .next (ends
        { s with gran := { s.gran with pred := tblPut s.gran.pred site ((b32 f e t).toNat % 2 ^ 8) } } e
        (later e t f 96 [(d, BitVec.ofNat 32 (tblGet s.gran.pred site 128))])))

/-- R199, R265 to R268, R308: TRAP and BKPT park their thread with their code; PHINT does nothing; YIELD n holds the thread at the
next header for 16n cycles; SYSR reads a uniform number at its width; SYSW writes a G register of the group, or a special
register that software may write.
R11, R105, R118, R154: the special registers that software writes: SP, LC0, LC1 and the guest registers take the value, but for
the reserved bits 29:23 of GBPn, FSR loses the bits that the value has as ones, but those that a result landing in this cycle has set (R11), and every other stays. -/
def Obligations.SystemWordsGiveTheirResults : Prop :=
  (∀ f : Full,
  let n := f.b.toNat
  Runs (.trap f) (fun _ t => .trap .userTrap f.opx.toNat ((a32 f t).setWidth 64))
  ∧ Runs (.bkpt f) (fun _ _ => .trap .breakpoint f.opx.toNat 0)
  ∧ Runs (.phint f) (fun _ t => .ok t)
  ∧ RunsOn (.yield f) (fun e t => .ok (if f.opx = 0 then t else fallThrough e.ck e.k t (.yielded f.opx.toNat)))
  ∧ Runs (.sysr f) (fun e t =>
      let x := readUniform e t n
      .ok (if uniformWide n then writePair t f.d.toNat x else writeV t f.d.toNat (x.setWidth 32)))
  ∧ ∀ (s : State) (e : Env) (t : Thread), s.env = some e → Alone e (.sysw f) t →
      let x : Quad := if uniformWide n then a64 f t else (a32 f t).setWidth 64
      exec (.sysw f) s = .next (if n < 64 then (ends s e t).modCore e.c fun k =>
          { k with g := tblPut k.g ((if t.id.sup then 1024 else 0) * 64 + t.id.tid / t.id.width * 64 + n) x }
        else ends s e (writeSpecial e.ck.cyc t n x)))
  ∧ (∀ (t : Thread) (cyc n : Nat) (x : Quad),
  let r : Reg := x.setWidth 32
  let u := writeSpecial cyc t n x
  (n = 0x106 → u = { t with sr := { t.sr with sp := r } })
  ∧ (n = 0x10E → u = { t with sr := { t.sr with
      fsr := t.sr.fsr &&& ~~~(if t.hot.1 = cyc then r &&& ~~~t.hot.2 else r) &&& 0x3F } })
  ∧ (n = 0x120 → u = { t with sr := { t.sr with lc0 := r } })
  ∧ (n = 0x121 → u = { t with sr := { t.sr with lc1 := r } })
  ∧ (n = 0x110 → u = { t with gst := { t.gst with gpc := r } })
  ∧ (n = 0x111 → u = { t with gst := { t.gst with gir := x } })
  ∧ (n = 0x112 → u = { t with gst := { t.gst with gop := r } })
  ∧ (n = 0x113 → u = { t with gst := { t.gst with ga0 := r } })
  ∧ (n = 0x114 → u = { t with gst := { t.gst with ga1 := r } })
  ∧ (n = 0x115 → u = { t with gst := { t.gst with gdd := r } })
  ∧ (n = 0x116 → u = { t with gst := { t.gst with htb := r } })
  ∧ (n = 0x117 → u = { t with gst := { t.gst with gbp0 := r &&& 0xC07FFFFF } })
  ∧ (n = 0x118 → u = { t with gst := { t.gst with gbp1 := r &&& 0xC07FFFFF } })
  ∧ (n = 0x119 → u = { t with gst := { t.gst with gbp2 := r &&& 0xC07FFFFF } })
  ∧ (n = 0x11A → u = { t with gst := { t.gst with gbp3 := r &&& 0xC07FFFFF } })
  ∧ (n < 0x106 ∨ (0x107 ≤ n ∧ n ≤ 0x10D) ∨ n = 0x10F ∨ (0x11B ≤ n ∧ n < 0x120) ∨ 0x122 ≤ n → u = t))

/-- R240, R270 to R273, R314: what the words of a supervisor's thread do to the parked thread that they name, and the statuses with
which they answer, 24 cycles after issue where they do not wait. -/
def Obligations.SupervisorWordsActOnParkedThreads : Prop := ∀ (f : Full) (s : State) (e : Env) (t : Thread), s.env = some e →
  let d := f.d.toNat
  let r := (a32 f t).toNat
  let b := f.b.toNat
  let answered (s1 : State) (st : Status) (more : List (Nat × Reg)) : State :=
    s1.modThread e.c t.id.slot fun u => wordDone e.is (laterStatus e u f 24 st more)
  let answer (s1 : State) (st : Status) (more : List (Nat × Reg)) : Out := .next (answered s1 st more)
  (Alone e (.supPwait f) t → exec (.supPwait f) s =
    .next (settleWord ((ends s e (waiting e t .supWait .future f.dsel.toNat d)).serveFaultsAt e.c)))
  ∧ (Alone e (.supPrd f) t → ∀ u, target e.k r true = .inr u →
    (∀ x, readItem s e.c u (readV t b).toNat = some x →
      exec (.supPrd f) s = answer s .done [(d + 2, x.setWidth 32), (d + 3, (x >>> 32).setWidth 32)])
    ∧ (readItem s e.c u (readV t b).toNat = none → exec (.supPrd f) s = answer s .absent []))
  ∧ (Alone e (.supPwr f) t → ∀ u, target e.k r false = .inr u →
    (∀ s1, writeItem s e.c u (readV t b).toNat (readPair t (b + 2)) = some s1 → exec (.supPwr f) s = answer s1 .done [])
    ∧ (writeItem s e.c u (readV t b).toNat (readPair t (b + 2)) = none → exec (.supPwr f) s = answer s .absent []))
  ∧ (Alone e (.supResume f) t → ∀ u, target e.k r false = .inr u →
    let x := (readV t b).toNat
    (∀ act, resumeAct x u.pos.widx (clauseLen e.k u) = some act →
      exec (.supResume f) s = .next (settleWord (answered ((s.withCore e.c (dropRec e.k u.id.slot u.id.gen)).withThread e.c
        (resume s.clock e.k u act (x.testBit 2) (stepsNow e.k u))) .done [])))
    ∧ (resumeAct x u.pos.widx (clauseLen e.k u) = none →
      exec (.supResume f) s = .next (settleWord (answered s .absent []))))
  ∧ (Alone e (.supKill f) t → ∀ u, target e.k r false = .inr u → exec (.supKill f) s = answer (s.killThread e.c u) .done [])
  ∧ (∀ st, target e.k r false = .inl st →
    (Alone e (.supPwr f) t → exec (.supPwr f) s = answer s st []) ∧ (Alone e (.supResume f) t → exec (.supResume f) s = .next (settleWord (answered s st [])))
    ∧ (Alone e (.supKill f) t → exec (.supKill f) s = answer s st []))
  ∧ (∀ save : Bool, let i : Instr := if save then .supSave f else .supLoad f
    Alone e i t → ∀ u p w, xferTarget e.k r (if save then .parked else .saved) = .inr u →
      checkOwn s e.c (readV t b) (256 + 4 * u.id.nregs) 64 = .good p w →
      let at_ := (readV t b).toNat % 2 ^ 23
      exec i s = .next (settleWord ((ends s e (waiting e t (.supXfer save u.id.slot at_) .future f.dsel.toNat d)).modCore e.c
        fun k => { k with supX := k.supX ++ [⟨t.id.slot, t.id.gen, u.id.slot, u.id.gen, save, at_⟩] })))

/-! ### Paired words, commits and landings, core timing (R27, R34, R42, R120 to R122, R314) -/

/-- R120 to R122, R127: a half alone gives each of its threads its result; two halves of one word each read their guards and
sources before either writes, and act independently by their guards. -/
def Obligations.PairedHalvesReadBeforeEitherWrites : Prop := ∀ (s : State) (e : Env), s.env = some e →
  (e.k.threads.map (·.id.slot)).Nodup →
  (∀ r ∈ halfTable, ∀ h, e.is.half = none →
    exec (r.1 h) s = .next (after e (r.1 h) (fun e t => .ok (takeHalf e h r.2 t t)) s))
  ∧ ∀ ra ∈ halfTable, ∀ rb ∈ halfTable, ∀ a b : Half, a.side = .a → b.side = .b → e.is.half = some [] →
      (∀ t ∈ e.k.threads, takesWord e (ra.1 a) t = true → legalHere e (ra.1 a) t = true) →
      (∀ t ∈ e.k.threads, takesWord e (rb.1 b) t = true → legalHere e (rb.1 b) t = true) →
      let both (t : Thread) : Thread :=
        let u := if takesWord e (ra.1 a) t = true then takeHalf e a ra.2 t t else t
        let v := if takesWord e (rb.1 b) t = true then takeHalf e b rb.2 t u else u
        if takesWord e (ra.1 a) t = true ∨ takesWord e (rb.1 b) t = true then wordDone e.is v else t
      ∃ s1, exec (ra.1 a) s = .next s1 ∧ (s1.core e.c).threads = e.k.threads
        ∧ exec (rb.1 b) s1 = .next (s.withCore e.c { e.k with
            threads := e.k.threads.map both
            issue := some { e.is with half := none } })

/-- R73 to R76, R80, R81, R88, R184, R186 to R194, R207, R311, R313, R314, R317, R430: which access may pass another, and when
it is due; how a loaded value fills its registers; what a load, a store, an atomic, a filter row, a barrier and a tag access
do when they commit. The access leaves its queue, its result is due `lat` cycles after issue, memory changes only at the
bytes named, and the waits and fences of the core look again. A wait that finds its phase or its tag observes the completions of
the operations that have counted there. A decrement counts a barrier down, completes its phase or finds it inert, where bytes
that were not delivered leave SHORT as it was (log entry 73, DESIGN CHOICE); whose arrival a timed-out wait withdraws rests on log
entry 31 (DEDUCED); whoever waits for what happens gets the status. -/
def Obligations.AccessesTakeEffectAtTheirCommit : Prop :=
  (∀ x y : Access, 0 < x.size → 0 < y.size →
    let names (a : Access) (w : Nat) : Prop := a.phys < 8 * w + 8 ∧ 8 * w < a.phys + a.size
    (mayPass x y = true ↔ x.path ≠ y.path ∧ (x.inv = true
      ∨ (x.path = .own ∧ isLoad x.kind = true ∧ isStoreOrAtom y.kind = true ∧ ∀ w, ¬ (names x w ∧ names y w)))))
  ∧ (∀ d v, v < 2 ^ 64 →
      loadRegs d 8 false v = [(d, (BitVec.ofNat 64 v).setWidth 32), (d + 1, (BitVec.ofNat 64 v >>> 32).setWidth 32)])
  ∧ (∀ d v n, n ∈ [1, 2, 4] → v < 2 ^ (8 * n) →
      loadRegs d n true v = [(d, (BitVec.ofNat (8 * n) v).signExtend 32)]
      ∧ loadRegs d n false v = [(d, (BitVec.ofNat (8 * n) v).setWidth 32)])
  ∧ (∀ (s : State) (a : Access), isCntf a = false → (∀ l, a.kind ≠ .tblld l) →
      (a.path = .own → dueCycle s a = max a.after (a.cyc + 6))
      ∧ (a.path = .partner → dueCycle s a = max a.after (a.cyc + 14) ∨ dueCycle s a = max a.after (a.cyc + 15)))
  ∧ (∀ (s : State) (t : Thread) (a : Access), s.thread s.cur s.sub = some t → t.acc[s.ix]? = some a →
    (∀ b ∈ t.acc.take s.ix, mayPass a b = true) → t.spec = .plain → a.size ≤ 16 → dueCycle s a ≤ s.cycle →
    (a.rel = true → s.ix = 0 ∧ ∀ p ∈ s.posted, p.id ∉ a.posts) →
    let c := s.cur
    let lat := if a.path = .own then 6 else 14
    let old := memRead s.mem a.phys a.size
    let behind (b : Access) : Access :=
      if a.path = .partner ∧ b.path = .own ∧ mayPass b a = false then { b with after := max b.after (s.cycle + 1) } else b
    let out (u : Thread) : Thread := { u with acc := u.acc.take s.ix ++ (u.acc.drop (s.ix + 1)).map behind }
    let lands (n : Nat) (regs : List (Nat × Reg)) (u : Thread) : Thread :=
      { u with res := u.res ++ [{ at_ := n, seq := a.cyc, regs := regs, guest := none, fsr := 0, flag := a.flag, table := none, status := false }] }
    let due := max s.cycle (a.cyc + lat)
    let looked (x : State) : State := (x.settleWaitsAt c).settleGran.lend c
    let gone := s.modThread c s.sub out
    let does (x : State) : Prop := exec .directAccessCommit s = .next (looked x)
    let sl := t.id.slot
    (∀ d sext, a.kind = .load d sext → a.inv = false →
      does (gone.modThread c s.sub (lands due (loadRegs d a.size sext old))))
    ∧ (∀ v, a.kind = .store v → a.size ≤ 8 → earlierTwin (s.core c) t a = false →
      does ((gone.store a.phys (leBytes a.size v.toNat)).inertWaits a.phys))
    ∧ (∀ op ty b x d, a.kind = .atom op ty b x d →
      does (((gone.store a.phys (leBytes a.size (atomNew op ty old b.toNat x.toNat))).inertWaits a.phys).modThread c s.sub
          (lands due (oldRegs d ty old))))
    ∧ (∀ add q inc least d, a.kind = .cntf add 3 q inc least d → a.inv = false → rowFree s a = true →
      let x := if add then min (old + inc) 0xFFFF else old
      let y := if add then (gone.store a.phys (leBytes 2 x)).inertWaits a.phys else gone
      exec .cntfRowServe s = .next (looked (y.modThread c s.sub
        (lands (y.cycle + 6) [(d, BitVec.ofNat 32 (min least x))]))))
    ∧ (let o := a.phys
      let inert := memRead s.mem (o + 4) 4 = 0
      let ph := memRead s.mem (o + 8) 4
      let arrives (n : Nat) : State := (arriveBar gone c t o n).1
      let late := waitPassed gone t = true
      (∀ n, a.kind = .barInit n → does (gone.initBarrier o n))
      ∧ (∀ n d, a.kind = .barArrive n d →
        let cnt := if n < memRead s.mem o 4 ∧ ¬ inert then n else 0
        does ((arrives n).modThread c sl (lands due [(d, BitVec.ofNat 32 ph), (d + 1, BitVec.ofNat 32 cnt)])))
      ∧ (∀ p n, a.kind = .barWait p n false →
        (inert → does (gone.endWaitAt c sl .absent []))
        ∧ (¬ inert → ph ≠ p → does ((gone.modThread c sl fun u => sawPhase gone u o p).endWaitAt c sl .done []))
        ∧ (¬ inert → ph = p → late → does ((gone.withdraw c t o p n).endWaitAt c sl .timeout []))
        ∧ (¬ inert → ph = p → ¬ late → does (gone.waitAs c sl (.barrier o p n false))))
      ∧ (∀ n, a.kind = .barArwt n →
        let x := arrives n
        let cnt := if n < memRead s.mem o 4 ∧ ¬ inert then n else 0
        (inert → does (x.endWaitAt c sl .absent []))
        ∧ (¬ inert → n = 0 ∨ n < memRead s.mem o 4 → memWf s.mem = true → waitPassed x t = true →
          does ((x.withdraw c t o ph cnt).endWaitAt c sl .timeout []))
        ∧ (¬ inert → 0 < n → memRead s.mem o 4 ≤ n → memWf s.mem = true →
          does ((x.modThread c sl fun u => sawPhase x u o ph).endWaitAt c sl .done []))
        ∧ (¬ inert → n = 0 ∨ n < memRead s.mem o 4 → memWf s.mem = true → waitPassed x t = false →
          does (x.waitAs c sl (.barrier o ph cnt false)))))
    ∧ (let h := a.phys / 1024
      let late := waitPassed gone t = true
      (∀ n m, a.kind = .slotClaim n m →
        let x := tagAt s h n
        let y : Tag := ⟨if m = 0 then 2 else 1, false, false, if m = 0 then x.count else m, (x.gen + 1) % 2 ^ 32, []⟩
        (x.st = 0 → does (((gone.setTag h n y).endWaitAt c sl .done []).settleTag h n 4))
        ∧ (x.st ≠ 0 → late → does (gone.endWaitAt c sl .timeout []))
        ∧ (x.st ≠ 0 → ¬ late → does (gone.waitAs c sl (.tag h n (some m)))))
      ∧ (∀ n, a.kind = .slotTake n →
        let x := tagAt s h n
        let seen : State := gone.modThread c sl fun u => sawOps gone u x.ops
        (x.st = 2 → does (((seen.setTag h n { x with st := 3 }).endWaitAt c sl (if x.short then .fault else .done) []).settleTag h n 4))
        ∧ (x.st ≠ 2 → late → does (gone.endWaitAt c sl .timeout []))
        ∧ (x.st ≠ 2 → ¬ late → does (gone.waitAs c sl (.tag h n none))))
      ∧ ∀ n d, a.kind = .slotFree n d →
        let x := tagAt s h n
        let answer (st : Status) (u : Thread) : Thread :=
          { u with res := u.res ++ [{ at_ := due, seq := a.cyc, regs := [(d, codeOfStatus st)], guest := none, fsr := 0,
                                      flag := a.flag, table := none, status := true }] }
        (x.st = 3 → does (((gone.setTag h n { x with st := 0 }).settleTag h n 4).modThread c sl (answer .done)))
        ∧ (x.st ≠ 3 → does (gone.modThread c sl (answer .absent)))))
  ∧ (∀ (s : State) (o n : Nat), memWf s.mem = true → n < 2 ^ 32 →
    let P (m : Mem) (j : Nat) : Nat := memRead m (o + 4 * j) 4
    let apart (m : Mem) : Prop := ∀ a, a < o ∨ o + 16 ≤ a → memGet m a = memGet s.mem a
    let past := P s.mem 3 / 2 % 2
    let rest := P s.mem 3 / 4 * 4
    (let m := (s.initBarrier o n).mem;
      P m 0 = n ∧ P m 1 = n ∧ P m 2 = P s.mem 2 ∧ P m 3 = rest ∧ apart m)
    ∧ ∀ (d : Nat) (short : Bool), 0 < d →
      let m := (s.decBarrier o d short).mem
      let sh := if short then 1 else P s.mem 3 % 2
      apart m
      ∧ (P s.mem 1 = 0 → P m 0 = P s.mem 0 ∧ P m 1 = 0 ∧ P m 2 = P s.mem 2 ∧ P m 3 = rest + 2 + P s.mem 3 % 2)
      ∧ (P s.mem 1 ≠ 0 → d < P s.mem 0 →
          P m 0 = P s.mem 0 - d ∧ P m 1 = P s.mem 1 ∧ P m 2 = P s.mem 2 ∧ P m 3 = rest + 2 * past + sh)
      ∧ (P s.mem 1 ≠ 0 → P s.mem 0 ≤ d →
          P m 0 = P s.mem 1 ∧ P m 1 = P s.mem 1 ∧ P m 2 = (P s.mem 2 + 1) % 2 ^ 32
          ∧ P m 3 = rest + 2 * (if P s.mem 0 < d then 1 else past)))
  ∧ (∀ (s : State) (c : Nat) (t : Thread) (o n : Nat),
      (arriveBar s c t o n).1.mem = if n = 0 then s.mem else (s.decBarrier o n false).mem)
  ∧ (∀ (s : State) (c o p n : Nat) (acq : Bool) (f : Nat → Option Status) (st : Status) (t : Thread) (w : Wait),
      c = sliceCore o ∨ c = partnerOf (sliceCore o) → c < s.cores.length → s.thread c t.id.slot = some t →
      (∀ u ∈ (s.core c).threads, u.id.slot = t.id.slot → u = t) → t.wait = some w → w.kind = .barrier o p n acq →
      w.reg < t.v.length → f p = some st → acq = false ∨ st ≠ .done →
      ∃ u, (s.endBarrier o f).thread c t.id.slot = some u ∧ u.id = t.id ∧ u.wait = none ∧ readV u w.reg = codeOfStatus st)
  ∧ ∀ (s : State) (h n b : Nat) (short : Bool),
      let x := tagAt s h n
      let y : Tag := if x.st = 1 then
          { x with short := x.short || short, stray := x.stray || decide (x.count < b), count := x.count - b,
                   st := if x.count ≤ b then 2 else 1 }
        else { x with stray := true }
      h < s.cores.length → tagQueue s h n = [] → tagAt (s.countTag h n b short) h n = y

/-- R11, R17, R105, R147, R157, R308, R314, R315: the next result of a thread writes its registers and flags and clears its
completion flag, but for the registers that a word which issued later has written, in its own issue or late in this same cycle;
a RET that refilled its stack arrives at the newest entry with SP raised by 32, and a DISPATCH arrives at its handler or
traps. -/
def Obligations.ResultsAndTransfersLand : Prop := ∀ (s : State) (t : Thread), s.thread s.cur s.sub = some t →
  let k := s.core s.cur
  (∀ r, t.res[s.ix]? = some r → r.at_ ≤ s.cycle → (∀ q ∈ t.res, r.at_ < q.at_ ∨ (r.at_ = q.at_ ∧ r.seq ≤ q.seq)) →
    r.table = none → r.guest = none →
    let late (u : Thread) : List (Nat × Nat) := if u.late.1 = s.cycle then u.late.2 else []
    let kept (u : Thread) : List (Nat × Reg) := (match k.issue with
      | none => r.regs
      | some is => r.regs.filter fun x =>
          !(decide (r.at_ < is.next) && is.wrote.any fun w => w.1 == t.id.slot && w.2.contains x.1)).filter fun x =>
        !(late u).any fun y => y.1 == x.1 && decide (r.seq < y.2)
    let lower (l : List Nat) : List Nat := match r.flag with | none => l | some n => l.set n (l.getD n 0 - 1)
    let land (u : Thread) : Thread :=
      let v : Thread := { u with
        res := u.res.eraseIdx s.ix, late := (s.cycle, late u ++ (kept u).map fun x => (x.1, r.seq)), hot := (s.cycle, if u.hot.1 = s.cycle then u.hot.2 ||| r.fsr else r.fsr) }
      let w := setFsr (writeVs v (kept u)) r.fsr
      refreshFlags s.clock k { w with flags := lower w.flags, toc := if r.status = true then 0 else w.toc }
    exec .resultLands s = .next ((s.modThread s.cur s.sub land).settle s.cur |>.lend s.cur))
  ∧ ∀ (x : Xfer) (w : Wait) (wx : Nat), t.xfer = some x → t.wait = some w → w.kind = .transit wx → x.at_ ≤ s.cycle →
    (∀ a ∈ t.acc, a.kind ≠ .dispCount ∧ a.kind ≠ .dispEntry ∧ ∀ j, a.kind ≠ .fill j) →
    let go (f : Thread → Thread) : Prop := exec .delayedTransferArrival s = .next ((s.modThread s.cur s.sub f).settle s.cur)
    let trap (c : Cause) (arg : Quad) (u : Thread) : Thread :=
      let p := park s.clock u c wx 0 arg
      { p with frec := p.frec.map fun r => if r.gm then { r with gop := x.gop } else r }
    let toHdr (u : Thread) (h : Nat) : Bool := isHeader k u.id.sup h
    (x.ret = true → (∀ u ∈ k.threads, u.id.slot = s.sub → u = t) →
      let a := (x.words.getD 7 0).toNat
      let v : Thread := { t with sr := { t.sr with sp := t.sr.sp + 32 }, rs := ⟨t.rs.depth - 1, 7, x.words⟩ }
      go fun u => if toHdr t a then arriveAt s.clock k v a none .flow else park s.clock u .illegal wx 0 0)
    ∧ (x.ret = false → ∀ cnt, x.cnt = some cnt →
      (cnt.toNat ≤ x.gop.toNat → go fun u => trap .guestUndefined 0 u)
      ∧ (x.gop.toNat < cnt.toNat → ∀ en, x.ent = some en → (en &&& 0x7FFF8000) = 0 →
        (en.getLsbD 31 = true → go fun u => trap .guestUndefined 0 u)
        ∧ (en.getLsbD 31 = false → (∀ u ∈ k.threads, toHdr u (en.toNat % 2 ^ 15) = true) →
          go fun u => arriveAt s.clock k u (en.toNat % 2 ^ 15) (if x.pcMode then some u.gst.gpc else none) (.dispatch x.win))))

/-- R28 to R31, R39, R398, R409, R410: with the issue slot free, and no write to the debug block under way, the winnower issues the clause of the sheaf that it chooses: candidates of one
key, at most 64, and when none of them has waited more than 4,096 ticks the most of any key. Each enters the sheaf; those at
the start of a collective clause read its size in CGS. With tracing on, a selected group stays selected, and every user group of the
sheaf counts the clause and its words in the interval of its issue (log entry 81, DESIGN CHOICE). -/
def Obligations.TheWinnowerIssuesTheSheafItChooses : Prop := ∀ (s : State),
  let k := s.core s.cur
  let ts := chooseSheaf s.time s.cycle k
  let cs := k.threads.filter fun t => candidate k t && decide (t.pos.free ≤ s.cycle)
  let alike (t : Thread) : List Thread := cs.filter fun u => keyOf k u == keyOf k t
  (∀ t ∈ ts, t ∈ cs ∧ t.pos.st = .ready)
  ∧ (∀ t ∈ ts, ts.length = min 64 (alike t).length ∧ ∀ u ∈ ts, keyOf k u = keyOf k t)
  ∧ ((∀ t ∈ cs, s.time ≤ t.pos.since + 4096) → ∀ t ∈ cs, min 64 (alike t).length ≤ ts.length)
  ∧ ((k.issue = none ∨ ∃ is, k.issue = some is ∧ is.slots = [] ∧ is.next ≤ s.cycle) → k.offline = false →
      k.refetch = none → k.dbgDue = none → ∀ t r h, ts = t :: r → toHeader (wordAt k t.id.sup t.pos.hdr) = some h →
      let slots := ts.map (·.id.slot)
      let traces := k.dbgNow.trcfg.getLsbD 11
      let groups := ((ts.filter fun u => !u.id.sup).map fun u => (u.id.launch * 2 ^ 32 + u.id.tmx) * 256 + u.id.tid / u.id.width).eraseDups
      let words := h.len + 1 - max 1 t.pos.widx
      let counts (l : List IntvCount) (g : Nat) : Nat × Nat × Nat := ((l.find? fun x => x.1 == g).map (·.2)).getD (0, 0, 0)
      ∃ (sel : Option Nat) (mark : Option (Quad × Reg × Nat)) (intv : List IntvCount),
      (traces = false → sel = none ∧ mark = none ∧ intv = k.dbg.intv)
      ∧ (traces = true → (∀ g, k.dbg.sel = some g → sel = some g)
        ∧ ∀ g ∈ groups, let x := counts k.dbg.intv g; counts intv g = (x.1 + 1, x.2.1 + words, x.2.2))
      ∧ exec .winnowerChoice s = .next (s.withCore s.cur { k with
        threads := k.threads.map fun u => if slots.contains u.id.slot then enterSheaf k ts.length u else u
        issue := some
          { sup := t.id.sup, hdr := t.pos.hdr, head := h, widx := max 1 t.pos.widx, slots := slots,
            first := max 1 t.pos.widx, next := s.cycle + 1, wrote := [], stalled := none, half := none, stalls := 0,
            start := s.time, mark := mark, groups := if traces then groups else [] }
        dbg := { k.dbg with sel := sel, intv := intv } }))

/-- R34, R38, R41 to R44, R72, R88, R227, R235, R236, R238, R267, R314, R409 to R411: what each timer of a core does when it comes due:
holds and gatherings release, waits end with their status, a missed promise parks its sleeper, counters report and their
thread has observed the completion, sub-arrays gate and wake, a trace interval gives a summary of every group but the one
selected, with the stalls that a clause under way has had so far (log entry 81, DESIGN CHOICE). A wait of TASK.TAKE, TASK.PUT, SPAWN,
COND.NEW or SUP.PWAIT, and an FSLEEP before its promise, ends TIMEOUT, a FENCE PARTIAL with the drained classes of its mask; a word
whose access, transfer or descriptor reads are still under way, and a suspended tiller, wait on. The numbers by which the model tells
gatherings apart are its own. -/
def Obligations.CoreTimersActWhenDue : Prop := ∀ (s : State),
  let c := s.cur
  let k := s.core c
  let held (t : Thread) : Bool := decide (t.pos.st = .gather) && t.hold.any fun h => !h.yield_
  let with_ (t u : Thread) : Bool := held u && t.id.sup == u.id.sup && t.pos.hdr == u.pos.hdr && t.pos.gtag == u.pos.gtag
  let due (t : Thread) : Bool := k.threads.any fun u => with_ t u && u.hold.any fun h => decide (h.until_ ≤ s.cycle)
    && k.threads.all fun v => !with_ t v || v.hold.all fun g => decide (h.arrived ≤ g.arrived)
  exec .gatherWindowExpiry s = .next ((s.withCore c { k with
      threads := k.threads.map fun t => if held t && due t then release s.clock k t else t }).settle c)
  ∧ exec .affinityWindowExpiry s = .next s.settleGran
  ∧ (k.mx.idleFor ≠ 0 → mxBusy s c = false → k.mx.waking = none → k.mx.idleAt + k.mx.idleFor ≤ s.cycle →
      exec .subarrayGate s = .next (s.withCore c { k with mx := { k.mx with gated := 0xFFFF } }))
  ∧ (∀ w, k.mx.waking = some w → w ≤ s.cycle →
      exec .subarrayWakeComplete s = .next (s.withCore c { k with mx := { k.mx with gated := 0, waking := none } }))
  ∧ (let ended := s.withCore c { k with dbg := { k.dbg with intv := [], intvEnd := k.dbg.intvEnd + 65536 } }
    let record (x : Nat × Nat × Nat × Nat) : Nat := k.dbg.intvEnd % 2 ^ 64 + x.1 % 2 ^ 8 * 2 ^ 64 + x.2.1 % 2 ^ 32 * 2 ^ 72
      + x.2.2.1 % 2 ^ 32 * 2 ^ 104 + x.2.2.2 % 2 ^ 32 * 2 ^ 136 + 2 ^ 255
    let held (x : IntvCount) : IntvCount := match k.issue with
      | some is => if !is.slots.isEmpty && is.groups.contains x.1 then (x.1, x.2.1, x.2.2.1, x.2.2.2 + is.stalls) else x
      | none => x
    exec .traceIntervalEnd s = .next (if s.time < k.dbg.intvEnd then s
      else if k.dbgNow.trcfg.getLsbD 11 = false then ended
      else ((k.dbg.intv.map held).filter fun x => k.dbg.sel != some x.1).foldl (fun s x => ringPut s c (record x)) ended))
  ∧ (∃ n m j : Thread → Nat, exec .collectiveDeadlineExpiry s = .next (s.withCore c { k with
        threads := k.threads.map fun t =>
          if t.id.sup = decide (2048 ≤ s.sub) ∧ t.pos.st = .collective ∧ t.gw ≠ none ∧ (∃ u ∈ gathering k.threads t,
              u.gw.any (fun g => dlPassed s.time g.dl) = true) then
            if memberReady k t = true then
              let u := { t with sr := { t.sr with cgs := BitVec.ofNat 32 (5 + n t * 2 ^ 16) } }
              { countTimeout s.hub.plinth.escl u with
                pos := { t.pos with st := .ready, since := s.time, gid := j t }, gw := none }
            else { t with gw := t.gw.map fun g => { g with num := m t } }
          else t })
      ∧ (∀ t, n t = ((gathering k.threads t).filter (memberReady k)).length)
      ∧ (∀ t, m t = 2 * (4096 * s.time
          + (((gathering k.threads t).filter fun u => !memberReady k u).map (·.id.slot)).foldl min t.id.slot) + 1)
      ∧ ∀ t u, gathering k.threads t = gathering k.threads u → j t = j u)
  ∧ ∀ t : Thread, s.thread c s.sub = some t →
      (∀ h, t.hold = some h → t.pos.st = .gather → h.yield_ = true → h.until_ ≤ s.cycle →
        (∀ u ∈ k.threads, u.id.slot = s.sub → u = t) →
        exec .yieldHoldExpiry s = .next ((s.modThread c s.sub (release s.clock k)).settle c))
      ∧ (∀ r, (t.ops.find? fun o => o.cls == s.ix) = some r → ∀ st, r.ended = some st →
        (∀ u ∈ k.threads, u.id.slot = s.sub → u = t) →
        exec .counterReport s = .next ((s.modThread c s.sub fun _ =>
          { t with seen := if s.posted.any (fun p => p.op == r.op) ∧ r.op ∉ t.seen then t.seen ++ [r.op] else t.seen
                   ops := t.ops.erase r, q := t.q.set s.ix (t.q.getD s.ix 0 - 1),
                   flt := if st = .fault ∨ st = .cancelled then t.flt.set s.ix true else t.flt
                   fltNew := if st = .fault ∨ st = .cancelled then
                       let was : List Bool × List Bool := if t.fltNew.1 = s.cycle then t.fltNew.2 else (t.flt, [])
                       (s.cycle, was.1, (List.range 5).map fun j => was.2.getD j false || j == s.ix)
                     else t.fltNew }).settleWaitsAt c))
      ∧ (∀ r, t.replies[s.ix]? = some r → r.issued + 65536 ≤ s.time → (∀ u ∈ k.threads, u.id.slot = s.sub → u = t) →
        exec .engineReplyLimit s = .next (s.modThread c s.sub fun _ =>
          { t with replies := t.replies.eraseIdx s.ix,
                   res := t.res ++ [{ at_ := s.cycle, seq := r.cyc, regs := [(r.dst, 0), (r.dst + 1, 0)], guest := none,
                                      fsr := 0, flag := r.flag, table := none, status := false }] }))
      ∧ ∀ w, t.wait = some w →
        let ends (st : Status) (more : List (Nat × Reg)) : State := s.endWaitAt c t.id.slot st more
        (dlPassed s.time w.dl = true →
          (w.kind = .sleep → exec .waitDeadlineExpiry s = .next (ends .done []))
          ∧ (∀ ids ops x, w.kind = .acquire ids ops x → exec .waitDeadlineExpiry s = .next (ends .partialDone []))
          ∧ (∀ h acq, w.kind = .future h acq false → exec .waitDeadlineExpiry s = .next (ends .timeout [(w.reg + 1, 0)]))
          ∧ (∀ cls n, w.kind = .waitn cls n → exec .waitDeadlineExpiry s = .next (ends .timeout []))
          ∧ (∀ tag n d, w.kind = .tag tag n d → exec .waitDeadlineExpiry s = .next (ends .timeout []))
          ∧ (∀ obj ph n acq, w.kind = .barrier obj ph n acq →
              exec .waitDeadlineExpiry s = .next ((s.withdraw c t obj ph n).endWaitAt c t.id.slot .timeout []))
          ∧ (∀ scope mask accs x, w.kind = .fence scope mask accs x → ∃ got : Nat,
              (∀ b, got.testBit b = true ↔ b < 5 ∧ mask.testBit b = true
                ∧ (∀ o ∈ s.ops, o.core = c → o.cls = b → o.launch = t.id.launch → t.id.tid ∉ o.threads)
                ∧ (4 ≤ scope → ∀ p ∈ s.posted, p.core = c → p.tid = t.id.tid → p.launch = t.id.launch → p.cls ≠ b))
              ∧ exec .waitDeadlineExpiry s = .next ((s.modThread c t.id.slot fun u => sawClasses s c u got).endWaitAt c t.id.slot
                  .partialDone [(w.reg + 1, BitVec.ofNat 32 got)]))
          ∧ ((∃ m, w.kind = .take m) ∨ (∃ x, w.kind = .put x) ∨ (∃ x y, w.kind = .spawn x y) ∨ w.kind = .condNew ∨ w.kind = .supWait
              ∨ (∃ y u a, w.kind = .supXfer y u a)
              ∨ (∃ x ws ids ps, w.kind = .desc x ws ids ps ∧ t.acc.any isDescRead = false) →
              exec .waitDeadlineExpiry s = .next (ends .timeout []))
          ∧ (w.kind = .access ∨ w.kind = .suspended ∨ (∃ x, w.kind = .transit x)
              ∨ (∃ x ws ids ps, w.kind = .desc x ws ids ps ∧ t.acc.any isDescRead = true) →
              exec .waitDeadlineExpiry s = .next s)
          ∧ ∀ h begun, w.kind = .fsleep h begun →
              (∀ x p, viewFut s t.id.launch h = .ended x (some p) → begun = true → p ≤ s.time →
                exec .waitDeadlineExpiry s = .next ((s.modThread c t.id.slot fun u => observe s u x).endWaitAt c t.id.slot x.st []))
              ∧ ((∀ x p, viewFut s t.id.launch h = .ended x (some p) → begun = false ∨ s.time < p) →
                exec .waitDeadlineExpiry s = .next (ends .timeout [])))
        ∧ ∀ h p, w.kind = .fsleep h true → p ≤ s.time → p ≤ w.dl.at_ → (∀ u ∈ k.threads, u.id.slot = s.sub → u = t) →
          let go (u : Thread) : State := (s.modThread c s.sub fun _ => u).settle c
          (∀ x, viewFut s t.id.launch h = .ended x (some p) →
            exec .promiseTimeReached s = .next (go (endWait s.clock k (observe s t x) w x.st [])))
          ∧ (∀ cls op acc, viewFut s t.id.launch h = .pending cls op acc (some p) →
            exec .promiseTimeReached s = .next (go (if dlPassed s.time w.dl then endWait s.clock k t w .timeout []
              else park s.clock t .promiseMissed (clauseLen k t) 0 h)))

/-! ### The engines, the Granary, the hub and the service unit (R56 to R61, R67, R83, R84, R93, R210, R260, R332 to R432) -/

/-- R58, R67, R83, R84, R108, R111, R210, R213, R219, R221, R229 to R232: how an operation moves on: a translation from the cache
or by a walk, acceptance in turn, what a part of WLOAD, COPY, MMA, GATHER, COLL and RATOM writes, a posted write, the end with its
status on the board, a peer's join. That the last part of a pooled GATHER writes the whole output is log entry 11 (DEDUCED). -/
def Obligations.EnginesCarryOperationsThrough : Prop := ∀ (s : State),
  CopyParts s ∧ MatrixParts s ∧ GatherParts s ∧ CollParts s ∧ AtomicParts s
  ∧ (∀ o va, opAt s s.ix = some o → o.held = false → o.accepted = false → firstUndecided o (opNeeds s o) = some va →
    let more (p : Op → Op) (x : State) : State := { x with ops := x.ops.map fun q => if q.id = o.id then p q else q }
    let k := s.core o.core
    let hit := k.tlb.find? fun x => x.space == o.launch && covers x.va x.bytes va
    (∀ x, hit = some x → exec .translationWalk s = .next (more (fun q => { q with pages := q.pages ++ [x] }) s))
    ∧ (∀ x, hit = none → walk s o.launch (rootOf s o) va = .page x → k.tlb.length < Config.nTlb →
        exec .translationWalk s = .next (more (fun q => { q with pages := q.pages ++ [x] })
          { s.withCore o.core { k with tlb := k.tlb ++ [x] } with freeCtr := s.freeCtr + 1 }))
    ∧ (∀ c lo n, hit = none → walk s o.launch (rootOf s o) va = .fail c lo n → c ≠ .notMapped →
        exec .translationWalk s = .next (more (fun q => { q with faults := q.faults ++ [⟨va, c, lo, n, 0⟩] }) s)))
  ∧ (∀ o, opAt s s.ix = some o → o.held = false → o.accepted = false → firstInLine s o = true → storesDone s o = true →
      (∃ ty b a sc, o.kind = .wload ty b a sc) ∨ (∃ x, o.kind = .mma x) →
      ∃ s', exec .engineAccept s = .next s' ∧ s'.mem = s.mem ∧ s'.posted = s.posted ∧ s'.nextOp = s.nextOp + 1
        ∧ opAt s' s.ix = some { o with
            parts := [onePart], accepted := true, order := s.nextOp, promise := none })
  ∧ (∀ o, opAt s s.ix = some o → o.held = true ∨ o.accepted = true ∨ firstInLine s o = false →
      exec .engineAccept s = .next s)
  ∧ (∀ o ty buf addr, opAt s s.ix = some o → o.kind = .wload ty buf addr none → buf < 2 → o.accepted = true → o.cause = .none →
      mxFirst s o = true → mxAwake s o = true → ownOk addr (128 * rowBytes ty) = true → o.core < s.cores.length →
      ∃ s', exec .enginePartPerformed s = .next s' ∧ s'.mem = s.mem
        ∧ (bufOf (s'.core o.core).mx buf).fmt = ty ∧ (bufOf (s'.core o.core).mx buf).sc = []
        ∧ ∀ j, tblGet (bufOf (s'.core o.core).mx buf).w j 0
            = (elemsOf (tyBits ty) (memBytes s.mem (localPhys o.core addr) (128 * rowBytes ty))).getD j 0)
  ∧ (∀ o, opAt s s.ix = some o → o.accepted = true → (∀ p ∈ allParts o, p.st ≠ 0) → recsEnded o = true →
      let st : Status := if o.cancel then .cancelled else if o.cause = .none then .done else .fault
      ∃ s', exec .operationCompletion s = .next s' ∧ s'.mem = s.mem ∧ s'.ops = s.ops.filter (fun p => p.id != o.id)
        ∧ ∀ x, eslotAt (s.core o.core) o.cls o.slot = some x → x.op = o.id → ∃ y,
            eslotAt (s'.core o.core) o.cls o.slot = some y ∧ y = { x with
              ended := some st, endedAt := s.time, summary := o.exc, cause := if st = .fault then o.cause else .none
              fva := if st = .fault then o.fva else 0, pgf := if st = .fault then o.pgf else 0
              relOps := if o.rel = true then o.relOps else [], relPosts := if o.rel = true then o.relPosts else [] })
  ∧ (∀ x : PeerMsg, peerUp s x.device = false → exec (.collPeerArrival x) s = .next s)
  ∧ (∀ x : PeerMsg, peerUp s x.device = true → x.cancel = false → callAt s x.cid x.call = none →
      exec (.collPeerArrival x) s = .next { s with
        colls := s.colls ++ [⟨x.cid, x.call, x.ranks, [⟨x.rank, none, (x.ranks, x.op, x.ty, x.ofmt, x.n), x.data⟩], false⟩] })
  ∧ (∀ p, (s.posted.find? fun q => q.id == s.ix) = some p → p.link.any (linkDown s) = true →
      exec .postedWritePerformed s = .next s)
  ∧ ∀ p, (s.posted.find? fun q => q.id == s.ix) = some p → p.link.any (linkDown s) = false →
      let y := dropSeen { s.storeCells p.cells with posted := s.posted.filter fun q => q.id != s.ix }
      (p.part = none → exec .postedWritePerformed s = .next y.settleWaits.settleGran)
      ∧ (∀ j o x a, p.part = some j → opAt s p.op = some o → o.kind = .copy x → o.parts[j]? = some a → ∃ z : State,
          exec .postedWritePerformed s = .next z.settleWaits.settleGran
          ∧ z.mem = (y.countBytes o.core x.bar x.tag (partBytes a) false).mem
          ∧ (∀ o', opAt z p.op = some o' → o'.parts = setPart o.parts j 1)
          ∧ (o.accepted = true → (∀ i q, o.parts[i]? = some q → i ≠ j → q.st ≠ 0) → opAt z p.op = none))
      ∧ ∀ a, memWf s.mem = true → memGet (s.storeCells p.cells).mem a =
          match p.cells.reverse.find? fun x => x.1 == a with | some x => x.2 | none => memGet s.mem a

/-- R93, R260, R261, R263, R361, R363, R364: the commit step of a tiller that still runs, and of one that has finished with nothing
held; the withdrawal of an overdue suspended one; a wake record that has fired seats its thread; the pager's request and its answer. -/
def Obligations.GranaryAndPagerEventsAct : Prop := ∀ (s : State),
  (∀ x, entryAt s s.cur s.ix = some x → x.committing = true → x.st = .running →
    ancestorsDone s x = true → residentOf s x = true →
    let items := x.prov.filter fun h => !heldElsewhere s x h
    (∀ h ∈ items, ∃ a v, h = .store a ∧ a.kind = .store v ∧ a.rel = false ∧ a.size ≤ 8) →
    let put (y : State) (h : Held) : State := match h with
      | .store a => (match a.kind with | .store v => (y.store a.phys (leBytes a.size v.toNat)).inertWaits a.phys | _ => y)
      | _ => y
    let s1 := (items.foldl put s).takeItems x items
    exec .tillerCommit s = .next ((s1.modEntry s.cur s.ix fun y =>
        { y with prov := [], tiller := false, committing := false }).modAll x.provCore (freeRunner s1 s.cur s.ix)).settleGran)
  ∧ (∀ x y, entryAt s s.cur s.ix = some x → x.committing = true → x.st = .finished →
      ancestorsDone s x = true → residentOf s x = true → x.prov = [] →
      let s1 := s.modEntry s.cur s.ix fun y => { y with prov := [], tiller := false, committing := false }
      entryAt s1 s.cur s.ix = some y → exec .tillerCommit s = .next (s1.completeTask y).1.settleGran)
  ∧ (∀ t w x d n, s.thread s.cur s.sub = some t → t.wait = some w → w.kind = .suspended → dlPassed s.time w.dl = true →
      tillerOf t = some (d, n) → entryAt s d n = some x → x.committing = false →
      let s1 := s.requeue x
      exec .tillerWithdrawal s = .next ((s1.modCore s.cur fun k =>
        { k with threads := k.threads.map (withdrawThread s1 d n) }).settle s.cur).settleGran)
  ∧ (∀ w t n st regs, (s.gran.wakes.filter fun w => w.die == s.cur)[s.ix]? = some w → w.fired = some (st, regs) →
      savedHere s w = some t → wakeOf s w.core t = some w → freeSlot (s.core w.core) = some n →
      let k := s.core w.core
      exec .wakeRecordFire s = .next ((((s.withCore w.core
        (seat { k with saved := k.saved.filter fun u => u.id.tid != t.id.tid } n t)).dropWake w).endWaitAt w.core n st regs)
          ).settleGran)
  ∧ (∀ x, (s.hub.pslots.find? fun x => x.die == s.cur && x.slot == s.ix) = some x → x.posted = false → x.ended = none →
      let base := tblGet s.hub.prbase s.cur 0
      let tail := tblGet s.hub.prtail s.cur 0
      let room := (tail + 2 ^ 32 - tblGet s.hub.prhead s.cur 0) % 2 ^ 32 ≠ 4096
      (base ≠ 0 → room → ∃ s', exec .pagerRequestPost s = .next s'
        ∧ s'.mem = (busPut s (base + 32 * (tail % 4096)) 32 (x.va % 2 ^ 64 + x.launch % 2 ^ 16 * 2 ^ 64
            + x.die * 2 ^ 80 + x.slot * 2 ^ 82 + x.acc * 2 ^ 93 + x.seq % 2 ^ 40 * 2 ^ 96)).mem
        ∧ s'.hub.prtail = tblPut s.hub.prtail s.cur ((tail + 1) % 2 ^ 32) ∧ s'.cores = s.cores)
      ∧ (base = 0 ∨ ¬ room → exec .pagerRequestPost s = .next s))
  ∧ ∀ die v : Nat,
      let hit (x : PSlot) : Bool := x.die == die && x.slot == v % 2 ^ 11 && x.seq == v / 2 ^ 12 % 2 ^ 40 && x.ended.isNone
      let answer (x : PSlot) : PSlot :=
        if hit x then { x with ended := some (if v.testBit 11 then .fault else .done), endedAt := s.time } else x
      exec (.pagerCompletion die v) s = .next
        (if v / 2 ^ 52 % 2 ^ 12 = 0 ∧ s.hub.pslots.any hit = true then
          State.settleWaits { s with hub := { s.hub with pslots := s.hub.pslots.map answer } }
        else s)

/-- R366 to R387: a queue's packet starts, or is refused as malformed; its mailbox waits end by their deadlines; each
operation is carried out or completes with its reason; the record and the execution stamp are written (R395). That a SUPPLACE
waits while the compute dies are powered down is the model's reading of R429 (DEDUCED, log entry 60). -/
def Obligations.PacketsAreCarriedOut : Prop := ∀ (s : State),
  (∀ ws, let q := s.cur
    let x := queueAt s q
    x.next = some ws → x.en = true → x.blocked = none → x.cwait = none → pkOrder ws = false → pkCwait ws = false →
    turnOf s q = true → (∀ r ∈ s.hub.packets, r.id < s.hub.nextPk) →
    ∃ s' p, exec .packetStart s = .next s' ∧ s'.mem = s.mem ∧ s'.hub.packets = s.hub.packets ++ [p] ∧ p.ws = ws ∧ p.q = q
      ∧ p.id = s.hub.nextPk ∧ p.launch = (if pkOp ws = 2 then pkWord ws 6 % 2 ^ 16 else 0) ∧ s'.hub.nextPk = s.hub.nextPk + 1
      ∧ (badPacket ws = true → p.stage = .finished ∧ p.status = .fault ∧ p.reason = 1)
      ∧ (badPacket ws = false → featureBad s ws = true → p.stage = .finished ∧ p.status = .fault ∧ p.reason = 2)
      ∧ (badPacket ws = false → featureBad s ws = false → p.stage = .started)
      ∧ (if badPacket ws = false ∧ featureBad s ws = false ∧ (pkOp ws = 1 ∨ pkOp ws = 4) then
          (queueAt s' q).head = x.head ∧ (queueAt s' q).blocked = some s.hub.nextPk
        else (queueAt s' q).head = (x.head + 1) % 2 ^ 32 ∧ (queueAt s' q).blocked = none))
  ∧ (∀ w ws, (queueAt s s.cur).cwait = some w → (queueAt s s.cur).next = some ws → w.1 ≤ s.time →
      ∃ s', exec .consumeDeadlineExpiry s = .next s' ∧ s'.mem = s.mem
        ∧ s'.hub.packets = s.hub.packets ++ [⟨s.hub.nextPk, s.cur, ws, .finished, .timeout, 0,
            if pkOp ws = 2 then pkWord ws 6 % 2 ^ 16 else 0, none, false, 0, 0, 0, 0⟩]
        ∧ queueAt s' s.cur = { queueAt s s.cur with
            head := ((queueAt s s.cur).head + 1) % 2 ^ 32, next := none, cwait := none })
  ∧ ∀ p, packetAt s s.ix = some p →
      let done (x : State) (st : Status) (reason : Nat) : State := x.finishPk s.ix st reason
      let begun (op : Nat) : Prop := p.stage = .started ∧ pkOp p.ws = op
      let c := pkWord p.ws 5 % 2 ^ 8
      let m := pkWord p.ws 6 / 2 ^ 16 % 2 ^ 6
      let works (x : State) : State := x.modPacket s.ix fun p => { p with stage := .working }
      (begun 0 → exec .nopPacket s = .next (done s .done 0))
      ∧ (p.stage = .finished → p.pdl = none →
        let a := pkCaddr p.ws
        let stamp := p.fault % 2 ^ 64 + p.io % 2 ^ 64 * 2 ^ 64 + p.out % 2 ^ 64 * 2 ^ 128 + p.exec % 2 ^ 64 * 2 ^ 192
        let rec_ := codeOfStatus p.status |>.toNat
        ∃ s', exec .packetProduce s = .next s' ∧ s'.hub.packets = s.hub.packets.filter (fun y => y.id != s.ix)
          ∧ (queueAt s' p.q).done = ((queueAt s p.q).done + 1) % 2 ^ 32
          ∧ s'.mem = (if a = 0 then s.mem else
              (busPut (if pkOp p.ws = 1 then busPut s (a + 16) 32 stamp else s) a 16
                (rec_ + p.reason * 2 ^ 8 + p.launch % 2 ^ 16 * 2 ^ 16
                  + pkWord p.ws 0 / 2 ^ 32 % 2 ^ 32 * 2 ^ 32 + s.time % 2 ^ 64 * 2 ^ 64)).mem))
      ∧ (∀ w, p.stage = .finished → p.pdl = some w → w.1 ≤ s.time →
          exec .produceDeadlineExpiry s = .next (s.modPacket s.ix fun p =>
            { p with status := .partialDone, reason := 14, pdl := none }))
      ∧ (begun 1 → ∀ r, launchReason s p.ws = some r → exec .launch s = .next (done s .fault r))
      ∧ (begun 1 → launchReason s p.ws = none →
          let l := newLaunch s p (nextLaunch s)
          let free := freePlaces s (s.hub.cfg.parts.getD l.part 0) l.img.paired l.num
          free ≠ [] → exec .launch s = .next (State.placeAt (State.unblock (State.modPacket
              { s with launches := s.launches ++ [l], hub := { s.hub with lastLaunch := l.num } } s.ix
                fun p => { p with stage := .working, launch := l.num, counting := true }) s.ix) l
            (free.take (if l.coresident then l.teams else 1))))
      ∧ (begun 2 → (maqAt s m).obj = none → liveLaunch s (pkWord p.ws 6 % 2 ^ 16) = true → ∀ o,
          readMaq s (pkWord p.ws 5) (pkWord p.ws 6 % 2 ^ 16) = some o →
          exec .mqload s = .next (done ((s.modPacket s.ix fun p => { p with launch := pkWord p.ws 6 % 2 ^ 16 }).setMaq m
            { maqAt s m with obj := some o }) .done 0))
      ∧ (begun 3 → (maqAt s m).obj = none → exec .mqunload s = .next (done s .fault 10))
      ∧ (begun 3 → ∀ o, (maqAt s m).obj = some o → o.unloading = none → o.kicks = [] → o.live ≠ [] →
          exec .mqunload s = .next (works (s.setMaq m { maqAt s m with obj := some { o with unloading := some s.ix } })))
      ∧ (begun 4 → kicksFull s (c % 2 ^ 6) = false →
          let s1 := (works s).unblock s.ix
          let slot := { maqAt s1 (c % 2 ^ 6) with kickReg := BitVec.ofNat 64 (pkWord p.ws 6 % 2 ^ 44) }
          exec .mqkick s = .next ((s1.setMaq (c % 2 ^ 6) slot).enterKick (c % 2 ^ 6) (pkWord p.ws 6) (some s.ix)))
      ∧ (begun 5 → (s.core c).team = none → exec .preempt s = .next (done s .fault 13))
      ∧ (begun 5 → pkWord p.ws 5 / 2 ^ 8 % 4 = 0 → canSave s c = true → noRequest s (widen s c) = true →
          exec .preempt s = .next (works (s.request c 0 (pkWord p.ws 6) (some s.ix) false)))
      ∧ (begun 6 → ∀ x r, (s.core c).savedTeams = x :: r → x.due = false → x.team.paired = false →
          exec .restore s = .next (works (s.modCore c fun k => { k with savedTeams := k.savedTeams.map fun y =>
            if y.team = x.team then { y with due := true } else y })))
      ∧ (begun 7 → s.svc.computeDown = true → exec .supplace s = .next s)
      ∧ (begun 7 → s.svc.computeDown = false → supReason s (pkWord p.ws 5) = none →
          let i := imageOf (pkWord p.ws 5) (memRead s.mem (busAt s (pkWord p.ws 5)) 64)
          let mask := joinWords ((p.ws.drop 6).take 4)
          exec .supplace s = .next (done (((List.range 256).filter (bitAt mask)).foldl (fun x c =>
            ((x.killSup c).modCore c (placeSup x i c)).settle c) s) .done 0))
      ∧ (∀ st r, let y := done s st r
          packetAt y s.ix = some { p with
            stage := .finished, status := st, reason := r, counting := p.counting || pkOp p.ws == 1
            pdl := if pkPsig p.ws then some (s.time + pkSpan s p.ws, s.time) else none }
          ∧ y.mem = s.mem ∧ y.cores = s.cores
          ∧ queueAt y p.q = (if (queueAt s p.q).blocked = some s.ix then
              { queueAt s p.q with head := ((queueAt s p.q).head + 1) % 2 ^ 32, blocked := none } else queueAt s p.q))

/-- R255, R340, R343, R385 to R387: the kick at the head of a Maquette's list is refused whole, with reason PATCH, or leaves
the list as an instance; it waits while the live copies are at their limit, or the Granary has no room for its tasks. That one to
be refused waits until the tasks as loaded have room is the model's reading (DEDUCED, log entry 50). -/
def Obligations.KicksDepartWhole : Prop := ∀ (s : State) (o : Maq) (k : Kick) (rest : List Kick),
  (maqAt s s.cur).obj = some o → o.kicks = k :: rest →
  let pop (x : State) : State := x.modObj s.cur fun o => { o with kicks := rest }
  let room := (s.instantiate s.cur o (o.descs.map fun d => descOf (joinWords d))).isSome
  let bad := exec .kickDepart s = .next (if room = true then (pop s).endKick s.cur k .fault 11 else s)
  (o.maxLive ≤ o.live.length → exec .kickDepart s = .next s)
  ∧ (o.live.length < o.maxLive →
    (k.bad = true → bad)
    ∧ (patchTable s k.ptab o.descs.length = none → bad)
    ∧ ∀ es, k.bad = false → patchTable s k.ptab o.descs.length = some es →
        let ds := es.foldl patchOne o.descs
        ((∃ d ∈ ds, maqDescOk s o.launch o.descs.length o.ovfOff o.ovf.length (joinWords d) = false) → bad)
        ∧ ((∀ d ∈ ds, maqDescOk s o.launch o.descs.length o.ovfOff o.ovf.length (joinWords d) = true) →
          (∀ y, s.instantiate s.cur o (ds.map fun d => descOf (joinWords d)) = some y →
            exec .kickDepart s = .next ((pop y).endKick s.cur k .done 0).settleGran)
          ∧ (s.instantiate s.cur o (ds.map fun d => descOf (joinWords d)) = none → exec .kickDepart s = .next s)))

/-- R25, R227, R380, R395: a team of one core is placed: its slice holds the data image, read also through an aperture window, and
zeros elsewhere, it has the launch and its number in the grid, its sub-arrays are gated where an idle time is set and no operation
uses them, and its threads are all there in TID order, under the launch's registers and groups. -/
def Obligations.PlacementFillsTheCore : Prop := ∀ (s : State) (l : Launch) (c : Nat),
  c < s.cores.length → c < 256 → l.img.paired = false → l.img.team ≤ 2048 → l.pcount = 0 → memWf s.mem = true →
  (∀ r ∈ busRuns s 4 (l.img.addr + l.img.dataOff) l.img.dsize, ∀ i, i < r.2 → ∀ j, j < Config.sliceBytes → r.1 + i ≠ sliceAt c + j) →
  l.img.dbase + l.img.dsize ≤ Config.sliceBytes →
  let y := s.placeAt l [c]
  (∀ off, off < Config.sliceBytes → memGet y.mem (sliceAt c + off) =
    if l.img.dbase ≤ off ∧ off < l.img.dbase + l.img.dsize then
      (busBytes s (l.img.addr + l.img.dataOff) l.img.dsize).getD (off - l.img.dbase) 0
    else 0)
  ∧ (∀ a, a < sliceAt c ∨ sliceAt c + Config.sliceBytes ≤ a → memGet y.mem a = memGet s.mem a)
  ∧ (y.core c).team = some ⟨l.num, l.placed, false⟩ ∧ (y.core c).saved = [] ∧ (y.core c).tags = []
  ∧ (y.core c).es = [] ∧ (y.core c).act = false ∧ (y.core c).mx.acc = []
  ∧ (mxBusy s c = false → (y.core c).mx.gated = if s.hub.plinth.gating = 0 then 0 else BitVec.allOnes 16)
  ∧ ((y.core c).threads.filter fun t => !t.id.sup && decide (t.id.slot < 2112)).map (fun t => (t.id.slot, t.id.tid, t.id.tmx, t.id.width, t.id.nregs))
      = (List.range l.img.team).map (fun j => (j, j, l.placed, l.img.group, l.img.regs))
  ∧ ∀ t ∈ (y.core c).threads, t.id.sup = false → t.id.slot < 2112 →
      t.v = List.replicate l.img.regs 0 ∧ t.p = 1 ∧ t.q = List.replicate 5 0 ∧ t.pos.hdr = l.img.entry

/-- R273, R347 to R350, R356 to R361, R377, R381, R382, R427: placement in the lowest free place, the ends of teams and
launches, saves at a PHINT header and at the grace deadline, the drain, the restore, the slice boundary, and the fault
records and images of threads. -/
def Obligations.TeamsArePlacedSavedAndEnded : Prop := ∀ (s : State),
  let c := s.cur
  let k := s.core c
  let save (t : Thread) (x : State) : State := x.modCore c fun k => dropLatch { k with
    threads := k.threads.filter fun u => u.id.slot != t.id.slot
    saved := k.saved ++ [{ t with flags := List.replicate 12 0 }] } t
  (∀ l, launchOf s s.ix = some l → l.closing = false → l.preloadFail = false → l.placed < l.teams →
      ∀ d r, freePlaces s (s.hub.cfg.parts.getD l.part 0) l.img.paired l.num = d :: r →
      exec .teamPlacement s = .next (s.placeAt l [d]))
  ∧ (∀ l, launchOf s s.ix = some l → l.placed ≤ l.ended → l.placed = l.teams → l.preloadFail = false →
      let s1 := if l.closing then s else s.closeLaunch l
      let rest := s1.launches.filter fun x => x.num != l.num
      (s1.posted.any fun p => p.launch == l.num) = false →
      exec .launchEnd s = .next
        ({ s1 with launches := rest, hist := if rest.isEmpty then [] else s1.hist }.finishPk l.pk .done 0))
  ∧ (∀ tm, k.team = some tm → tm.paired = false → teamOver s c tm = true → k.pre = none → k.retireDue = [] →
      exec .teamEnd s = .next (((dropWakes s c tm.launch).modCore c freedCore).modLaunch tm.launch fun l =>
        { l with ended := l.ended + 1 }))
  ∧ (∀ t p, s.thread c s.sub = some t → k.pre = some p → p.saved = false → p.graceOver = false → s.time < p.grace → savable k t = true →
      (t.pos.st = .parked ∨ t.pos.st = .saved → exec .phintSave s = .next (save t s))
      ∧ (t.pos.st = .barrier → exec .phintSave s = .next (save t (s.takeWake c t)))
      ∧ (t.pos.st = .ready → t.pos.widx = 0 → phintAt k false t.pos.hdr = true → liveDesc s k t = none →
          exec .phintSave s = .next (save t s))
      ∧ (∀ n d, t.pos.st = .ready → t.pos.widx = 0 → phintAt k false t.pos.hdr = true → liveDesc s k t = some (n, d) →
          exec .phintSave s = .next (save (cutThread s c t n d) s)
          ∧ (cutThread s c t n d).v = t.v.mapIdx (fun j x => if d.testBit j then x else 0)
          ∧ ∀ f l, decodeWord (wordAt k false (t.pos.hdr + 1)) = .one (.phint f) → launchOf s t.id.launch = some l →
              n = f.a.toNat ∧ d = memRead s.mem (busAt s (l.img.addr + l.img.liveOff + 192 * f.a.toNat)) 192))
  ∧ (∀ p, k.pre = some p → p.saved = false → p.grace ≤ s.time →
      exec .graceDeadlineExpiry s = .next (((userThreads k).filter (savable k)).foldl (fun x t => x.saveLate c t)
        (s.withCore c { k with pre := some { p with graceOver := true } })))
  ∧ (∀ p tm l, k.pre = some p → k.team = some tm → launchOf s tm.launch = some l → p.saved = false →
      drainedTeam s c tm.launch = true → exec .teamDrainComplete s = .next (s.saveTeam c l tm p))
  ∧ (∀ x l, k.team = none → (k.savedTeams.find? (·.due)) = some x → launchOf s x.team.launch = some l → k.offline = false →
      (∀ d ∈ (if x.team.paired then [c - c % 2, c - c % 2 + 1] else [c]), (s.core d).retireDue = []) →
      let s0 := s.restoreTeam c l x
      let s1 := if x.spared = true then s0.logSpare c x.team.launch else s0
      exec .teamRestore s = .next
        (if (teamCores s1 c).all (fun d => (s1.core d).savedTeams.all fun y => !(y.due && y.team.launch == x.team.launch)) then
          (teamCores s1 c).foldl State.finishRestores s1 else s1))
  ∧ (s.hub.offsetSet = true → s.hub.nextSlice ≠ 0 → s.hub.nextSlice ≤ ieeeNow s →
      let s1 := (sharedCores s).foldl sliceCoreOver s
      exec .timeSliceBoundary s = .next { s1 with hub := { s1.hub with
        nextSlice := boundaryAfter s.hub.plinth (ieeeNow s) } })
  ∧ (∀ t r, s.thread c s.sub = some t → t.frec = some r → t.pos.st = .parked → landed t = true →
      let quiet (u : Thread) : Thread := { u with frec := none, flags := List.replicate 12 0 }
      let before (u : Thread) : Prop := u.id.sup = false ∧ u.id.slot < t.id.slot ∧ ∃ x, u.frec = some x ∧ x.cyc = r.cyc
      let early : Prop := s.cycle ≤ r.cyc ∧ s.frac + s.svc.clk < 1200
      (t.id.sup = false → early ∨ (∃ u ∈ k.threads, before u) → exec .parkComplete s = .next s)
      ∧ (t.id.sup = true ∨ (¬ early ∧ ∀ u ∈ k.threads, ¬ before u) → exec .parkComplete s =
          .next (((s.modThread c s.sub quiet).modCore c fun k => offerRec k t.id.sup r).serveFaultsAt c)))
  ∧ (∀ r rest, k.faultWait = r :: rest → k.faultQ.length < Config.nFaultRecs →
      exec .faultRecordEnqueue s = .next
        ((s.withCore c { k with faultQ := k.faultQ ++ [r], faultWait := rest }).serveFaultsAt c))
  ∧ (∀ x rest u, k.supX = x :: rest → threadAt k.threads x.target = some u → u.id.gen = x.targetGen → c < s.cores.length →
      u.pos.st = (if x.save then .parked else .saved) → (x.save = true → landed u = true) →
      exec .supSaveLoadComplete s = .next ((s.withCore c { k with supX := rest }).finishXfer c x u)
      ∧ (x.save = true → ((s.withCore c { k with supX := rest }).finishXfer c x u).mem
          = (s.store (sliceAt c + x.addr) (threadBytes s.time c 2 0 (fun _ => true) u)).mem))

/-! ### Service, registers, exceptions, the machine as a whole -/

/-- R394, R417 to R424, R428, R429: log records; soft errors, corrected or not, and the word fetched again; a sparing decision asked
for through bit CFG, and the retirement of a free core; spares, lanes, the firmware hand-over, telemetry and the thermal limits, the
first row before the others. A retraining of 12,000,000 ticks, a refetch due at 2,048 cycles and counted as memory 3, the DATA of a
row spare, and a shadow that starts from the parameters in force are the model's reading (DEDUCED, log entry 53). -/
def Obligations.ServiceEventsAct : Prop := ∀ (s : State),
  let v := s.svc
  let with_ (x : Service) : State := { s with svc := x }
  let decides (y : State) (c : Nat) (hard : Bool) : State :=
    let z := y.modCore c fun k => { k with retireWant := some hard }
    { z with hub := { z.hub with nlatch := z.hub.nlatch ||| (1#64 <<< 63) } }
  let full := 4096 < (v.slptr + 1 + 2 ^ 32 - v.slrd) % 2 ^ 32
  (∀ kind unit launch data, let y := s.logRec kind unit launch data
    y.svc.slseq = v.slseq + 1 ∧ (full → y.mem = s.mem ∧ y.hub = s.hub)
    ∧ (¬ full → y.svc.slptr = (v.slptr + 1) % 2 ^ 32 ∧ y.hub.nlatch = s.hub.nlatch ||| (1#64 <<< 60)
        ∧ y.mem = (busPut s (v.slbase + 32 * (v.slptr % 4096)) 32 (v.slseq % 2 ^ 64 + s.time % 2 ^ 64 * 2 ^ 64
            + kind * 2 ^ 128 + unit % 2 ^ 16 * 2 ^ 136 + launch % 2 ^ 16 * 2 ^ 152 + data % 2 ^ 88 * 2 ^ 168)).mem))
  ∧ (∀ unit, (tblGet (s.core unit).corrected 0 0 + 1) % 256 ≠ 0 → unit < s.cores.length →
      let counts := tblPut (s.core unit).corrected 0 (tblGet (s.core unit).corrected 0 0 + 1)
      let y := s.modCore unit fun k => { k with corrected := counts }
      exec (.singleBitError unit .registers) s = .next
        (if Config.retireAt < (counts.map (·.2)).sum ∧ (s.core unit).retireWant = none then decides y unit false else y))
  ∧ (∀ unit, opAt s 0 = none → let launch := ((s.core unit).team.map (·.launch)).getD 0
      let y := s.killTeam unit
      exec (.doubleBitError unit .slice 0) s = .next
        ((if (y.core unit).retireWant = some true then y else decides y unit true).logRec 2 unit launch 1))
  ∧ (∀ c is, (s.core c).issue = some is → is.slots ≠ [] → (s.core c).refetch = none →
      exec (.ifetchParityError c) s = .next (s.modCore c fun k => { k with
        refetch := some (is.sup, is.hdr + is.widx, s.cycle + 2048) }))
  ∧ (∀ c sup ix d a, (s.core c).refetch = some (sup, ix, d) → imageWordAt s c sup ix = some a → readable s a 8 = true →
      c < s.cores.length → (tblGet (s.core c).corrected 3 0 + 1) % 256 ≠ 0 →
      ∃ s', exec (.ifetchRefetchComplete c true) s = .next s' ∧ (s'.core c).refetch = none ∧ s'.mem = s.mem
        ∧ wordAt (s'.core c) sup ix = BitVec.ofNat 64 (memRead s.mem (busAt s a) 8)
        ∧ (s'.core c).corrected = tblPut (s.core c).corrected 3 (tblGet (s.core c).corrected 3 0 + 1)
        ∧ (s'.core c).threads = (s.core c).threads ∧ (s'.core c).issue = (s.core c).issue)
  ∧ (∀ c sup ix d a, (s.core c).refetch = some (sup, ix, d) → imageWordAt s c sup ix = some a → ∀ ok,
      ok = false ∨ readable s a 8 = false → exec (.ifetchRefetchComplete c ok) s = .next
        (((s.modCore c fun k => { k with refetch := none }).killTeam c).logRec 2 c
          (((s.core c).team.map (·.launch)).getD 0) 3))
  ∧ (∀ c hard, (s.core c).retireWant = some hard → (s.core c).offline = false → (s.core c).team = none →
      (s.core c).pre = none → exec (.coreRetirement c hard) s = .next (s.retireFree c 0))
  ∧ (∀ c hard, (s.core c).retireWant ≠ some hard → exec (.coreRetirement c hard) s = .next s)
  ∧ (∀ st ch bank row, let used := v.rowSpares.filter fun x => x.1 == st && x.2.1 == ch && x.2.2.1 == bank
      exec (.hbmRowSpare st ch bank row) s = .next (if used.length < 4 ∧ (∀ x ∈ used, x.2.2.2 ≠ row) then
        (with_ { v with rowSpares := v.rowSpares ++ [(st, ch, bank, row)] }).logRec 5 (st * 32 + ch) 0
          (bank % 2 ^ 8 + row % 2 ^ 32 * 2 ^ 8) else s))
  ∧ (∀ st ch, st < 8 → ch < 32 →
      ((∀ x ∈ v.chanSpare, x.1 ≠ st) → exec (.hbmChannelSpare st ch) s = .next
        ((with_ { v with chanSpare := tblPut v.chanSpare st ch }).logRec 6 (st * 32 + ch) 0 0))
      ∧ ((∃ x ∈ v.chanSpare, x.1 = st) → tblGet v.chanSpare st 32 ≠ ch → (st, ch) ∉ v.badChans →
        exec (.hbmChannelSpare st ch) s = .next (with_ { v with badChans := v.badChans ++ [(st, ch)] })))
  ∧ (∀ port half, portExists s port half = true → 1 < lanesOf s port half →
      let n := lanesOf s port half / 2
      exec (.laneFailure port half) s = .next (watchPorts ((with_ { v with
        lanes := tblPut v.lanes (2 * port + half) n
        retrain := tblPut v.retrain (2 * port + half) (s.time + 12000000) }).logRec 7 (2 * port + half) 0 n)))
  ∧ (∀ port half n, portExists s port half = true → lanesOf s port half < n → n ≤ maxLanes s → n = 2 ∨ n = 4 →
      exec (.laneRestore port half n) s = .next ((with_ { v with
        lanes := tblPut v.lanes (2 * port + half) n }).logRec 8 (2 * port + half) 0 n))
  ∧ (tblGet v.retrain (2 * s.cur + s.sub) 0 ≠ 0 → exec .portRetrainComplete s = .next
      (watchPorts (with_ { v with retrain := tblPut v.retrain (2 * s.cur + s.sub) 0 })))
  ∧ (∀ x : TelemInput, v.nextTelem ≤ s.time → (∀ t ∈ x.tj, t < 95) → x.pwr ≤ s.hub.plinth.powerCap → 5 ≤ x.flow →
      ∃ s', exec (.telemInterval x) s = .next s' ∧ s'.mem = s.mem ∧ s'.svc.clk = min 1200 (v.clk + 50) ∧ s'.svc.hot = false
        ∧ s'.svc.lowFlowSince = none ∧ s'.svc.nextTelem = v.nextTelem + 1200000 ∧ s'.svc.telem = telemBits x s'.svc.clk)
  ∧ (∀ x : TelemInput, v.nextTelem ≤ s.time → (∃ t ∈ x.tj, 110 ≤ t) →
      ∃ s', exec (.telemInterval x) s = .next s' ∧ s'.svc.computeDown = true ∧ s'.launches = [] ∧ s'.mem = s.mem
        ∧ s'.svc.clk = v.clk)
  ∧ (∀ x : TelemInput, v.nextTelem ≤ s.time → (∃ t ∈ x.tj, 100 ≤ t) → (∀ t ∈ x.tj, t < 110) → 5 ≤ x.flow →
      ∃ s', exec (.telemInterval x) s = .next s' ∧ s'.svc.clk = max 300 (v.clk - 50) ∧ s'.svc.hot = true)
  ∧ (∀ x : TelemInput, (∃ t ∈ x.tj, 110 ≤ t) → ∃ s', exec (.thermalShutdown x) s = .next s' ∧ s'.svc.computeDown = true
      ∧ s'.launches = [] ∧ s'.ops = [] ∧ s'.hub = s.hub ∧ s'.mem = s.mem ∧ s'.time = s.time)
  ∧ (∀ img, v.fwState = 0 → ∃ s', exec (.fwLoad img) s = .next s' ∧ s'.svc.inactive = img
      ∧ s'.svc.staged = Config.sm3 img.bytes ∧ s'.svc.fwState = 1 ∧ s'.svc.fwActive = v.fwActive)
  ∧ (v.fwState = 1 → ∃ s', exec .fwVerify s = .next s' ∧ s'.svc.fwState =
      if Config.sm2Checks v.staged v.inactive.sig = true ∧ v.fwRollback ≤ v.inactive.seq then 2 else 0)
  ∧ (v.fwState = 2 → exec .fwShadowStart s = .next (with_ { v with fwState := 3, shadow := s.hub.plinth }))
  ∧ (v.fwState = 3 → exec .fwCommit s = .next ((startSlices { s with
      hub := { s.hub with plinth := v.shadow }
      svc := { v with fwState := 0, fwActive := !v.fwActive, fwRollback := max v.fwRollback v.inactive.seq }
        }).logRec 10 0 0 v.inactive.seq).settleGran)
  ∧ (v.fwState = 3 → ∃ s', exec .fwAbort s = .next s' ∧ s'.svc.fwState = 0 ∧ s'.svc.inactive = FwImage.empty
      ∧ s'.svc.fwActive = v.fwActive)
  ∧ (v.fwState ≠ 3 → exec .fwAbort s = .next s)

/-- R364, R365, R367, R373, R376, R383, R384, R386 to R388, R390, R394, R396 to R398, R407, R425: the hub's registers, parameters,
latch and clock, a mailbox's one change a tick, and the accesses of system cores, which also reach the peer table where the
model places it (log entry 69). The list of a mailbox's late writes is log entry 51, the 256 cycles of a write to HALTR log entry
48, and what a power-on reset keeps log entry 53 (all DEDUCED). -/
def Obligations.HubRegistersAct : Prop := ∀ (s : State) (w : Nat),
  let h := s.hub
  let with_ (x : Hub) : State := { s with hub := x }
  let reads (x : State) (n : Nat) : State := { x with hub := { x.hub with lastRead := BitVec.ofNat 64 n } }
  exec (.notifyWrite w) s = .next (with_ { h with nlatch := h.nlatch ||| BitVec.ofNat 64 w })
  ∧ exec .nlatchRead s = .next (with_ { h with lastRead := h.nlatch, nlatch := 0, plinthAwake := false })
  ∧ exec .plinthWake s = .next (if h.nlatch = 0 then s else with_ { h with plinthAwake := true })
  ∧ exec .timept s = .next (if h.offsetSet then with_ { h with nlatch := h.nlatch ||| (1#64 <<< 61) } else s)
  ∧ (h.offsetSet = false → exec (.ptpFirstLock w) s = .next (with_ { h with
      timeoff := BitVec.ofNat 64 w - BitVec.ofNat 64 s.time, offsetSet := true, locked := true
      nextSlice := boundaryAfter h.plinth w }))
  ∧ exec .ptpLockLoss s = .next (with_ { h with locked := false })
  ∧ (h.offsetSet = true → exec .ptpLockRegained s = .next { s with
      hub := { h with locked := true }, svc := { s.svc with holdover := none } })
  ∧ (∀ d, s.svc.holdover = some d → d ≤ s.time → exec .clockHoldoverExpiry s = .next { s with
      hub := { h with locked := false }, svc := { s.svc with holdover := none } })
  ∧ (s.sub = 0 → exec (.plinthParameterWrite .dlmax w) s = .next (startSlices (with_ { h with
      plinth := { h.plinth with dlmax := max 1024 (min (2 ^ 48) w) } })).settleGran)
  ∧ exec (.featureGo w) s = .next (if w % 2 = 1 ∧ s.launches = [] then
      with_ { h with fagr := (0x1FF &&& h.cfg.ceiling) &&& h.freq } else s)
  ∧ (∀ m, m < 4096 → let x := tblGet h.mboxes m Mailbox.reset
      let takes (y : Mailbox) : State := with_ { h with mboxes := tblPut h.mboxes m { y with at_ := some s.time } }
      (x.at_ ≠ some s.time → x.late = [] →
        exec (.mailboxWrite m false w) s = .next (takes { x with val := BitVec.ofNat 64 w })
        ∧ (w % 2 = 0 → exec (.mailboxWrite m true w) s = .next (takes { x with full := false }))
        ∧ (w % 2 = 1 → consumers s m = [] → exec (.mailboxWrite m true w) s = .next (takes { x with full := true })))
      ∧ (x.at_ = some s.time ∨ x.late ≠ [] → ∀ full, exec (.mailboxWrite m full w) s = .next (with_ { h with
        mboxes := tblPut h.mboxes m { x with late := x.late ++ [(full, w)] } })))
  ∧ (∀ q, q < 256 → let x := queueAt s q
      let ahead (t : Nat) : Nat := (t + 2 ^ 32 - x.head) % 2 ^ 32
      exec (.qtailWrite q w) s = .next (s.setQueue q
        (if 2 ^ x.log2n < ahead (w % 2 ^ 32) ∨ ahead (w % 2 ^ 32) < ahead x.tail then { x with err := true, errAt := some s.time }
        else { x with tail := w % 2 ^ 32 })))
  ∧ (∀ m, m < 64 → ∀ o, (maqAt s m).obj = some o → o.unloading = none → o.kicks.length < 16 → h.fagr.testBit 2 = true →
      ∃ s', exec (.kickWrite m w) s = .next s' ∧ ∃ o', (maqAt s' m).obj = some o'
        ∧ o'.kicks = o.kicks ++ [⟨((maqAt s m).kseq + 1) % 2 ^ 32, w % 2 ^ 44, decide (w / 2 ^ 44 % 2 ^ 20 ≠ 0), none⟩]
        ∧ (maqAt s' m).kseq = ((maqAt s m).kseq + 1) % 2 ^ 32 ∧ s'.mem = s.mem
        ∧ (maqAt s' m).kickReg = BitVec.ofNat 64 (w % 2 ^ 44))
  ∧ (∀ m, m < 64 → h.fagr.testBit 2 = false → ∃ s', exec (.kickWrite m w) s = .next s' ∧ s'.mem = s.mem ∧ s'.gran = s.gran
      ∧ maqAt s' m = { maqAt s m with
          kickReg := BitVec.ofNat 64 (w % 2 ^ 44), kseq := ((maqAt s m).kseq + 1) % 2 ^ 32, drop := true })
  ∧ (∀ m, m < 64 → exec (.kstatRead m) s = .next (reads (s.setMaq m { maqAt s m with drop := false }) (kstat s m)))
  ∧ (h.shootDone = true → w.testBit 63 = true →
      let within (va bytes : Nat) : Prop :=
        va < h.shootAddr.toNat + w / 2 ^ 16 % 2 ^ 32 * 65536 ∧ h.shootAddr.toNat < va + bytes
      let named (x : TlbEnt) : Prop := x.space = w % 2 ^ 16 ∧ within x.va x.bytes
      ∃ s', exec (.shootdownGo w) s = .next s' ∧ s'.hub.shootDone = false ∧ s'.hub.shootLaunch = w % 2 ^ 16
        ∧ (∀ id, id ∈ s'.hub.shootPosts ↔ ∃ p ∈ s.posted, p.id = id ∧ p.launch = w % 2 ^ 16 ∧ within p.page.1 p.page.2)
        ∧ (∀ x, x ∈ s'.hub.shootOps ↔ ∃ o ∈ s.ops, o.sup = false ∧ o.launch = w % 2 ^ 16 ∧ ∃ y ∈ placedBy o, named y.2
            ∧ x = ⟨o.id, y.1, y.2.va, y.2.bytes⟩)
        ∧ ∀ c x, x ∈ (s'.core c).tlb ↔ x ∈ (s.core c).tlb ∧ ¬ named x)
  ∧ (h.shootDone = false → (∀ p ∈ s.posted, p.id ∉ h.shootPosts) →
      let apart (x : Shot) (a : Part) : Prop := a.gva + a.len ≤ x.va ∨ x.va + x.bytes ≤ a.gva
      ((∀ x ∈ h.shootOps, (∀ p ∈ s.posted, p.op ≠ x.op) ∧ ∀ o, opAt s x.op = some o → ∃ y, o.kind = .copy y ∧ y.xp = false
          ∧ o.accepted = true ∧ ∀ a ∈ o.parts, a.st ≠ 0 ∨ apart x a) →
        exec .shootdownDone s = .next (with_ { h with shootDone := true, shootOps := [], shootPosts := [] }))
      ∧ ((∃ x ∈ h.shootOps, ∃ o y, opAt s x.op = some o ∧ o.kind = .copy y ∧ ∃ a ∈ o.parts, a.st = 0 ∧ ¬ apart x a) →
        exec .shootdownDone s = .next s))
  ∧ (h.shootDone = false → (∃ p ∈ s.posted, p.id ∈ h.shootPosts) → exec .shootdownDone s = .next s)
  ∧ (∀ c, c < 256 → exec (.haltrGo c w) s = .next (s.modCore c fun k => { k with
      dbg := { k.dbg with haltr := BitVec.ofNat 32 (w % 2 ^ 11), step := BitVec.ofNat 32 (w / 2 ^ 32 % 2 ^ 9) }
      dbgDue := some (k.dbgDue.getD (s.cycle + 256)), haltDue := w.testBit 10 }))
  ∧ (∀ c, exec (.trdropRead c) s = .next (reads (s.modCore c fun k => { k with dbg := { k.dbg with trdrop := 0 } })
      (s.core c).dbg.trdrop))
  ∧ (∀ c, exec (.svfaultCtlRead c) s = .next (reads (s.modCore c fun k => { k with svOvf := 0 })
      ((match (s.core c).svRec with | some r => 1 + (r.slot - Config.nUserSlots) % 2 ^ 11 * 2 | none => 0)
        + (s.core c).svOvf % 2 ^ 8 * 2 ^ 16)))
  ∧ exec (.registerWrite 0x40000 w) s = .next (with_ { h with svroot := BitVec.ofNat 64 (w % 2 ^ 44) })
  ∧ exec (.registerWrite 0x60000 w) s = exec (.notifyWrite w) s
  ∧ exec (.registerWrite 0x40018 w) s = exec (.shootdownGo w) s
  ∧ (∀ m, m < 4096 → exec (.registerWrite (0x10000 + 0x10 * m) w) s = exec (.mailboxWrite m false w) s
      ∧ exec (.registerWrite (0x10008 + 0x10 * m) w) s = exec (.mailboxWrite m true w) s)
  ∧ (w.testBit 63 = false → exec (.attreqGo w) s = .next { s with svc := { s.svc with attreq := BitVec.ofNat 64 (w % 2 ^ 44) } })
  ∧ (w.testBit 63 = true → ∃ s', exec (.attreqGo w) s = .next s' ∧ s'.svc.attreq = BitVec.ofNat 64 (w % 2 ^ 44)
      ∧ s'.svc.attSeq = s.svc.attSeq + 1
      ∧ s'.hub.nlatch = h.nlatch ||| (1#64 <<< 62)
      ∧ let bs := attHeader s (attHeads s).length ++ (attHeads s).flatMap (attEntry s.svc.attnonce)
        s'.mem = (s.storeCells (((bs.mapIdx fun j b => (w % 2 ^ 44 + j, b)).filter fun x => mayWrite s x.1 1).map fun x =>
            (busAt s x.1, x.2))).mem)
  ∧ (∀ a n, readable s a n = true → (a < hubBase ∨ hubBase + 2 ^ 24 ≤ a) → a < 2 ^ 44 →
      exec (.systemCoreMemoryAccess false a n w) s = .next (reads s (memRead s.mem (busAt s a) n))
      ∧ exec (.systemCoreMemoryAccess true a n w) s = .next
        (if mayWrite s a n = true then ((s.store (busAt s a) (leBytes n w)).inertWaits a).settleWaits else s))
  ∧ (∀ i, i < 4096 →
      (w.testBit 63 = true → exec (.systemCoreMemoryAccess true (2 ^ 44 + 8 * i) 8 w) s = .next (with_ { h with
        peers := tblPut h.peers i (w % 2 ^ 16, w / 2 ^ 16 % 2 ^ 16) }))
      ∧ (w.testBit 63 = false → exec (.systemCoreMemoryAccess true (2 ^ 44 + 8 * i) 8 w) s = .next (with_ { h with
        peers := h.peers.filter fun x => x.1 != i })))
  ∧ exec .powerOnReset s = .next { State.reset with
      cores := s.cores.map fun (k : Core) => { Core.reset with offline := k.offline }
      hub := h.powerUp, svc := s.svc.powerUp, moves := s.moves, freeCtr := s.freeCtr }

/-! ### Exceptions, the step, the encodings, the invariants -/

/-- R347, R348, R352, R353: a thread that traps at word `w` leaves its clause parked there, with a record of slot,
generation, cause, word, header, guest state when it runs a guest, argument and TIME, and nothing else of it changes; RETRY
stands it at that word again, SKIP at the next, both past the clause's end at what
follows it, and REDIRECT makes it arrive at the header that it names, all without a record; REDIRECT elsewhere traps anew. -/
def Obligations.TrapsParkAndResumesReturn : Prop := ∀ (ck : Clock) (k : Core) (t : Thread) (cause : Cause) (w code : Nat) (arg : Quad)
    (skw stepping : Bool),
  let u := park ck t cause w code arg
  let gm := decide (t.gst.htb ≠ 0)
  let len := clauseLen k u
  (u.pos.st = .parked ∧ u.pos.widx = w ∧ u.pos.hdr = t.pos.hdr ∧ u.pos.gtag = t.pos.gtag ∧ u.wait = none ∧ u.hold = none
    ∧ u.gw = none ∧ u.xfer = none ∧ u.v = t.v ∧ u.p = t.p ∧ u.dl = t.dl ∧ u.flags = t.flags ∧ u.q = t.q ∧ u.rs = t.rs
    ∧ u.gst = t.gst ∧ u.sr = t.sr ∧ u.toc = t.toc ∧ u.acc = t.acc ∧ u.res = t.res ∧ u.ops = t.ops)
  ∧ (u.frec = some
      { slot := t.id.slot, gen := t.id.gen, cause := cause, widx := w, gm := gm, spec := runsTiller t, code := code,
        hdr := t.pos.hdr, gpc := if gm then t.gst.gpc else 0, gop := if gm then t.gst.gop else 0, arg := arg, time := ck.now, cyc := ck.cyc })
  ∧ (1 ≤ w → w ≤ len → let r := resume ck k u .retry skw stepping
      r.frec = none ∧ r.pos = { u.pos with st := .ready, since := ck.now } ∧ r.v = t.v ∧ r.sr = t.sr
      ∧ r.dbg.skw = (if skw then some (t.pos.hdr, w) else none) ∧ r.dbg.step = stepping)
  ∧ (w < len → let r := resume ck k u .skip skw stepping
      r.frec = none ∧ r.pos = { u.pos with st := .ready, widx := w + 1, since := ck.now } ∧ r.v = t.v ∧ r.sr = t.sr
      ∧ r.dbg.skw = none)
  ∧ (let free : Thread := { u with frec := none, dbg := { u.dbg with skw := none, step := stepping, fresh := true } }
    (len ≤ w → resume ck k u .skip skw stepping = fallThrough ck k free .sent)
    ∧ (skw = false → len < w → resume ck k u .retry skw stepping = fallThrough ck k free .sent)
    ∧ (skw = false → w = 0 → resume ck k u .retry skw stepping = arriveAt ck k free t.pos.hdr t.pos.gtag .resumed))
  ∧ ∀ h,
      (isHeader k t.id.sup h = false → (resume ck k u (.redirect h) skw stepping).frec =
        some (recordOf ck { u with frec := none } .illegal w 0 0))
      ∧ (isHeader k t.id.sup h = true → resume ck k u (.redirect h) skw stepping = arriveAt ck k
          { u with frec := none, dbg := { u.dbg with skw := none, step := stepping, fresh := true } } h none .sent)

/-- R31, R120 to R122, R129, R180, R308, R419: when the word in a core's slot is due, no refetch is under way and what the tick
brings before it has happened, a step that issues on the core runs what the word decodes to: it stops threads whose stops fall
there, enters the stall with what the word reads, and a stall later executes the instruction on it, or at once both halves, and
moves the slot on; a word that is no legal instruction parks its threads instead. An event of the list of moves happens in the unit
it names, in its place in the tick; a tick follows all that is due, and what comes too late in its tick waits for the next. The
order within a tick is the model's (log entry 2). -/
def Obligations.StepRunsTheDecodedInstruction : Prop := ∀ (s : State) (rest : List Move),
  let made (x : State) (m : Move) : Host.Outcome State Fault Refusal :=
    match perform x m with
    | .next t => .next (endStep t)
    | r => r
  (∀ c is, s.moves = .issue c :: rest → s.svc.computeDown = false → (s.core c).issue = some is → is.slots ≠ [] →
    is.next ≤ s.cycle → s.phase ≤ issueRank s c → dueFirst s (some (issueRank s c)) = none →
    let w := wordAt (s.core c) is.sup (is.hdr + is.widx)
    let x := { s with moves := rest, phase := issueRank s c }
    let s0 := { x with cur := c }
    let s1 := s0.stopWords c is
    let n (i : Instr) : Nat := stallOf i s1
    ((s.core c).refetch ≠ none → step s = .next (endStep (x.waitCycle c)))
    ∧ ((s.core c).refetch = none →
      (∀ i, decodeWord w = .one i → is.stalled = none → tableHeld s0 i = true → step s = .next (endStep (s0.waitCycle c)))
      ∧ (∀ i, decodeWord w = .one i → is.stalled = none → tableHeld s0 i = false → n i ≠ 0 →
          step s = .next (endStep (s1.stallWord c i (n i))))
      ∧ (∀ i t, decodeWord w = .one i → is.stalled = none → tableHeld s0 i = false → n i = 0 → (s.core c).regErr = [] →
          exec i s1 = .next t → step s = .next (endStep (advance (t.noteWord s1 [i]) c)))
      ∧ (∀ i t, decodeWord w = .one i → is.stalled ≠ none → (s.core c).regErr = [] → let s2 := s0.asRead c
          exec i s2 = .next t → step s = .next (endStep (advance ((t.keepLanded s0 s2 c i).noteWord s2 [i]) c)))
      ∧ (∀ a b t u, decodeWord w = .pair a b → (s.core c).regErr = [] → exec a (s1.openPair c a b) = .next t →
          exec b t = .next u → step s = .next (endStep (advance (u.noteWord (s1.openPair c a b) [a, b]) c)))
      ∧ (∀ y, decodeWord w = .bad y → step s = .next (endStep (advance ((x.stopWords c is).parkBads c is w) c)))))
  ∧ (∀ i cur sub ix t r, s.moves = .event i cur sub ix :: rest → isEvent i = true →
      let early := i = .waitDeadlineExpiry
        ∧ ∃ u w, s.thread cur sub = some u ∧ u.wait = some w ∧ ∃ a n p q, w.kind = .barrier a n p q
      (early → r = s.phase) → (¬ early → r = eventRank s i cur sub ix) →
      s.phase ≤ r → dueFirst s (some r) = none →
      exec i { s with moves := rest, phase := r, cur := cur, sub := sub, ix := ix } = .next t → step s = .next (endStep t))
  ∧ (s.moves = .tick :: rest → dueFirst s none = none → step s = .next (endStep (tick { s with moves := rest })))
  ∧ (∀ m r, s.moves = m :: rest → askedRank s m = some r → r < s.phase → dueFirst s none = none → step s = made s .tick)
  ∧ (∀ m d, s.moves = m :: rest → (∀ r, askedRank s m = some r → s.phase ≤ r) → dueFirst s (askedRank s m) = some d →
      step s = made { s with phase := (moveRank s d).getD s.phase } d)

/-- R112 to R125, R127, R130, R131: words of the specification's encoding tables and of its programs, each with the
instruction it stands for. -/
def Obligations.WordsStandForTheirInstructions : Prop :=
  let f (a b d : BitVec 10) (g : BitVec 3) : Full :=
    { d := d, a := a, b := b, g := g, ng := false, fsel := false, dsel := 0, ty := .b32, rm := .rne, sat := false, ub := false,
      opx := 0 }
  decodeNat 0x80401000FFFFFFFE = .one (.addi { d := 1, a := 0, g := 0, imm := 0xFFFFFFFE })
  ∧ decodeNat 0x3000200001008040 = .one (.taskTake { f 0 4 8 0 with dsel := 1, ub := true })
  ∧ decodeNat 0x2B00581400000000 = .one (.fwait (f 20 0 22 0))
  ∧ decodeNat 0x0910000000000001 = .one (.dispatchPc { f 0 0 0 0 with opx := 1 })
  ∧ decodeNat 0x2800500A03000000 = .one (.copyIn (f 10 12 20 0))
  ∧ decodeNat 0x2880280200084000 = .one (.wload { f 2 0 10 1 with ty := .e4m3 })
  ∧ decodeNat 0x3C303C0300500000 = .one (.supResume (f 3 1 15 2))
  ∧ decodeNat 0x4080802842020090 = .pair (.pairedAddS32 ⟨.a, 4, 5, 0, false, false⟩) (.pairedFmulF32 ⟨.b, 8, 9, 0, false, false⟩)
  ∧ decodeNat 0xC200000000000000 = .bad .header

/-- R113 to R116, R120, R127, R128: every well-formed instruction of a word of its own decodes from its encoding to itself,
every field at every value, and so does every well-formed pair of halves; the encodings are 64-bit words. -/
def Obligations.DecodingUndoesEncoding : Prop :=
  (∀ i w, i.WellFormed → encode i = some w → w < 2 ^ 64 ∧ decodeNat w = .one i)
  ∧ ∀ a b w ca ha cb hb, halfOf a = some (ca, ha) → halfOf b = some (cb, hb) → ha.side = .a → hb.side = .b →
      pairWellFormed a b → encodePair a b = some w → w < 2 ^ 64 ∧ decodeNat w = .pair a b

/-- The memory keeps its canonical form through every step: addresses rise, and no byte listed is zero (log entry 1). The
form is the model's own. -/
def Obligations.EveryStepKeepsMemoryCanonical : Prop := ∀ s t, memOk s → step s = .next t → memOk t

/-- R398: after every step no completed halt keeps HALTR.GO, once the last write of the core's debug block is in force. -/
def Obligations.EveryStepSettlesHalts : Prop := ∀ s t, step s = .next t → haltsSettled t

/-- R366, R367, R388, R393, R396: what reset leaves: TIME 0, no launch and no team, queues at LOG2N 4 and not enabled, the
parameters at their reset values, the safe configuration, which is there because flash holds no block at reset (DESIGN CHOICE, log
entry 3); and both invariants, which are the model's own, hold. -/
def Obligations.ResetHoldsTheStatedValues : Prop :=
  let s := State.reset
  let p := s.hub.plinth
  memOk s ∧ haltsSettled s ∧ s.time = 0 ∧ s.launches = [] ∧ s.ops = [] ∧ s.cores.length = 256
  ∧ (∀ k ∈ s.cores, k.team = none ∧ k.threads = [] ∧ k.issue = none ∧ k.dbg.haltr = 0 ∧ k.dbgNow.haltr = 0)
  ∧ (∀ q, queueAt s q = { base := 0, log2n := 4, en := false, err := false, errAt := none, tail := 0, head := 0, done := 0, next := none,
                          cwait := none, blocked := none })
  ∧ s.hub.nlatch = 0 ∧ s.hub.timeoff = 0 ∧ s.hub.locked = false ∧ s.hub.fagr = 0
  ∧ p.dlmax = 12000000 ∧ p.escl = 16 ∧ p.ghi = 16384 ∧ p.gdist = 1 ∧ p.lmin = 0 ∧ p.awin = 0 ∧ p.predK = 4 ∧ p.gating = 0
  ∧ p.slice = 0 ∧ p.powerCap = 3200 ∧ s.hub.cfg.device = 0 ∧ s.hub.cfg.ceiling = 7 ∧ s.hub.cfg.safe = true

/-- R9, R81: a byte reads as it was last written; a write leaves every other byte and the canonical form; n bytes written
read back as the value they hold, the least significant first. That a byte not listed reads as zero, and the canonical form,
are the model's choice (log entry 1). -/
def Obligations.MemoryReadsWhatWasStored : Prop := ∀ (m : Mem), memWf m = true →
  (∀ a b v, memGet (memPut m a v) b = if b = a then v else memGet m b) ∧ (∀ a v, memWf (memPut m a v) = true)
  ∧ (∀ lo hi a, memGet (memClear m lo hi) a = if lo ≤ a ∧ a < hi then 0 else memGet m a)
  ∧ (∀ (s : State) a n v, s.mem = m →
      memRead (s.store a (leBytes n v)).mem a n = v % 2 ^ (8 * n)
      ∧ (∀ b, b < a ∨ a + n ≤ b → memGet (s.store a (leBytes n v)).mem b = memGet m b)
      ∧ memOk (s.store a (leBytes n v)))
end

