-- ==== Sys2Proof/Laws/State.lean ====
section
/-! SUPPORT. One lemma per field per update: what each named update of the state and of a thread leaves as it was. -/

-- The theorems are elaborated one after another: many at once, each waiting for the kernel, take too much memory.
set_option Elab.async false

namespace Sys2Proof.Machine

/-! ### withCore -/

@[simp] theorem State.withCore_time (s : State) (c : Nat) (k : Core) : (s.withCore c k).time = s.time := rfl
@[simp] theorem State.withCore_cycle (s : State) (c : Nat) (k : Core) : (s.withCore c k).cycle = s.cycle := rfl
@[simp] theorem State.withCore_frac (s : State) (c : Nat) (k : Core) : (s.withCore c k).frac = s.frac := rfl
@[simp] theorem State.withCore_mem (s : State) (c : Nat) (k : Core) : (s.withCore c k).mem = s.mem := rfl
@[simp] theorem State.withCore_hist (s : State) (c : Nat) (k : Core) : (s.withCore c k).hist = s.hist := rfl
@[simp] theorem State.withCore_ops (s : State) (c : Nat) (k : Core) : (s.withCore c k).ops = s.ops := rfl
@[simp] theorem State.withCore_nextOp (s : State) (c : Nat) (k : Core) : (s.withCore c k).nextOp = s.nextOp := rfl
@[simp] theorem State.withCore_posted (s : State) (c : Nat) (k : Core) : (s.withCore c k).posted = s.posted := rfl
@[simp] theorem State.withCore_nextPosted (s : State) (c : Nat) (k : Core) : (s.withCore c k).nextPosted = s.nextPosted := rfl
@[simp] theorem State.withCore_barPost (s : State) (c : Nat) (k : Core) : (s.withCore c k).barPost = s.barPost := rfl
@[simp] theorem State.withCore_colls (s : State) (c : Nat) (k : Core) : (s.withCore c k).colls = s.colls := rfl
@[simp] theorem State.withCore_joins (s : State) (c : Nat) (k : Core) : (s.withCore c k).joins = s.joins := rfl
@[simp] theorem State.withCore_skips (s : State) (c : Nat) (k : Core) : (s.withCore c k).skips = s.skips := rfl
@[simp] theorem State.withCore_free (s : State) (c : Nat) (k : Core) : (s.withCore c k).free = s.free := rfl
@[simp] theorem State.withCore_gran (s : State) (c : Nat) (k : Core) : (s.withCore c k).gran = s.gran := rfl
@[simp] theorem State.withCore_launches (s : State) (c : Nat) (k : Core) : (s.withCore c k).launches = s.launches := rfl
@[simp] theorem State.withCore_hub (s : State) (c : Nat) (k : Core) : (s.withCore c k).hub = s.hub := rfl
@[simp] theorem State.withCore_svc (s : State) (c : Nat) (k : Core) : (s.withCore c k).svc = s.svc := rfl
@[simp] theorem State.withCore_cur (s : State) (c : Nat) (k : Core) : (s.withCore c k).cur = s.cur := rfl
@[simp] theorem State.withCore_sub (s : State) (c : Nat) (k : Core) : (s.withCore c k).sub = s.sub := rfl
@[simp] theorem State.withCore_ix (s : State) (c : Nat) (k : Core) : (s.withCore c k).ix = s.ix := rfl
@[simp] theorem State.withCore_turn (s : State) (c : Nat) (k : Core) : (s.withCore c k).turn = s.turn := rfl
@[simp] theorem State.withCore_phase (s : State) (c : Nat) (k : Core) : (s.withCore c k).phase = s.phase := rfl
@[simp] theorem State.withCore_moves (s : State) (c : Nat) (k : Core) : (s.withCore c k).moves = s.moves := rfl
@[simp] theorem State.withCore_freeCtr (s : State) (c : Nat) (k : Core) : (s.withCore c k).freeCtr = s.freeCtr := rfl

/-! ### modCore -/

@[simp] theorem State.modCore_time (s : State) (c : Nat) (f : Core → Core) : (s.modCore c f).time = s.time := rfl
@[simp] theorem State.modCore_cycle (s : State) (c : Nat) (f : Core → Core) : (s.modCore c f).cycle = s.cycle := rfl
@[simp] theorem State.modCore_frac (s : State) (c : Nat) (f : Core → Core) : (s.modCore c f).frac = s.frac := rfl
@[simp] theorem State.modCore_mem (s : State) (c : Nat) (f : Core → Core) : (s.modCore c f).mem = s.mem := rfl
@[simp] theorem State.modCore_hist (s : State) (c : Nat) (f : Core → Core) : (s.modCore c f).hist = s.hist := rfl
@[simp] theorem State.modCore_ops (s : State) (c : Nat) (f : Core → Core) : (s.modCore c f).ops = s.ops := rfl
@[simp] theorem State.modCore_nextOp (s : State) (c : Nat) (f : Core → Core) : (s.modCore c f).nextOp = s.nextOp := rfl
@[simp] theorem State.modCore_posted (s : State) (c : Nat) (f : Core → Core) : (s.modCore c f).posted = s.posted := rfl
@[simp] theorem State.modCore_nextPosted (s : State) (c : Nat) (f : Core → Core) : (s.modCore c f).nextPosted = s.nextPosted := rfl
@[simp] theorem State.modCore_barPost (s : State) (c : Nat) (f : Core → Core) : (s.modCore c f).barPost = s.barPost := rfl
@[simp] theorem State.modCore_colls (s : State) (c : Nat) (f : Core → Core) : (s.modCore c f).colls = s.colls := rfl
@[simp] theorem State.modCore_joins (s : State) (c : Nat) (f : Core → Core) : (s.modCore c f).joins = s.joins := rfl
@[simp] theorem State.modCore_skips (s : State) (c : Nat) (f : Core → Core) : (s.modCore c f).skips = s.skips := rfl
@[simp] theorem State.modCore_free (s : State) (c : Nat) (f : Core → Core) : (s.modCore c f).free = s.free := rfl
@[simp] theorem State.modCore_gran (s : State) (c : Nat) (f : Core → Core) : (s.modCore c f).gran = s.gran := rfl
@[simp] theorem State.modCore_launches (s : State) (c : Nat) (f : Core → Core) : (s.modCore c f).launches = s.launches := rfl
@[simp] theorem State.modCore_hub (s : State) (c : Nat) (f : Core → Core) : (s.modCore c f).hub = s.hub := rfl
@[simp] theorem State.modCore_svc (s : State) (c : Nat) (f : Core → Core) : (s.modCore c f).svc = s.svc := rfl
@[simp] theorem State.modCore_cur (s : State) (c : Nat) (f : Core → Core) : (s.modCore c f).cur = s.cur := rfl
@[simp] theorem State.modCore_sub (s : State) (c : Nat) (f : Core → Core) : (s.modCore c f).sub = s.sub := rfl
@[simp] theorem State.modCore_ix (s : State) (c : Nat) (f : Core → Core) : (s.modCore c f).ix = s.ix := rfl
@[simp] theorem State.modCore_turn (s : State) (c : Nat) (f : Core → Core) : (s.modCore c f).turn = s.turn := rfl
@[simp] theorem State.modCore_phase (s : State) (c : Nat) (f : Core → Core) : (s.modCore c f).phase = s.phase := rfl
@[simp] theorem State.modCore_moves (s : State) (c : Nat) (f : Core → Core) : (s.modCore c f).moves = s.moves := rfl
@[simp] theorem State.modCore_freeCtr (s : State) (c : Nat) (f : Core → Core) : (s.modCore c f).freeCtr = s.freeCtr := rfl

/-! ### withThread -/

@[simp] theorem State.withThread_time (s : State) (c : Nat) (t : Thread) : (s.withThread c t).time = s.time := rfl
@[simp] theorem State.withThread_cycle (s : State) (c : Nat) (t : Thread) : (s.withThread c t).cycle = s.cycle := rfl
@[simp] theorem State.withThread_frac (s : State) (c : Nat) (t : Thread) : (s.withThread c t).frac = s.frac := rfl
@[simp] theorem State.withThread_mem (s : State) (c : Nat) (t : Thread) : (s.withThread c t).mem = s.mem := rfl
@[simp] theorem State.withThread_hist (s : State) (c : Nat) (t : Thread) : (s.withThread c t).hist = s.hist := rfl
@[simp] theorem State.withThread_ops (s : State) (c : Nat) (t : Thread) : (s.withThread c t).ops = s.ops := rfl
@[simp] theorem State.withThread_nextOp (s : State) (c : Nat) (t : Thread) : (s.withThread c t).nextOp = s.nextOp := rfl
@[simp] theorem State.withThread_posted (s : State) (c : Nat) (t : Thread) : (s.withThread c t).posted = s.posted := rfl
@[simp] theorem State.withThread_nextPosted (s : State) (c : Nat) (t : Thread) : (s.withThread c t).nextPosted = s.nextPosted := rfl
@[simp] theorem State.withThread_barPost (s : State) (c : Nat) (t : Thread) : (s.withThread c t).barPost = s.barPost := rfl
@[simp] theorem State.withThread_colls (s : State) (c : Nat) (t : Thread) : (s.withThread c t).colls = s.colls := rfl
@[simp] theorem State.withThread_joins (s : State) (c : Nat) (t : Thread) : (s.withThread c t).joins = s.joins := rfl
@[simp] theorem State.withThread_skips (s : State) (c : Nat) (t : Thread) : (s.withThread c t).skips = s.skips := rfl
@[simp] theorem State.withThread_free (s : State) (c : Nat) (t : Thread) : (s.withThread c t).free = s.free := rfl
@[simp] theorem State.withThread_gran (s : State) (c : Nat) (t : Thread) : (s.withThread c t).gran = s.gran := rfl
@[simp] theorem State.withThread_launches (s : State) (c : Nat) (t : Thread) : (s.withThread c t).launches = s.launches := rfl
@[simp] theorem State.withThread_hub (s : State) (c : Nat) (t : Thread) : (s.withThread c t).hub = s.hub := rfl
@[simp] theorem State.withThread_svc (s : State) (c : Nat) (t : Thread) : (s.withThread c t).svc = s.svc := rfl
@[simp] theorem State.withThread_cur (s : State) (c : Nat) (t : Thread) : (s.withThread c t).cur = s.cur := rfl
@[simp] theorem State.withThread_sub (s : State) (c : Nat) (t : Thread) : (s.withThread c t).sub = s.sub := rfl
@[simp] theorem State.withThread_ix (s : State) (c : Nat) (t : Thread) : (s.withThread c t).ix = s.ix := rfl
@[simp] theorem State.withThread_turn (s : State) (c : Nat) (t : Thread) : (s.withThread c t).turn = s.turn := rfl
@[simp] theorem State.withThread_phase (s : State) (c : Nat) (t : Thread) : (s.withThread c t).phase = s.phase := rfl
@[simp] theorem State.withThread_moves (s : State) (c : Nat) (t : Thread) : (s.withThread c t).moves = s.moves := rfl
@[simp] theorem State.withThread_freeCtr (s : State) (c : Nat) (t : Thread) : (s.withThread c t).freeCtr = s.freeCtr := rfl

/-! ### modThread -/

@[simp] theorem State.modThread_time (s : State) (c sl : Nat) (f : Thread → Thread) : (s.modThread c sl f).time = s.time := rfl
@[simp] theorem State.modThread_cycle (s : State) (c sl : Nat) (f : Thread → Thread) : (s.modThread c sl f).cycle = s.cycle := rfl
@[simp] theorem State.modThread_frac (s : State) (c sl : Nat) (f : Thread → Thread) : (s.modThread c sl f).frac = s.frac := rfl
@[simp] theorem State.modThread_mem (s : State) (c sl : Nat) (f : Thread → Thread) : (s.modThread c sl f).mem = s.mem := rfl
@[simp] theorem State.modThread_hist (s : State) (c sl : Nat) (f : Thread → Thread) : (s.modThread c sl f).hist = s.hist := rfl
@[simp] theorem State.modThread_ops (s : State) (c sl : Nat) (f : Thread → Thread) : (s.modThread c sl f).ops = s.ops := rfl
@[simp] theorem State.modThread_nextOp (s : State) (c sl : Nat) (f : Thread → Thread) : (s.modThread c sl f).nextOp = s.nextOp := rfl
@[simp] theorem State.modThread_posted (s : State) (c sl : Nat) (f : Thread → Thread) : (s.modThread c sl f).posted = s.posted := rfl
@[simp] theorem State.modThread_nextPosted (s : State) (c sl : Nat) (f : Thread → Thread) : (s.modThread c sl f).nextPosted = s.nextPosted := rfl
@[simp] theorem State.modThread_barPost (s : State) (c sl : Nat) (f : Thread → Thread) : (s.modThread c sl f).barPost = s.barPost := rfl
@[simp] theorem State.modThread_colls (s : State) (c sl : Nat) (f : Thread → Thread) : (s.modThread c sl f).colls = s.colls := rfl
@[simp] theorem State.modThread_joins (s : State) (c sl : Nat) (f : Thread → Thread) : (s.modThread c sl f).joins = s.joins := rfl
@[simp] theorem State.modThread_skips (s : State) (c sl : Nat) (f : Thread → Thread) : (s.modThread c sl f).skips = s.skips := rfl
@[simp] theorem State.modThread_free (s : State) (c sl : Nat) (f : Thread → Thread) : (s.modThread c sl f).free = s.free := rfl
@[simp] theorem State.modThread_gran (s : State) (c sl : Nat) (f : Thread → Thread) : (s.modThread c sl f).gran = s.gran := rfl
@[simp] theorem State.modThread_launches (s : State) (c sl : Nat) (f : Thread → Thread) : (s.modThread c sl f).launches = s.launches := rfl
@[simp] theorem State.modThread_hub (s : State) (c sl : Nat) (f : Thread → Thread) : (s.modThread c sl f).hub = s.hub := rfl
@[simp] theorem State.modThread_svc (s : State) (c sl : Nat) (f : Thread → Thread) : (s.modThread c sl f).svc = s.svc := rfl
@[simp] theorem State.modThread_cur (s : State) (c sl : Nat) (f : Thread → Thread) : (s.modThread c sl f).cur = s.cur := rfl
@[simp] theorem State.modThread_sub (s : State) (c sl : Nat) (f : Thread → Thread) : (s.modThread c sl f).sub = s.sub := rfl
@[simp] theorem State.modThread_ix (s : State) (c sl : Nat) (f : Thread → Thread) : (s.modThread c sl f).ix = s.ix := rfl
@[simp] theorem State.modThread_turn (s : State) (c sl : Nat) (f : Thread → Thread) : (s.modThread c sl f).turn = s.turn := rfl
@[simp] theorem State.modThread_phase (s : State) (c sl : Nat) (f : Thread → Thread) : (s.modThread c sl f).phase = s.phase := rfl
@[simp] theorem State.modThread_moves (s : State) (c sl : Nat) (f : Thread → Thread) : (s.modThread c sl f).moves = s.moves := rfl
@[simp] theorem State.modThread_freeCtr (s : State) (c sl : Nat) (f : Thread → Thread) : (s.modThread c sl f).freeCtr = s.freeCtr := rfl

/-! ### settle -/

@[simp] theorem State.settle_time (s : State) (c : Nat) : (s.settle c).time = s.time := rfl
@[simp] theorem State.settle_cycle (s : State) (c : Nat) : (s.settle c).cycle = s.cycle := rfl
@[simp] theorem State.settle_frac (s : State) (c : Nat) : (s.settle c).frac = s.frac := rfl
@[simp] theorem State.settle_mem (s : State) (c : Nat) : (s.settle c).mem = s.mem := rfl
@[simp] theorem State.settle_hist (s : State) (c : Nat) : (s.settle c).hist = s.hist := rfl
@[simp] theorem State.settle_ops (s : State) (c : Nat) : (s.settle c).ops = s.ops := rfl
@[simp] theorem State.settle_nextOp (s : State) (c : Nat) : (s.settle c).nextOp = s.nextOp := rfl
@[simp] theorem State.settle_posted (s : State) (c : Nat) : (s.settle c).posted = s.posted := rfl
@[simp] theorem State.settle_nextPosted (s : State) (c : Nat) : (s.settle c).nextPosted = s.nextPosted := rfl
@[simp] theorem State.settle_barPost (s : State) (c : Nat) : (s.settle c).barPost = s.barPost := rfl
@[simp] theorem State.settle_colls (s : State) (c : Nat) : (s.settle c).colls = s.colls := rfl
@[simp] theorem State.settle_joins (s : State) (c : Nat) : (s.settle c).joins = s.joins := rfl
@[simp] theorem State.settle_skips (s : State) (c : Nat) : (s.settle c).skips = s.skips := rfl
@[simp] theorem State.settle_free (s : State) (c : Nat) : (s.settle c).free = s.free := rfl
@[simp] theorem State.settle_gran (s : State) (c : Nat) : (s.settle c).gran = s.gran := rfl
@[simp] theorem State.settle_launches (s : State) (c : Nat) : (s.settle c).launches = s.launches := rfl
@[simp] theorem State.settle_hub (s : State) (c : Nat) : (s.settle c).hub = s.hub := rfl
@[simp] theorem State.settle_svc (s : State) (c : Nat) : (s.settle c).svc = s.svc := rfl
@[simp] theorem State.settle_cur (s : State) (c : Nat) : (s.settle c).cur = s.cur := rfl
@[simp] theorem State.settle_sub (s : State) (c : Nat) : (s.settle c).sub = s.sub := rfl
@[simp] theorem State.settle_ix (s : State) (c : Nat) : (s.settle c).ix = s.ix := rfl
@[simp] theorem State.settle_turn (s : State) (c : Nat) : (s.settle c).turn = s.turn := rfl
@[simp] theorem State.settle_phase (s : State) (c : Nat) : (s.settle c).phase = s.phase := rfl
@[simp] theorem State.settle_moves (s : State) (c : Nat) : (s.settle c).moves = s.moves := rfl
@[simp] theorem State.settle_freeCtr (s : State) (c : Nat) : (s.settle c).freeCtr = s.freeCtr := rfl

/-! ### store -/

@[simp] theorem State.store_time (s : State) (a : Nat) (bs : List Byte) : (s.store a bs).time = s.time := rfl
@[simp] theorem State.store_cycle (s : State) (a : Nat) (bs : List Byte) : (s.store a bs).cycle = s.cycle := rfl
@[simp] theorem State.store_frac (s : State) (a : Nat) (bs : List Byte) : (s.store a bs).frac = s.frac := rfl
@[simp] theorem State.store_cores (s : State) (a : Nat) (bs : List Byte) : (s.store a bs).cores = s.cores := rfl
@[simp] theorem State.store_ops (s : State) (a : Nat) (bs : List Byte) : (s.store a bs).ops = s.ops := rfl
@[simp] theorem State.store_nextOp (s : State) (a : Nat) (bs : List Byte) : (s.store a bs).nextOp = s.nextOp := rfl
@[simp] theorem State.store_posted (s : State) (a : Nat) (bs : List Byte) : (s.store a bs).posted = s.posted := rfl
@[simp] theorem State.store_nextPosted (s : State) (a : Nat) (bs : List Byte) : (s.store a bs).nextPosted = s.nextPosted := rfl
@[simp] theorem State.store_barPost (s : State) (a : Nat) (bs : List Byte) : (s.store a bs).barPost = s.barPost := rfl
@[simp] theorem State.store_colls (s : State) (a : Nat) (bs : List Byte) : (s.store a bs).colls = s.colls := rfl
@[simp] theorem State.store_joins (s : State) (a : Nat) (bs : List Byte) : (s.store a bs).joins = s.joins := rfl
@[simp] theorem State.store_skips (s : State) (a : Nat) (bs : List Byte) : (s.store a bs).skips = s.skips := rfl
@[simp] theorem State.store_free (s : State) (a : Nat) (bs : List Byte) : (s.store a bs).free = s.free := rfl
@[simp] theorem State.store_gran (s : State) (a : Nat) (bs : List Byte) : (s.store a bs).gran = s.gran := rfl
@[simp] theorem State.store_launches (s : State) (a : Nat) (bs : List Byte) : (s.store a bs).launches = s.launches := rfl
@[simp] theorem State.store_hub (s : State) (a : Nat) (bs : List Byte) : (s.store a bs).hub = s.hub := rfl
@[simp] theorem State.store_svc (s : State) (a : Nat) (bs : List Byte) : (s.store a bs).svc = s.svc := rfl
@[simp] theorem State.store_cur (s : State) (a : Nat) (bs : List Byte) : (s.store a bs).cur = s.cur := rfl
@[simp] theorem State.store_sub (s : State) (a : Nat) (bs : List Byte) : (s.store a bs).sub = s.sub := rfl
@[simp] theorem State.store_ix (s : State) (a : Nat) (bs : List Byte) : (s.store a bs).ix = s.ix := rfl
@[simp] theorem State.store_turn (s : State) (a : Nat) (bs : List Byte) : (s.store a bs).turn = s.turn := rfl
@[simp] theorem State.store_phase (s : State) (a : Nat) (bs : List Byte) : (s.store a bs).phase = s.phase := rfl
@[simp] theorem State.store_moves (s : State) (a : Nat) (bs : List Byte) : (s.store a bs).moves = s.moves := rfl
@[simp] theorem State.store_freeCtr (s : State) (a : Nat) (bs : List Byte) : (s.store a bs).freeCtr = s.freeCtr := rfl

/-! ### clearRange -/

@[simp] theorem State.clearRange_time (s : State) (lo hi : Nat) : (s.clearRange lo hi).time = s.time := rfl
@[simp] theorem State.clearRange_cycle (s : State) (lo hi : Nat) : (s.clearRange lo hi).cycle = s.cycle := rfl
@[simp] theorem State.clearRange_frac (s : State) (lo hi : Nat) : (s.clearRange lo hi).frac = s.frac := rfl
@[simp] theorem State.clearRange_cores (s : State) (lo hi : Nat) : (s.clearRange lo hi).cores = s.cores := rfl
@[simp] theorem State.clearRange_ops (s : State) (lo hi : Nat) : (s.clearRange lo hi).ops = s.ops := rfl
@[simp] theorem State.clearRange_nextOp (s : State) (lo hi : Nat) : (s.clearRange lo hi).nextOp = s.nextOp := rfl
@[simp] theorem State.clearRange_posted (s : State) (lo hi : Nat) : (s.clearRange lo hi).posted = s.posted := rfl
@[simp] theorem State.clearRange_nextPosted (s : State) (lo hi : Nat) : (s.clearRange lo hi).nextPosted = s.nextPosted := rfl
@[simp] theorem State.clearRange_barPost (s : State) (lo hi : Nat) : (s.clearRange lo hi).barPost = s.barPost := rfl
@[simp] theorem State.clearRange_colls (s : State) (lo hi : Nat) : (s.clearRange lo hi).colls = s.colls := rfl
@[simp] theorem State.clearRange_joins (s : State) (lo hi : Nat) : (s.clearRange lo hi).joins = s.joins := rfl
@[simp] theorem State.clearRange_skips (s : State) (lo hi : Nat) : (s.clearRange lo hi).skips = s.skips := rfl
@[simp] theorem State.clearRange_free (s : State) (lo hi : Nat) : (s.clearRange lo hi).free = s.free := rfl
@[simp] theorem State.clearRange_gran (s : State) (lo hi : Nat) : (s.clearRange lo hi).gran = s.gran := rfl
@[simp] theorem State.clearRange_launches (s : State) (lo hi : Nat) : (s.clearRange lo hi).launches = s.launches := rfl
@[simp] theorem State.clearRange_hub (s : State) (lo hi : Nat) : (s.clearRange lo hi).hub = s.hub := rfl
@[simp] theorem State.clearRange_svc (s : State) (lo hi : Nat) : (s.clearRange lo hi).svc = s.svc := rfl
@[simp] theorem State.clearRange_cur (s : State) (lo hi : Nat) : (s.clearRange lo hi).cur = s.cur := rfl
@[simp] theorem State.clearRange_sub (s : State) (lo hi : Nat) : (s.clearRange lo hi).sub = s.sub := rfl
@[simp] theorem State.clearRange_ix (s : State) (lo hi : Nat) : (s.clearRange lo hi).ix = s.ix := rfl
@[simp] theorem State.clearRange_turn (s : State) (lo hi : Nat) : (s.clearRange lo hi).turn = s.turn := rfl
@[simp] theorem State.clearRange_phase (s : State) (lo hi : Nat) : (s.clearRange lo hi).phase = s.phase := rfl
@[simp] theorem State.clearRange_moves (s : State) (lo hi : Nat) : (s.clearRange lo hi).moves = s.moves := rfl
@[simp] theorem State.clearRange_freeCtr (s : State) (lo hi : Nat) : (s.clearRange lo hi).freeCtr = s.freeCtr := rfl

/-! ### modEntry -/

@[simp] theorem State.modEntry_time (s : State) (d n : Nat) (f : Entry → Entry) : (s.modEntry d n f).time = s.time := rfl
@[simp] theorem State.modEntry_cycle (s : State) (d n : Nat) (f : Entry → Entry) : (s.modEntry d n f).cycle = s.cycle := rfl
@[simp] theorem State.modEntry_frac (s : State) (d n : Nat) (f : Entry → Entry) : (s.modEntry d n f).frac = s.frac := rfl
@[simp] theorem State.modEntry_mem (s : State) (d n : Nat) (f : Entry → Entry) : (s.modEntry d n f).mem = s.mem := rfl
@[simp] theorem State.modEntry_hist (s : State) (d n : Nat) (f : Entry → Entry) : (s.modEntry d n f).hist = s.hist := rfl
@[simp] theorem State.modEntry_cores (s : State) (d n : Nat) (f : Entry → Entry) : (s.modEntry d n f).cores = s.cores := rfl
@[simp] theorem State.modEntry_ops (s : State) (d n : Nat) (f : Entry → Entry) : (s.modEntry d n f).ops = s.ops := rfl
@[simp] theorem State.modEntry_nextOp (s : State) (d n : Nat) (f : Entry → Entry) : (s.modEntry d n f).nextOp = s.nextOp := rfl
@[simp] theorem State.modEntry_posted (s : State) (d n : Nat) (f : Entry → Entry) : (s.modEntry d n f).posted = s.posted := rfl
@[simp] theorem State.modEntry_nextPosted (s : State) (d n : Nat) (f : Entry → Entry) : (s.modEntry d n f).nextPosted = s.nextPosted := rfl
@[simp] theorem State.modEntry_barPost (s : State) (d n : Nat) (f : Entry → Entry) : (s.modEntry d n f).barPost = s.barPost := rfl
@[simp] theorem State.modEntry_colls (s : State) (d n : Nat) (f : Entry → Entry) : (s.modEntry d n f).colls = s.colls := rfl
@[simp] theorem State.modEntry_joins (s : State) (d n : Nat) (f : Entry → Entry) : (s.modEntry d n f).joins = s.joins := rfl
@[simp] theorem State.modEntry_skips (s : State) (d n : Nat) (f : Entry → Entry) : (s.modEntry d n f).skips = s.skips := rfl
@[simp] theorem State.modEntry_free (s : State) (d n : Nat) (f : Entry → Entry) : (s.modEntry d n f).free = s.free := rfl
@[simp] theorem State.modEntry_launches (s : State) (d n : Nat) (f : Entry → Entry) : (s.modEntry d n f).launches = s.launches := rfl
@[simp] theorem State.modEntry_hub (s : State) (d n : Nat) (f : Entry → Entry) : (s.modEntry d n f).hub = s.hub := rfl
@[simp] theorem State.modEntry_svc (s : State) (d n : Nat) (f : Entry → Entry) : (s.modEntry d n f).svc = s.svc := rfl
@[simp] theorem State.modEntry_cur (s : State) (d n : Nat) (f : Entry → Entry) : (s.modEntry d n f).cur = s.cur := rfl
@[simp] theorem State.modEntry_sub (s : State) (d n : Nat) (f : Entry → Entry) : (s.modEntry d n f).sub = s.sub := rfl
@[simp] theorem State.modEntry_ix (s : State) (d n : Nat) (f : Entry → Entry) : (s.modEntry d n f).ix = s.ix := rfl
@[simp] theorem State.modEntry_turn (s : State) (d n : Nat) (f : Entry → Entry) : (s.modEntry d n f).turn = s.turn := rfl
@[simp] theorem State.modEntry_phase (s : State) (d n : Nat) (f : Entry → Entry) : (s.modEntry d n f).phase = s.phase := rfl
@[simp] theorem State.modEntry_moves (s : State) (d n : Nat) (f : Entry → Entry) : (s.modEntry d n f).moves = s.moves := rfl
@[simp] theorem State.modEntry_freeCtr (s : State) (d n : Nat) (f : Entry → Entry) : (s.modEntry d n f).freeCtr = s.freeCtr := rfl

/-! ### setMaq -/

@[simp] theorem State.setMaq_time (s : State) (m : Nat) (x : MaqSlot) : (s.setMaq m x).time = s.time := rfl
@[simp] theorem State.setMaq_cycle (s : State) (m : Nat) (x : MaqSlot) : (s.setMaq m x).cycle = s.cycle := rfl
@[simp] theorem State.setMaq_frac (s : State) (m : Nat) (x : MaqSlot) : (s.setMaq m x).frac = s.frac := rfl
@[simp] theorem State.setMaq_mem (s : State) (m : Nat) (x : MaqSlot) : (s.setMaq m x).mem = s.mem := rfl
@[simp] theorem State.setMaq_hist (s : State) (m : Nat) (x : MaqSlot) : (s.setMaq m x).hist = s.hist := rfl
@[simp] theorem State.setMaq_cores (s : State) (m : Nat) (x : MaqSlot) : (s.setMaq m x).cores = s.cores := rfl
@[simp] theorem State.setMaq_ops (s : State) (m : Nat) (x : MaqSlot) : (s.setMaq m x).ops = s.ops := rfl
@[simp] theorem State.setMaq_nextOp (s : State) (m : Nat) (x : MaqSlot) : (s.setMaq m x).nextOp = s.nextOp := rfl
@[simp] theorem State.setMaq_posted (s : State) (m : Nat) (x : MaqSlot) : (s.setMaq m x).posted = s.posted := rfl
@[simp] theorem State.setMaq_nextPosted (s : State) (m : Nat) (x : MaqSlot) : (s.setMaq m x).nextPosted = s.nextPosted := rfl
@[simp] theorem State.setMaq_barPost (s : State) (m : Nat) (x : MaqSlot) : (s.setMaq m x).barPost = s.barPost := rfl
@[simp] theorem State.setMaq_colls (s : State) (m : Nat) (x : MaqSlot) : (s.setMaq m x).colls = s.colls := rfl
@[simp] theorem State.setMaq_joins (s : State) (m : Nat) (x : MaqSlot) : (s.setMaq m x).joins = s.joins := rfl
@[simp] theorem State.setMaq_skips (s : State) (m : Nat) (x : MaqSlot) : (s.setMaq m x).skips = s.skips := rfl
@[simp] theorem State.setMaq_free (s : State) (m : Nat) (x : MaqSlot) : (s.setMaq m x).free = s.free := rfl
@[simp] theorem State.setMaq_gran (s : State) (m : Nat) (x : MaqSlot) : (s.setMaq m x).gran = s.gran := rfl
@[simp] theorem State.setMaq_launches (s : State) (m : Nat) (x : MaqSlot) : (s.setMaq m x).launches = s.launches := rfl
@[simp] theorem State.setMaq_svc (s : State) (m : Nat) (x : MaqSlot) : (s.setMaq m x).svc = s.svc := rfl
@[simp] theorem State.setMaq_cur (s : State) (m : Nat) (x : MaqSlot) : (s.setMaq m x).cur = s.cur := rfl
@[simp] theorem State.setMaq_sub (s : State) (m : Nat) (x : MaqSlot) : (s.setMaq m x).sub = s.sub := rfl
@[simp] theorem State.setMaq_ix (s : State) (m : Nat) (x : MaqSlot) : (s.setMaq m x).ix = s.ix := rfl
@[simp] theorem State.setMaq_turn (s : State) (m : Nat) (x : MaqSlot) : (s.setMaq m x).turn = s.turn := rfl
@[simp] theorem State.setMaq_phase (s : State) (m : Nat) (x : MaqSlot) : (s.setMaq m x).phase = s.phase := rfl
@[simp] theorem State.setMaq_moves (s : State) (m : Nat) (x : MaqSlot) : (s.setMaq m x).moves = s.moves := rfl
@[simp] theorem State.setMaq_freeCtr (s : State) (m : Nat) (x : MaqSlot) : (s.setMaq m x).freeCtr = s.freeCtr := rfl

/-! ### setQueue -/

@[simp] theorem State.setQueue_time (s : State) (q : Nat) (x : CmdQueue) : (s.setQueue q x).time = s.time := rfl
@[simp] theorem State.setQueue_cycle (s : State) (q : Nat) (x : CmdQueue) : (s.setQueue q x).cycle = s.cycle := rfl
@[simp] theorem State.setQueue_frac (s : State) (q : Nat) (x : CmdQueue) : (s.setQueue q x).frac = s.frac := rfl
@[simp] theorem State.setQueue_mem (s : State) (q : Nat) (x : CmdQueue) : (s.setQueue q x).mem = s.mem := rfl
@[simp] theorem State.setQueue_hist (s : State) (q : Nat) (x : CmdQueue) : (s.setQueue q x).hist = s.hist := rfl
@[simp] theorem State.setQueue_cores (s : State) (q : Nat) (x : CmdQueue) : (s.setQueue q x).cores = s.cores := rfl
@[simp] theorem State.setQueue_ops (s : State) (q : Nat) (x : CmdQueue) : (s.setQueue q x).ops = s.ops := rfl
@[simp] theorem State.setQueue_nextOp (s : State) (q : Nat) (x : CmdQueue) : (s.setQueue q x).nextOp = s.nextOp := rfl
@[simp] theorem State.setQueue_posted (s : State) (q : Nat) (x : CmdQueue) : (s.setQueue q x).posted = s.posted := rfl
@[simp] theorem State.setQueue_nextPosted (s : State) (q : Nat) (x : CmdQueue) : (s.setQueue q x).nextPosted = s.nextPosted := rfl
@[simp] theorem State.setQueue_barPost (s : State) (q : Nat) (x : CmdQueue) : (s.setQueue q x).barPost = s.barPost := rfl
@[simp] theorem State.setQueue_colls (s : State) (q : Nat) (x : CmdQueue) : (s.setQueue q x).colls = s.colls := rfl
@[simp] theorem State.setQueue_joins (s : State) (q : Nat) (x : CmdQueue) : (s.setQueue q x).joins = s.joins := rfl
@[simp] theorem State.setQueue_skips (s : State) (q : Nat) (x : CmdQueue) : (s.setQueue q x).skips = s.skips := rfl
@[simp] theorem State.setQueue_free (s : State) (q : Nat) (x : CmdQueue) : (s.setQueue q x).free = s.free := rfl
@[simp] theorem State.setQueue_gran (s : State) (q : Nat) (x : CmdQueue) : (s.setQueue q x).gran = s.gran := rfl
@[simp] theorem State.setQueue_launches (s : State) (q : Nat) (x : CmdQueue) : (s.setQueue q x).launches = s.launches := rfl
@[simp] theorem State.setQueue_svc (s : State) (q : Nat) (x : CmdQueue) : (s.setQueue q x).svc = s.svc := rfl
@[simp] theorem State.setQueue_cur (s : State) (q : Nat) (x : CmdQueue) : (s.setQueue q x).cur = s.cur := rfl
@[simp] theorem State.setQueue_sub (s : State) (q : Nat) (x : CmdQueue) : (s.setQueue q x).sub = s.sub := rfl
@[simp] theorem State.setQueue_ix (s : State) (q : Nat) (x : CmdQueue) : (s.setQueue q x).ix = s.ix := rfl
@[simp] theorem State.setQueue_turn (s : State) (q : Nat) (x : CmdQueue) : (s.setQueue q x).turn = s.turn := rfl
@[simp] theorem State.setQueue_phase (s : State) (q : Nat) (x : CmdQueue) : (s.setQueue q x).phase = s.phase := rfl
@[simp] theorem State.setQueue_moves (s : State) (q : Nat) (x : CmdQueue) : (s.setQueue q x).moves = s.moves := rfl
@[simp] theorem State.setQueue_freeCtr (s : State) (q : Nat) (x : CmdQueue) : (s.setQueue q x).freeCtr = s.freeCtr := rfl

/-! ### modPacket -/

@[simp] theorem State.modPacket_time (s : State) (n : Nat) (f : Packet → Packet) : (s.modPacket n f).time = s.time := rfl
@[simp] theorem State.modPacket_cycle (s : State) (n : Nat) (f : Packet → Packet) : (s.modPacket n f).cycle = s.cycle := rfl
@[simp] theorem State.modPacket_frac (s : State) (n : Nat) (f : Packet → Packet) : (s.modPacket n f).frac = s.frac := rfl
@[simp] theorem State.modPacket_mem (s : State) (n : Nat) (f : Packet → Packet) : (s.modPacket n f).mem = s.mem := rfl
@[simp] theorem State.modPacket_hist (s : State) (n : Nat) (f : Packet → Packet) : (s.modPacket n f).hist = s.hist := rfl
@[simp] theorem State.modPacket_cores (s : State) (n : Nat) (f : Packet → Packet) : (s.modPacket n f).cores = s.cores := rfl
@[simp] theorem State.modPacket_ops (s : State) (n : Nat) (f : Packet → Packet) : (s.modPacket n f).ops = s.ops := rfl
@[simp] theorem State.modPacket_nextOp (s : State) (n : Nat) (f : Packet → Packet) : (s.modPacket n f).nextOp = s.nextOp := rfl
@[simp] theorem State.modPacket_posted (s : State) (n : Nat) (f : Packet → Packet) : (s.modPacket n f).posted = s.posted := rfl
@[simp] theorem State.modPacket_nextPosted (s : State) (n : Nat) (f : Packet → Packet) : (s.modPacket n f).nextPosted = s.nextPosted := rfl
@[simp] theorem State.modPacket_barPost (s : State) (n : Nat) (f : Packet → Packet) : (s.modPacket n f).barPost = s.barPost := rfl
@[simp] theorem State.modPacket_colls (s : State) (n : Nat) (f : Packet → Packet) : (s.modPacket n f).colls = s.colls := rfl
@[simp] theorem State.modPacket_joins (s : State) (n : Nat) (f : Packet → Packet) : (s.modPacket n f).joins = s.joins := rfl
@[simp] theorem State.modPacket_skips (s : State) (n : Nat) (f : Packet → Packet) : (s.modPacket n f).skips = s.skips := rfl
@[simp] theorem State.modPacket_free (s : State) (n : Nat) (f : Packet → Packet) : (s.modPacket n f).free = s.free := rfl
@[simp] theorem State.modPacket_gran (s : State) (n : Nat) (f : Packet → Packet) : (s.modPacket n f).gran = s.gran := rfl
@[simp] theorem State.modPacket_launches (s : State) (n : Nat) (f : Packet → Packet) : (s.modPacket n f).launches = s.launches := rfl
@[simp] theorem State.modPacket_svc (s : State) (n : Nat) (f : Packet → Packet) : (s.modPacket n f).svc = s.svc := rfl
@[simp] theorem State.modPacket_cur (s : State) (n : Nat) (f : Packet → Packet) : (s.modPacket n f).cur = s.cur := rfl
@[simp] theorem State.modPacket_sub (s : State) (n : Nat) (f : Packet → Packet) : (s.modPacket n f).sub = s.sub := rfl
@[simp] theorem State.modPacket_ix (s : State) (n : Nat) (f : Packet → Packet) : (s.modPacket n f).ix = s.ix := rfl
@[simp] theorem State.modPacket_turn (s : State) (n : Nat) (f : Packet → Packet) : (s.modPacket n f).turn = s.turn := rfl
@[simp] theorem State.modPacket_phase (s : State) (n : Nat) (f : Packet → Packet) : (s.modPacket n f).phase = s.phase := rfl
@[simp] theorem State.modPacket_moves (s : State) (n : Nat) (f : Packet → Packet) : (s.modPacket n f).moves = s.moves := rfl
@[simp] theorem State.modPacket_freeCtr (s : State) (n : Nat) (f : Packet → Packet) : (s.modPacket n f).freeCtr = s.freeCtr := rfl

/-! ### notify -/

@[simp] theorem State.notify_time (s : State) (v : Quad) : (s.notify v).time = s.time := rfl
@[simp] theorem State.notify_cycle (s : State) (v : Quad) : (s.notify v).cycle = s.cycle := rfl
@[simp] theorem State.notify_frac (s : State) (v : Quad) : (s.notify v).frac = s.frac := rfl
@[simp] theorem State.notify_mem (s : State) (v : Quad) : (s.notify v).mem = s.mem := rfl
@[simp] theorem State.notify_hist (s : State) (v : Quad) : (s.notify v).hist = s.hist := rfl
@[simp] theorem State.notify_cores (s : State) (v : Quad) : (s.notify v).cores = s.cores := rfl
@[simp] theorem State.notify_ops (s : State) (v : Quad) : (s.notify v).ops = s.ops := rfl
@[simp] theorem State.notify_nextOp (s : State) (v : Quad) : (s.notify v).nextOp = s.nextOp := rfl
@[simp] theorem State.notify_posted (s : State) (v : Quad) : (s.notify v).posted = s.posted := rfl
@[simp] theorem State.notify_nextPosted (s : State) (v : Quad) : (s.notify v).nextPosted = s.nextPosted := rfl
@[simp] theorem State.notify_barPost (s : State) (v : Quad) : (s.notify v).barPost = s.barPost := rfl
@[simp] theorem State.notify_colls (s : State) (v : Quad) : (s.notify v).colls = s.colls := rfl
@[simp] theorem State.notify_joins (s : State) (v : Quad) : (s.notify v).joins = s.joins := rfl
@[simp] theorem State.notify_skips (s : State) (v : Quad) : (s.notify v).skips = s.skips := rfl
@[simp] theorem State.notify_free (s : State) (v : Quad) : (s.notify v).free = s.free := rfl
@[simp] theorem State.notify_gran (s : State) (v : Quad) : (s.notify v).gran = s.gran := rfl
@[simp] theorem State.notify_launches (s : State) (v : Quad) : (s.notify v).launches = s.launches := rfl
@[simp] theorem State.notify_svc (s : State) (v : Quad) : (s.notify v).svc = s.svc := rfl
@[simp] theorem State.notify_cur (s : State) (v : Quad) : (s.notify v).cur = s.cur := rfl
@[simp] theorem State.notify_sub (s : State) (v : Quad) : (s.notify v).sub = s.sub := rfl
@[simp] theorem State.notify_ix (s : State) (v : Quad) : (s.notify v).ix = s.ix := rfl
@[simp] theorem State.notify_turn (s : State) (v : Quad) : (s.notify v).turn = s.turn := rfl
@[simp] theorem State.notify_phase (s : State) (v : Quad) : (s.notify v).phase = s.phase := rfl
@[simp] theorem State.notify_moves (s : State) (v : Quad) : (s.notify v).moves = s.moves := rfl
@[simp] theorem State.notify_freeCtr (s : State) (v : Quad) : (s.notify v).freeCtr = s.freeCtr := rfl

/-! ### modLaunch -/

@[simp] theorem State.modLaunch_time (s : State) (n : Nat) (f : Launch → Launch) : (s.modLaunch n f).time = s.time := rfl
@[simp] theorem State.modLaunch_cycle (s : State) (n : Nat) (f : Launch → Launch) : (s.modLaunch n f).cycle = s.cycle := rfl
@[simp] theorem State.modLaunch_frac (s : State) (n : Nat) (f : Launch → Launch) : (s.modLaunch n f).frac = s.frac := rfl
@[simp] theorem State.modLaunch_mem (s : State) (n : Nat) (f : Launch → Launch) : (s.modLaunch n f).mem = s.mem := rfl
@[simp] theorem State.modLaunch_hist (s : State) (n : Nat) (f : Launch → Launch) : (s.modLaunch n f).hist = s.hist := rfl
@[simp] theorem State.modLaunch_cores (s : State) (n : Nat) (f : Launch → Launch) : (s.modLaunch n f).cores = s.cores := rfl
@[simp] theorem State.modLaunch_ops (s : State) (n : Nat) (f : Launch → Launch) : (s.modLaunch n f).ops = s.ops := rfl
@[simp] theorem State.modLaunch_nextOp (s : State) (n : Nat) (f : Launch → Launch) : (s.modLaunch n f).nextOp = s.nextOp := rfl
@[simp] theorem State.modLaunch_posted (s : State) (n : Nat) (f : Launch → Launch) : (s.modLaunch n f).posted = s.posted := rfl
@[simp] theorem State.modLaunch_nextPosted (s : State) (n : Nat) (f : Launch → Launch) : (s.modLaunch n f).nextPosted = s.nextPosted := rfl
@[simp] theorem State.modLaunch_barPost (s : State) (n : Nat) (f : Launch → Launch) : (s.modLaunch n f).barPost = s.barPost := rfl
@[simp] theorem State.modLaunch_colls (s : State) (n : Nat) (f : Launch → Launch) : (s.modLaunch n f).colls = s.colls := rfl
@[simp] theorem State.modLaunch_joins (s : State) (n : Nat) (f : Launch → Launch) : (s.modLaunch n f).joins = s.joins := rfl
@[simp] theorem State.modLaunch_skips (s : State) (n : Nat) (f : Launch → Launch) : (s.modLaunch n f).skips = s.skips := rfl
@[simp] theorem State.modLaunch_free (s : State) (n : Nat) (f : Launch → Launch) : (s.modLaunch n f).free = s.free := rfl
@[simp] theorem State.modLaunch_gran (s : State) (n : Nat) (f : Launch → Launch) : (s.modLaunch n f).gran = s.gran := rfl
@[simp] theorem State.modLaunch_hub (s : State) (n : Nat) (f : Launch → Launch) : (s.modLaunch n f).hub = s.hub := rfl
@[simp] theorem State.modLaunch_svc (s : State) (n : Nat) (f : Launch → Launch) : (s.modLaunch n f).svc = s.svc := rfl
@[simp] theorem State.modLaunch_cur (s : State) (n : Nat) (f : Launch → Launch) : (s.modLaunch n f).cur = s.cur := rfl
@[simp] theorem State.modLaunch_sub (s : State) (n : Nat) (f : Launch → Launch) : (s.modLaunch n f).sub = s.sub := rfl
@[simp] theorem State.modLaunch_ix (s : State) (n : Nat) (f : Launch → Launch) : (s.modLaunch n f).ix = s.ix := rfl
@[simp] theorem State.modLaunch_turn (s : State) (n : Nat) (f : Launch → Launch) : (s.modLaunch n f).turn = s.turn := rfl
@[simp] theorem State.modLaunch_phase (s : State) (n : Nat) (f : Launch → Launch) : (s.modLaunch n f).phase = s.phase := rfl
@[simp] theorem State.modLaunch_moves (s : State) (n : Nat) (f : Launch → Launch) : (s.modLaunch n f).moves = s.moves := rfl
@[simp] theorem State.modLaunch_freeCtr (s : State) (n : Nat) (f : Launch → Launch) : (s.modLaunch n f).freeCtr = s.freeCtr := rfl

/-! ### modOp -/

@[simp] theorem State.modOp_time (s : State) (n : Nat) (f : Op → Op) : (s.modOp n f).time = s.time := rfl
@[simp] theorem State.modOp_cycle (s : State) (n : Nat) (f : Op → Op) : (s.modOp n f).cycle = s.cycle := rfl
@[simp] theorem State.modOp_frac (s : State) (n : Nat) (f : Op → Op) : (s.modOp n f).frac = s.frac := rfl
@[simp] theorem State.modOp_mem (s : State) (n : Nat) (f : Op → Op) : (s.modOp n f).mem = s.mem := rfl
@[simp] theorem State.modOp_hist (s : State) (n : Nat) (f : Op → Op) : (s.modOp n f).hist = s.hist := rfl
@[simp] theorem State.modOp_cores (s : State) (n : Nat) (f : Op → Op) : (s.modOp n f).cores = s.cores := rfl
@[simp] theorem State.modOp_nextOp (s : State) (n : Nat) (f : Op → Op) : (s.modOp n f).nextOp = s.nextOp := rfl
@[simp] theorem State.modOp_posted (s : State) (n : Nat) (f : Op → Op) : (s.modOp n f).posted = s.posted := rfl
@[simp] theorem State.modOp_nextPosted (s : State) (n : Nat) (f : Op → Op) : (s.modOp n f).nextPosted = s.nextPosted := rfl
@[simp] theorem State.modOp_barPost (s : State) (n : Nat) (f : Op → Op) : (s.modOp n f).barPost = s.barPost := rfl
@[simp] theorem State.modOp_colls (s : State) (n : Nat) (f : Op → Op) : (s.modOp n f).colls = s.colls := rfl
@[simp] theorem State.modOp_joins (s : State) (n : Nat) (f : Op → Op) : (s.modOp n f).joins = s.joins := rfl
@[simp] theorem State.modOp_skips (s : State) (n : Nat) (f : Op → Op) : (s.modOp n f).skips = s.skips := rfl
@[simp] theorem State.modOp_free (s : State) (n : Nat) (f : Op → Op) : (s.modOp n f).free = s.free := rfl
@[simp] theorem State.modOp_gran (s : State) (n : Nat) (f : Op → Op) : (s.modOp n f).gran = s.gran := rfl
@[simp] theorem State.modOp_launches (s : State) (n : Nat) (f : Op → Op) : (s.modOp n f).launches = s.launches := rfl
@[simp] theorem State.modOp_hub (s : State) (n : Nat) (f : Op → Op) : (s.modOp n f).hub = s.hub := rfl
@[simp] theorem State.modOp_svc (s : State) (n : Nat) (f : Op → Op) : (s.modOp n f).svc = s.svc := rfl
@[simp] theorem State.modOp_cur (s : State) (n : Nat) (f : Op → Op) : (s.modOp n f).cur = s.cur := rfl
@[simp] theorem State.modOp_sub (s : State) (n : Nat) (f : Op → Op) : (s.modOp n f).sub = s.sub := rfl
@[simp] theorem State.modOp_ix (s : State) (n : Nat) (f : Op → Op) : (s.modOp n f).ix = s.ix := rfl
@[simp] theorem State.modOp_turn (s : State) (n : Nat) (f : Op → Op) : (s.modOp n f).turn = s.turn := rfl
@[simp] theorem State.modOp_phase (s : State) (n : Nat) (f : Op → Op) : (s.modOp n f).phase = s.phase := rfl
@[simp] theorem State.modOp_moves (s : State) (n : Nat) (f : Op → Op) : (s.modOp n f).moves = s.moves := rfl
@[simp] theorem State.modOp_freeCtr (s : State) (n : Nat) (f : Op → Op) : (s.modOp n f).freeCtr = s.freeCtr := rfl

/-! ### unit -/

@[simp] theorem State.unit_time (s : State) (a b d : Nat) : (s.unit a b d).time = s.time := rfl
@[simp] theorem State.unit_cycle (s : State) (a b d : Nat) : (s.unit a b d).cycle = s.cycle := rfl
@[simp] theorem State.unit_frac (s : State) (a b d : Nat) : (s.unit a b d).frac = s.frac := rfl
@[simp] theorem State.unit_mem (s : State) (a b d : Nat) : (s.unit a b d).mem = s.mem := rfl
@[simp] theorem State.unit_hist (s : State) (a b d : Nat) : (s.unit a b d).hist = s.hist := rfl
@[simp] theorem State.unit_cores (s : State) (a b d : Nat) : (s.unit a b d).cores = s.cores := rfl
@[simp] theorem State.unit_ops (s : State) (a b d : Nat) : (s.unit a b d).ops = s.ops := rfl
@[simp] theorem State.unit_nextOp (s : State) (a b d : Nat) : (s.unit a b d).nextOp = s.nextOp := rfl
@[simp] theorem State.unit_posted (s : State) (a b d : Nat) : (s.unit a b d).posted = s.posted := rfl
@[simp] theorem State.unit_nextPosted (s : State) (a b d : Nat) : (s.unit a b d).nextPosted = s.nextPosted := rfl
@[simp] theorem State.unit_barPost (s : State) (a b d : Nat) : (s.unit a b d).barPost = s.barPost := rfl
@[simp] theorem State.unit_colls (s : State) (a b d : Nat) : (s.unit a b d).colls = s.colls := rfl
@[simp] theorem State.unit_joins (s : State) (a b d : Nat) : (s.unit a b d).joins = s.joins := rfl
@[simp] theorem State.unit_skips (s : State) (a b d : Nat) : (s.unit a b d).skips = s.skips := rfl
@[simp] theorem State.unit_free (s : State) (a b d : Nat) : (s.unit a b d).free = s.free := rfl
@[simp] theorem State.unit_gran (s : State) (a b d : Nat) : (s.unit a b d).gran = s.gran := rfl
@[simp] theorem State.unit_launches (s : State) (a b d : Nat) : (s.unit a b d).launches = s.launches := rfl
@[simp] theorem State.unit_hub (s : State) (a b d : Nat) : (s.unit a b d).hub = s.hub := rfl
@[simp] theorem State.unit_svc (s : State) (a b d : Nat) : (s.unit a b d).svc = s.svc := rfl
@[simp] theorem State.unit_turn (s : State) (a b d : Nat) : (s.unit a b d).turn = s.turn := rfl
@[simp] theorem State.unit_phase (s : State) (a b d : Nat) : (s.unit a b d).phase = s.phase := rfl
@[simp] theorem State.unit_moves (s : State) (a b d : Nat) : (s.unit a b d).moves = s.moves := rfl
@[simp] theorem State.unit_freeCtr (s : State) (a b d : Nat) : (s.unit a b d).freeCtr = s.freeCtr := rfl

/-! ### writeV -/

@[simp] theorem writeV_id (t : Thread) (n : Nat) (x : Reg) : (writeV t n x).id = t.id := rfl
@[simp] theorem writeV_pos (t : Thread) (n : Nat) (x : Reg) : (writeV t n x).pos = t.pos := rfl
@[simp] theorem writeV_p (t : Thread) (n : Nat) (x : Reg) : (writeV t n x).p = t.p := rfl
@[simp] theorem writeV_dl (t : Thread) (n : Nat) (x : Reg) : (writeV t n x).dl = t.dl := rfl
@[simp] theorem writeV_flags (t : Thread) (n : Nat) (x : Reg) : (writeV t n x).flags = t.flags := rfl
@[simp] theorem writeV_q (t : Thread) (n : Nat) (x : Reg) : (writeV t n x).q = t.q := rfl
@[simp] theorem writeV_flt (t : Thread) (n : Nat) (x : Reg) : (writeV t n x).flt = t.flt := rfl
@[simp] theorem writeV_rs (t : Thread) (n : Nat) (x : Reg) : (writeV t n x).rs = t.rs := rfl
@[simp] theorem writeV_gst (t : Thread) (n : Nat) (x : Reg) : (writeV t n x).gst = t.gst := rfl
@[simp] theorem writeV_sr (t : Thread) (n : Nat) (x : Reg) : (writeV t n x).sr = t.sr := rfl
@[simp] theorem writeV_toc (t : Thread) (n : Nat) (x : Reg) : (writeV t n x).toc = t.toc := rfl
@[simp] theorem writeV_esc (t : Thread) (n : Nat) (x : Reg) : (writeV t n x).esc = t.esc := rfl
@[simp] theorem writeV_wait (t : Thread) (n : Nat) (x : Reg) : (writeV t n x).wait = t.wait := rfl
@[simp] theorem writeV_hold (t : Thread) (n : Nat) (x : Reg) : (writeV t n x).hold = t.hold := rfl
@[simp] theorem writeV_gw (t : Thread) (n : Nat) (x : Reg) : (writeV t n x).gw = t.gw := rfl
@[simp] theorem writeV_xfer (t : Thread) (n : Nat) (x : Reg) : (writeV t n x).xfer = t.xfer := rfl
@[simp] theorem writeV_acc (t : Thread) (n : Nat) (x : Reg) : (writeV t n x).acc = t.acc := rfl
@[simp] theorem writeV_res (t : Thread) (n : Nat) (x : Reg) : (writeV t n x).res = t.res := rfl
@[simp] theorem writeV_replies (t : Thread) (n : Nat) (x : Reg) : (writeV t n x).replies = t.replies := rfl
@[simp] theorem writeV_ops (t : Thread) (n : Nat) (x : Reg) : (writeV t n x).ops = t.ops := rfl
@[simp] theorem writeV_seen (t : Thread) (n : Nat) (x : Reg) : (writeV t n x).seen = t.seen := rfl
@[simp] theorem writeV_pend (t : Thread) (n : Nat) (x : Reg) : (writeV t n x).pend = t.pend := rfl
@[simp] theorem writeV_spec (t : Thread) (n : Nat) (x : Reg) : (writeV t n x).spec = t.spec := rfl
@[simp] theorem writeV_frec (t : Thread) (n : Nat) (x : Reg) : (writeV t n x).frec = t.frec := rfl
@[simp] theorem writeV_arr (t : Thread) (n : Nat) (x : Reg) : (writeV t n x).arr = t.arr := rfl
@[simp] theorem writeV_spent (t : Thread) (n : Nat) (x : Reg) : (writeV t n x).spent = t.spent := rfl
@[simp] theorem writeV_outer (t : Thread) (n : Nat) (x : Reg) : (writeV t n x).outer = t.outer := rfl
@[simp] theorem writeV_cut (t : Thread) (n : Nat) (x : Reg) : (writeV t n x).cut = t.cut := rfl
@[simp] theorem writeV_dbg (t : Thread) (n : Nat) (x : Reg) : (writeV t n x).dbg = t.dbg := rfl
@[simp] theorem writeV_hot (t : Thread) (n : Nat) (x : Reg) : (writeV t n x).hot = t.hot := rfl

/-! ### writePair -/

@[simp] theorem writePair_id (t : Thread) (n : Nat) (x : Quad) : (writePair t n x).id = t.id := rfl
@[simp] theorem writePair_pos (t : Thread) (n : Nat) (x : Quad) : (writePair t n x).pos = t.pos := rfl
@[simp] theorem writePair_p (t : Thread) (n : Nat) (x : Quad) : (writePair t n x).p = t.p := rfl
@[simp] theorem writePair_dl (t : Thread) (n : Nat) (x : Quad) : (writePair t n x).dl = t.dl := rfl
@[simp] theorem writePair_flags (t : Thread) (n : Nat) (x : Quad) : (writePair t n x).flags = t.flags := rfl
@[simp] theorem writePair_q (t : Thread) (n : Nat) (x : Quad) : (writePair t n x).q = t.q := rfl
@[simp] theorem writePair_flt (t : Thread) (n : Nat) (x : Quad) : (writePair t n x).flt = t.flt := rfl
@[simp] theorem writePair_rs (t : Thread) (n : Nat) (x : Quad) : (writePair t n x).rs = t.rs := rfl
@[simp] theorem writePair_gst (t : Thread) (n : Nat) (x : Quad) : (writePair t n x).gst = t.gst := rfl
@[simp] theorem writePair_sr (t : Thread) (n : Nat) (x : Quad) : (writePair t n x).sr = t.sr := rfl
@[simp] theorem writePair_toc (t : Thread) (n : Nat) (x : Quad) : (writePair t n x).toc = t.toc := rfl
@[simp] theorem writePair_esc (t : Thread) (n : Nat) (x : Quad) : (writePair t n x).esc = t.esc := rfl
@[simp] theorem writePair_wait (t : Thread) (n : Nat) (x : Quad) : (writePair t n x).wait = t.wait := rfl
@[simp] theorem writePair_hold (t : Thread) (n : Nat) (x : Quad) : (writePair t n x).hold = t.hold := rfl
@[simp] theorem writePair_gw (t : Thread) (n : Nat) (x : Quad) : (writePair t n x).gw = t.gw := rfl
@[simp] theorem writePair_xfer (t : Thread) (n : Nat) (x : Quad) : (writePair t n x).xfer = t.xfer := rfl
@[simp] theorem writePair_acc (t : Thread) (n : Nat) (x : Quad) : (writePair t n x).acc = t.acc := rfl
@[simp] theorem writePair_res (t : Thread) (n : Nat) (x : Quad) : (writePair t n x).res = t.res := rfl
@[simp] theorem writePair_replies (t : Thread) (n : Nat) (x : Quad) : (writePair t n x).replies = t.replies := rfl
@[simp] theorem writePair_ops (t : Thread) (n : Nat) (x : Quad) : (writePair t n x).ops = t.ops := rfl
@[simp] theorem writePair_seen (t : Thread) (n : Nat) (x : Quad) : (writePair t n x).seen = t.seen := rfl
@[simp] theorem writePair_pend (t : Thread) (n : Nat) (x : Quad) : (writePair t n x).pend = t.pend := rfl
@[simp] theorem writePair_spec (t : Thread) (n : Nat) (x : Quad) : (writePair t n x).spec = t.spec := rfl
@[simp] theorem writePair_frec (t : Thread) (n : Nat) (x : Quad) : (writePair t n x).frec = t.frec := rfl
@[simp] theorem writePair_arr (t : Thread) (n : Nat) (x : Quad) : (writePair t n x).arr = t.arr := rfl
@[simp] theorem writePair_spent (t : Thread) (n : Nat) (x : Quad) : (writePair t n x).spent = t.spent := rfl
@[simp] theorem writePair_outer (t : Thread) (n : Nat) (x : Quad) : (writePair t n x).outer = t.outer := rfl
@[simp] theorem writePair_cut (t : Thread) (n : Nat) (x : Quad) : (writePair t n x).cut = t.cut := rfl
@[simp] theorem writePair_dbg (t : Thread) (n : Nat) (x : Quad) : (writePair t n x).dbg = t.dbg := rfl
@[simp] theorem writePair_hot (t : Thread) (n : Nat) (x : Quad) : (writePair t n x).hot = t.hot := rfl

/-! ### writeP -/

@[simp] theorem writeP_id (t : Thread) (n : Nat) (b : Bool) : (writeP t n b).id = t.id := by unfold writeP; split <;> rfl
@[simp] theorem writeP_pos (t : Thread) (n : Nat) (b : Bool) : (writeP t n b).pos = t.pos := by unfold writeP; split <;> rfl
@[simp] theorem writeP_v (t : Thread) (n : Nat) (b : Bool) : (writeP t n b).v = t.v := by unfold writeP; split <;> rfl
@[simp] theorem writeP_dl (t : Thread) (n : Nat) (b : Bool) : (writeP t n b).dl = t.dl := by unfold writeP; split <;> rfl
@[simp] theorem writeP_flags (t : Thread) (n : Nat) (b : Bool) : (writeP t n b).flags = t.flags := by unfold writeP; split <;> rfl
@[simp] theorem writeP_q (t : Thread) (n : Nat) (b : Bool) : (writeP t n b).q = t.q := by unfold writeP; split <;> rfl
@[simp] theorem writeP_flt (t : Thread) (n : Nat) (b : Bool) : (writeP t n b).flt = t.flt := by unfold writeP; split <;> rfl
@[simp] theorem writeP_rs (t : Thread) (n : Nat) (b : Bool) : (writeP t n b).rs = t.rs := by unfold writeP; split <;> rfl
@[simp] theorem writeP_gst (t : Thread) (n : Nat) (b : Bool) : (writeP t n b).gst = t.gst := by unfold writeP; split <;> rfl
@[simp] theorem writeP_sr (t : Thread) (n : Nat) (b : Bool) : (writeP t n b).sr = t.sr := by unfold writeP; split <;> rfl
@[simp] theorem writeP_toc (t : Thread) (n : Nat) (b : Bool) : (writeP t n b).toc = t.toc := by unfold writeP; split <;> rfl
@[simp] theorem writeP_esc (t : Thread) (n : Nat) (b : Bool) : (writeP t n b).esc = t.esc := by unfold writeP; split <;> rfl
@[simp] theorem writeP_wait (t : Thread) (n : Nat) (b : Bool) : (writeP t n b).wait = t.wait := by unfold writeP; split <;> rfl
@[simp] theorem writeP_hold (t : Thread) (n : Nat) (b : Bool) : (writeP t n b).hold = t.hold := by unfold writeP; split <;> rfl
@[simp] theorem writeP_gw (t : Thread) (n : Nat) (b : Bool) : (writeP t n b).gw = t.gw := by unfold writeP; split <;> rfl
@[simp] theorem writeP_xfer (t : Thread) (n : Nat) (b : Bool) : (writeP t n b).xfer = t.xfer := by unfold writeP; split <;> rfl
@[simp] theorem writeP_acc (t : Thread) (n : Nat) (b : Bool) : (writeP t n b).acc = t.acc := by unfold writeP; split <;> rfl
@[simp] theorem writeP_res (t : Thread) (n : Nat) (b : Bool) : (writeP t n b).res = t.res := by unfold writeP; split <;> rfl
@[simp] theorem writeP_replies (t : Thread) (n : Nat) (b : Bool) : (writeP t n b).replies = t.replies := by unfold writeP; split <;> rfl
@[simp] theorem writeP_ops (t : Thread) (n : Nat) (b : Bool) : (writeP t n b).ops = t.ops := by unfold writeP; split <;> rfl
@[simp] theorem writeP_seen (t : Thread) (n : Nat) (b : Bool) : (writeP t n b).seen = t.seen := by unfold writeP; split <;> rfl
@[simp] theorem writeP_pend (t : Thread) (n : Nat) (b : Bool) : (writeP t n b).pend = t.pend := by unfold writeP; split <;> rfl
@[simp] theorem writeP_spec (t : Thread) (n : Nat) (b : Bool) : (writeP t n b).spec = t.spec := by unfold writeP; split <;> rfl
@[simp] theorem writeP_frec (t : Thread) (n : Nat) (b : Bool) : (writeP t n b).frec = t.frec := by unfold writeP; split <;> rfl
@[simp] theorem writeP_arr (t : Thread) (n : Nat) (b : Bool) : (writeP t n b).arr = t.arr := by unfold writeP; split <;> rfl
@[simp] theorem writeP_spent (t : Thread) (n : Nat) (b : Bool) : (writeP t n b).spent = t.spent := by unfold writeP; split <;> rfl
@[simp] theorem writeP_outer (t : Thread) (n : Nat) (b : Bool) : (writeP t n b).outer = t.outer := by unfold writeP; split <;> rfl
@[simp] theorem writeP_cut (t : Thread) (n : Nat) (b : Bool) : (writeP t n b).cut = t.cut := by unfold writeP; split <;> rfl
@[simp] theorem writeP_dbg (t : Thread) (n : Nat) (b : Bool) : (writeP t n b).dbg = t.dbg := by unfold writeP; split <;> rfl
@[simp] theorem writeP_hot (t : Thread) (n : Nat) (b : Bool) : (writeP t n b).hot = t.hot := by unfold writeP; split <;> rfl

/-! ### setFsr -/

@[simp] theorem setFsr_id (t : Thread) (b : Reg) : (setFsr t b).id = t.id := rfl
@[simp] theorem setFsr_pos (t : Thread) (b : Reg) : (setFsr t b).pos = t.pos := rfl
@[simp] theorem setFsr_v (t : Thread) (b : Reg) : (setFsr t b).v = t.v := rfl
@[simp] theorem setFsr_p (t : Thread) (b : Reg) : (setFsr t b).p = t.p := rfl
@[simp] theorem setFsr_dl (t : Thread) (b : Reg) : (setFsr t b).dl = t.dl := rfl
@[simp] theorem setFsr_flags (t : Thread) (b : Reg) : (setFsr t b).flags = t.flags := rfl
@[simp] theorem setFsr_q (t : Thread) (b : Reg) : (setFsr t b).q = t.q := rfl
@[simp] theorem setFsr_flt (t : Thread) (b : Reg) : (setFsr t b).flt = t.flt := rfl
@[simp] theorem setFsr_rs (t : Thread) (b : Reg) : (setFsr t b).rs = t.rs := rfl
@[simp] theorem setFsr_gst (t : Thread) (b : Reg) : (setFsr t b).gst = t.gst := rfl
@[simp] theorem setFsr_toc (t : Thread) (b : Reg) : (setFsr t b).toc = t.toc := rfl
@[simp] theorem setFsr_esc (t : Thread) (b : Reg) : (setFsr t b).esc = t.esc := rfl
@[simp] theorem setFsr_wait (t : Thread) (b : Reg) : (setFsr t b).wait = t.wait := rfl
@[simp] theorem setFsr_hold (t : Thread) (b : Reg) : (setFsr t b).hold = t.hold := rfl
@[simp] theorem setFsr_gw (t : Thread) (b : Reg) : (setFsr t b).gw = t.gw := rfl
@[simp] theorem setFsr_xfer (t : Thread) (b : Reg) : (setFsr t b).xfer = t.xfer := rfl
@[simp] theorem setFsr_acc (t : Thread) (b : Reg) : (setFsr t b).acc = t.acc := rfl
@[simp] theorem setFsr_res (t : Thread) (b : Reg) : (setFsr t b).res = t.res := rfl
@[simp] theorem setFsr_replies (t : Thread) (b : Reg) : (setFsr t b).replies = t.replies := rfl
@[simp] theorem setFsr_ops (t : Thread) (b : Reg) : (setFsr t b).ops = t.ops := rfl
@[simp] theorem setFsr_seen (t : Thread) (b : Reg) : (setFsr t b).seen = t.seen := rfl
@[simp] theorem setFsr_pend (t : Thread) (b : Reg) : (setFsr t b).pend = t.pend := rfl
@[simp] theorem setFsr_spec (t : Thread) (b : Reg) : (setFsr t b).spec = t.spec := rfl
@[simp] theorem setFsr_frec (t : Thread) (b : Reg) : (setFsr t b).frec = t.frec := rfl
@[simp] theorem setFsr_arr (t : Thread) (b : Reg) : (setFsr t b).arr = t.arr := rfl
@[simp] theorem setFsr_spent (t : Thread) (b : Reg) : (setFsr t b).spent = t.spent := rfl
@[simp] theorem setFsr_outer (t : Thread) (b : Reg) : (setFsr t b).outer = t.outer := rfl
@[simp] theorem setFsr_cut (t : Thread) (b : Reg) : (setFsr t b).cut = t.cut := rfl
@[simp] theorem setFsr_dbg (t : Thread) (b : Reg) : (setFsr t b).dbg = t.dbg := rfl
@[simp] theorem setFsr_hot (t : Thread) (b : Reg) : (setFsr t b).hot = t.hot := rfl

/-! ### Cores and threads -/

theorem State.core_withCore (s : State) (c : Nat) (k : Core) (h : c < s.cores.length) : (s.withCore c k).core c = k := by
  simp [State.core, State.withCore, List.getD, h]

theorem State.core_withCore_ne (s : State) (c d : Nat) (k : Core) (h : d ≠ c) : (s.withCore c k).core d = s.core d := by
  simp [State.core, State.withCore, List.getD, Ne.symm h]

@[simp] theorem State.withCore_withCore (s : State) (c : Nat) (k l : Core) : (s.withCore c k).withCore c l = s.withCore c l := by
  simp [State.withCore, List.set_set]

theorem State.withCore_core (s : State) (c : Nat) : s.withCore c (s.core c) = s := by
  have : s.cores.set c (s.cores.getD c Core.reset) = s.cores := by
    apply List.ext_getElem (by simp)
    intro i h1 h2
    rw [List.getElem_set]
    split
    · rename_i h; subst h; simp [List.getD, h2]
    · rfl
  simp only [State.withCore, State.core, this]

theorem threadAt_mem {ts : List Thread} {sl : Nat} {t : Thread} (h : threadAt ts sl = some t) : t ∈ ts :=
  List.mem_of_find?_eq_some h

theorem State.thread_slot {s : State} {c sl : Nat} {t : Thread} (h : s.thread c sl = some t) : t.id.slot = sl := by
  have := List.find?_some h; simpa using this

/-- A change of a thread in a slot may be replaced by one that agrees with it on the threads of that slot. -/
theorem State.modThread_congr (s : State) (c sl : Nat) (f g : Thread → Thread)
    (h : ∀ u ∈ (s.core c).threads, u.id.slot = sl → f u = g u) : s.modThread c sl f = s.modThread c sl g := by
  simp only [State.modThread, State.modCore]
  congr 2
  apply List.map_congr_left
  intro u hu
  by_cases hs : u.id.slot = sl
  · simp [hs, h u hu hs]
  · simp [hs]

end Sys2Proof.Machine
end

