-- ==== Sys2Proof/Laws/Memory.lean ====
section
/-! SUPPORT. The laws of memory: reads after writes, and that every operation keeps the canonical form. -/

-- The theorems are elaborated one after another: many at once, each waiting for the kernel, take too much memory.
set_option Elab.async false

namespace Sys2Proof.Machine

theorem memWfFrom_mono {lo lo' : Nat} {m : Mem} (h : memWfFrom lo m = true) (hl : lo' ≤ lo) : memWfFrom lo' m = true := by
  cases m with
  | nil => rfl
  | cons x r =>
    simp only [memWfFrom, Bool.and_eq_true, decide_eq_true_eq] at h ⊢
    exact ⟨⟨by omega, h.1.2⟩, h.2⟩

/-- Below its first address a memory reads zero. -/
theorem memGet_below {lo : Nat} {m : Mem} (h : memWfFrom lo m = true) {a : Nat} (ha : a < lo) : memGet m a = 0 := by
  induction m generalizing lo with
  | nil => rfl
  | cons x r ih =>
    simp only [memWfFrom, Bool.and_eq_true, decide_eq_true_eq] at h
    simp only [memGet]
    rw [if_neg (by omega), ih h.2 (by omega)]

theorem memWfFrom_memPut {lo : Nat} {m : Mem} (h : memWfFrom lo m = true) {a : Nat} (ha : lo ≤ a) (v : Byte) :
    memWfFrom lo (memPut m a v) = true := by
  induction m generalizing lo with
  | nil => unfold memPut; split <;> simp_all [memWfFrom]
  | cons x r ih =>
    have h0 := h
    simp only [memWfFrom, Bool.and_eq_true, decide_eq_true_eq] at h
    obtain ⟨⟨h1, h2⟩, h3⟩ := h
    unfold memPut
    split
    · split
      · exact h0
      · simp only [memWfFrom, Bool.and_eq_true, decide_eq_true_eq]
        exact ⟨⟨ha, by simpa using ‹¬v = 0›⟩, ⟨by omega, h2⟩, h3⟩
    · split
      · split
        · exact memWfFrom_mono h3 (by omega)
        · simp only [memWfFrom, Bool.and_eq_true, decide_eq_true_eq]
          exact ⟨⟨ha, by simpa using ‹¬v = 0›⟩, by subst a; exact h3⟩
      · simp only [memWfFrom, Bool.and_eq_true, decide_eq_true_eq]
        exact ⟨⟨h1, h2⟩, ih h3 (by omega)⟩

/-- A write of one byte keeps the canonical form. -/
theorem memWf_memPut {m : Mem} (h : memWf m = true) (a : Nat) (v : Byte) : memWf (memPut m a v) = true :=
  memWfFrom_memPut h (Nat.zero_le a) v

theorem memGet_memPut_from {lo : Nat} {m : Mem} (h : memWfFrom lo m = true) (a b : Nat) (v : Byte) :
    memGet (memPut m a v) b = if b = a then v else memGet m b := by
  induction m generalizing lo with
  | nil =>
    unfold memPut
    split
    · subst v; simp [memGet]
    · simp only [memGet]; by_cases hb : b = a
      · simp [hb]
      · simp [hb, Ne.symm hb]
  | cons x r ih =>
    simp only [memWfFrom, Bool.and_eq_true, decide_eq_true_eq] at h
    obtain ⟨⟨h1, h2⟩, h3⟩ := h
    unfold memPut
    split
    · rename_i hax
      have hg : memGet (x :: r) a = 0 := by
        simp only [memGet]; rw [if_neg (by omega), memGet_below h3 (by omega)]
      split
      · subst v
        by_cases hb : b = a
        · subst hb; simp [hg]
        · simp [hb]
      · by_cases hb : b = a
        · subst hb; simp [memGet]
        · rw [if_neg hb, memGet, if_neg (Ne.symm hb)]
    · split
      · rename_i hax
        split
        · subst v
          by_cases hb : b = a
          · subst hb; rw [if_pos rfl, memGet_below h3 (by omega)]
          · rw [if_neg hb]; conv => rhs; rw [memGet]
            rw [if_neg (by omega)]
        · by_cases hb : b = a
          · subst hb; simp [memGet]
          · simp only [memGet, if_neg hb]; rw [if_neg (Ne.symm hb), if_neg (by omega)]
      · rename_i hax hne
        simp only [memGet]
        by_cases hb : x.1 = b
        · simp only [if_pos hb]; rw [if_neg (by omega)]
        · simp only [if_neg hb]; exact ih h3

/-- A byte reads as it was last written, and every other byte as before. -/
theorem memGet_memPut {m : Mem} (h : memWf m = true) (a b : Nat) (v : Byte) :
    memGet (memPut m a v) b = if b = a then v else memGet m b := memGet_memPut_from h a b v

theorem memWf_memPutAll {m : Mem} (h : memWf m = true) (a : Nat) (bs : List Byte) : memWf (memPutAll m a bs) = true := by
  induction bs generalizing m a with
  | nil => exact h
  | cons b r ih => exact ih (memWf_memPut h a b) (a + 1)

/-- Bytes stored in a row: each address of the row reads its byte, and every other as before. -/
theorem memGet_memPutAll {m : Mem} (h : memWf m = true) (a : Nat) (bs : List Byte) (b : Nat) :
    memGet (memPutAll m a bs) b = if a ≤ b ∧ b < a + bs.length then bs.getD (b - a) 0 else memGet m b := by
  induction bs generalizing m a with
  | nil => simp [memPutAll]
  | cons x r ih =>
    simp only [memPutAll, ih (memWf_memPut h a x), memGet_memPut h, List.length_cons]
    by_cases h1 : b = a
    · subst h1; simp
    · by_cases h2 : a + 1 ≤ b ∧ b < a + 1 + r.length
      · rw [if_pos h2, if_pos (by omega)]
        obtain ⟨n, hn⟩ : ∃ n, b - a = n + 1 := ⟨b - a - 1, by omega⟩
        rw [hn, show b - (a + 1) = n by omega]; simp
      · rw [if_neg h2, if_neg h1, if_neg (by omega)]

theorem memWf_memPutCells {m : Mem} (h : memWf m = true) (cs : List Host.Cell) : memWf (memPutCells m cs) = true := by
  induction cs generalizing m with
  | nil => exact h
  | cons x r ih => exact ih (memWf_memPut h x.1 x.2)

theorem memWfFrom_filter {lo : Nat} {m : Mem} (h : memWfFrom lo m = true) (p : Host.Cell → Bool) :
    memWfFrom lo (m.filter p) = true := by
  induction m generalizing lo with
  | nil => rfl
  | cons x r ih =>
    simp only [memWfFrom, Bool.and_eq_true, decide_eq_true_eq] at h
    rw [List.filter_cons]
    split
    · simp only [memWfFrom, Bool.and_eq_true, decide_eq_true_eq]; exact ⟨h.1, ih h.2⟩
    · exact memWfFrom_mono (ih h.2) (by omega)

theorem memWf_memClear {m : Mem} (h : memWf m = true) (lo hi : Nat) : memWf (memClear m lo hi) = true :=
  memWfFrom_filter h _

/-- A cleared range reads zero; every other byte reads as before. -/
theorem memGet_memClear (m : Mem) (lo hi a : Nat) :
    memGet (memClear m lo hi) a = if lo ≤ a ∧ a < hi then 0 else memGet m a := by
  induction m with
  | nil => simp [memClear, memGet]
  | cons x r ih =>
    simp only [memClear] at ih ⊢
    rw [List.filter_cons]
    by_cases hx : x.1 = a
    · by_cases hr : lo ≤ a ∧ a < hi
      · rw [if_neg (by simp; omega), ih, if_pos hr]; simp [hr]
      · rw [if_pos (by simp; omega), if_neg hr]; simp [memGet, hx]
    · split
      · simp only [memGet, if_neg hx, ih]
      · rw [ih]; simp only [memGet, if_neg hx]

/-! ### The operations of the state -/

theorem State.store_wf {s : State} (h : memWf s.mem = true) (a : Nat) (bs : List Byte) : memWf (s.store a bs).mem = true :=
  memWf_memPutAll h a bs

theorem State.clearRange_wf {s : State} (h : memWf s.mem = true) (lo hi : Nat) : memWf (s.clearRange lo hi).mem = true :=
  memWf_memClear h lo hi

theorem State.storeCells_wf {s : State} (h : memWf s.mem = true) (cs : List Host.Cell) :
    memWf (s.storeCells cs).mem = true := memWf_memPutCells h cs

theorem State.copyIn_wf {s : State} (h : memWf s.mem = true) (a b n : Nat) : memWf (s.copyIn a b n).mem = true :=
  State.storeCells_wf (State.clearRange_wf h b (b + n)) _

theorem State.reset_wf : memWf State.reset.mem = true := rfl

/-- What a store leaves at every address. -/
theorem State.store_get {s : State} (h : memWf s.mem = true) (a : Nat) (bs : List Byte) (b : Nat) :
    memGet (s.store a bs).mem b = if a ≤ b ∧ b < a + bs.length then bs.getD (b - a) 0 else memGet s.mem b :=
  memGet_memPutAll h a bs b

theorem State.clearRange_get (s : State) (lo hi a : Nat) :
    memGet (s.clearRange lo hi).mem a = if lo ≤ a ∧ a < hi then 0 else memGet s.mem a := memGet_memClear s.mem lo hi a

/-! ### Little-endian bytes -/

@[simp] theorem leBytes_length (n v : Nat) : (leBytes n v).length = n := by
  induction n generalizing v with
  | zero => rfl
  | succ n ih => simp [leBytes, ih]

theorem ofLe_leBytes (n v : Nat) : ofLe (leBytes n v) = v % 256 ^ n := by
  induction n generalizing v with
  | zero => simp [leBytes, ofLe, Nat.mod_one]
  | succ n ih =>
    simp only [leBytes, ofLe, ih, BitVec.toNat_ofNat]
    rw [show 256 ^ (n + 1) = 256 * 256 ^ n by rw [Nat.pow_succ, Nat.mul_comm], Nat.mod_mul]

/-- Equal bytes read as equal values. -/
theorem memRead_congr {m m' : Mem} {a n : Nat} (h : ∀ b, a ≤ b → b < a + n → memGet m b = memGet m' b) :
    memRead m a n = memRead m' a n := by
  induction n generalizing a with
  | zero => rfl
  | succ n ih =>
    simp only [memRead]
    rw [h a (by omega) (by omega), ih (fun b h1 h2 => h b (by omega) (by omega))]

theorem memRead_ofLe {m : Mem} {a : Nat} {bs : List Byte} (h : ∀ j < bs.length, memGet m (a + j) = bs.getD j 0) :
    memRead m a bs.length = ofLe bs := by
  induction bs generalizing a with
  | nil => rfl
  | cons b r ih =>
    simp only [List.length_cons, memRead, ofLe]
    have h0 := h 0 (by simp)
    simp at h0
    rw [h0, ih (a := a + 1)]
    intro j hj
    have := h (j + 1) (by simp; omega)
    rw [show a + 1 + j = a + (j + 1) by omega, this]; simp

end Sys2Proof.Machine
end

