-- ==== Sys2Proof/Laws/PerInstr.lean ====
section
/-! SUPPORT. For every constructor of `Instr`: its opcode leads the decoder's maps back to it, with the fields it carries. -/

-- The theorems are elaborated one after another: many at once, each waiting for the kernel, take too much memory.
set_option Elab.async false

namespace Sys2Proof.Laws

open Sys2Proof Sys2Proof.Machine

/-- R124, R126, R127: the opcode of an instruction names that instruction and no other, whichever form its word has; it fits
the field of that form. An event has no word. -/
def Opcode.Statement (i : Instr) : Prop :=
  (∀ f, fullOf i = some f → i.WellFormed → fullInstr (opFull i) f = some i ∧ opFull i < 2 ^ 10)
  ∧ (∀ x, immOf i = some x → immInstr (opImm i) x = some i ∧ opImm i < 2 ^ 8)
  ∧ ∀ c h, halfOf i = some (c, h) → halfInstr (opHalf i) h = some i ∧ opHalf i < 2 ^ 7

/-! ### One form each -/

theorem Opcode.ofFull {i : Instr} {f : Full} (hf : fullOf i = some f) (hi : immOf i = none) (hh : halfOf i = none)
    (r : i.WellFormed → fullInstr (opFull i) f = some i) (b : opFull i < 2 ^ 10) : Opcode.Statement i := by
  refine ⟨fun g h w => ?_, fun _ h => ?_, fun _ _ h => ?_⟩
  · rw [hf] at h; cases h; exact ⟨r w, b⟩
  · rw [hi] at h; cases h
  · rw [hh] at h; cases h

theorem Opcode.ofImm {i : Instr} {x : Imm} (hf : fullOf i = none) (hi : immOf i = some x) (hh : halfOf i = none)
    (r : immInstr (opImm i) x = some i) (b : opImm i < 2 ^ 8) : Opcode.Statement i := by
  refine ⟨fun g h w => ?_, fun _ h => ?_, fun _ _ h => ?_⟩
  · rw [hf] at h; cases h
  · rw [hi] at h; cases h; exact ⟨r, b⟩
  · rw [hh] at h; cases h

theorem Opcode.ofHalf {i : Instr} {x : HClass × Half} (hf : fullOf i = none) (hi : immOf i = none) (hh : halfOf i = some x)
    (r : halfInstr (opHalf i) x.2 = some i) (b : opHalf i < 2 ^ 7) : Opcode.Statement i := by
  refine ⟨fun g h w => ?_, fun _ h => ?_, fun _ _ h => ?_⟩
  · rw [hf] at h; cases h
  · rw [hi] at h; cases h
  · rw [hh] at h; cases h; exact ⟨r, b⟩

theorem Opcode.ofNone {i : Instr} (hf : fullOf i = none) (hi : immOf i = none) (hh : halfOf i = none) :
    Opcode.Statement i :=
  ⟨fun g h _ => by simp [hf] at h, fun _ h => by simp [hi] at h, fun _ _ h => by simp [hh] at h⟩

/-! ### The rows that OPX tells apart -/

theorem fullOk_opx {x : Accepts} {f : Full} (h : fullOk x f = true) : x.opx = true := by
  simp only [fullOk, Bool.and_eq_true] at h
  exact h.1.1.1.1.1.1.1.2

theorem opx_dispatchOp (f : Full) (w : (Instr.dispatchOp f).WellFormed) : fullInstr (opFull (.dispatchOp f)) f = some (.dispatchOp f) := by
  have h : (opxN f == 0) = true := fullOk_opx (x := (accepts (.dispatchOp f)).get rfl) w
  simp only [fullInstr, opFull, h]; rfl
theorem opx_dispatchPc (f : Full) (w : (Instr.dispatchPc f).WellFormed) : fullInstr (opFull (.dispatchPc f)) f = some (.dispatchPc f) := by
  have h : (opxN f == 1) = true := fullOk_opx (x := (accepts (.dispatchPc f)).get rfl) w
  simp [fullInstr, opFull, eq_of_beq h]
theorem opx_gjmp (f : Full) (w : (Instr.gjmp f).WellFormed) : fullInstr (opFull (.gjmp f)) f = some (.gjmp f) := by
  have h : (opxN f == 0) = true := fullOk_opx (x := (accepts (.gjmp f)).get rfl) w
  simp [fullInstr, opFull, h]
theorem opx_gjmpRel (f : Full) (w : (Instr.gjmpRel f).WellFormed) : fullInstr (opFull (.gjmpRel f)) f = some (.gjmpRel f) := by
  have h : (opxN f == 1) = true := fullOk_opx (x := (accepts (.gjmpRel f)).get rfl) w
  simp [fullInstr, opFull, eq_of_beq h]
theorem opx_likeSite (f : Full) (w : (Instr.likeSite f).WellFormed) : fullInstr (opFull (.likeSite f)) f = some (.likeSite f) := by
  have h : (opxN f == 0) = true := fullOk_opx (x := (accepts (.likeSite f)).get rfl) w
  simp [fullInstr, opFull, h]
theorem opx_likeTask (f : Full) (w : (Instr.likeTask f).WellFormed) : fullInstr (opFull (.likeTask f)) f = some (.likeTask f) := by
  have h : (opxN f == 1) = true := fullOk_opx (x := (accepts (.likeTask f)).get rfl) w
  simp [fullInstr, opFull, eq_of_beq h]
theorem opx_likeSeed (f : Full) (w : (Instr.likeSeed f).WellFormed) : fullInstr (opFull (.likeSeed f)) f = some (.likeSeed f) := by
  have h : (opxN f == 2) = true := fullOk_opx (x := (accepts (.likeSeed f)).get rfl) w
  simp [fullInstr, opFull, eq_of_beq h]
theorem opx_copyIn (f : Full) (w : (Instr.copyIn f).WellFormed) : fullInstr (opFull (.copyIn f)) f = some (.copyIn f) := by
  have h : ((accCopy f).opx && !(opxB f 0)) = true := fullOk_opx (x := (accepts (.copyIn f)).get rfl) w
  simp at h; simp [fullInstr, opFull, h.2]
theorem opx_copyOut (f : Full) (w : (Instr.copyOut f).WellFormed) : fullInstr (opFull (.copyOut f)) f = some (.copyOut f) := by
  have h : ((accCopy f).opx && opxB f 0) = true := fullOk_opx (x := (accepts (.copyOut f)).get rfl) w
  simp at h; simp [fullInstr, opFull, h.2]
theorem opx_mma (f : Full) (w : (Instr.mma f).WellFormed) : fullInstr (opFull (.mma f)) f = some (.mma f) := by
  have h : (opxN f == 0) = true := fullOk_opx (x := (accepts (.mma f)).get rfl) w
  have z : opxB f 3 = false := by
    have : f.opx = 0 := BitVec.eq_of_toNat_eq (eq_of_beq h)
    simp [opxB, this]
  simp [fullInstr, opFull, z]
theorem opx_mmaR (f : Full) (w : (Instr.mmaR f).WellFormed) : fullInstr (opFull (.mmaR f)) f = some (.mmaR f) := by
  have h : (opxB f 3 && opxN f < 32) = true := fullOk_opx (x := (accepts (.mmaR f)).get rfl) w
  simp at h; simp [fullInstr, opFull, h.1]
/-! ### One lemma per constructor -/

theorem Opcode.mov (f : Full) : Opcode.Statement (.mov f) :=
  Opcode.ofFull rfl rfl rfl (fun _ => rfl) (of_decide_eq_true rfl)
theorem Opcode.sel (f : Full) : Opcode.Statement (.sel f) :=
  Opcode.ofFull rfl rfl rfl (fun _ => rfl) (of_decide_eq_true rfl)
theorem Opcode.add (f : Full) : Opcode.Statement (.add f) :=
  Opcode.ofFull rfl rfl rfl (fun _ => rfl) (of_decide_eq_true rfl)
theorem Opcode.sub (f : Full) : Opcode.Statement (.sub f) :=
  Opcode.ofFull rfl rfl rfl (fun _ => rfl) (of_decide_eq_true rfl)
theorem Opcode.mul (f : Full) : Opcode.Statement (.mul f) :=
  Opcode.ofFull rfl rfl rfl (fun _ => rfl) (of_decide_eq_true rfl)
theorem Opcode.mulh (f : Full) : Opcode.Statement (.mulh f) :=
  Opcode.ofFull rfl rfl rfl (fun _ => rfl) (of_decide_eq_true rfl)
theorem Opcode.mad (f : Full) : Opcode.Statement (.mad f) :=
  Opcode.ofFull rfl rfl rfl (fun _ => rfl) (of_decide_eq_true rfl)
theorem Opcode.div (f : Full) : Opcode.Statement (.div f) :=
  Opcode.ofFull rfl rfl rfl (fun _ => rfl) (of_decide_eq_true rfl)
theorem Opcode.rem (f : Full) : Opcode.Statement (.rem f) :=
  Opcode.ofFull rfl rfl rfl (fun _ => rfl) (of_decide_eq_true rfl)
theorem Opcode.min (f : Full) : Opcode.Statement (.min f) :=
  Opcode.ofFull rfl rfl rfl (fun _ => rfl) (of_decide_eq_true rfl)
theorem Opcode.max (f : Full) : Opcode.Statement (.max f) :=
  Opcode.ofFull rfl rfl rfl (fun _ => rfl) (of_decide_eq_true rfl)
theorem Opcode.abs (f : Full) : Opcode.Statement (.abs f) :=
  Opcode.ofFull rfl rfl rfl (fun _ => rfl) (of_decide_eq_true rfl)
theorem Opcode.neg (f : Full) : Opcode.Statement (.neg f) :=
  Opcode.ofFull rfl rfl rfl (fun _ => rfl) (of_decide_eq_true rfl)
theorem Opcode.and (f : Full) : Opcode.Statement (.and f) :=
  Opcode.ofFull rfl rfl rfl (fun _ => rfl) (of_decide_eq_true rfl)
theorem Opcode.or (f : Full) : Opcode.Statement (.or f) :=
  Opcode.ofFull rfl rfl rfl (fun _ => rfl) (of_decide_eq_true rfl)
theorem Opcode.xor (f : Full) : Opcode.Statement (.xor f) :=
  Opcode.ofFull rfl rfl rfl (fun _ => rfl) (of_decide_eq_true rfl)
theorem Opcode.andn (f : Full) : Opcode.Statement (.andn f) :=
  Opcode.ofFull rfl rfl rfl (fun _ => rfl) (of_decide_eq_true rfl)
theorem Opcode.not (f : Full) : Opcode.Statement (.not f) :=
  Opcode.ofFull rfl rfl rfl (fun _ => rfl) (of_decide_eq_true rfl)
theorem Opcode.shl (f : Full) : Opcode.Statement (.shl f) :=
  Opcode.ofFull rfl rfl rfl (fun _ => rfl) (of_decide_eq_true rfl)
theorem Opcode.shrl (f : Full) : Opcode.Statement (.shrl f) :=
  Opcode.ofFull rfl rfl rfl (fun _ => rfl) (of_decide_eq_true rfl)
theorem Opcode.shra (f : Full) : Opcode.Statement (.shra f) :=
  Opcode.ofFull rfl rfl rfl (fun _ => rfl) (of_decide_eq_true rfl)
theorem Opcode.rotl (f : Full) : Opcode.Statement (.rotl f) :=
  Opcode.ofFull rfl rfl rfl (fun _ => rfl) (of_decide_eq_true rfl)
theorem Opcode.bfx (f : Full) : Opcode.Statement (.bfx f) :=
  Opcode.ofFull rfl rfl rfl (fun _ => rfl) (of_decide_eq_true rfl)
theorem Opcode.bfi (f : Full) : Opcode.Statement (.bfi f) :=
  Opcode.ofFull rfl rfl rfl (fun _ => rfl) (of_decide_eq_true rfl)
theorem Opcode.perm (f : Full) : Opcode.Statement (.perm f) :=
  Opcode.ofFull rfl rfl rfl (fun _ => rfl) (of_decide_eq_true rfl)
theorem Opcode.clz (f : Full) : Opcode.Statement (.clz f) :=
  Opcode.ofFull rfl rfl rfl (fun _ => rfl) (of_decide_eq_true rfl)
theorem Opcode.popc (f : Full) : Opcode.Statement (.popc f) :=
  Opcode.ofFull rfl rfl rfl (fun _ => rfl) (of_decide_eq_true rfl)
theorem Opcode.brev (f : Full) : Opcode.Statement (.brev f) :=
  Opcode.ofFull rfl rfl rfl (fun _ => rfl) (of_decide_eq_true rfl)
theorem Opcode.lea (f : Full) : Opcode.Statement (.lea f) :=
  Opcode.ofFull rfl rfl rfl (fun _ => rfl) (of_decide_eq_true rfl)
theorem Opcode.addD (f : Full) : Opcode.Statement (.addD f) :=
  Opcode.ofFull rfl rfl rfl (fun _ => rfl) (of_decide_eq_true rfl)
theorem Opcode.setp (f : Full) : Opcode.Statement (.setp f) :=
  Opcode.ofFull rfl rfl rfl (fun _ => rfl) (of_decide_eq_true rfl)
theorem Opcode.pand (f : Full) : Opcode.Statement (.pand f) :=
  Opcode.ofFull rfl rfl rfl (fun _ => rfl) (of_decide_eq_true rfl)
theorem Opcode.por (f : Full) : Opcode.Statement (.por f) :=
  Opcode.ofFull rfl rfl rfl (fun _ => rfl) (of_decide_eq_true rfl)
theorem Opcode.pxor (f : Full) : Opcode.Statement (.pxor f) :=
  Opcode.ofFull rfl rfl rfl (fun _ => rfl) (of_decide_eq_true rfl)
theorem Opcode.pnot (f : Full) : Opcode.Statement (.pnot f) :=
  Opcode.ofFull rfl rfl rfl (fun _ => rfl) (of_decide_eq_true rfl)
theorem Opcode.movi (x : Imm) : Opcode.Statement (.movi x) :=
  Opcode.ofImm rfl rfl rfl rfl (of_decide_eq_true rfl)
theorem Opcode.addi (x : Imm) : Opcode.Statement (.addi x) :=
  Opcode.ofImm rfl rfl rfl rfl (of_decide_eq_true rfl)
theorem Opcode.bra (x : Imm) : Opcode.Statement (.bra x) :=
  Opcode.ofImm rfl rfl rfl rfl (of_decide_eq_true rfl)
theorem Opcode.brc (x : Imm) : Opcode.Statement (.brc x) :=
  Opcode.ofImm rfl rfl rfl rfl (of_decide_eq_true rfl)
theorem Opcode.call (x : Imm) : Opcode.Statement (.call x) :=
  Opcode.ofImm rfl rfl rfl rfl (of_decide_eq_true rfl)
theorem Opcode.calli (f : Full) : Opcode.Statement (.calli f) :=
  Opcode.ofFull rfl rfl rfl (fun _ => rfl) (of_decide_eq_true rfl)
theorem Opcode.ret (f : Full) : Opcode.Statement (.ret f) :=
  Opcode.ofFull rfl rfl rfl (fun _ => rfl) (of_decide_eq_true rfl)
theorem Opcode.loop (x : Imm) : Opcode.Statement (.loop x) :=
  Opcode.ofImm rfl rfl rfl rfl (of_decide_eq_true rfl)
theorem Opcode.lend (x : Imm) : Opcode.Statement (.lend x) :=
  Opcode.ofImm rfl rfl rfl rfl (of_decide_eq_true rfl)
theorem Opcode.exit (f : Full) : Opcode.Statement (.exit f) :=
  Opcode.ofFull rfl rfl rfl (fun _ => rfl) (of_decide_eq_true rfl)
theorem Opcode.nop (f : Full) : Opcode.Statement (.nop f) :=
  Opcode.ofFull rfl rfl rfl (fun _ => rfl) (of_decide_eq_true rfl)
theorem Opcode.gfetch (f : Full) : Opcode.Statement (.gfetch f) :=
  Opcode.ofFull rfl rfl rfl (fun _ => rfl) (of_decide_eq_true rfl)
theorem Opcode.dispatchOp (f : Full) : Opcode.Statement (.dispatchOp f) :=
  Opcode.ofFull rfl rfl rfl (opx_dispatchOp f) (of_decide_eq_true rfl)
theorem Opcode.dispatchPc (f : Full) : Opcode.Statement (.dispatchPc f) :=
  Opcode.ofFull rfl rfl rfl (opx_dispatchPc f) (of_decide_eq_true rfl)
theorem Opcode.gnext (f : Full) : Opcode.Statement (.gnext f) :=
  Opcode.ofFull rfl rfl rfl (fun _ => rfl) (of_decide_eq_true rfl)
theorem Opcode.gjmp (f : Full) : Opcode.Statement (.gjmp f) :=
  Opcode.ofFull rfl rfl rfl (opx_gjmp f) (of_decide_eq_true rfl)
theorem Opcode.gjmpRel (f : Full) : Opcode.Statement (.gjmpRel f) :=
  Opcode.ofFull rfl rfl rfl (opx_gjmpRel f) (of_decide_eq_true rfl)
theorem Opcode.gbrc (f : Full) : Opcode.Statement (.gbrc f) :=
  Opcode.ofFull rfl rfl rfl (fun _ => rfl) (of_decide_eq_true rfl)
theorem Opcode.gset (f : Full) : Opcode.Statement (.gset f) :=
  Opcode.ofFull rfl rfl rfl (fun _ => rfl) (of_decide_eq_true rfl)
theorem Opcode.gget (f : Full) : Opcode.Statement (.gget f) :=
  Opcode.ofFull rfl rfl rfl (fun _ => rfl) (of_decide_eq_true rfl)
theorem Opcode.fadd (f : Full) : Opcode.Statement (.fadd f) :=
  Opcode.ofFull rfl rfl rfl (fun _ => rfl) (of_decide_eq_true rfl)
theorem Opcode.fsub (f : Full) : Opcode.Statement (.fsub f) :=
  Opcode.ofFull rfl rfl rfl (fun _ => rfl) (of_decide_eq_true rfl)
theorem Opcode.fmul (f : Full) : Opcode.Statement (.fmul f) :=
  Opcode.ofFull rfl rfl rfl (fun _ => rfl) (of_decide_eq_true rfl)
theorem Opcode.ffma (f : Full) : Opcode.Statement (.ffma f) :=
  Opcode.ofFull rfl rfl rfl (fun _ => rfl) (of_decide_eq_true rfl)
theorem Opcode.fmin (f : Full) : Opcode.Statement (.fmin f) :=
  Opcode.ofFull rfl rfl rfl (fun _ => rfl) (of_decide_eq_true rfl)
theorem Opcode.fmax (f : Full) : Opcode.Statement (.fmax f) :=
  Opcode.ofFull rfl rfl rfl (fun _ => rfl) (of_decide_eq_true rfl)
theorem Opcode.fsetp (f : Full) : Opcode.Statement (.fsetp f) :=
  Opcode.ofFull rfl rfl rfl (fun _ => rfl) (of_decide_eq_true rfl)
theorem Opcode.fclass (f : Full) : Opcode.Statement (.fclass f) :=
  Opcode.ofFull rfl rfl rfl (fun _ => rfl) (of_decide_eq_true rfl)
theorem Opcode.cvt (f : Full) : Opcode.Statement (.cvt f) :=
  Opcode.ofFull rfl rfl rfl (fun _ => rfl) (of_decide_eq_true rfl)
theorem Opcode.cvtpk (f : Full) : Opcode.Statement (.cvtpk f) :=
  Opcode.ofFull rfl rfl rfl (fun _ => rfl) (of_decide_eq_true rfl)
theorem Opcode.cvtup (f : Full) : Opcode.Statement (.cvtup f) :=
  Opcode.ofFull rfl rfl rfl (fun _ => rfl) (of_decide_eq_true rfl)
theorem Opcode.cvtSr (f : Full) : Opcode.Statement (.cvtSr f) :=
  Opcode.ofFull rfl rfl rfl (fun _ => rfl) (of_decide_eq_true rfl)
theorem Opcode.cvtpkSr (f : Full) : Opcode.Statement (.cvtpkSr f) :=
  Opcode.ofFull rfl rfl rfl (fun _ => rfl) (of_decide_eq_true rfl)
theorem Opcode.padd2 (f : Full) : Opcode.Statement (.padd2 f) :=
  Opcode.ofFull rfl rfl rfl (fun _ => rfl) (of_decide_eq_true rfl)
theorem Opcode.pmul2 (f : Full) : Opcode.Statement (.pmul2 f) :=
  Opcode.ofFull rfl rfl rfl (fun _ => rfl) (of_decide_eq_true rfl)
theorem Opcode.pfma2 (f : Full) : Opcode.Statement (.pfma2 f) :=
  Opcode.ofFull rfl rfl rfl (fun _ => rfl) (of_decide_eq_true rfl)
theorem Opcode.dot2 (f : Full) : Opcode.Statement (.dot2 f) :=
  Opcode.ofFull rfl rfl rfl (fun _ => rfl) (of_decide_eq_true rfl)
theorem Opcode.dot4 (f : Full) : Opcode.Statement (.dot4 f) :=
  Opcode.ofFull rfl rfl rfl (fun _ => rfl) (of_decide_eq_true rfl)
theorem Opcode.dot8 (f : Full) : Opcode.Statement (.dot8 f) :=
  Opcode.ofFull rfl rfl rfl (fun _ => rfl) (of_decide_eq_true rfl)
theorem Opcode.fmule (f : Full) : Opcode.Statement (.fmule f) :=
  Opcode.ofFull rfl rfl rfl (fun _ => rfl) (of_decide_eq_true rfl)
theorem Opcode.rcp (f : Full) : Opcode.Statement (.rcp f) :=
  Opcode.ofFull rfl rfl rfl (fun _ => rfl) (of_decide_eq_true rfl)
theorem Opcode.rsqrt (f : Full) : Opcode.Statement (.rsqrt f) :=
  Opcode.ofFull rfl rfl rfl (fun _ => rfl) (of_decide_eq_true rfl)
theorem Opcode.sqrt (f : Full) : Opcode.Statement (.sqrt f) :=
  Opcode.ofFull rfl rfl rfl (fun _ => rfl) (of_decide_eq_true rfl)
theorem Opcode.exp2 (f : Full) : Opcode.Statement (.exp2 f) :=
  Opcode.ofFull rfl rfl rfl (fun _ => rfl) (of_decide_eq_true rfl)
theorem Opcode.log2 (f : Full) : Opcode.Statement (.log2 f) :=
  Opcode.ofFull rfl rfl rfl (fun _ => rfl) (of_decide_eq_true rfl)
theorem Opcode.tanh (f : Full) : Opcode.Statement (.tanh f) :=
  Opcode.ofFull rfl rfl rfl (fun _ => rfl) (of_decide_eq_true rfl)
theorem Opcode.sin (f : Full) : Opcode.Statement (.sin f) :=
  Opcode.ofFull rfl rfl rfl (fun _ => rfl) (of_decide_eq_true rfl)
theorem Opcode.cos (f : Full) : Opcode.Statement (.cos f) :=
  Opcode.ofFull rfl rfl rfl (fun _ => rfl) (of_decide_eq_true rfl)
theorem Opcode.tbl (f : Full) : Opcode.Statement (.tbl f) :=
  Opcode.ofFull rfl rfl rfl (fun _ => rfl) (of_decide_eq_true rfl)
theorem Opcode.tblld (f : Full) : Opcode.Statement (.tblld f) :=
  Opcode.ofFull rfl rfl rfl (fun _ => rfl) (of_decide_eq_true rfl)
theorem Opcode.tblsw (f : Full) : Opcode.Statement (.tblsw f) :=
  Opcode.ofFull rfl rfl rfl (fun _ => rfl) (of_decide_eq_true rfl)
theorem Opcode.ld (f : Full) : Opcode.Statement (.ld f) :=
  Opcode.ofFull rfl rfl rfl (fun _ => rfl) (of_decide_eq_true rfl)
theorem Opcode.ldI (f : Full) : Opcode.Statement (.ldI f) :=
  Opcode.ofFull rfl rfl rfl (fun _ => rfl) (of_decide_eq_true rfl)
theorem Opcode.st (f : Full) : Opcode.Statement (.st f) :=
  Opcode.ofFull rfl rfl rfl (fun _ => rfl) (of_decide_eq_true rfl)
theorem Opcode.stRel (f : Full) : Opcode.Statement (.stRel f) :=
  Opcode.ofFull rfl rfl rfl (fun _ => rfl) (of_decide_eq_true rfl)
theorem Opcode.atom (f : Full) : Opcode.Statement (.atom f) :=
  Opcode.ofFull rfl rfl rfl (fun _ => rfl) (of_decide_eq_true rfl)
theorem Opcode.barInit (f : Full) : Opcode.Statement (.barInit f) :=
  Opcode.ofFull rfl rfl rfl (fun _ => rfl) (of_decide_eq_true rfl)
theorem Opcode.barArrive (f : Full) : Opcode.Statement (.barArrive f) :=
  Opcode.ofFull rfl rfl rfl (fun _ => rfl) (of_decide_eq_true rfl)
theorem Opcode.barWait (f : Full) : Opcode.Statement (.barWait f) :=
  Opcode.ofFull rfl rfl rfl (fun _ => rfl) (of_decide_eq_true rfl)
theorem Opcode.barWaitAcq (f : Full) : Opcode.Statement (.barWaitAcq f) :=
  Opcode.ofFull rfl rfl rfl (fun _ => rfl) (of_decide_eq_true rfl)
theorem Opcode.barArwt (f : Full) : Opcode.Statement (.barArwt f) :=
  Opcode.ofFull rfl rfl rfl (fun _ => rfl) (of_decide_eq_true rfl)
theorem Opcode.slotClaim (f : Full) : Opcode.Statement (.slotClaim f) :=
  Opcode.ofFull rfl rfl rfl (fun _ => rfl) (of_decide_eq_true rfl)
theorem Opcode.slotTake (f : Full) : Opcode.Statement (.slotTake f) :=
  Opcode.ofFull rfl rfl rfl (fun _ => rfl) (of_decide_eq_true rfl)
theorem Opcode.slotFree (f : Full) : Opcode.Statement (.slotFree f) :=
  Opcode.ofFull rfl rfl rfl (fun _ => rfl) (of_decide_eq_true rfl)
theorem Opcode.fence (f : Full) : Opcode.Statement (.fence f) :=
  Opcode.ofFull rfl rfl rfl (fun _ => rfl) (of_decide_eq_true rfl)
theorem Opcode.sleepu (f : Full) : Opcode.Statement (.sleepu f) :=
  Opcode.ofFull rfl rfl rfl (fun _ => rfl) (of_decide_eq_true rfl)
theorem Opcode.dlset (f : Full) : Opcode.Statement (.dlset f) :=
  Opcode.ofFull rfl rfl rfl (fun _ => rfl) (of_decide_eq_true rfl)
theorem Opcode.dladd (f : Full) : Opcode.Statement (.dladd f) :=
  Opcode.ofFull rfl rfl rfl (fun _ => rfl) (of_decide_eq_true rfl)
theorem Opcode.dlget (f : Full) : Opcode.Statement (.dlget f) :=
  Opcode.ofFull rfl rfl rfl (fun _ => rfl) (of_decide_eq_true rfl)
theorem Opcode.shfl (f : Full) : Opcode.Statement (.shfl f) :=
  Opcode.ofFull rfl rfl rfl (fun _ => rfl) (of_decide_eq_true rfl)
theorem Opcode.vote (f : Full) : Opcode.Statement (.vote f) :=
  Opcode.ofFull rfl rfl rfl (fun _ => rfl) (of_decide_eq_true rfl)
theorem Opcode.redux (f : Full) : Opcode.Statement (.redux f) :=
  Opcode.ofFull rfl rfl rfl (fun _ => rfl) (of_decide_eq_true rfl)
theorem Opcode.scan (f : Full) : Opcode.Statement (.scan f) :=
  Opcode.ofFull rfl rfl rfl (fun _ => rfl) (of_decide_eq_true rfl)
theorem Opcode.sample (f : Full) : Opcode.Statement (.sample f) :=
  Opcode.ofFull rfl rfl rfl (fun _ => rfl) (of_decide_eq_true rfl)
theorem Opcode.cntfAdd (f : Full) : Opcode.Statement (.cntfAdd f) :=
  Opcode.ofFull rfl rfl rfl (fun _ => rfl) (of_decide_eq_true rfl)
theorem Opcode.cntfGet (f : Full) : Opcode.Statement (.cntfGet f) :=
  Opcode.ofFull rfl rfl rfl (fun _ => rfl) (of_decide_eq_true rfl)
theorem Opcode.cntfClr (f : Full) : Opcode.Statement (.cntfClr f) :=
  Opcode.ofFull rfl rfl rfl (fun _ => rfl) (of_decide_eq_true rfl)
theorem Opcode.copyIn (f : Full) : Opcode.Statement (.copyIn f) :=
  Opcode.ofFull rfl rfl rfl (opx_copyIn f) (of_decide_eq_true rfl)
theorem Opcode.copyOut (f : Full) : Opcode.Statement (.copyOut f) :=
  Opcode.ofFull rfl rfl rfl (opx_copyOut f) (of_decide_eq_true rfl)
theorem Opcode.copyRel (f : Full) : Opcode.Statement (.copyRel f) :=
  Opcode.ofFull rfl rfl rfl (fun _ => rfl) (of_decide_eq_true rfl)
theorem Opcode.ckick (f : Full) : Opcode.Statement (.ckick f) :=
  Opcode.ofFull rfl rfl rfl (fun _ => rfl) (of_decide_eq_true rfl)
theorem Opcode.wload (f : Full) : Opcode.Statement (.wload f) :=
  Opcode.ofFull rfl rfl rfl (fun _ => rfl) (of_decide_eq_true rfl)
theorem Opcode.mma (f : Full) : Opcode.Statement (.mma f) :=
  Opcode.ofFull rfl rfl rfl (opx_mma f) (of_decide_eq_true rfl)
theorem Opcode.mmaR (f : Full) : Opcode.Statement (.mmaR f) :=
  Opcode.ofFull rfl rfl rfl (opx_mmaR f) (of_decide_eq_true rfl)
theorem Opcode.mmap (f : Full) : Opcode.Statement (.mmap f) :=
  Opcode.ofFull rfl rfl rfl (fun _ => rfl) (of_decide_eq_true rfl)
theorem Opcode.gather (f : Full) : Opcode.Statement (.gather f) :=
  Opcode.ofFull rfl rfl rfl (fun _ => rfl) (of_decide_eq_true rfl)
theorem Opcode.coll (f : Full) : Opcode.Statement (.coll f) :=
  Opcode.ofFull rfl rfl rfl (fun _ => rfl) (of_decide_eq_true rfl)
theorem Opcode.ratom (f : Full) : Opcode.Statement (.ratom f) :=
  Opcode.ofFull rfl rfl rfl (fun _ => rfl) (of_decide_eq_true rfl)
theorem Opcode.fwait (f : Full) : Opcode.Statement (.fwait f) :=
  Opcode.ofFull rfl rfl rfl (fun _ => rfl) (of_decide_eq_true rfl)
theorem Opcode.fwaitAcq (f : Full) : Opcode.Statement (.fwaitAcq f) :=
  Opcode.ofFull rfl rfl rfl (fun _ => rfl) (of_decide_eq_true rfl)
theorem Opcode.ftest (f : Full) : Opcode.Statement (.ftest f) :=
  Opcode.ofFull rfl rfl rfl (fun _ => rfl) (of_decide_eq_true rfl)
theorem Opcode.fcancel (f : Full) : Opcode.Statement (.fcancel f) :=
  Opcode.ofFull rfl rfl rfl (fun _ => rfl) (of_decide_eq_true rfl)
theorem Opcode.ftime (f : Full) : Opcode.Statement (.ftime f) :=
  Opcode.ofFull rfl rfl rfl (fun _ => rfl) (of_decide_eq_true rfl)
theorem Opcode.fsleep (f : Full) : Opcode.Statement (.fsleep f) :=
  Opcode.ofFull rfl rfl rfl (fun _ => rfl) (of_decide_eq_true rfl)
theorem Opcode.waitn (f : Full) : Opcode.Statement (.waitn f) :=
  Opcode.ofFull rfl rfl rfl (fun _ => rfl) (of_decide_eq_true rfl)
theorem Opcode.qrd (f : Full) : Opcode.Statement (.qrd f) :=
  Opcode.ofFull rfl rfl rfl (fun _ => rfl) (of_decide_eq_true rfl)
theorem Opcode.taskTake (f : Full) : Opcode.Statement (.taskTake f) :=
  Opcode.ofFull rfl rfl rfl (fun _ => rfl) (of_decide_eq_true rfl)
theorem Opcode.taskPut (f : Full) : Opcode.Statement (.taskPut f) :=
  Opcode.ofFull rfl rfl rfl (fun _ => rfl) (of_decide_eq_true rfl)
theorem Opcode.taskDone (f : Full) : Opcode.Statement (.taskDone f) :=
  Opcode.ofFull rfl rfl rfl (fun _ => rfl) (of_decide_eq_true rfl)
theorem Opcode.taskDep (f : Full) : Opcode.Statement (.taskDep f) :=
  Opcode.ofFull rfl rfl rfl (fun _ => rfl) (of_decide_eq_true rfl)
theorem Opcode.taskCoord (f : Full) : Opcode.Statement (.taskCoord f) :=
  Opcode.ofFull rfl rfl rfl (fun _ => rfl) (of_decide_eq_true rfl)
theorem Opcode.taskWaitf (f : Full) : Opcode.Statement (.taskWaitf f) :=
  Opcode.ofFull rfl rfl rfl (fun _ => rfl) (of_decide_eq_true rfl)
theorem Opcode.spawn (f : Full) : Opcode.Statement (.spawn f) :=
  Opcode.ofFull rfl rfl rfl (fun _ => rfl) (of_decide_eq_true rfl)
theorem Opcode.condNew (f : Full) : Opcode.Statement (.condNew f) :=
  Opcode.ofFull rfl rfl rfl (fun _ => rfl) (of_decide_eq_true rfl)
theorem Opcode.condSet (f : Full) : Opcode.Statement (.condSet f) :=
  Opcode.ofFull rfl rfl rfl (fun _ => rfl) (of_decide_eq_true rfl)
theorem Opcode.likeSite (f : Full) : Opcode.Statement (.likeSite f) :=
  Opcode.ofFull rfl rfl rfl (opx_likeSite f) (of_decide_eq_true rfl)
theorem Opcode.likeTask (f : Full) : Opcode.Statement (.likeTask f) :=
  Opcode.ofFull rfl rfl rfl (opx_likeTask f) (of_decide_eq_true rfl)
theorem Opcode.likeSeed (f : Full) : Opcode.Statement (.likeSeed f) :=
  Opcode.ofFull rfl rfl rfl (opx_likeSeed f) (of_decide_eq_true rfl)
theorem Opcode.trap (f : Full) : Opcode.Statement (.trap f) :=
  Opcode.ofFull rfl rfl rfl (fun _ => rfl) (of_decide_eq_true rfl)
theorem Opcode.bkpt (f : Full) : Opcode.Statement (.bkpt f) :=
  Opcode.ofFull rfl rfl rfl (fun _ => rfl) (of_decide_eq_true rfl)
theorem Opcode.phint (f : Full) : Opcode.Statement (.phint f) :=
  Opcode.ofFull rfl rfl rfl (fun _ => rfl) (of_decide_eq_true rfl)
theorem Opcode.yield (f : Full) : Opcode.Statement (.yield f) :=
  Opcode.ofFull rfl rfl rfl (fun _ => rfl) (of_decide_eq_true rfl)
theorem Opcode.sysr (f : Full) : Opcode.Statement (.sysr f) :=
  Opcode.ofFull rfl rfl rfl (fun _ => rfl) (of_decide_eq_true rfl)
theorem Opcode.sysw (f : Full) : Opcode.Statement (.sysw f) :=
  Opcode.ofFull rfl rfl rfl (fun _ => rfl) (of_decide_eq_true rfl)
theorem Opcode.supPwait (f : Full) : Opcode.Statement (.supPwait f) :=
  Opcode.ofFull rfl rfl rfl (fun _ => rfl) (of_decide_eq_true rfl)
theorem Opcode.supPrd (f : Full) : Opcode.Statement (.supPrd f) :=
  Opcode.ofFull rfl rfl rfl (fun _ => rfl) (of_decide_eq_true rfl)
theorem Opcode.supPwr (f : Full) : Opcode.Statement (.supPwr f) :=
  Opcode.ofFull rfl rfl rfl (fun _ => rfl) (of_decide_eq_true rfl)
theorem Opcode.supResume (f : Full) : Opcode.Statement (.supResume f) :=
  Opcode.ofFull rfl rfl rfl (fun _ => rfl) (of_decide_eq_true rfl)
theorem Opcode.supKill (f : Full) : Opcode.Statement (.supKill f) :=
  Opcode.ofFull rfl rfl rfl (fun _ => rfl) (of_decide_eq_true rfl)
theorem Opcode.supSave (f : Full) : Opcode.Statement (.supSave f) :=
  Opcode.ofFull rfl rfl rfl (fun _ => rfl) (of_decide_eq_true rfl)
theorem Opcode.supLoad (f : Full) : Opcode.Statement (.supLoad f) :=
  Opcode.ofFull rfl rfl rfl (fun _ => rfl) (of_decide_eq_true rfl)
theorem Opcode.pairedMovB32 (h : Half) : Opcode.Statement (.pairedMovB32 h) :=
  Opcode.ofHalf rfl rfl rfl rfl (of_decide_eq_true rfl)
theorem Opcode.pairedAddS32 (h : Half) : Opcode.Statement (.pairedAddS32 h) :=
  Opcode.ofHalf rfl rfl rfl rfl (of_decide_eq_true rfl)
theorem Opcode.pairedSubS32 (h : Half) : Opcode.Statement (.pairedSubS32 h) :=
  Opcode.ofHalf rfl rfl rfl rfl (of_decide_eq_true rfl)
theorem Opcode.pairedMulS32 (h : Half) : Opcode.Statement (.pairedMulS32 h) :=
  Opcode.ofHalf rfl rfl rfl rfl (of_decide_eq_true rfl)
theorem Opcode.pairedMinS32 (h : Half) : Opcode.Statement (.pairedMinS32 h) :=
  Opcode.ofHalf rfl rfl rfl rfl (of_decide_eq_true rfl)
theorem Opcode.pairedMaxS32 (h : Half) : Opcode.Statement (.pairedMaxS32 h) :=
  Opcode.ofHalf rfl rfl rfl rfl (of_decide_eq_true rfl)
theorem Opcode.pairedMinN32 (h : Half) : Opcode.Statement (.pairedMinN32 h) :=
  Opcode.ofHalf rfl rfl rfl rfl (of_decide_eq_true rfl)
theorem Opcode.pairedMaxN32 (h : Half) : Opcode.Statement (.pairedMaxN32 h) :=
  Opcode.ofHalf rfl rfl rfl rfl (of_decide_eq_true rfl)
theorem Opcode.pairedAndB32 (h : Half) : Opcode.Statement (.pairedAndB32 h) :=
  Opcode.ofHalf rfl rfl rfl rfl (of_decide_eq_true rfl)
theorem Opcode.pairedOrB32 (h : Half) : Opcode.Statement (.pairedOrB32 h) :=
  Opcode.ofHalf rfl rfl rfl rfl (of_decide_eq_true rfl)
theorem Opcode.pairedXorB32 (h : Half) : Opcode.Statement (.pairedXorB32 h) :=
  Opcode.ofHalf rfl rfl rfl rfl (of_decide_eq_true rfl)
theorem Opcode.pairedAndnB32 (h : Half) : Opcode.Statement (.pairedAndnB32 h) :=
  Opcode.ofHalf rfl rfl rfl rfl (of_decide_eq_true rfl)
theorem Opcode.pairedNotB32 (h : Half) : Opcode.Statement (.pairedNotB32 h) :=
  Opcode.ofHalf rfl rfl rfl rfl (of_decide_eq_true rfl)
theorem Opcode.pairedShlB32 (h : Half) : Opcode.Statement (.pairedShlB32 h) :=
  Opcode.ofHalf rfl rfl rfl rfl (of_decide_eq_true rfl)
theorem Opcode.pairedShrlB32 (h : Half) : Opcode.Statement (.pairedShrlB32 h) :=
  Opcode.ofHalf rfl rfl rfl rfl (of_decide_eq_true rfl)
theorem Opcode.pairedShraS32 (h : Half) : Opcode.Statement (.pairedShraS32 h) :=
  Opcode.ofHalf rfl rfl rfl rfl (of_decide_eq_true rfl)
theorem Opcode.pairedRotlB32 (h : Half) : Opcode.Statement (.pairedRotlB32 h) :=
  Opcode.ofHalf rfl rfl rfl rfl (of_decide_eq_true rfl)
theorem Opcode.pairedPermB32 (h : Half) : Opcode.Statement (.pairedPermB32 h) :=
  Opcode.ofHalf rfl rfl rfl rfl (of_decide_eq_true rfl)
theorem Opcode.pairedClzB32 (h : Half) : Opcode.Statement (.pairedClzB32 h) :=
  Opcode.ofHalf rfl rfl rfl rfl (of_decide_eq_true rfl)
theorem Opcode.pairedPopcB32 (h : Half) : Opcode.Statement (.pairedPopcB32 h) :=
  Opcode.ofHalf rfl rfl rfl rfl (of_decide_eq_true rfl)
theorem Opcode.pairedBrevB32 (h : Half) : Opcode.Statement (.pairedBrevB32 h) :=
  Opcode.ofHalf rfl rfl rfl rfl (of_decide_eq_true rfl)
theorem Opcode.pairedNegS32 (h : Half) : Opcode.Statement (.pairedNegS32 h) :=
  Opcode.ofHalf rfl rfl rfl rfl (of_decide_eq_true rfl)
theorem Opcode.pairedAbsS32 (h : Half) : Opcode.Statement (.pairedAbsS32 h) :=
  Opcode.ofHalf rfl rfl rfl rfl (of_decide_eq_true rfl)
theorem Opcode.pairedFaddF32 (h : Half) : Opcode.Statement (.pairedFaddF32 h) :=
  Opcode.ofHalf rfl rfl rfl rfl (of_decide_eq_true rfl)
theorem Opcode.pairedFsubF32 (h : Half) : Opcode.Statement (.pairedFsubF32 h) :=
  Opcode.ofHalf rfl rfl rfl rfl (of_decide_eq_true rfl)
theorem Opcode.pairedFmulF32 (h : Half) : Opcode.Statement (.pairedFmulF32 h) :=
  Opcode.ofHalf rfl rfl rfl rfl (of_decide_eq_true rfl)
theorem Opcode.pairedFminF32 (h : Half) : Opcode.Statement (.pairedFminF32 h) :=
  Opcode.ofHalf rfl rfl rfl rfl (of_decide_eq_true rfl)
theorem Opcode.pairedFmaxF32 (h : Half) : Opcode.Statement (.pairedFmaxF32 h) :=
  Opcode.ofHalf rfl rfl rfl rfl (of_decide_eq_true rfl)
theorem Opcode.pairedPadd2Bf16 (h : Half) : Opcode.Statement (.pairedPadd2Bf16 h) :=
  Opcode.ofHalf rfl rfl rfl rfl (of_decide_eq_true rfl)
theorem Opcode.pairedPmul2Bf16 (h : Half) : Opcode.Statement (.pairedPmul2Bf16 h) :=
  Opcode.ofHalf rfl rfl rfl rfl (of_decide_eq_true rfl)
theorem Opcode.pairedPadd2F16 (h : Half) : Opcode.Statement (.pairedPadd2F16 h) :=
  Opcode.ofHalf rfl rfl rfl rfl (of_decide_eq_true rfl)
theorem Opcode.pairedPmul2F16 (h : Half) : Opcode.Statement (.pairedPmul2F16 h) :=
  Opcode.ofHalf rfl rfl rfl rfl (of_decide_eq_true rfl)
theorem Opcode.pairedPand (h : Half) : Opcode.Statement (.pairedPand h) :=
  Opcode.ofHalf rfl rfl rfl rfl (of_decide_eq_true rfl)
theorem Opcode.pairedPor (h : Half) : Opcode.Statement (.pairedPor h) :=
  Opcode.ofHalf rfl rfl rfl rfl (of_decide_eq_true rfl)
theorem Opcode.pairedPxor (h : Half) : Opcode.Statement (.pairedPxor h) :=
  Opcode.ofHalf rfl rfl rfl rfl (of_decide_eq_true rfl)
theorem Opcode.pairedPnot (h : Half) : Opcode.Statement (.pairedPnot h) :=
  Opcode.ofHalf rfl rfl rfl rfl (of_decide_eq_true rfl)
theorem Opcode.pairedSetpEq (h : Half) : Opcode.Statement (.pairedSetpEq h) :=
  Opcode.ofHalf rfl rfl rfl rfl (of_decide_eq_true rfl)
theorem Opcode.pairedSetpNe (h : Half) : Opcode.Statement (.pairedSetpNe h) :=
  Opcode.ofHalf rfl rfl rfl rfl (of_decide_eq_true rfl)
theorem Opcode.pairedSetpLt (h : Half) : Opcode.Statement (.pairedSetpLt h) :=
  Opcode.ofHalf rfl rfl rfl rfl (of_decide_eq_true rfl)
theorem Opcode.pairedSetpLe (h : Half) : Opcode.Statement (.pairedSetpLe h) :=
  Opcode.ofHalf rfl rfl rfl rfl (of_decide_eq_true rfl)
theorem Opcode.pairedSetpGt (h : Half) : Opcode.Statement (.pairedSetpGt h) :=
  Opcode.ofHalf rfl rfl rfl rfl (of_decide_eq_true rfl)
theorem Opcode.pairedSetpGe (h : Half) : Opcode.Statement (.pairedSetpGe h) :=
  Opcode.ofHalf rfl rfl rfl rfl (of_decide_eq_true rfl)
theorem Opcode.pairedFsetpLt (h : Half) : Opcode.Statement (.pairedFsetpLt h) :=
  Opcode.ofHalf rfl rfl rfl rfl (of_decide_eq_true rfl)
theorem Opcode.pairedFsetpLe (h : Half) : Opcode.Statement (.pairedFsetpLe h) :=
  Opcode.ofHalf rfl rfl rfl rfl (of_decide_eq_true rfl)
theorem Opcode.pairedFsetpEq (h : Half) : Opcode.Statement (.pairedFsetpEq h) :=
  Opcode.ofHalf rfl rfl rfl rfl (of_decide_eq_true rfl)
theorem Opcode.pagerCompletion (die : Nat) (v : Nat) : Opcode.Statement (.pagerCompletion die v) :=
  Opcode.ofNone rfl rfl rfl
theorem Opcode.coreRetirement (c : Nat) (hard : Bool) : Opcode.Statement (.coreRetirement c hard) :=
  Opcode.ofNone rfl rfl rfl
theorem Opcode.singleBitError (unit : Nat) (m : ErrMem) : Opcode.Statement (.singleBitError unit m) :=
  Opcode.ofNone rfl rfl rfl
theorem Opcode.doubleBitError (unit : Nat) (m : ErrMem) (victim : Nat) : Opcode.Statement (.doubleBitError unit m victim) :=
  Opcode.ofNone rfl rfl rfl
theorem Opcode.ifetchParityError (c : Nat) : Opcode.Statement (.ifetchParityError c) :=
  Opcode.ofNone rfl rfl rfl
theorem Opcode.ifetchRefetchComplete (c : Nat) (ok : Bool) : Opcode.Statement (.ifetchRefetchComplete c ok) :=
  Opcode.ofNone rfl rfl rfl
theorem Opcode.hbmRowSpare (stack : Nat) (chan : Nat) (bank : Nat) (row : Nat) : Opcode.Statement (.hbmRowSpare stack chan bank row) :=
  Opcode.ofNone rfl rfl rfl
theorem Opcode.hbmChannelSpare (stack : Nat) (chan : Nat) : Opcode.Statement (.hbmChannelSpare stack chan) :=
  Opcode.ofNone rfl rfl rfl
theorem Opcode.laneFailure (port : Nat) (half : Nat) : Opcode.Statement (.laneFailure port half) :=
  Opcode.ofNone rfl rfl rfl
theorem Opcode.laneRestore (port : Nat) (half : Nat) (lanes : Nat) : Opcode.Statement (.laneRestore port half lanes) :=
  Opcode.ofNone rfl rfl rfl
theorem Opcode.telemInterval (x : TelemInput) : Opcode.Statement (.telemInterval x) :=
  Opcode.ofNone rfl rfl rfl
theorem Opcode.thermalShutdown (x : TelemInput) : Opcode.Statement (.thermalShutdown x) :=
  Opcode.ofNone rfl rfl rfl
theorem Opcode.fwLoad (img : FwImage) : Opcode.Statement (.fwLoad img) :=
  Opcode.ofNone rfl rfl rfl
theorem Opcode.attreqGo (v : Nat) : Opcode.Statement (.attreqGo v) :=
  Opcode.ofNone rfl rfl rfl
theorem Opcode.ptpFirstLock (ptp : Nat) : Opcode.Statement (.ptpFirstLock ptp) :=
  Opcode.ofNone rfl rfl rfl
theorem Opcode.notifyWrite (v : Nat) : Opcode.Statement (.notifyWrite v) :=
  Opcode.ofNone rfl rfl rfl
theorem Opcode.qtailWrite (q : Nat) (v : Nat) : Opcode.Statement (.qtailWrite q v) :=
  Opcode.ofNone rfl rfl rfl
theorem Opcode.mailboxWrite (m : Nat) (full : Bool) (v : Nat) : Opcode.Statement (.mailboxWrite m full v) :=
  Opcode.ofNone rfl rfl rfl
theorem Opcode.featureGo (v : Nat) : Opcode.Statement (.featureGo v) :=
  Opcode.ofNone rfl rfl rfl
theorem Opcode.kickWrite (sm : Nat) (v : Nat) : Opcode.Statement (.kickWrite sm v) :=
  Opcode.ofNone rfl rfl rfl
theorem Opcode.kstatRead (sm : Nat) : Opcode.Statement (.kstatRead sm) :=
  Opcode.ofNone rfl rfl rfl
theorem Opcode.shootdownGo (v : Nat) : Opcode.Statement (.shootdownGo v) :=
  Opcode.ofNone rfl rfl rfl
theorem Opcode.haltrGo (c : Nat) (v : Nat) : Opcode.Statement (.haltrGo c v) :=
  Opcode.ofNone rfl rfl rfl
theorem Opcode.trdropRead (c : Nat) : Opcode.Statement (.trdropRead c) :=
  Opcode.ofNone rfl rfl rfl
theorem Opcode.svfaultCtlRead (c : Nat) : Opcode.Statement (.svfaultCtlRead c) :=
  Opcode.ofNone rfl rfl rfl
theorem Opcode.registerWrite (off : Nat) (v : Nat) : Opcode.Statement (.registerWrite off v) :=
  Opcode.ofNone rfl rfl rfl
theorem Opcode.plinthParameterWrite (p : Param) (v : Nat) : Opcode.Statement (.plinthParameterWrite p v) :=
  Opcode.ofNone rfl rfl rfl
theorem Opcode.collPeerArrival (x : PeerMsg) : Opcode.Statement (.collPeerArrival x) :=
  Opcode.ofNone rfl rfl rfl
theorem Opcode.systemCoreMemoryAccess (store : Bool) (addr : Nat) (size : Nat) (v : Nat) : Opcode.Statement (.systemCoreMemoryAccess store addr size v) :=
  Opcode.ofNone rfl rfl rfl
theorem Opcode.winnowerChoice : Opcode.Statement (.winnowerChoice) :=
  Opcode.ofNone rfl rfl rfl
theorem Opcode.traceIntervalEnd : Opcode.Statement (.traceIntervalEnd) :=
  Opcode.ofNone rfl rfl rfl
theorem Opcode.gatherWindowExpiry : Opcode.Statement (.gatherWindowExpiry) :=
  Opcode.ofNone rfl rfl rfl
theorem Opcode.collectiveDeadlineExpiry : Opcode.Statement (.collectiveDeadlineExpiry) :=
  Opcode.ofNone rfl rfl rfl
theorem Opcode.waitDeadlineExpiry : Opcode.Statement (.waitDeadlineExpiry) :=
  Opcode.ofNone rfl rfl rfl
theorem Opcode.yieldHoldExpiry : Opcode.Statement (.yieldHoldExpiry) :=
  Opcode.ofNone rfl rfl rfl
theorem Opcode.directAccessCommit : Opcode.Statement (.directAccessCommit) :=
  Opcode.ofNone rfl rfl rfl
theorem Opcode.resultLands : Opcode.Statement (.resultLands) :=
  Opcode.ofNone rfl rfl rfl
theorem Opcode.delayedTransferArrival : Opcode.Statement (.delayedTransferArrival) :=
  Opcode.ofNone rfl rfl rfl
theorem Opcode.cntfRowServe : Opcode.Statement (.cntfRowServe) :=
  Opcode.ofNone rfl rfl rfl
theorem Opcode.engineAccept : Opcode.Statement (.engineAccept) :=
  Opcode.ofNone rfl rfl rfl
theorem Opcode.translationWalk : Opcode.Statement (.translationWalk) :=
  Opcode.ofNone rfl rfl rfl
theorem Opcode.pagerRequestPost : Opcode.Statement (.pagerRequestPost) :=
  Opcode.ofNone rfl rfl rfl
theorem Opcode.enginePartPerformed : Opcode.Statement (.enginePartPerformed) :=
  Opcode.ofNone rfl rfl rfl
theorem Opcode.postedWritePerformed : Opcode.Statement (.postedWritePerformed) :=
  Opcode.ofNone rfl rfl rfl
theorem Opcode.operationCompletion : Opcode.Statement (.operationCompletion) :=
  Opcode.ofNone rfl rfl rfl
theorem Opcode.counterReport : Opcode.Statement (.counterReport) :=
  Opcode.ofNone rfl rfl rfl
theorem Opcode.promiseTimeReached : Opcode.Statement (.promiseTimeReached) :=
  Opcode.ofNone rfl rfl rfl
theorem Opcode.engineReplyLimit : Opcode.Statement (.engineReplyLimit) :=
  Opcode.ofNone rfl rfl rfl
theorem Opcode.subarrayGate : Opcode.Statement (.subarrayGate) :=
  Opcode.ofNone rfl rfl rfl
theorem Opcode.subarrayWakeComplete : Opcode.Statement (.subarrayWakeComplete) :=
  Opcode.ofNone rfl rfl rfl
theorem Opcode.affinityWindowExpiry : Opcode.Statement (.affinityWindowExpiry) :=
  Opcode.ofNone rfl rfl rfl
theorem Opcode.tillerCommit : Opcode.Statement (.tillerCommit) :=
  Opcode.ofNone rfl rfl rfl
theorem Opcode.tillerWithdrawal : Opcode.Statement (.tillerWithdrawal) :=
  Opcode.ofNone rfl rfl rfl
theorem Opcode.wakeRecordFire : Opcode.Statement (.wakeRecordFire) :=
  Opcode.ofNone rfl rfl rfl
theorem Opcode.phintSave : Opcode.Statement (.phintSave) :=
  Opcode.ofNone rfl rfl rfl
theorem Opcode.graceDeadlineExpiry : Opcode.Statement (.graceDeadlineExpiry) :=
  Opcode.ofNone rfl rfl rfl
theorem Opcode.teamDrainComplete : Opcode.Statement (.teamDrainComplete) :=
  Opcode.ofNone rfl rfl rfl
theorem Opcode.teamRestore : Opcode.Statement (.teamRestore) :=
  Opcode.ofNone rfl rfl rfl
theorem Opcode.timeSliceBoundary : Opcode.Statement (.timeSliceBoundary) :=
  Opcode.ofNone rfl rfl rfl
theorem Opcode.parkComplete : Opcode.Statement (.parkComplete) :=
  Opcode.ofNone rfl rfl rfl
theorem Opcode.faultRecordEnqueue : Opcode.Statement (.faultRecordEnqueue) :=
  Opcode.ofNone rfl rfl rfl
theorem Opcode.teamPlacement : Opcode.Statement (.teamPlacement) :=
  Opcode.ofNone rfl rfl rfl
theorem Opcode.teamEnd : Opcode.Statement (.teamEnd) :=
  Opcode.ofNone rfl rfl rfl
theorem Opcode.launchEnd : Opcode.Statement (.launchEnd) :=
  Opcode.ofNone rfl rfl rfl
theorem Opcode.portRetrainComplete : Opcode.Statement (.portRetrainComplete) :=
  Opcode.ofNone rfl rfl rfl
theorem Opcode.clockHoldoverExpiry : Opcode.Statement (.clockHoldoverExpiry) :=
  Opcode.ofNone rfl rfl rfl
theorem Opcode.fwVerify : Opcode.Statement (.fwVerify) :=
  Opcode.ofNone rfl rfl rfl
theorem Opcode.fwShadowStart : Opcode.Statement (.fwShadowStart) :=
  Opcode.ofNone rfl rfl rfl
theorem Opcode.fwCommit : Opcode.Statement (.fwCommit) :=
  Opcode.ofNone rfl rfl rfl
theorem Opcode.fwAbort : Opcode.Statement (.fwAbort) :=
  Opcode.ofNone rfl rfl rfl
theorem Opcode.powerOnReset : Opcode.Statement (.powerOnReset) :=
  Opcode.ofNone rfl rfl rfl
theorem Opcode.ptpLockLoss : Opcode.Statement (.ptpLockLoss) :=
  Opcode.ofNone rfl rfl rfl
theorem Opcode.timept : Opcode.Statement (.timept) :=
  Opcode.ofNone rfl rfl rfl
theorem Opcode.nlatchRead : Opcode.Statement (.nlatchRead) :=
  Opcode.ofNone rfl rfl rfl
theorem Opcode.plinthWake : Opcode.Statement (.plinthWake) :=
  Opcode.ofNone rfl rfl rfl
theorem Opcode.packetStart : Opcode.Statement (.packetStart) :=
  Opcode.ofNone rfl rfl rfl
theorem Opcode.consumeDeadlineExpiry : Opcode.Statement (.consumeDeadlineExpiry) :=
  Opcode.ofNone rfl rfl rfl
theorem Opcode.packetProduce : Opcode.Statement (.packetProduce) :=
  Opcode.ofNone rfl rfl rfl
theorem Opcode.produceDeadlineExpiry : Opcode.Statement (.produceDeadlineExpiry) :=
  Opcode.ofNone rfl rfl rfl
theorem Opcode.nopPacket : Opcode.Statement (.nopPacket) :=
  Opcode.ofNone rfl rfl rfl
theorem Opcode.launch : Opcode.Statement (.launch) :=
  Opcode.ofNone rfl rfl rfl
theorem Opcode.mqload : Opcode.Statement (.mqload) :=
  Opcode.ofNone rfl rfl rfl
theorem Opcode.mqunload : Opcode.Statement (.mqunload) :=
  Opcode.ofNone rfl rfl rfl
theorem Opcode.mqkick : Opcode.Statement (.mqkick) :=
  Opcode.ofNone rfl rfl rfl
theorem Opcode.preempt : Opcode.Statement (.preempt) :=
  Opcode.ofNone rfl rfl rfl
theorem Opcode.restore : Opcode.Statement (.restore) :=
  Opcode.ofNone rfl rfl rfl
theorem Opcode.supplace : Opcode.Statement (.supplace) :=
  Opcode.ofNone rfl rfl rfl
theorem Opcode.kickDepart : Opcode.Statement (.kickDepart) :=
  Opcode.ofNone rfl rfl rfl
theorem Opcode.shootdownDone : Opcode.Statement (.shootdownDone) :=
  Opcode.ofNone rfl rfl rfl
theorem Opcode.ptpLockRegained : Opcode.Statement (.ptpLockRegained) :=
  Opcode.ofNone rfl rfl rfl
theorem Opcode.supSaveLoadComplete : Opcode.Statement (.supSaveLoadComplete) :=
  Opcode.ofNone rfl rfl rfl

end Sys2Proof.Laws
end

