-- ==== Sys2Proof/Laws/Words.lean ====
section
/-! SUPPORT. How a word runs in its sheaf, once for each of the three ways the meanings use: in each thread alone, in each
thread but through the Granary in a tiller's, and thread by thread. The statements' terms meet the model's operations here. -/

-- The theorems are elaborated one after another: many at once, each waiting for the kernel, take too much memory.
set_option Elab.async false

namespace Sys2Proof.Laws

open Sys2Proof Sys2Proof.Machine Sys2Proof.Spec

/-! ### In each thread alone -/

theorem meets_eq_runThread (e : Env) (i : Instr) (f : Env → Thread → TRes) : meets e i f = runThread e i f := by
  funext t
  simp only [meets, runThread]
  split
  · split
    · cases f e t <;> rfl
    · rfl
  · rfl

/-- `wordMap` changes nothing but the threads of the core, and each as `runThread` says. -/
theorem wordMap_spec {i : Instr} {f : Env → Thread → TRes} {s : State} {e : Env} (h : s.env = some e) :
    wordMap i f s = after e i f s := by
  simp only [wordMap, h, after, meets_eq_runThread]

theorem after_congr {e : Env} {i : Instr} {f g : Env → Thread → TRes} {s : State} (h : ∀ t ∈ e.k.threads, f e t = g e t) :
    after e i f s = after e i g s := by
  simp only [after, meets_eq_runThread]
  congr 2
  apply List.map_congr_left
  intro t ht
  simp only [runThread, h t ht]

theorem runs_of_wordMap {i : Instr} {f g : Env → Thread → TRes} (hx : ∀ s, exec i s = .next (wordMap i f s))
    (hfg : ∀ e t, f e t = g e t) : Runs i g := by
  intro s e h
  rw [hx, wordMap_spec h, after_congr fun t _ => hfg e t]

theorem runsOn_of_wordMap {i : Instr} {f g : Env → Thread → TRes} (hx : ∀ s, exec i s = .next (settleWord (wordMap i f s)))
    (hfg : ∀ e t, f e t = g e t) : RunsOn i g := by
  intro s e h
  rw [hx, wordMap_spec h, after_congr fun t _ => hfg e t]

/-! ### Through the Granary in a tiller's thread -/

theorem foldl_fixed {α β : Type} (l : List α) (s : β) (f : β → α → β) (h : ∀ s a, a ∈ l → f s a = s) : l.foldl f s = s := by
  induction l generalizing s with
  | nil => rfl
  | cons a r ih =>
    simp only [List.foldl]
    rw [h s a (by simp)]
    exact ih s fun s b hb => h s b (by simp [hb])

/-- Without tillers on the core, `wordMix` is `wordMap`. -/
theorem wordMix_spec {i : Instr} {f : Env → Thread → TRes} {g : Env → Thread → State → State} {s : State} {e : Env}
    (h : s.env = some e) (hn : noTillers e) : wordMix i f g s = after e i f s := by
  simp only [wordMix, h]
  rw [foldl_fixed]
  · simp only [after, meets_eq_runThread]
    congr 2
    apply List.map_congr_left
    intro t ht
    simp [hn t ht]
  · intro s sl hm
    have hf := (List.mem_filter.mp hm).2
    split at hf
    · rename_i t ht
      rw [hn t (threadAt_mem ht)] at hf
      exact absurd hf (by decide)
    · exact absurd hf (by decide)

theorem runsIf_of_wordMix {i : Instr} {f h' : Env → Thread → TRes} {g : Env → Thread → State → State}
    (hx : ∀ s, exec i s = .next (wordMix i f g s)) (hfg : ∀ e t, runsTiller t = false → f e t = h' e t) :
    RunsIf noTillers i h' := by
  intro s e h hn
  rw [hx, wordMix_spec h hn, after_congr fun t ht => hfg e t (hn t ht)]

theorem runsOnIf_of_wordMix {i : Instr} {f h' : Env → Thread → TRes} {g : Env → Thread → State → State}
    (hx : ∀ s, exec i s = .next (settleWord (wordMix i f g s))) (hfg : ∀ e t, runsTiller t = false → f e t = h' e t) :
    RunsOnIf noTillers i h' := by
  intro s e h hn
  rw [hx, wordMix_spec h hn, after_congr fun t ht => hfg e t (hn t ht)]

/-! ### Thread by thread -/

/-- What the word at issue reads beside its threads. -/
theorem env_spec {s : State} {e : Env} (h : s.env = some e) :
    e.s = s ∧ e.c = s.cur ∧ e.k = s.core s.cur ∧ e.ck.now = s.time := by
  simp only [State.env, Option.map_eq_some_iff] at h
  obtain ⟨is, _, rfl⟩ := h
  exact ⟨rfl, rfl, rfl, rfl⟩

theorem parkIllegal_none {s : State} {e : Env} {i : Instr} (h : s.env = some e)
    (hl : ∀ u ∈ e.k.threads, takesWord e i u = true → legalHere e i u = true) : parkIllegal e i = s := by
  obtain ⟨h1, h2, h3, -⟩ := env_spec h
  have : (e.k.threads.map fun (t : Thread) => if (takesWord e i t && !legalHere e i t) = true
      then park e.ck t .illegal e.is.widx 0 0 else t) = e.k.threads := by
    conv => rhs; rw [← List.map_id e.k.threads]
    apply List.map_congr_left
    intro u hu
    rw [if_neg]
    · rfl
    · intro hc
      simp only [Bool.and_eq_true, Bool.not_eq_true'] at hc
      rw [hl u hu hc.1] at hc
      exact absurd hc.2 (by decide)
  simp only [parkIllegal, h1]
  rw [this, h2, h3]
  exact State.withCore_core s s.cur

theorem mem_insertBy {α : Type} {le : α → α → Bool} {x y : α} {l : List α} : y ∈ insertBy le x l ↔ y = x ∨ y ∈ l := by
  induction l with
  | nil => simp [insertBy]
  | cons z r ih =>
    unfold insertBy
    split
    · simp
    · simp only [List.mem_cons, ih]; tauto

theorem mem_sortBy {α : Type} {le : α → α → Bool} {y : α} {l : List α} : y ∈ sortBy le l ↔ y ∈ l := by
  induction l with
  | nil => simp [sortBy]
  | cons z r ih => simp only [sortBy, mem_insertBy, List.mem_cons, ih]

/-- The one taker of a word is in its sheaf. -/
theorem inSheaf_of_alone {e : Env} {i : Instr} {t : Thread} (ha : Alone e i t) : inSheaf e.is t = true := by
  obtain ⟨h1, -, h3, -⟩ := ha
  have hm : t.id.slot ∈ takers e i := by rw [h1]; simp
  obtain ⟨u, hu, hs⟩ := List.mem_map.mp (mem_sortBy.mp hm)
  obtain ⟨hu, hw⟩ := List.mem_filter.mp hu
  rw [← h3 u hu hs]
  simp only [Bool.and_eq_true] at hw
  exact (Bool.and_eq_true_iff.mp hw.1).1

/-- A word with one taker acts as its meaning says of that thread. -/
theorem wordFold_alone {s : State} {e : Env} {i : Instr} {t : Thread} {f : Env → Thread → State → State}
    (h : s.env = some e) (ha : Alone e i t) : wordFold i f s = f e t s := by
  obtain ⟨-, hc, hk, -⟩ := env_spec h
  have ht : s.thread e.c t.id.slot = some t := by
    rw [hc]; simpa only [State.thread, hk] using ha.2.1
  simp only [wordFold, h, ha.1, List.foldl, foldTurn, parkIllegal_none h ha.2.2.2, ht, inSheaf_of_alone ha, if_true]

/-! ### The terms and the operations -/

theorem ends_eq (s : State) (e : Env) (t u : Thread) : s.endWordAt e t (.ok u) = ends s e u := rfl

theorem codeOfStatus_eq (st : Status) : statusReg st = codeOfStatus st := by cases st <;> rfl

theorem flagFor_eq (e : Env) (f : Full) : flagOf e.is f.fsel = flagFor e f := rfl

/-- An access that is no release joins its queue as the statements say. -/
theorem queued_eq (e : Env) (t : Thread) (j : Nat) (k : AccKind) (p n : Nat) (w : Path) (i : Bool) (fl : Option Nat) :
    pushAcc e t j k p n w i false fl = queued e t j k p n w i false fl := by
  cases fl <;> simp [pushAcc, queued, addFlag, accId, raised, Nat.mul_comm]

theorem deadline_eq (e : Env) (x : Quad) : effDl e.ck.now e.ck.dlmax x = deadline e x := by
  by_cases h : x = allOnes
  · subst h; rfl
  · have h2 : (x == allOnes) = false := beq_eq_false_iff_ne.mpr h
    unfold effDl deadline
    rw [h2, if_neg h]; rfl

theorem waiting_eq (e : Env) (t : Thread) (k : WaitKind) (st : TState) (ds : BitVec 2) (r : Nat) :
    waitWord e t k st ds r = waiting e t k st ds.toNat r := by
  simp only [waitWord, waiting, deadline_eq, readDl]

theorem status_eq (e : Env) (t : Thread) (r : Nat) (st : Status) (h : st ≠ .timeout) : statusNow e t r st = status t r st := by
  have : (st == Status.timeout) = false := by simp [h]
  simp only [statusNow, writeStatus, countStatus, status, this]
  cases st <;> rfl

theorem later_eq (e : Env) (t : Thread) (f : Full) (lat : Nat) (regs : List (Nat × Reg)) :
    lateResult e t f.fsel lat regs 0 = later e t f lat regs := by
  simp only [lateResult, later, flagFor_eq]
  cases h : flagFor e f <;> simp [addFlag, raised]

theorem laterStatus_eq (e : Env) (t : Thread) (f : Full) (lat : Nat) (st : Status) (more : List (Nat × Reg)) :
    lateStatus e t f.fsel lat f.d.toNat st more = laterStatus e t f lat st more := by
  simp only [lateStatus, laterStatus, flagFor_eq, codeOfStatus_eq]
  cases h : flagFor e f <;> simp [addFlag, raised]

/-! ### Integers -/

theorem intOf_s32 (x : BitVec 32) : intOf .s32 x.toNat = x.toInt := by
  have hx := x.isLt
  have hm : x.toNat % 2 ^ 32 = x.toNat := Nat.mod_eq_of_lt hx
  rw [BitVec.toInt_eq_toNat_cond]
  by_cases h : 2 ^ 31 ≤ x.toNat
  · have h1 : intOf .s32 x.toNat = ((x.toNat % 2 ^ 32 : ℕ) : ℤ) - ((2 ^ 32 : ℕ) : ℤ) := by
      refine if_pos ?_
      simp only [Bool.and_eq_true, decide_eq_true_eq]
      exact ⟨rfl, by show 2 ^ 31 ≤ x.toNat % 2 ^ 32; omega⟩
    rw [h1, hm, if_neg (by omega)]
  · have h1 : intOf .s32 x.toNat = ((x.toNat % 2 ^ 32 : ℕ) : ℤ) := by
      refine if_neg ?_
      simp only [Bool.and_eq_true, decide_eq_true_eq]
      intro h2
      have h3 : 2 ^ 31 ≤ x.toNat % 2 ^ 32 := h2.2
      omega
    rw [h1, hm, if_pos (by omega)]

theorem condHolds_iff (cc : Nat) (h : cc < 6) (x y : Int) : condHolds cc x y = true ↔ holds cc x y := by
  have : cc = 0 ∨ cc = 1 ∨ cc = 2 ∨ cc = 3 ∨ cc = 4 ∨ cc = 5 := by omega
  rcases this with h | h | h | h | h | h <;> subst h <;> simp [condHolds, holds]

/-! ### Tables -/

theorem tblGet_tblPut_self {α : Type} (t : Tbl α) (n : Nat) (v d : α) : tblGet (tblPut t n v) n d = v := by
  induction t with
  | nil => simp [tblPut, tblGet]
  | cons x r ih =>
    unfold tblPut
    split
    · simp [tblGet]
    · split
      · simp [tblGet]
      · rename_i h1 h2
        simp only [tblGet]
        rw [if_neg (by omega)]; exact ih

theorem tblGet_tblPut_ne {α : Type} (t : Tbl α) (n m : Nat) (v d : α) (h : m ≠ n) :
    tblGet (tblPut t n v) m d = tblGet t m d := by
  induction t with
  | nil => simp [tblPut, tblGet, Ne.symm h]
  | cons x r ih =>
    unfold tblPut
    split
    · simp [tblGet, Ne.symm h]
    · split
      · rename_i h1 h2
        simp only [tblGet, if_neg (Ne.symm h)]
        rw [if_neg (by omega)]
      · simp only [tblGet, ih]

end Sys2Proof.Laws
end

