-- ==== Sys2Proof/Machine/Messages.lean ====
section
/-! DEFINITION. Records that software keeps in the machine's memory and that the spec lays out bit by bit: the words of the
Stoleil mailbox (R405, R406, R408) and the launch timing record of the resident driver (R413). No step writes them of itself:
the supervisor kernel's RATOMs, system cores and drivers do. -/

namespace Sys2Proof.Machine

/-! ### The Stoleil mailbox (R405, R406) -/

/-- Supervisor virtual address of the Stoleil area of core `c` (R405). -/
def stoleilArea (c : Nat) : Nat := 0xF000000000 + 512 * c

/-- Address of word `i` of the command ring of core `c`, taken modulo 32 (R405, R406). -/
def commandWordAt (c i : Nat) : Nat := stoleilArea c + 8 * (i % 32)

/-- Address of word `i` of the event ring of core `c`, taken modulo 32 (R405, R406). -/
def eventWordAt (c i : Nat) : Nat := stoleilArea c + 256 + 8 * (i % 32)

/-- A message of R408: commands of the debugger, then what the monitor sends. A thread is named by its reference (R269). -/
inductive Message where
  | read (thread selector : Nat)
  | write (thread selector value : Nat)
  | resume (thread word : Nat)
  | resumeGroup (gix word : Nat)
  | kill (thread : Nat)
  | stop (cause widx hdr gix code mask : Nat) (guest : Option (Nat × Nat))
  | value (status val : Nat)
  | ack (status : Nat)
  deriving DecidableEq, Repr

namespace Message

/-- OP of the head (R408). -/
def op : Message → Nat
  | .read _ _ => 0x01
  | .write _ _ _ => 0x02
  | .resume _ _ => 0x03
  | .resumeGroup _ _ => 0x04
  | .kill _ => 0x05
  | .stop _ _ _ _ _ _ _ => 0x40
  | .value _ _ => 0x41
  | .ack _ => 0x42

/-- ARGS of the head (R408). -/
def args : Message → Nat
  | .read t _ => t
  | .write t _ _ => t
  | .resume t _ => t
  | .resumeGroup g _ => g % 2 ^ 8
  | .kill t => t
  | .stop cause widx hdr gix code _ g =>
    cause % 2 ^ 8 + widx % 2 ^ 5 * 2 ^ 8 + hdr % 2 ^ 15 * 2 ^ 13 + gix % 2 ^ 8 * 2 ^ 28 + code % 2 ^ 6 * 2 ^ 36 +
      (if g.isSome then 2 ^ 42 else 0)
  | .value st _ => st % 2 ^ 4
  | .ack st => st % 2 ^ 4

/-- DATA of the body words, in order (R408). -/
def body : Message → List Nat
  | .read _ sel => [sel % 2 ^ 32]
  | .write _ sel v => [sel % 2 ^ 32, field v 31 0, field v 63 32]
  | .resume _ w => [w % 2 ^ 32]
  | .resumeGroup _ w => [w % 2 ^ 32]
  | .kill _ => []
  | .stop _ _ _ _ _ m g =>
    [field m 31 0, field m 63 32] ++
      (match g with
       | none => []
       | some (gpc, gop) => [gpc % 2 ^ 32, gop % 2 ^ 32])
  | .value _ v => [field v 31 0, field v 63 32]
  | .ack _ => []

/-- The words of the message in its ring: FULL, OP, LEN and ARGS, then FULL and DATA of each body word (R406). -/
def words (m : Message) : List Nat :=
  (2 ^ 63 + m.op * 2 ^ 56 + m.body.length * 2 ^ 52 + m.args % 2 ^ 52) :: m.body.map (2 ^ 63 + ·)

end Message

/-! ### The launch timing record (R413) -/

/-- START of a launch from its execution stamp and END (R412). -/
def startOf (finish fault io out run : Nat) : Nat := finish - (fault + io + out + run)

/-- The eight words of the launch timing record: ENTRY, CLIENT, QUEUE, FAULT, IO, EXEC, END and ID (R413). -/
def timingRecord (entry recv finish fault io out run launch seq : Nat) : List Nat :=
  [entry, recv - entry, startOf finish fault io out run - recv + out, fault, io, run, finish,
   launch % 2 ^ 16 + seq % 2 ^ 32 * 2 ^ 32]

end Sys2Proof.Machine
end

