-- ==== Sys2Proof/Tests/Slice0.lean ====
section
/-! SUPPORT. Tests of the model on words and values of the specification, and witnesses that the statements' hypotheses can
be met. -/

-- The theorems are elaborated one after another: many at once, each waiting for the kernel, take too much memory.
set_option Elab.async false

namespace Sys2Proof.Tests

open Sys2Proof Sys2Proof.Machine Sys2Proof.Spec

/-! ### Small machines -/

/-- Full-form fields: D, A, B and a type, everything else zero. -/
def fw (d a b : BitVec 10) (ty : Ty) : Full :=
  { d := d, a := a, b := b, g := 0, ng := false, fsel := false, dsel := 0, ty := ty, rm := .rne, sat := false, ub := false,
    opx := 0 }

/-- A header of one word without flags (R125). -/
def headWord (coll : Bool) : Nat := 3 * 2 ^ 62 + 2 ^ 57 + 15 * 2 ^ 41 + 15 * 2 ^ 37 + (if coll then 2 ^ 32 else 0)

/-- At header 0 and word index `widx`, with this gathering mask. -/
def posOf (st : TState) (widx : Nat) (gmask : Quad) : Pos := ⟨st, 0, 0, widx, none, gmask, 0, none, 0⟩

/-- A sheaf of one slot at the only word of the clause at 0. -/
def issueOf (sup : Bool) (slot : Nat) (coll : Bool) : Issue :=
  ⟨sup, 0, ⟨1, 0, 15, 15, false, 0, coll⟩, 1, [slot], 1, 0, [], none, none, 0, 0, none, []⟩

def wordOf (i : Instr) : Quad := BitVec.ofNat 64 ((encode i).getD 0)

/-- The only thread of a team, in the sheaf at word 1 of the clause at 0, with the registers given from V0 on. -/
def th (v : List Reg) : Thread :=
  { newThread ⟨0, 1, false, 1, 0, 0, 1, 64⟩ with
    v := v ++ List.replicate (64 - v.length) 0
    pos := posOf .inSheaf 1 1 }

/-- The same as a supervisor's thread. -/
def supTh (v : List Reg) : Thread := { th v with id := ⟨0, 1, true, 0, 0, 0, 1, 64⟩ }

/-- The core whose only clause holds the word of `i`, at issue for one thread. -/
def soloCore (i : Instr) (coll : Bool) (t : Thread) : Core :=
  let code := [BitVec.ofNat 64 (headWord coll), wordOf i, BitVec.ofNat 64 (headWord false), 0x0830000000000000]
  { Core.reset with
    team := some ⟨1, 0, false⟩, sup := some ⟨code, 1, 0⟩, code := code, threads := [t]
    issue := some (issueOf t.id.sup 0 coll) }

def solo (i : Instr) (coll : Bool) (t : Thread) : State := { State.reset with cores := State.reset.cores.set 0 (soloCore i coll t) }

/-- The thread after the word, or none if the machine does not go on. -/
def ran (i : Instr) (t : Thread) : Option Thread :=
  match exec i (solo i false t) with
  | .next s => s.thread 0 0
  | _ => none

/-- V register `n` after the word in a thread with registers `v`. -/
def outV (i : Instr) (v : List Reg) (n : Nat) : Option Reg := (ran i (th v)).map (readV · n)

/-- V register `n` and the flags after the word. -/
def outF (i : Instr) (v : List Reg) (n : Nat) : Option (Reg × Reg) := (ran i (th v)).map fun t => (readV t n, t.sr.fsr)

/-- Predicate `n` after the word. -/
def outP (i : Instr) (v : List Reg) (n : Nat) : Option Bool := (ran i (th v)).map (readP · n)

/-- What the word leaves to land: registers and flags (R314). -/
def outLate (i : Instr) (v : List Reg) : Option (List (List (Nat × Reg) × Reg)) :=
  (ran i (th v)).map fun t => t.res.map fun r => (r.regs, r.fsr)

def s32 (d a b : BitVec 10) : Full := fw d a b .s32
def n32 (d a b : BitVec 10) : Full := fw d a b .n32
def f32 (d a b : BitVec 10) : Full := fw d a b .f32
def noT (d a b : BitVec 10) : Full := fw d a b .b32


/-! ### Words of the specification, and the instructions they stand for -/

/-- The worked example of R113. -/
theorem test_word_add : decodeNat 0x0020100501981000 = .one (.add { s32 4 5 6 with g := 3 }) := by decide

/-- The first failing word of R129. -/
theorem test_word_add_bad_opx : decodeNat 0x0020100501981020 = .bad .fields := by decide

/-- R122. -/
theorem test_word_pair : decodeNat 0x4080802842020090 = .pair (.pairedAddS32 ⟨.a, 4, 5, 0, false, false⟩) (.pairedFmulF32 ⟨.b, 8, 9, 0, false, false⟩) := by decide

/-- Class Y in half A (R129). -/
theorem test_word_pair_bad : decodeNat (0x4080802842020090 + 0x41 * 2 ^ 55) = .bad .pairing := by decide

/-- R129. -/
theorem test_word_header_inside : decodeNat 0xC6012BE100000000 = .bad .header := by decide

/-- The worked header of R125. -/
theorem test_header_fields : toHeader 0xC6012BE100000000 = some ⟨3, 9, 5, 15, false, 0, true⟩ := by decide

/-- R34. -/
theorem test_header_gather : toHeader 0xC4001FF800000000 = some ⟨2, 0, 15, 15, true, 4, false⟩ := by decide

/-- R124. -/
theorem test_word_addi : decodeNat 0x80401000FFFFFFFE = .one (.addi ⟨1, 0, 0, 0xFFFFFFFE⟩) := by decide

/-- R143. -/
theorem test_word_setp : decodeNat 0x0300040100801002 = .one (.setp { s32 1 1 2 with opx := 2 }) := by decide

/-- R161. -/
theorem test_word_ffma : decodeNat 0x1030280B03003000 = .one (.ffma (f32 10 11 12)) := by decide

/-- R171. -/
theorem test_word_cvtpk : decodeNat 0x181050080000408C = .one (.cvtpk { fw 20 8 0 .e4m3 with sat := true, opx := 0x0C }) := by decide

/-- R173. -/
theorem test_word_dot4 : decodeNat 0x1910180200C00802 = .one (.dot4 { fw 6 2 3 .s8 with opx := 2 }) := by decide

/-- R182. -/
theorem test_word_atom : decodeNat 0x20400C0101402000 = .one (.atom (n32 3 1 5)) := by decide

/-- R182. -/
theorem test_word_fence : decodeNat 0x2200240000000003 = .one (.fence { noT 9 0 0 with opx := 3 }) := by decide

/-- R204. -/
theorem test_word_scan : decodeNat 0x2330080100003001 = .one (.scan { f32 2 1 0 with opx := 1 }) := by decide

/-- R205. -/
theorem test_word_sample : decodeNat 0x2340100100803041 = .one (.sample { f32 4 1 2 with ub := true, opx := 1 }) := by decide

/-- R148. -/
theorem test_word_loop : decodeNat 0x84C0000000000008 = .one (.loop ⟨0, 0, 0, 8⟩) := by decide

/-- R148. -/
theorem test_word_lend : decodeNat 0x8500000000000004 = .one (.lend ⟨0, 0, 0, 4⟩) := by decide

/-- R157. -/
theorem test_word_dispatch_pc : decodeNat 0x0910000000000001 = .one (.dispatchPc { noT 0 0 0 with opx := 1 }) := by decide

/-- R209. -/
theorem test_word_copy_in : decodeNat 0x2800500A03000000 = .one (.copyIn (noT 20 10 12)) := by decide

/-- R209. -/
theorem test_word_fwait : decodeNat 0x2B00581400000000 = .one (.fwait (noT 22 20 0)) := by decide

/-- R238. -/
theorem test_word_wload : decodeNat 0x2880280200084000 = .one (.wload { fw 10 2 0 .e4m3 with g := 1 }) := by decide

/-- R238. -/
theorem test_word_mma : decodeNat 0x2890300701084000 = .one (.mma { fw 12 7 4 .e4m3 with g := 1 }) := by decide

/-- R239. -/
theorem test_word_task_take : decodeNat 0x3000200001008040 = .one (.taskTake { noT 8 0 4 with dsel := 1, ub := true }) := by decide

/-- R416. -/
theorem test_word_sup_pwait : decodeNat 0x3C00080000000000 = .one (.supPwait (noT 2 0 0)) := by decide

/-- R416. -/
theorem test_word_sup_resume : decodeNat 0x3C303C0300500000 = .one (.supResume { noT 15 3 1 with g := 2 }) := by decide

/-- R77: in a machine in which nothing can happen, whatever unit the last event named, TIME goes on. -/
theorem test_idle_machine_ticks : (match step { State.reset with cur := 5, sub := 3, ix := 1 } with
    | .next s => s.time == 1
    | _ => false) = true := by decide +kernel

/-- ADDI V1, V0, -2 as the first word after reset. -/
theorem test_fetch_runs_the_word : (match step (State.reset.withFetchWord 64 0x80401000FFFFFFFE) with
    | .next s => (s.thread 0 0).map (readV · 1) | _ => none) = some 0xFFFFFFFE := by decide +kernel


/-! ### Ill-formed terms, one for each check of `staticOk` (R116, R121, R128) -/

/-- A type that ADD does not accept. -/
theorem test_ill_type : ¬ Instr.WellFormed (.add (fw 2 0 1 .f32)) := by unfold Instr.WellFormed; decide

/-- OPX unused. -/
theorem test_ill_opx : ¬ Instr.WellFormed (.add { s32 2 0 1 with opx := 1 }) := by unfold Instr.WellFormed; decide

/-- RM unused. -/
theorem test_ill_rm : ¬ Instr.WellFormed (.add { s32 2 0 1 with rm := .rz }) := by unfold Instr.WellFormed; decide

/-- SAT not accepted. -/
theorem test_ill_sat : ¬ Instr.WellFormed (.mulh { s32 2 0 1 with sat := true }) := by unfold Instr.WellFormed; decide

/-- DSEL unused. -/
theorem test_ill_dsel : ¬ Instr.WellFormed (.add { s32 2 0 1 with dsel := 1 }) := by unfold Instr.WellFormed; decide

/-- FSEL unused. -/
theorem test_ill_fsel : ¬ Instr.WellFormed (.add { s32 2 0 1 with fsel := true }) := by unfold Instr.WellFormed; decide

/-- UB not accepted. -/
theorem test_ill_ub : ¬ Instr.WellFormed (.neg { s32 2 0 1 with ub := true }) := by unfold Instr.WellFormed; decide

/-- UB is 1 in TASK.TAKE. -/
theorem test_ill_must_ub : ¬ Instr.WellFormed (.taskTake (noT 8 0 4)) := by unfold Instr.WellFormed; decide

/-- A reserved uniform number. -/
theorem test_ill_uniform : ¬ Instr.WellFormed (.add { s32 2 0 0x10F with ub := true }) := by unfold Instr.WellFormed; decide

/-- A pair starts at an even register. -/
theorem test_ill_odd_pair : ¬ Instr.WellFormed (.addD (noT 3 0 2)) := by unfold Instr.WellFormed; decide

/-- Eight registers start at a multiple of eight. -/
theorem test_ill_block : ¬ Instr.WellFormed (.taskTake { noT 9 0 4 with ub := true }) := by unfold Instr.WellFormed; decide

/-- A predicate is 0 to 7. -/
theorem test_ill_pred : ¬ Instr.WellFormed (.setp { s32 8 1 2 with opx := 2 }) := by unfold Instr.WellFormed; decide

/-- An unused register field. -/
theorem test_ill_unused : ¬ Instr.WellFormed (.exit (noT 1 0 0)) := by unfold Instr.WellFormed; decide

/-- A fence mask is 0 to 31. -/
theorem test_ill_mask : ¬ Instr.WellFormed (.fence (noT 2 32 0)) := by unfold Instr.WellFormed; decide

/-- A loop counter is 0 or 1. -/
theorem test_ill_imm : ¬ Instr.WellFormed (.lend ⟨2, 0, 0, 0⟩) := by unfold Instr.WellFormed; decide

/-- Class Y stands in half B. -/
theorem test_ill_half_side : ¬ Instr.WellFormed (.pairedFmulF32 ⟨.a, 8, 9, 0, false, false⟩) := by unfold Instr.WellFormed; decide

/-- Two halves that write one register (R121). -/
theorem test_ill_pair : ¬ pairWellFormed (.pairedAddS32 ⟨.a, 4, 5, 0, false, false⟩) (.pairedFmulF32 ⟨.b, 4, 6, 0, false, false⟩) := by
  intro h; exact absurd (show pairOk _ _ _ _ = true from h) (by decide)


/-! ### Integers (R133 to R144) -/

theorem test_mov : outV (.mov (noT 2 0 0)) [7] 2 = some 7 := by decide

/-- Predicate 0, negated: the second source. -/
theorem test_sel : outV (.sel { noT 2 0 1 with opx := 8 }) [7, 9] 2 = some 9 := by decide

theorem test_add_wraps : outV (.add (s32 2 0 1)) [0xFFFFFFFF, 2] 2 = some 1 := by decide

theorem test_add_sat : outF (.add { s32 2 0 1 with sat := true }) [0x7FFFFFFF, 1] 2 = some (0x7FFFFFFF, 0x20) := by decide

theorem test_sub_wraps : outV (.sub (n32 2 0 1)) [0, 1] 2 = some 0xFFFFFFFF := by decide

theorem test_mul_wraps : outV (.mul (n32 2 0 1)) [0x10000, 0x10001] 2 = some 0x10000 := by decide

theorem test_mulh_signed : outV (.mulh (s32 2 0 1)) [0xFFFFFFFF, 5] 2 = some 0xFFFFFFFF := by decide

theorem test_mulh_unsigned : outV (.mulh (n32 2 0 1)) [0xFFFFFFFF, 0xFFFFFFFF] 2 = some 0xFFFFFFFE := by decide

theorem test_mad : outV (.mad (s32 2 0 1)) [3, 4, 5] 2 = some 17 := by decide

/-- −7 by 2 gives −3 (R135). -/
theorem test_div : outV (.div (s32 2 0 1)) [0xFFFFFFF9, 2] 2 = some 0xFFFFFFFD := by decide

theorem test_div_zero : outV (.div (n32 2 0 1)) [5, 0] 2 = some 0xFFFFFFFF := by decide

/-- −7 by 2 leaves −1 (R135). -/
theorem test_rem : outV (.rem (s32 2 0 1)) [0xFFFFFFF9, 2] 2 = some 0xFFFFFFFF := by decide

theorem test_rem_zero : outV (.rem (s32 2 0 1)) [5, 0] 2 = some 5 := by decide

theorem test_min_signed : outV (.min (s32 2 0 1)) [0xFFFFFFFF, 1] 2 = some 0xFFFFFFFF := by decide

theorem test_max_unsigned : outV (.max (n32 2 0 1)) [0xFFFFFFFF, 1] 2 = some 0xFFFFFFFF := by decide

/-- R134. -/
theorem test_abs_least : outV (.abs (s32 2 0 0)) [0x80000000] 2 = some 0x80000000 := by decide

/-- R134. -/
theorem test_neg_sat : outF (.neg { s32 2 0 0 with sat := true }) [0x80000000] 2 = some (0x7FFFFFFF, 0x20) := by decide

theorem test_and : outV (.and (noT 2 0 1)) [0xF0F0, 0xFF00] 2 = some 0xF000 := by decide

theorem test_or : outV (.or (noT 2 0 1)) [0xF0F0, 0xFF00] 2 = some 0xFFF0 := by decide

theorem test_xor : outV (.xor (noT 2 0 1)) [0xF0F0, 0xFF00] 2 = some 0x0FF0 := by decide

theorem test_andn : outV (.andn (noT 2 0 1)) [0xF0F0, 0xFF00] 2 = some 0x00F0 := by decide

theorem test_not_pair : outV (.not (fw 2 0 0 .b64)) [0, 0xFFFFFFFF] 2 = some 0xFFFFFFFF := by decide

/-- A count of the full width. -/
theorem test_shl_full : outV (.shl (noT 2 0 1)) [1, 32] 2 = some 0 := by decide

/-- Bits 31:8 of the count are ignored. -/
theorem test_shrl_count_8_bits : outV (.shrl (noT 2 0 1)) [8, 0x101] 2 = some 4 := by decide

theorem test_shra_full : outV (.shra (s32 2 0 1)) [0x80000000, 255] 2 = some 0xFFFFFFFF := by decide

theorem test_rotl_mod : outV (.rotl (noT 2 0 1)) [0x80000001, 33] 2 = some 3 := by decide

theorem test_bfx_signed : outV (.bfx (s32 2 0 1)) [0x00000F70, 0x0404] 2 = some 7 := by decide

/-- Length 32 at position 31 is cut to 1. -/
theorem test_bfx_top : outV (.bfx (s32 2 0 1)) [0x80000000, 0x201F] 2 = some 0xFFFFFFFF := by decide

theorem test_bfi : outV (.bfi (noT 2 0 1)) [0xFF, 0x0404, 0] 2 = some 0xF0 := by decide

/-- The first row of R139. -/
theorem test_perm_nibbles : outV (.perm (noT 2 0 1)) [0x1234F8A7, 0x0007B9AC] 2 = some 0xFFF8FA07 := by decide

/-- The third row of R139. -/
theorem test_perm_bytes : outV (.perm (noT 2 0 1)) [0x1234F8A7, 0x00000443] 2 = some 0xA7F83412 := by decide

theorem test_clz_zero : outV (.clz (fw 2 0 0 .b64)) [0, 0] 2 = some 64 := by decide

theorem test_popc : outV (.popc (noT 2 0 0)) [0xF00F] 2 = some 8 := by decide

theorem test_brev : outV (.brev (noT 2 0 0)) [1] 2 = some 0x80000000 := by decide

theorem test_lea : outV (.lea { noT 2 0 1 with opx := 2 }) [0x1000, 3] 2 = some 0x100C := by decide

theorem test_add_d_carries : outV (.addD (noT 4 0 2)) [0xFFFFFFFF, 0, 1, 0] 5 = some 1 := by decide

theorem test_movi : outV (.movi ⟨2, 0, 0, 0x1234⟩) [] 2 = some 0x1234 := by decide

theorem test_addi : outV (.addi ⟨1, 0, 0, 0xFFFFFFFE⟩) [1] 1 = some 0xFFFFFFFF := by decide

theorem test_setp_signed : outP (.setp { s32 1 1 2 with opx := 2 }) [0, 0xFFFFFFFF, 0] 1 = some true := by decide

theorem test_setp_unsigned : outP (.setp { n32 1 1 2 with opx := 2 }) [0, 0xFFFFFFFF, 0] 1 = some false := by decide

theorem test_pand_negates : outP (.pand { noT 1 0 0 with opx := 2 }) [] 1 = some false := by decide

theorem test_por : outP (.por (noT 1 2 0)) [] 1 = some true := by decide

theorem test_pxor : outP (.pxor (noT 1 0 0)) [] 1 = some false := by decide

/-- A write to P0 is discarded (R119). -/
theorem test_pnot_p0 : outP (.pnot (noT 0 0 0)) [] 0 = some true := by decide


/-! ### Floats (R101 to R104, R161 to R181) -/

theorem test_fadd_ties_even : outF (.fadd (f32 2 0 1)) [0x3F800000, 0x33800000] 2 = some (0x3F800000, 0x10) := by decide

theorem test_fsub_zero : outF (.fsub (f32 2 0 1)) [0x3F800000, 0x3F800000] 2 = some (0, 0) := by decide

/-- R164. -/
theorem test_fmul_zero_inf : outF (.fmul (f32 2 0 1)) [0, 0x7F800000] 2 = some (0x7FC00000, 1) := by decide

/-- (1 + 2^-23)(1 - 2^-24) - 1, exact. -/
theorem test_ffma_once : outF (.ffma (f32 2 0 1)) [0x3F800001, 0x3F7FFFFF, 0xBF800000] 2 = some (0x337FFFFE, 0) := by decide

/-- R165. -/
theorem test_fmin_zeros : outV (.fmin (f32 2 0 1)) [0, 0x80000000] 2 = some 0x80000000 := by decide

/-- R165. -/
theorem test_fmax_nan : outV (.fmax (f32 2 0 1)) [0x7FC00000, 0xBF800000] 2 = some 0xBF800000 := by decide

/-- R166. -/
theorem test_fsetp_unordered : (ran (.fsetp { f32 1 0 2 with opx := 2 }) (th [0x7FC00000])).map (fun t => (readP t 1, t.sr.fsr)) = some (false, 1) := by decide

/-- R167. -/
theorem test_fclass_e4m3 : outV (.fclass (fw 2 0 0 .e4m3)) [0x7F] 2 = some 0x100 := by decide

/-- 0.3 to E4M3 (R104). -/
theorem test_cvt_tie_up : outF (.cvt { fw 2 0 0 .e4m3 with sat := false, opx := 0x0C }) [0x3E99999A] 2 = some (0x2A, 0x10) := by decide

/-- 460 to E4M3 (R104). -/
theorem test_cvt_top : outF (.cvt { fw 2 0 0 .e4m3 with sat := false, opx := 0x0C }) [0x43E60000] 2 = some (0x7E, 0x10) := by decide

/-- 470 to E4M3 with .sat (R104). -/
theorem test_cvt_overflow_sat : outF (.cvt { fw 2 0 0 .e4m3 with sat := true, opx := 0x0C }) [0x43EB0000] 2 = some (0x7E, 0x14) := by decide

/-- 470 to E4M3 (R104). -/
theorem test_cvt_overflow : outF (.cvt { fw 2 0 0 .e4m3 with sat := false, opx := 0x0C }) [0x43EB0000] 2 = some (0x7F, 0x14) := by decide

/-- R104. -/
theorem test_cvt_tiny : outF (.cvt { fw 2 0 0 .e4m3 with sat := false, opx := 0x0C }) [0xBA83126F] 2 = some (0x81, 0x18) := by decide

/-- 200 clamps to 127 (R103). -/
theorem test_cvt_to_int : outF (.cvt { fw 2 0 0 .s8 with opx := 0x0C }) [0x43480000] 2 = some (0x7F, 1) := by decide

/-- R104. -/
theorem test_cvt_sr_up : outF (.cvtSr { fw 2 0 1 .e4m3 with opx := 0x0C }) [0x3F8CCCCD, 0x10000000] 2 = some (0x39, 0x10) := by decide

/-- R104. -/
theorem test_cvt_sr_down : outF (.cvtSr { fw 2 0 1 .e4m3 with opx := 0x0C }) [0x3F8CCCCD, 0xD0000000] 2 = some (0x38, 0x10) := by decide

/-- The example of R171. -/
theorem test_cvtpk : outF (.cvtpk { fw 20 8 0 .e4m3 with sat := true, opx := 0x0C }) [0, 0, 0, 0, 0, 0, 0, 0, 0x3F800000, 0x3E99999A, 0x43EB0000, 0xBA83126F] 20 = some (0x817E2A38, 0x1C) := by decide

theorem test_cvtpk_sr : outF (.cvtpkSr { fw 20 8 4 .e4m3 with opx := 0x0C }) [0, 0, 0, 0, 0x10000000, 0xD0000000, 0, 0, 0x3F8CCCCD, 0x3F8CCCCD] 20 = some (0x3839, 0x10) := by decide

/-- The example of R171. -/
theorem test_cvtup : (ran (.cvtup { f32 12 20 0 with opx := 0x10 }) (th (List.replicate 20 0 ++ [0x817E2A38]))).map (fun t => [readV t 12, readV t 13, readV t 14, readV t 15]) = some [0x3F800000, 0x3EA00000, 0x43E00000, 0xBB000000] := by decide

theorem test_padd2 : outF (.padd2 (fw 2 0 1 .f16)) [0x3C007BFF, 0x3C007BFF] 2 = some (0x40007C00, 0x14) := by decide

theorem test_pmul2 : outV (.pmul2 (fw 2 0 1 .bf16)) [0x40003F80, 0x40004000] 2 = some 0x40804000 := by decide

theorem test_pfma2 : outV (.pfma2 (fw 2 0 1 .bf16)) [0x40003F80, 0x40004000, 0x3F80] 2 = some 0x40804040 := by decide

theorem test_dot2 : outV (.dot2 { fw 2 0 1 .s16 with opx := 3 }) [0xFFFF0002, 0x00030004, 10] 2 = some 15 := by decide

/-- The example of R173. -/
theorem test_dot4 : outV (.dot4 { fw 6 2 3 .s8 with opx := 2 }) [0, 0, 0xFFF8FA07, 0x03020104, 0, 0, 100] 6 = some 103 := by decide

theorem test_dot8 : outV (.dot8 { fw 2 0 1 .n4 with opx := 11 }) [0xFFFFFFFF, 0x11111111, 0] 2 = some 120 := by decide

theorem test_fmule : outF (.fmule { f32 2 0 1 with opx := 1 }) [0x3F800000, 0x8000] 2 = some (0x40000000, 0) := by decide

/-- R176. -/
theorem test_rcp : outLate (.rcp (f32 2 0 0)) [0x80000000] = some [([(2, 0xFF800000)], 2)] := by decide

/-- R176. -/
theorem test_rsqrt : outLate (.rsqrt (f32 2 0 0)) [0x40800000] = some [([(2, 0x3F000000)], 0)] := by decide +kernel

/-- R176. -/
theorem test_sqrt : outLate (.sqrt (f32 2 0 0)) [0x41100000] = some [([(2, 0x40400000)], 0)] := by decide +kernel

/-- R176. -/
theorem test_exp2 : outLate (.exp2 (f32 2 0 0)) [0xC3150000] = some [([(2, 1)], 0)] := by decide

/-- R176. -/
theorem test_log2 : outLate (.log2 (f32 2 0 0)) [0x3F800000] = some [([(2, 0)], 0)] := by decide

/-- R176. -/
theorem test_tanh : outLate (.tanh (f32 2 0 0)) [0x80000000] = some [([(2, 0x80000000)], 0)] := by decide

/-- R176. -/
theorem test_sin : outLate (.sin (f32 2 0 0)) [0x7F800000] = some [([(2, 0x7FC00000)], 1)] := by decide

/-- R176. -/
theorem test_cos : outLate (.cos (f32 2 0 0)) [0] = some [([(2, 0x3F800000)], 0)] := by decide

/-- A bank of zeros gives zero. -/
theorem test_tbl : outLate (.tbl (f32 2 0 0)) [0x3F800000] = some [([(2, 0)], 0)] := by decide

/-! ### Witnesses: a word at issue -/

/-- What the word at issue reads, in `solo`. -/
def soloEnv (i : Instr) (coll : Bool) (t : Thread) : Env :=
  ⟨solo i coll t, 0, soloCore i coll t, issueOf t.id.sup 0 coll, ⟨0, 0, 12000000, 16⟩⟩

theorem solo_length (i : Instr) (coll : Bool) (t : Thread) : (solo i coll t).cores.length = 256 := by
  unfold solo; rw [List.length_set]; exact List.length_replicate

/-- For `Runs` and `RunsOn`: a word is at issue. -/
theorem wit_at_issue (i : Instr) (coll : Bool) (t : Thread) : (solo i coll t).env = some (soloEnv i coll t) := rfl

/-- For `RunsIf noTillers` and `RunsOnIf noTillers`. -/
theorem wit_no_tillers (i : Instr) (v : List Reg) : noTillers (soloEnv i false (th v)) := by
  intro t ht
  rw [show t = th v from List.mem_singleton.mp ht]; rfl

/-- The thread is the word's only taker, alone in its slot, and the word is illegal in no taker. -/
def fits (e : Env) (i : Instr) (t : Thread) : Bool :=
  decide (takers e i = [t.id.slot]) && decide (threadAt e.k.threads t.id.slot = some t)
    && e.k.threads.all (fun u => u.id.slot != t.id.slot || decide (u = t))
    && e.k.threads.all (fun u => !takesWord e i u || legalHere e i u)

theorem alone_of_fits {e : Env} {i : Instr} {t : Thread} (h : fits e i t = true) : Alone e i t := by
  simp only [fits, Bool.and_eq_true, decide_eq_true_eq, List.all_eq_true, Bool.or_eq_true, bne_iff_ne, ne_eq,
    Bool.not_eq_true'] at h
  obtain ⟨⟨⟨h1, h2⟩, h3⟩, h4⟩ := h
  refine ⟨h1, h2, fun u hu hs => ?_, fun u hu ht => ?_⟩
  · exact (h3 u hu).resolve_left fun hn => hn hs
  · exact (h4 u hu).resolve_left fun hn => by rw [ht] at hn; cases hn

/-! ### Witnesses: the words that act in their thread alone -/

theorem wit_IntegerArithmeticWraps : IntTy (s32 2 0 1) ∧ (s32 2 0 1).sat = false ∧ (s32 2 0 1).ty = .s32 ∧ IntTy (n32 2 0 1) := by
  refine ⟨.inl rfl, rfl, rfl, .inr rfl⟩

theorem wit_SaturationClampsAndSetsIS :
    IntTy { s32 2 0 1 with sat := true } ∧ ({ s32 2 0 1 with sat := true } : Full).sat = true := ⟨.inl rfl, rfl⟩

theorem wit_MulhDivRemGiveTheirResults : IntTy (n32 2 0 1) ∧ (n32 2 0 1).sat = false := ⟨.inr rfl, rfl⟩

theorem wit_ShiftsGiveTheirResults : tyBits (noT 2 0 1).ty = 32 ∧ tyBits (fw 2 0 1 .b64).ty = 64
    ∧ isSigned (fw 2 0 1 .s64).ty = true := by decide

theorem wit_BitFieldsAndPermutationsGiveTheirResults : tyBits (noT 2 0 1).ty = 32 ∧ (31 < 32 ∧ 3 < 4) := by decide

theorem wit_PredicatesGiveTheirResults :
    tyBits (s32 1 1 2).ty = 32 ∧ ({ s32 1 1 2 with opx := 5 } : Full).opx.toNat < 6 ∧ 7 < 8 ∧ 0 < 8 := by decide

theorem wit_RoundFollowsItsRule : isF .e2m1 = true ∧ isF .f32 = true ∧ 0 < 1 := by decide

/-- 1.0 three times. -/
theorem wit_FloatArithmeticRoundsTheExactResult : let t := th [0x3F800000, 0x3F800000, 0x3F800000]
    ∃ a b d, ratOf (fA (f32 2 0 1) t) = some a ∧ ratOf (fB (f32 2 0 1) (soloEnv (.fadd (f32 2 0 1)) false t) t) = some b
      ∧ ratOf (fD (f32 2 0 1) t) = some d := ⟨_, _, _, rfl, rfl, rfl⟩

theorem ratOf_zero (x : Bool) : ratOf (fvOf .f32 (if x then 0x80000000 else 0)) = some 0 := by
  rw [show fvOf .f32 (if x then 0x80000000 else 0) = .fin x 0 (-149) by cases x <;> decide]
  simp [ratOf]

theorem ratOf_one : ratOf (fvOf .f32 0x3F800000) = some 1 := by
  rw [show fvOf .f32 0x3F800000 = .fin false 0x800000 (-23) by decide]
  simp only [ratOf, Bool.false_eq_true, if_false, one_mul]; norm_num

/-- A NaN, infinities, zeros of either sign by an infinity in either order, a finite value by an infinity. -/
theorem wit_SpecialOperandsGiveTheirResults : let v := fvOf .f32
    v 0x7FC00000 = .nan ∧ v 0x7F800000 = .inf false ∧ v 0xFF800000 = .inf (!false)
    ∧ (∀ x : Bool, ratOf (v (if x then 0x80000000 else 0)) = some 0
      ∧ zeroByInf (v (if x then 0x80000000 else 0)) (v 0x7F800000) ∧ zeroByInf (v 0xFF800000) (v (if x then 0x80000000 else 0)))
    ∧ infProduct (v 0x3F800000) (v 0xFF800000) true ∧ infProduct (v 0xFF800000) (v 0x3F800000) true := by
  have h1 : fvOf .f32 0x7F800000 = .inf false := by decide
  have h2 : fvOf .f32 0xFF800000 = .inf true := by decide
  have h3 : fvOf .f32 0x3F800000 = .fin false 0x800000 (-23) := by decide
  refine ⟨by decide, h1, h2, fun x => ⟨ratOf_zero x, .inl ⟨ratOf_zero x, _, h1⟩, .inr ⟨ratOf_zero x, _, h2⟩⟩, ?_, ?_⟩ <;>
    · simp only [h2, h3]
      refine ⟨⟨true, by simp⟩, by simp, by simp, ?_, by decide⟩
      simp [zeroByInf, ratOf]

/-- FMIN, FMAX and FSETP: two values in order, a NaN on either side or on both, the two zeros. -/
theorem wit_FloatChoicesAndComparisons :
    let e (v : List Reg) : Env := soloEnv (.fmin (f32 2 0 1)) false (th v)
    let A (v : List Reg) := fA (f32 2 0 1) (th v)
    let B (v : List Reg) := fB (f32 2 0 1) (e v) (th v)
    (A [0x3F800000, 0x40000000] = .fin false 0x800000 (-23) ∧ B [0x3F800000, 0x40000000] = .fin false 0x800000 (-22))
    ∧ (A [0x7FC00000, 0] = .nan ∧ B [0x7FC00000, 0] ≠ .nan) ∧ (A [0, 0x7FC00000] ≠ .nan ∧ B [0, 0x7FC00000] = .nan)
    ∧ (A [0x7FC00000, 0x7FC00000] = .nan ∧ B [0x7FC00000, 0x7FC00000] = .nan)
    ∧ (a32 (f32 2 0 1) (th [0x80000000, 0]) = 0x80000000 ∧ b32 (f32 2 0 1) (e [0x80000000, 0]) (th [0x80000000, 0]) = 0)
    ∧ ({ f32 1 0 2 with opx := 5 } : Full).opx.toNat % 8 < 6 := by decide

/-- Two values in order, an infinity at either end, equal zeros and equal infinities. -/
theorem wit_FloatChoicesAndComparisons_order : let v := fvOf .f32
    below (v 0) (v 0x3F800000) ∧ below (v 0xFF800000) (v 0) ∧ below (v 0) (v 0x7F800000)
    ∧ same (v 0) (v 0x80000000) ∧ same (v 0x7F800000) (v 0x7F800000) := by
  have h1 : fvOf .f32 0x7F800000 = .inf false := by decide
  have h2 : fvOf .f32 0xFF800000 = .inf true := by decide
  have h3 : fvOf .f32 0 = .fin false 0 (-149) := by decide
  have h4 : fvOf .f32 0x3F800000 = .fin false 0x800000 (-23) := by decide
  have h0 := ratOf_zero false
  have h5 := ratOf_zero true
  refine ⟨⟨by rw [h3]; simp, by rw [h4]; simp, .inr (.inr ⟨0, 1, h0, ratOf_one, by norm_num⟩)⟩, ?_, ?_, .inr ⟨0, h0, h5⟩, .inl ⟨_, h1, h1⟩⟩
  · rw [h2, h3]; exact ⟨by simp, by simp, .inl ⟨rfl, by simp⟩⟩
  · rw [h1, h3]; exact ⟨by simp, by simp, .inr (.inl ⟨rfl, by simp⟩)⟩

/-- FCLASS: a NaN, the infinities, a zero, a subnormal and a normal of either sign. -/
theorem wit_FloatChoicesAndComparisons_classes :
    isF .f32 = true ∧ fvOf .f32 0x7FC00000 = .nan ∧ fvOf .f32 0xFF800000 = .inf true ∧ fvOf .f32 0x7F800000 = .inf false
    ∧ fvOf .f32 0x80000000 = .fin true 0 (-149) ∧ fvOf .f32 1 = .fin false 1 (-149) ∧ fvOf .f32 0x80000001 = .fin true 1 (-149)
    ∧ fvOf .f32 0x00800000 = .fin false 0x800000 (-149) := by decide

theorem wit_CvtConverts : tyOf 0x0C = some .f32 ∧ (0x0C < 32) ∧ isF .e4m3 = true ∧ isF .s8 = false
    ∧ fvOf .f32 0x7FC00000 = .nan ∧ fvOf .f32 0xFF800000 = .inf true ∧ fvOf .f32 0x7F800000 = .inf false
    ∧ (ratOf (fvOf .f32 0x3F800000)).isSome = true := by decide

theorem wit_PackingConversionsActByElement : isF .e4m3 = true ∧ tyBits .e4m3 < 32 ∧ 3 < 32 / tyBits .e4m3
    ∧ Ty.s8 ∈ [Ty.s16, .n16, .s8, .n8, .s4, .n4] ∧ tyOf 4 ≠ some .f32
    ∧ tyOf 2 = some .s8 ∧ tyBits .s8 < 32 ∧ isF .s8 = false ∧ tyOf 0x10 = some .e4m3
    ∧ (ratOf (elemVal .e4m3 (elem .e4m3 0x817E2A38 3))).isSome = true := by decide

/-- PADD2 of ones, DOT2 of ones, and the three cases of FMULE. -/
theorem wit_PackedDotsAndScalingRoundOnce :
    (∀ j < 2, (ratOf (fvOf .bf16 (elem .bf16 0x3F803F80 j))).isSome = true)
    ∧ tyOf 0x0E = some .bf16 ∧ isF .bf16 = true ∧ isI .s16 = true ∧ (Ty.s16 ≠ .b32)
    ∧ (0xFF : Nat) / 2 ^ (8 * 0) % 256 = 255 ∧ fvOf .f32 0x7FC00000 = .nan
    ∧ fvOf .f32 0x3F800000 = .fin false 0x800000 (-23) ∧ 0 < 0x800000 ∧ (0x80 : Nat) / 2 ^ (8 * 0) % 256 ≠ 255 := by decide

/-- Elements 1, NaN, 0 and an infinity of FP16, and a scale byte in each case of FMULE. -/
theorem wit_PackedDotsAndScalingRoundOnce_special : let v := fvOf .f16
    v (elem .f16 0x7E003C00 1) = .nan ∧ v 0xFC00 = .inf (!false) ∧ v 0x7C00 = .inf false ∧ zeroByInf (v 0) (v 0x7C00)
    ∧ infProduct (v 0x3C00) (v 0x7C00) false ∧ ({ fw 2 0 1 .s8 with sat := true } : Full).sat = true
    ∧ fvOf .f32 0xFF800000 = .inf true ∧ (0x7F : Nat) / 2 ^ (8 * 0) % 256 ≠ 255 := by
  have h1 : fvOf .f16 0x7C00 = .inf false := by decide
  have h2 : fvOf .f16 0x3C00 = .fin false 0x400 (-10) := by decide
  refine ⟨by decide, by decide, h1, .inl ⟨?_, _, h1⟩, ?_, rfl, by decide, by decide⟩
  · rw [show fvOf .f16 0 = .fin false 0 (-24) by decide]; simp [ratOf]
  · simp only [h1, h2]
    refine ⟨⟨false, by simp⟩, by simp, by simp, ?_, by decide⟩
    simp [zeroByInf, ratOf]

theorem wit_SpecialFunctionsLandLater (f : Full) :
    (Instr.cos f, cosFn) ∈ [(Instr.rcp f, rcpFn), (.rsqrt f, rsqrtFn), (.sqrt f, sqrtFn), (.exp2 f, exp2Fn), (.log2 f, log2Fn),
      (.tanh f, tanhFn), (.sin f, sinFn), (.cos f, cosFn)] ∧ 0 < 1 := by simp

/-- The finite operands 1 and 64. -/
theorem wit_SpecialFunctionsLandLater_finite :
    ratOf (fvOf .f32 (0x3F800000 : Reg).toNat) = some 1 ∧ ((1 : Rat) = ((1 : Int) : Rat) ∧ (1 : Rat) = (2 : Rat) ^ (0 : Int))
    ∧ ∃ q, ratOf (fvOf .f32 (0x42800000 : Reg).toNat) = some q ∧ 64 ≤ q ∧ 0 < q := by
  refine ⟨ratOf_one, by norm_num, ?_⟩
  rw [show fvOf .f32 (0x42800000 : Reg).toNat = .fin false 0x800000 (-17) by decide]
  exact ⟨_, rfl, by simp only [Bool.false_eq_true, if_false, one_mul]; norm_num, by simp only [Bool.false_eq_true, if_false, one_mul]; norm_num⟩

theorem wit_TransfersGoToTheirHeaders :
    (⟨0, 0, 0, 5 * 2 ^ 15⟩ : Imm).imm.toNat / 2 ^ 15 % 8 < 6 ∧ (⟨1, 0, 0, 0⟩ : Imm).d.toNat ≤ 1 := by decide

theorem wit_CallsReturnsAndExit : let i := Instr.exit (noT 0 0 0)
    0 < (solo i false (th [])).cores.length ∧ th [] ∈ (soloEnv i false (th [])).k.threads
    ∧ takesWord (soloEnv i false (th [])) i (th []) = true ∧ legalHere (soloEnv i false (th [])) i (th []) = true
    ∧ ∀ u ∈ (soloEnv i false (th [])).k.threads, u.id.slot = (th []).id.slot → u = th [] := by
  refine ⟨by rw [solo_length]; decide, List.mem_singleton.mpr rfl, by decide, by decide, ?_⟩
  intro u hu _
  exact List.mem_singleton.mp hu

theorem wit_GuestWordsGiveTheirResults :
    ({ noT 0 0 0 with opx := 5 } : Full).opx.toNat % 8 < 6 ∧ ({ noT 0 0 0 with opx := 10 } : Full).opx.toNat ≤ 10 := by decide

/-- The GDD and the bytes of the example of R160. -/
theorem wit_GfetchReadsAndExtracts : 0x7EC5 < 2 ^ 64 ∧ gddInvalid 0x05946601 = false := by decide

/-- The example of R160: GIR, GOP, GA0 and GA1. -/
theorem test_guest_fields : guestDecode 0x05946601 0x7EC5 = (0x7EC5, 5, 0xFFFFFFFB, 0xF) := by decide

/-- Watchpoint 3 watches four bytes at 0x100; it is hit, and the lower ones are not. -/
def watched : Core := { Core.reset with dbgNow := { DbgBlock.reset with wp := [0, 0, 0,
  BitVec.ofNat 64 (0x100 + 4 * 2 ^ 24 + 2 ^ 47 + 2 ^ 49)] } }

theorem wit_LocalAddressesAreChecked :
    ¬ ((th []).id.sup = true ∨ (th []).dbg.skw = some ((th []).pos.hdr, 1))
    ∧ (let w := watched.dbgNow.wp.getD 3 0
       w.getLsbD 49 = true ∧ w.toNat / 2 ^ 24 % 2 ^ 23 ≠ 0 ∧ w.getLsbD 23 = false ∧ w.getLsbD 47 = true
        ∧ w.toNat % 2 ^ 23 < 0x103 % 2 ^ 31 + 4 ∧ 0x103 % 2 ^ 31 < w.toNat % 2 ^ 23 + w.toNat / 2 ^ 24 % 2 ^ 23)
    ∧ (∀ i < 3, (watched.dbgNow.wp.getD i 0).getLsbD 49 = false)
    ∧ (∀ j < 4, (Core.reset.dbgNow.wp.getD j 0).getLsbD 49 = false)
    ∧ (0x480000 < 0x47FFFD % 2 ^ 23 + 4) ∧ (0x47FFFC % 2 ^ 23 + 4 ≤ 0x480000) ∧ 0x47FFFC % 2 ^ 23 % 4 = 0
    ∧ 0x100001 % 2 ^ 23 % 4 ≠ 0 := by decide

/-! ### Witnesses: accesses, tables, waits -/

/-- A thread that runs the tiller of entry 0 of die 0, without output buffer. -/
def tillerTh (v : List Reg) : Thread := { th v with spec := .running 0 0 1 0 0 }

def emptyDesc : Desc := ⟨0, 0, 0, 0, 0, 0, 0, 0, 0, [], 0, 0, 0, 0, 0, 0, 0⟩

/-- A store of 4 bytes to the own slice, not yet committed. -/
def accOf0 (n : Nat) : Access := ⟨n, .own, .store 7, 0x040000001000, 4, 0, false, false, none, 0, []⟩

/-- A running task of die 0 that the thread of TID 0 of core 0 holds. -/
def entry0 (d : Desc) (prov : List Held) : Entry :=
  { die := 0, ix := 0, seq := 1, st := .running, launch := 1, desc := d, dep := 0, readyAt := 0, born := 0, tiller := true,
    holders := [⟨0, 1, 0, false, 0⟩], next := 0, gleaned := false, chain := [], parent := none,
    prov := prov, provCore := 0, pruned := false, committing := false, maq := none }

def withEntry (x : Entry) (s : State) : State :=
  { s with gran := { s.gran with entries := [x], seqs := tblPut [] (16384 * x.die + x.ix) x.seq } }

/-- The commit queue is empty, or full at 32 items. -/
theorem wit_TillersHoldTheirStores (n : Nat) (hn : n = 0 ∨ n = 32) :
    let f := noT 1 0 0
    let g := n32 1 0 0
    let t := tillerTh [0x1000, 7]
    let s (i : Instr) := withEntry (entry0 emptyDesc ((List.range n).map .op)) (solo i false t)
    ∃ e e' e'', (s (.st f)).env = some e ∧ Alone e (.st f) t ∧ checkAcc e t 0x1000 4 4 false true = .at_ 0x040000001000 .own
      ∧ (s (.stRel f)).env = some e'' ∧ Alone e'' (.stRel f) t
      ∧ (s (.atom g)).env = some e' ∧ Alone e' (.atom g) t ∧ checkAcc e' t 0x1000 4 4 true true = .at_ 0x040000001000 .own
      ∧ inOutBuf t 0x1000 4 = false ∧ commitUsed (s (.st f)) 0 = n := by
  rcases hn with rfl | rfl <;>
    exact ⟨_, _, _, rfl, alone_of_fits (by decide), rfl, rfl, alone_of_fits (by decide), rfl, alone_of_fits (by decide), rfl, by decide, by decide⟩

/-- TBLLD at 0; TBLSW with no load under way, and with one. -/
theorem wit_FilterAndTableWordsAct :
    let t := th []
    let f := noT 0 0 0
    let loading : Thread := { th [] with acc := [⟨0, .own, .tblld [0], 0x040000000000, 4112, 0, false, false, none, 0, []⟩] }
    let flying : Thread := { th [] with res := [⟨3, 0, [], none, 0, none, some [], false⟩] }
    let loads (e : Env) : Bool := e.k.threads.any fun u =>
      (u.acc.any fun a => match a.kind with | .tblld _ => true | _ => false) || u.res.any fun r => r.table.isSome
    (∃ e, (solo (.tblld f) false t).env = some e ∧ Alone e (.tblld f) t ∧ checkAccOwn e t 0 4112 16 true false = .at_ 0x040000000000 .own)
    ∧ (∃ e, (solo (.tblsw f) false t).env = some e ∧ takesWord e (.tblsw f) t = true ∧ t ∈ e.k.threads ∧ loads e = false
        ∧ e.ck.cyc ≠ e.k.portBusy + 5 ∧ legalHere e (.tblsw f) t = true)
    ∧ (∀ u ∈ [loading, flying], ∃ e, (solo (.tblsw f) false u).env = some e ∧ takesWord e (.tblsw f) u = true ∧ u ∈ e.k.threads
        ∧ loads e = true)
    ∧ ∀ r < 4, watchAt (soloEnv (.cntfGet f) false t) t (0 + BitVec.ofNat 32 (0x2000 * r + 2 * 4095)) 2 true false = none := by
  refine ⟨⟨_, rfl, alone_of_fits (by decide), rfl⟩, ⟨_, rfl, by decide, ?_, by decide, by decide, by decide⟩,
    fun u hu => ⟨soloEnv (.tblsw _) false u, rfl, ?_, List.mem_singleton.mpr rfl, ?_⟩, by decide⟩
  · exact List.mem_singleton.mpr rfl
  all_goals simp only [List.mem_cons, List.not_mem_nil, or_false] at hu; rcases hu with rfl | rfl <;> decide

theorem wit_FenceWaitsForItsScope : runsTiller (th []) = false ∧ (noT 0 31 0).a.toNat.testBit 4 = true
    ∧ 4 ≤ ({ noT 0 0 0 with opx := 4 } : Full).opx.toNat % 8 := by decide

theorem wit_ShufflesVotesAndSamples : ({ fw 4 1 2 .b64 with opx := 16 } : Full).opx.toNat / 8 ≤ 2 ∧ 63 < 64
    ∧ 0 < (th []).id.width := by decide

theorem wit_ReductionsAndScans :
    IntTy (s32 2 0 0) ∧ ({ s32 2 0 0 with opx := 16 } : Full).opx.toNat / 8 ≤ 2 ∧ (f32 2 0 0).ty = .f32
    ∧ 3 ≤ ({ noT 2 0 0 with opx := 40 } : Full).opx.toNat / 8 ∧ ({ noT 2 0 0 with opx := 40 } : Full).opx.toNat / 8 ≤ 5
    ∧ ({ s32 2 0 0 with opx := 48 } : Full).opx.toNat / 8 ≤ 6 ∧ ({ s32 2 0 0 with opx := 48 } : Full).opx.toNat / 8 ≠ 3 := by
  refine ⟨.inl rfl, ?_⟩; decide

/-! ### Witnesses: engines, futures, tasks, supervisor words -/

/-- Core 0 with these threads and nothing at issue. -/
def idle (ts : List Thread) : State := State.reset.modCore 0 fun k => { k with
  team := some ⟨1, 0, false⟩, code := [BitVec.ofNat 64 (headWord false), 0x0830000000000000], threads := ts }

def slot0 (seq : Nat) (ended : Option Status) : ESlot := ⟨0, 0, seq, true, 1, 0, true, ended, 0, .none, 0, 0, some 100, 0, [], []⟩

/-- Core 0 with one slot of class 0. -/
def withSlot (x : ESlot) (s : State) : State := s.modCore 0 fun k => { k with es := [x] }

def isIssue (i : Instr) : Bool :=
  let t := th []
  fits (soloEnv i false t) i t && decide (t.spec = .plain)

theorem allot_first (k : Core) (cls : Nat) (h : k.es = []) : allocSlot k cls = some (0, 1) := by
  have h2 : ∀ n, (List.range (n + 1)).find? (fun _ => true) = some 0 := fun n => by rw [List.range_succ_eq_map]; rfl
  have h3 : ((List.range Config.nEngineSlots).find? fun _ => true) = some 0 := h2 2047
  have h4 : (fun n => !(([] : List ESlot).filter fun x => x.cls == cls).any fun x => x.slot == n) = fun _ => true := by
    funext n; rfl
  unfold allocSlot
  rw [h]
  dsimp only
  rw [h4, h3]

/-- Each engine word, alone in its thread, with a slot free. -/
theorem wit_EngineWordsIssueOperations : let f := noT 4 0 8
    (∀ i ∈ [Instr.copyIn f, .copyOut { f with opx := 1 }, .copyRel f, .ckick f, .wload { fw 4 0 0 .e4m3 with d := 4 },
        .mma (fw 4 0 8 .e4m3), .gather (fw 4 0 8 .e4m3), .coll (fw 4 0 8 .e4m3), .ratom (fw 4 0 8 .n32)], isIssue i = true)
    ∧ ∀ cls, allocSlot (soloCore (.copyIn f) false (th [])) cls = some (0, 1) := by
  exact ⟨by decide, fun cls => allot_first _ cls rfl⟩

/-- With every slot of the class in use, none is allotted. -/
theorem wit_EngineWordsIssueOperations_full (k : Core)
    (h : k.es = (List.range Config.nEngineSlots).map fun n => { slot0 1 none with slot := n }) : allocSlot k 0 = none := by
  have h1 : (k.es.filter fun x => x.cls == 0) = k.es := by
    rw [List.filter_eq_self]
    intro x hx
    rw [h, List.mem_map] at hx
    obtain ⟨n, -, rfl⟩ := hx; rfl
  have h2 : ((List.range Config.nEngineSlots).find? fun n => !k.es.any fun x => x.slot == n) = none := by
    rw [List.find?_eq_none]
    intro n hn
    have : (k.es.any fun x => x.slot == n) = true := by
      rw [List.any_eq_true]
      exact ⟨{ slot0 1 none with slot := n }, by rw [h, List.mem_map]; exact ⟨n, hn, rfl⟩, beq_self_eq_true n⟩
    rw [this]; decide
  have h3 : (k.es.filter fun x => x.ended.isSome) = [] := by
    rw [List.filter_eq_nil_iff]
    intro x hx
    rw [h, List.mem_map] at hx
    obtain ⟨n, -, rfl⟩ := hx
    exact Bool.false_ne_true
  unfold allocSlot
  dsimp only
  rw [h1, h2, h3]; rfl

/-- MMAP with one active thread, and with the thread outside the gathering mask. -/
theorem wit_RegisterMatrixWordsTakeRows :
    let f := fw 4 0 36 .e2m1
    let t := { th [] with pos := posOf .inSheaf 1 1 }
    let u := { th [] with pos := posOf .inSheaf 1 0 }
    isActive (soloEnv (.mmap f) true t) (.mmap f) t = true ∧ (soloCore (.mmap f) true t).mx.latch = none
      ∧ f.opx.getLsbD 4 = false ∧ t.spec = .plain ∧ fits (soloEnv (.mmap f) true t) (.mmap f) t = true
      ∧ fits (soloEnv (.mmap f) true u) (.mmap f) u = true ∧ isActive (soloEnv (.mmap f) true u) (.mmap f) u = false := by decide

/-- MMA.r of two active threads, with an empty latch, with one that their group holds in the word's format and in another, and
with another group's; a slot free, and none. -/
theorem wit_RegisterMatrixWordsTakeRows_latch :
    let f := { fw 4 0 36 .e2m1 with opx := 24 }
    let t (n : Nat) : Thread := { th [] with id := ⟨n, 1, false, 1, n, 0, 2, 64⟩, pos := posOf .inSheaf 1 3 }
    let latch (gix : Nat) (ty : Ty) : Option Latch := some ⟨false, gix, ty, [([], []), ([], [])]⟩
    let s (l : Option Latch) : State := (solo (.mmaR f) true (t 0)).modCore 0 fun k => { k with
      threads := [t 0, t 1], mx := { k.mx with latch := l }, issue := k.issue.map fun x => { x with slots := [0, 1] } }
    ∀ l ∈ [none, latch 0 .e2m1, latch 0 .e4m3, latch 1 .e2m1],
      ((s l).env.map fun e => decide (((takers e (.mmaR f)).filterMap (threadAt e.k.threads)).filter (isActive e (.mmaR f)) = [t 0, t 1]
        ∧ (∀ v ∈ e.k.threads, takesWord e (.mmaR f) v = true ∧ legalHere e (.mmaR f) v = true ∧ v.spec = .plain)
        ∧ (e.k.threads.map (·.id.slot)).Nodup ∧ e.k.mx.latch = l ∧ e.k.es = [])) = some true
      ∧ (s l).cores.length = 256 := by
  intro f t latch s l hl
  refine ⟨?_, by show (State.modCore _ _ _).cores.length = 256; simp only [State.modCore, State.withCore, List.length_set]; exact solo_length _ _ _⟩
  simp only [List.mem_cons, List.not_mem_nil, or_false] at hl
  rcases hl with rfl | rfl | rfl | rfl <;> decide +kernel

/-- A handle of SEQ 5: unknown, stale, pending, ended. -/
theorem wit_FutureTestsReport : let f := noT 4 2 0
    let t := th [0, 0, 5, 0]
    let s (x : ESlot) := withSlot x (solo (.fcancel f) false t)
    (∃ e, (s (slot0 6 none)).env = some e ∧ Alone e (.fcancel f) t)
    ∧ viewFut (s (slot0 6 none)) 1 (a64 f t) = .stale
    ∧ viewFut (s (slot0 5 none)) 1 (a64 f t) = .pending 0 0 true (some 100)
    ∧ slotOf ((s (slot0 5 (some .done))).core 0) 1 0 0 = some (slot0 5 (some .done)) ∧ (slot0 5 (some .done)).used = true := by
  refine ⟨⟨_, rfl, alone_of_fits (by decide)⟩, by decide, by decide, by decide, by decide⟩

theorem wit_FutureTestsReport_slots : 4 < 5 ∧ 255 < 256 ∧ 2 ^ 11 - 1 < 2 ^ 11 ∧ 2 ^ 40 - 1 < 2 ^ 40 ∧ 0 < 2 ^ 40 := by decide

/-- An operation under way that FCANCEL names. -/
def op0 (kind : OpKind) (cls : Nat) : Op :=
  { id := 0, core := 0, cls := cls, slot := 0, seq := 1, launch := 1, sup := false, threads := [0], kind := kind, rel := false,
    cyc := 0, iss := 0, relOps := [], relPosts := [], held := false, accepted := false, order := 0, parts := [], pages := [], faults := [], rows := [],
    cause := .none, fva := 0, exc := 0, cancel := false, promise := none, pgf := 0, issued := 0 }

theorem wit_FutureTestsReport_cancel :
    opAt { State.reset with ops := [op0 (.ckick 0 0 []) 0] } 0 = some (op0 (.ckick 0 0 []) 0) ∧ 0 < 4 := by decide

/-- A pager future under way (R61), and operations in each state that FCANCEL tells apart. -/
theorem wit_FutureTestsReport_cancels :
    let x : PSlot := ⟨0, 0, 1, 1, 0, 65536, 8, 0, false, none, 0⟩
    let s : State := { State.reset with hub := { Hub.reset with pslots := [x] } }
    viewFut s 1 (BitVec.ofNat 64 (5 * 2 ^ 60 + 256 * 2 ^ 51 + 1)) = .pending 5 0 true none
    ∧ (let w : Op := { op0 (.wload .bf16 0 0 none) 1 with accepted := true }
       opAt { State.reset with ops := [w] } 0 = some w ∧ mxFirst { State.reset with ops := [w] } w = true)
    ∧ (let c : Op := op0 (.coll .f32 false 0 0 0 64 2 (some (5, 1, 0))) 3
       opAt { State.reset with ops := [c] } 0 = some c ∧ callAt State.reset 5 1 = none) := by decide

def isTask (i : Instr) : Bool :=
  let t := th [0x1000]
  fits (soloEnv i false t) i t && decide (t.spec = .plain)

theorem wit_TaskWordsReachTheGranaryWhichServesThem : let f := noT 8 0 0
    (∀ i ∈ [Instr.taskTake { f with ub := true }, .taskPut f, .spawn f, .taskDone f, .taskDep f, .condSet f, .condNew f],
      isTask i = true)
    ∧ checkAcc (soloEnv (.taskPut f) false (th [0x1000])) (th [0x1000]) 0x1000 64 8 true false = .at_ 0x040000001000 .own := by
  refine ⟨by decide, rfl⟩

/-- The machine late in a tick, with this one thread, waiting so, under a live launch that holds every queue. -/
def granAt (kind : Option WaitKind) (spec : Spec) (pend : List PendG) : State :=
  let l : Launch := ⟨1, imageOf 0x40 0, 0, 0x1000, 1, 0, false, 2 ^ 64 - 1, 0, 0, 0, 9, 1, 0, 0, false, false⟩
  let t : Thread := { th [] with wait := kind.map fun k => ⟨k, ⟨9, none⟩, 4, 2, 0⟩, spec := spec, pend := pend }
  { State.reset.modCore 0 fun k => { k with team := some ⟨1, 0, false⟩, threads := [t] } with
    launches := [l], phase := tickRank 6 2 0 0 }

theorem granAt_threads (kind : Option WaitKind) (spec : Spec) (pend : List PendG) :
    everyThread (granAt kind spec pend) =
      [(0, { th [] with wait := kind.map fun k => ⟨k, ⟨9, none⟩, 4, 2, 0⟩, spec := spec, pend := pend })] := by
  have h : ∀ n c, threadsFrom c (List.replicate n Core.reset) = [] := by
    intro n; induction n with
    | zero => intro c; rfl
    | succ n ih => intro c; rw [List.replicate_succ]; exact ih (c + 1)
  have hs : State.reset.cores.set 0 ((granAt kind spec pend).core 0) = (granAt kind spec pend).core 0 :: List.replicate 255 Core.reset := rfl
  have hc : (granAt kind spec pend).cores = State.reset.cores.set 0 ((granAt kind spec pend).core 0) := by
    unfold granAt; simp only [State.modCore]; rfl
  unfold everyThread
  rw [hc, hs, threadsFrom, h, List.append_nil]; rfl

/-- One thread alone waits on the Granary, for each of the things that a word may wait for. -/
theorem wit_TaskWordsReachTheGranaryWhichServesThem_waits (kind : WaitKind) (spec : Spec) (x : Entry) :
    let t : Thread := { th [] with wait := some ⟨kind, ⟨9, none⟩, 4, 2, 0⟩, spec := spec }
    OnlyWaits (granAt (some kind) spec []) 0 t ∧ OnlyWaits (withEntry x (granAt (some kind) spec [])) 0 t := by
  have h := granAt_threads (some kind) spec []
  refine ⟨⟨Nat.le_refl _, ?_, ?_, rfl⟩, ⟨Nat.le_refl _, ?_, ?_, rfl⟩⟩
  · rw [h]; exact List.mem_singleton.mpr rfl
  · rw [h]; intro z hz _; exact List.mem_singleton.mp hz
  · show _ ∈ everyThread (granAt (some kind) spec []); rw [h]; exact List.mem_singleton.mpr rfl
  · show ∀ z ∈ everyThread (granAt (some kind) spec []), _; rw [h]; intro z hz _; exact List.mem_singleton.mp hz

/-- Descriptors: well-formed of each kind, malformed, of a queue that the launch holds; a place in an empty Granary, none under a
limit of 0; a condition live, resolved either way, stale and absent; every condition in use; a detached thread, one in a tiller. -/
theorem wit_TaskWordsReachTheGranaryWhichServesThem_cases :
    let s := granAt (some .condNew) .plain []
    let none_ : State := { s with hub := { s.hub with plinth := { s.hub.plinth with qlim := [(0, 0)] } } }
    let c0 : Cond := ⟨5, 3, 1, true, none, [], []⟩
    let cond (c : Cond) : State := { s with gran := { s.gran with conds := [c] } }
    let all : List Cond := (List.range 4096).map fun n => { c0 with num := n }
    (malformed 0 = false ∧ malformed 2 = false ∧ malformed 3 = true ∧ (descOf 0).kind = 0 ∧ (descOf 2).kind = 2)
    ∧ ((qmaskOf s 1).getLsbD 63 = true ∧ (qmaskOf (idle []) 1).getLsbD 0 = false ∧ bitAt (partMask s 1) 255 = true
      ∧ bitAt (partMask s 1) 256 = false)
    ∧ IsPlace s emptyDesc 0 0 0 ∧ (∀ die ix, ¬ IsPlace none_ emptyDesc 0 die ix)
    ∧ (viewCond (cond c0) 1 (5 + 3 * 2 ^ 12) = .live 5 ∧ viewCond (cond c0) 1 (5 + 2 * 2 ^ 12) = .stale
      ∧ viewCond (cond c0) 1 5 = .absent ∧ viewCond (cond { c0 with live := false, val := some true }) 1 (5 + 3 * 2 ^ 12) = .resolved true)
    ∧ (∀ n < 4096, ∃ x ∈ all, x.live = true ∧ x.num = n) ∧ (∀ x ∈ s.gran.conds, x.num ≠ 0)
    ∧ isDetached { th [] with spec := .detached 0 0 1 0 0 false } = true
    ∧ (runsTiller (tillerTh []) = true ∧ isDetached (tillerTh []) = false)
    ∧ (parentChain s (th [])).length = 0 := by
  refine ⟨by decide +kernel, by decide +kernel, ⟨rfl, by decide, by decide, fun y hy => (List.not_mem_nil hy).elim, fun j hj => absurd hj (by omega), by decide⟩,
    fun die ix h => ?_, by decide +kernel, fun n hn => ⟨_, List.mem_map.mpr ⟨n, List.mem_range.mpr hn, rfl⟩, rfl, rfl⟩,
    fun x hx => (List.not_mem_nil hx).elim, by decide, by decide, by decide +kernel⟩
  obtain ⟨hd, -, -, -, -, hq⟩ := h
  rw [show die = 0 from hd] at hq
  exact absurd hq (by decide +kernel)

/-- A take with a task queued for it, and with none; the pass with something to do, and with nothing. -/
theorem wit_TaskWordsReachTheGranaryWhichServesThem_takes :
    let s := granAt (some (.take 1)) .plain []
    let x : Entry := { entry0 emptyDesc [] with st := .queued, tiller := false, holders := [] }
    (∀ y ∈ [s, withEntry x s], tickRank 6 2 0 0 ≤ y.phase ∧ ∀ z ∈ everyThread y, z.2.pend = [] ∧ z.2.wait = some ⟨.take 1, ⟨9, none⟩, 4, 2, 0⟩)
    ∧ (granNext s).isNone = true ∧ (∀ z ∈ everyThread s, atFence z.2 = false)
    ∧ ((granNext (withEntry x s)).map fun y => (granNext y).isNone && (everyThread y).all fun z => !atFence z.2) = some true := by
  have h := granAt_threads (some (.take 1)) .plain []
  refine ⟨fun y hy => ?_, by decide +kernel, by rw [h]; decide, by decide +kernel⟩
  have hz : y.phase = tickRank 6 2 0 0 ∧ everyThread y = everyThread (granAt (some (.take 1)) .plain []) := by
    simp only [List.mem_cons, List.not_mem_nil, or_false] at hy
    rcases hy with rfl | rfl <;> exact ⟨rfl, rfl⟩
  refine ⟨Nat.le_of_eq hz.1.symm, ?_⟩
  rw [hz.2, h]
  intro z hz
  rw [List.mem_singleton.mp hz]
  exact ⟨rfl, rfl⟩

/-- TASK.DEP, TASK.DONE and COND.SET behind nothing: references to a pending entry, to one that the thread holds, the last holder
of it with and without successors to read, to a stale one and to none; a condition live and resolved. -/
theorem wit_TaskWordsReachTheGranaryWhichServesThem_words :
    let r : Nat := 2 ^ 16
    let acts : List GAct := [.dep r (-1) 4, .done r 4, .condSet (5 + 3 * 2 ^ 12) true 4]
    let x : Entry := { entry0 emptyDesc [] with tiller := false }
    let pend : Entry := { x with st := .pending, dep := 1, holders := [] }
    let grid : Entry := { x with desc := { emptyDesc with kind := 1, ext0 := 2 } }
    let more : Entry := { x with desc := { emptyDesc with ovf := 64, ovfn := 1 } }
    let c0 : Cond := ⟨5, 3, 1, true, none, [], []⟩
    let s (a : GAct) (y : Entry) : State :=
      let z := withEntry y (granAt none .plain [⟨a, none, [], [], 0⟩])
      { z with gran := { z.gran with conds := [c0] } }
    let t (a : GAct) : Thread := { th [] with pend := [⟨a, none, [], [], 0⟩] }
    let seen (z : RefView) : Option (Option Entry) := match z with | .entry y => some (some y) | .stale => some none | .none => none
    (∀ a ∈ acts, ∀ y ∈ [x, pend, grid, more], everyThread (s a y) = [(0, t a)] ∧ (s a y).thread 0 0 = some (t a) ∧ specs (t a) = []
      ∧ (s a y).posted = [] ∧ (s a y).cycle = 0)
    ∧ (∀ y ∈ [x, pend, grid, more], seen (viewRef (s (.done r 4) y) r) = some (some y) ∧ y.pruned = false)
    ∧ seen (viewRef (s (.done r 4) x) (2 * r)) = some none ∧ seen (viewRef (s (.done r 4) x) 0) = none
    ∧ (pend.st = .pending ∧ (pend.dep : Int) + -1 = 0 ∧ ((pend.dep : Int) + -2 < 0) ∧ 65535 < (pend.dep : Int) + 65535)
    ∧ ((⟨0, 1, 0, false, 0⟩ : Holder) ∈ x.holders ∧ x.st ≠ .finished ∧ x.maq = none ∧ (⟨0, 1, 0, false, 0⟩ : Holder) ∉ pend.holders)
    ∧ (x.desc.kind ≠ 1 ∧ ¬ (spaceOf grid.desc ≤ grid.next))
    ∧ (0 = x.desc.ovfn ∧ (match granBytes (s (.done r 4) more) 1 64 4 with | .inl _ => true | .inr _ => false) = true)
    ∧ viewCond (s (.condSet (5 + 3 * 2 ^ 12) true 4) x) 1 (5 + 3 * 2 ^ 12) = .live 5 := by
  refine ⟨fun a _ y _ => ⟨granAt_threads none .plain [⟨a, none, [], [], 0⟩], rfl, rfl, rfl, rfl⟩, ?_⟩
  decide +kernel

/-- Tillers on a condition: of the side that it takes and of the other one, queued, running and finished; learners. -/
theorem wit_TaskWordsReachTheGranaryWhichServesThem_resolution :
    let x (ix : Nat) (st : EState) (side : Bool) : Entry :=
      { entry0 emptyDesc [.store (accOf0 ix)] with ix := ix, seq := ix + 1, st := st, chain := [⟨5, side, 128⟩] }
    let s : State := { idle [] with gran := { Granary.reset with
      entries := [x 0 .queued true, x 1 .queued false, x 2 .running false, x 3 .finished false],
      conds := [⟨5, 3, 1, true, none, [(0, 9, 9)], [(7, true)]⟩] } }
    (s.gran.entries.map fun y => (y.die, y.ix)).Nodup
    ∧ (∀ y ∈ s.gran.entries, y.tiller = true ∧ y.pruned = false ∧ y.maq = none ∧ (∃ l ∈ y.chain, l.cond = 5)
      ∧ (y.prov.all fun h => match h with | .store _ => true | _ => false) = true
      ∧ ∀ z ∈ s.gran.conds, z.live = true → (y.die, y.ix, y.seq) ∉ z.owners)
    ∧ (∃ y ∈ s.gran.entries, ∃ l ∈ y.chain, l.side ≠ true) ∧ (∃ y ∈ s.gran.entries, ∀ l ∈ y.chain, l.side = true)
    ∧ (s.resolveOne 5 true).2 = [.commit 0 0] ∧ (s.resolveOne 6 true).2 = [] := by
  decide +kernel

/-- R93: of two tillers of one thread the one that holds the earlier store commits first, though the other was spawned first. -/
theorem test_commits_in_program_order :
    let st (c : Nat) : Held := .store { accOf0 c with cyc := c }
    let x (ix : Nat) (l : List Held) : Entry := { entry0 emptyDesc l with ix := ix, seq := ix + 1 }
    let s : State := { idle [] with gran := { Granary.reset with entries := [x 0 [st 20], x 1 [st 10, st 20]] } }
    inTurn s [.commit 0 0, .commit 0 1] = [.commit 0 1, .commit 0 0]
      ∧ (x 1 [st 10, st 20]).prov.filter (fun h => !heldElsewhere s (x 1 [st 10, st 20]) h) = [st 10] := by decide

/-- A grid of three tuples, its first not yet handed out, and all handed out. -/
theorem wit_TaskWordsReply : let f := noT 4 0 0
    let d := { emptyDesc with kind := 1, ext0 := 3 }
    let t := th [BitVec.ofNat 32 (2 ^ 16)]
    let s (i : Instr) (x : Entry) := withEntry x (solo i false t)
    (∀ i ∈ [Instr.taskCoord f, .taskWaitf f, .likeSite (noT 4 0 0), .likeTask { noT 4 0 0 with opx := 1 },
        .likeSeed { noT 4 0 2 with opx := 2 }], fits (soloEnv i false t) i t = true)
    ∧ d.kind = 1
    ∧ (⟨0, 1, 0, false, 0⟩ : Holder) ∈ (entry0 d []).holders ∧ (entry0 d []).next < 3 * 1 * 1
    ∧ 3 * 1 * 1 ≤ ({ entry0 d [] with next := 3 } : Entry).next
    ∧ viewFut (withSlot (slot0 5 none) (solo (.taskWaitf f) false (th [5, 0]))) 1 (a64 f (th [5, 0])) = .pending 0 0 true (some 100)
    ∧ viewRef (s (.taskCoord f) (entry0 d [])) (2 ^ 16) = .entry (entry0 d []) := by
  refine ⟨by decide, by decide, by decide, by decide, by decide, by decide, rfl⟩

theorem wit_SystemWordsGiveTheirResults : let i := Instr.sysw { noT 0 0 1 with ub := true }
    (∃ e, (solo i false (th [])).env = some e ∧ Alone e i (th []))
    ∧ (0x105 < 0x106) ∧ (0x107 ≤ 0x10D ∧ 0x10D ≤ 0x10D) ∧ (0x11B ≤ 0x11F ∧ 0x11F < 0x120) ∧ (0x122 ≤ 0x122) :=
  ⟨⟨_, rfl, alone_of_fits (by decide)⟩, by decide⟩

/-- A supervisor's thread in the first slot of its kind, and a thread parked in slot 0 at word 1. -/
def supPair (i : Instr) (v : List Reg) : State :=
  let t := { supTh v with id := ⟨2048, 1, true, 0, 0, 0, 1, 64⟩ }
  let u := { th [] with pos := posOf .parked 1 0 }
  let k := soloCore i false t
  { State.reset with cores := State.reset.cores.set 0 { k with
      threads := [u, t], issue := k.issue.map fun is => { is with slots := [2048] } } }


def supT (v : List Reg) : Thread := { supTh v with id := ⟨2048, 1, true, 0, 0, 0, 1, 64⟩ }
def parkedT : Thread := { th [] with pos := posOf .parked 1 0 }
def savedT : Thread := { th [] with pos := posOf .saved 1 0 }

/-- Each word of a supervisor, its target in slot 0 with GEN 0: an item that exists and one that does not, a resume word
and one that is none, a target of another GEN; SUP.SAVE of a parked and SUP.LOAD of a saved thread. -/
theorem wit_SupervisorWordsActOnParkedThreads :
    let f := noT 4 0 2
    let g := noT 4 0 8
    let t := supT []
    (∀ x ∈ [(Instr.supPwait (noT 4 0 0)), .supPrd f, .supPwr g, .supResume f, .supKill (noT 4 0 0), .supSave f, .supLoad f],
      ((supPair x []).env.map fun e => fits e x t) = some true)
    ∧ (match target ((supPair (.supPrd f) []).core 0) 0 true with | .inr u => decide (u = parkedT) | _ => false) = true
    ∧ (match target ((supPair (.supPrd f) []).core 0) 0 false with | .inr u => decide (u = parkedT) | _ => false) = true
    ∧ (match target ((supPair (.supPrd f) []).core 0) 0x10000 false with | .inl .stale => true | _ => false) = true
    ∧ (readItem (supPair (.supPrd f) []) 0 parkedT 63).isSome = true ∧ readItem (supPair (.supPrd f) []) 0 parkedT 64 = none
    ∧ (writeItem (supPair (.supPwr g) []) 0 parkedT 63 0).isSome = true
    ∧ (writeItem (supPair (.supPwr g) []) 0 parkedT 64 0).isSome = false
    ∧ resumeAct 0 parkedT.pos.widx 1 = some .retry ∧ resumeAct 3 parkedT.pos.widx 1 = none
    ∧ (match xferTarget ((supPair (.supSave f) []).core 0) 0 .parked with | .inr _ => true | _ => false) = true
    ∧ (match xferTarget { (supPair (.supLoad f) []).core 0 with threads := [savedT] } 0 .saved with | .inr _ => true | _ => false)
        = true
    ∧ checkOwn (supPair (.supSave f) []) 0 0 (256 + 4 * 64) 64 = .good 0x040000000000 .own := by
  refine ⟨by decide, by decide, by decide, by decide, by decide, by decide, by decide, by decide, by decide, by decide, by decide,
    by decide, rfl⟩

/-! ### Witnesses: paired words, commits, landings, timers -/

def halfA (d s : BitVec 10) : Half := ⟨.a, d, s, 0, false, false⟩
def halfB (d s : BitVec 10) : Half := ⟨.b, d, s, 0, false, false⟩

/-- `solo` with both halves of a word at issue. -/
def soloPair (a b : Instr) (v : List Reg) : State :=
  let k := soloCore a false (th v)
  { State.reset with cores := State.reset.cores.set 0 { k with
      code := k.code.set 1 (BitVec.ofNat 64 ((encodePair a b).getD 0)), issue := k.issue.map fun is => { is with half := some [] } } }

/-- ADD.s32 V4, V5 beside FMUL.f32 V8, V9. -/
theorem wit_PairedHalvesReadBeforeEitherWrites :
    let a := halfA 4 5
    let b := halfB 8 9
    let s := soloPair (.pairedAddS32 a) (.pairedFmulF32 b) []
    (∃ e, s.env = some e ∧ e.is.half = some [] ∧ (e.k.threads.map (·.id.slot)).Nodup
      ∧ (∀ t ∈ e.k.threads, takesWord e (.pairedAddS32 a) t = true → legalHere e (.pairedAddS32 a) t = true)
      ∧ (∀ t ∈ e.k.threads, takesWord e (.pairedFmulF32 b) t = true → legalHere e (.pairedFmulF32 b) t = true))
    ∧ a.side = .a ∧ b.side = .b ∧ ∃ e, (solo (.pairedAddS32 a) false (th [])).env = some e ∧ e.is.half = none := by
  refine ⟨⟨_, rfl, rfl, by decide, ?_, ?_⟩, rfl, rfl, ⟨_, rfl, rfl⟩⟩ <;>
    · intro t ht _
      rw [show t = th [] from List.mem_singleton.mp ht]; decide

/-- Half A swaps nothing that half B reads: V4 + V5 and V8 times V4, as V4 was. -/
theorem test_pair_reads_first :
    (match exec (.pairedAddS32 (halfA 4 5)) (soloPair (.pairedAddS32 (halfA 4 5)) (.pairedMulS32 (halfB 8 4)) [0, 0, 0, 0, 3, 2, 0, 0, 10]) with
      | .next s => (match exec (.pairedMulS32 (halfB 8 4)) s with
        | .next s => (s.thread 0 0).map fun t => (readV t 4, readV t 8)
        | _ => none)
      | _ => none) = some (5, 30) := by decide

/-- The same, late enough for every access issued in cycle 0 to commit. -/
def idleAt (ts : List Thread) : State := { idle ts with cycle := 15 }

def accOf (path : Path) (kind : AccKind) (n : Nat) : Access := ⟨0, path, kind, 0x040000001000, n, 0, false, false, none, 0, []⟩

/-- A load of the own slice, a store to the partner's and a release that waits for nothing, an atomic, a filter row, a barrier
word and a SLOT word. -/
theorem wit_AccessesTakeEffectAtTheirCommit :
    let t (a : Access) : Thread := { th [] with acc := [a] }
    (∀ a ∈ [accOf .own (.load 4 true) 4, accOf .partner (.store 7) 8, { accOf .own (.store 7) 8 with rel := true },
        accOf .own (.atom 0 .n32 1 0 4) 4, accOf .own (.cntf true 3 1 5 0xFFFF 4) 2, accOf .own (.barArrive 1 4) 16,
        accOf .own (.slotFree 3 4) 0],
      (idleAt [t a]).thread 0 0 = some (t a) ∧ (t a).acc[0]? = some a ∧ (∀ b ∈ (t a).acc.take 0, mayPass a b = true)
        ∧ (t a).spec = .plain ∧ a.size ≤ 16 ∧ dueCycle (idleAt [t a]) a ≤ (idleAt [t a]).cycle
        ∧ (a.rel = true → ∀ p ∈ (idleAt [t a]).posted, p.id ∉ a.posts) ∧ earlierTwin ((idleAt [t a]).core 0) (t a) a = false
        ∧ rowFree (idleAt [t a]) a = true)
    ∧ isCntf (accOf .own (.load 4 true) 4) = false ∧ 2 ^ 64 - 1 < 2 ^ 64 ∧ (4 ∈ [1, 2, 4] ∧ 2 ^ (8 * 4) - 1 < 2 ^ (8 * 4)) := by
  decide +kernel

/-- A barrier object with PENDING 2 and INIT 3 in phase 5: a count below, at and above PENDING, and an inert object. -/
theorem wit_AccessesTakeEffectAtTheirCommit_barriers :
    let s := ((idle []).store 0x040000001000 (leBytes 16 (2 + 3 * 2 ^ 32 + 5 * 2 ^ 64)))
    memWf s.mem = true ∧ memRead s.mem 0x040000001000 4 = 2 ∧ memRead s.mem 0x040000001004 4 = 3
    ∧ memRead s.mem 0x040000001008 4 = 5 ∧ (1 < 2 ∧ 2 ≤ 2 ∧ 2 < 3) ∧ memRead s.mem 0x040000002004 4 = 0 ∧ memRead s.mem 0x040000002008 4 = 0
    ∧ (let t : Thread := { th [] with wait := some ⟨.access, ⟨0, none⟩, 4, 2, 0⟩ }
       waitPassed s t = true ∧ waitPassed s { t with wait := some ⟨.access, ⟨1, none⟩, 4, 2, 0⟩ } = false)
    ∧ (let t : Thread := { th [] with wait := some ⟨.barrier 0x040000001000 5 1 false, ⟨9, none⟩, 4, 2, 0⟩ }
       (0 = sliceCore 0x040000001000) ∧ (idle [t]).thread 0 0 = some t ∧ (∀ u ∈ ((idle [t]).core 0).threads, u = t) ∧ 4 < t.v.length) := by
  decide +kernel

/-- A tag in each state that a clause names: EMPTY, FILLING, FULL short and not, DRAINING; a claim of 0 and of 7 bytes. -/
theorem wit_AccessesTakeEffectAtTheirCommit_tags :
    let s (st : Nat) (short : Bool) : State := (idle []).setTag 0 3 ⟨st, short, false, 7, 1, []⟩
    (∀ st ∈ [0, 1, 2, 3], ∀ b : Bool, (tagAt (s st b) 0 3).st = st ∧ (tagAt (s st b) 0 3).short = b ∧ tagQueue (s st b) 0 3 = [])
    ∧ (∀ x ∈ [(3, 1023), (0, 0)], (1024 * x.1 + x.2) / 1024 = x.1 ∧ (1024 * x.1 + x.2) % 1024 = x.2) := by decide +kernel

theorem test_commit_store : (match exec .directAccessCommit (idleAt [{ th [] with acc := [accOf .own (.store 0x0102) 2] }]) with
    | .next s => s.mem | _ => []) = [(0x040000001000, 2), (0x040000001001, 1)] := by decide +kernel

def resOf (at_ : Nat) : Result := ⟨at_, 0, [(4, 7)], none, 0, some 0, none, false⟩
def xferOf (ret : Bool) (cnt ent : Option Reg) (gop : Reg) : Xfer := ⟨ret, false, 0, cnt, ent, List.replicate 8 0, none, gop⟩
def waitOf (kind : WaitKind) : Wait := ⟨kind, ⟨0, none⟩, 4, 2, 0⟩

/-- A result due now; a RET that has filled; a DISPATCH at the last entry of its table, and beyond it. -/
theorem wit_ResultsAndTransfersLand :
    let t : Thread := { th [] with res := [resOf 0] }
    let u (x : Xfer) : Thread := { th [] with xfer := some x, wait := some (waitOf (.transit 1)) }
    ((idle [t]).thread 0 0 = some t ∧ t.res[0]? = some (resOf 0) ∧ (resOf 0).at_ ≤ (idle [t]).cycle
      ∧ (∀ q ∈ t.res, (resOf 0).at_ < q.at_ ∨ ((resOf 0).at_ = q.at_ ∧ (resOf 0).seq ≤ q.seq))
      ∧ (resOf 0).table = none ∧ (resOf 0).guest = none ∧ ((idle [t]).core 0).issue = none)
    ∧ (∀ x ∈ [xferOf true none none 0, xferOf false (some 6) (some 0) 5, xferOf false (some 6) (some 0x80000000) 5,
        xferOf false (some 6) none 6],
      (idle [u x]).thread 0 0 = some (u x) ∧ (u x).xfer = some x ∧ (u x).wait = some (waitOf (.transit 1))
        ∧ x.at_ ≤ (idle [u x]).cycle ∧ (u x).acc = [] ∧ ∀ y ∈ ((idle [u x]).core 0).threads, y.id.slot = 0 → y = u x)
    ∧ (5 : Reg).toNat < (6 : Reg).toNat ∧ (6 : Reg).toNat ≤ (6 : Reg).toNat ∧ (0 : Reg) &&& 0x7FFF8000 = 0
    ∧ (0x80000000 : Reg) &&& 0x7FFF8000 = 0 ∧ (0x80000000 : Reg).getLsbD 31 = true
    ∧ (∀ y ∈ ((idle [th []]).core 0).threads, isHeader ((idle [th []]).core 0) y.id.sup 0 = true) := by decide

/-- A result that lands while a word waits out its stall since a later cycle, and that word's predecessor wrote V5. -/
theorem wit_ResultsAndTransfersLand_stalled :
    let is : Issue := { issueOf false 0 false with stalled := some [⟨0, [0, 0, 0, 0, 0, 1], Guest.zero, 0⟩], wrote := [(0, [5])], next := 9 }
    let s := (idle [{ th [] with res := [resOf 2] }]).modCore 0 fun k => { k with issue := some is }
    ((s.core 0).issue = some is) ∧ inSheaf is (th []) = true ∧ (resOf 2).at_ ≤ ({ s with cycle := 4 } : State).cycle := by
  decide

def readyT (n : Nat) : Thread := { th [] with id := ⟨n, 1, false, 1, n, 0, 2, 64⟩, pos := posOf .ready 0 0 }

/-- Two threads ready at one header. -/
theorem wit_TheWinnowerIssuesTheSheafItChooses :
    let s := idle [readyT 0, readyT 1]
    chooseSheaf s.time s.cycle (s.core 0) = [readyT 0, readyT 1] ∧ (s.core 0).issue = none ∧ (s.core 0).offline = false
    ∧ (s.core 0).refetch = none ∧ (s.core 0).dbgDue = none ∧ (s.core 0).dbgNow.trcfg.getLsbD 11 = false ∧ (∀ t ∈ (s.core 0).threads, s.time ≤ t.pos.since + 4096)
    ∧ (toHeader (wordAt (s.core 0) false 0)).isSome = true := by decide

/-- Gating after idleness, a wake, the end of an interval; and a thread for each of the timers of a thread. -/
theorem wit_CoreTimersActWhenDue :
    let s := idle []
    let gated : State := { s.modCore 0 (fun k => { k with mx := { k.mx with idleFor := 16 } }) with cycle := 16 }
    let waking := s.modCore 0 fun k => { k with mx := { k.mx with waking := some 0 } }
    let held : Thread := { th [] with pos := posOf .gather 0 0, hold := some ⟨0, 0, true⟩ }
    let counted : Thread := { th [] with ops := [⟨0, 0, some .done⟩] }
    let owed : Thread := { th [] with replies := [⟨0, 4, none, 0, 0⟩] }
    let w (kind : WaitKind) : Thread := { th [] with wait := some (waitOf kind) }
    ((gated.core 0).mx.idleFor ≠ 0 ∧ mxBusy gated 0 = false ∧ (gated.core 0).mx.waking = none
      ∧ (gated.core 0).mx.idleAt + (gated.core 0).mx.idleFor ≤ gated.cycle)
    ∧ ((waking.core 0).mx.waking = some 0 ∧ 0 ≤ waking.cycle)
    ∧ (∃ x : State, (x.core 0).dbg.intvEnd ≤ x.time ∧ (x.core 0).dbgNow.trcfg.getLsbD 11 = false)
    ∧ (held.pos.st = .gather ∧ (held.hold.map (·.yield_)) = some true)
    ∧ (counted.ops.find? (fun o => o.cls == 0)) = some ⟨0, 0, some .done⟩
    ∧ (owed.replies[0]? = some ⟨0, 4, none, 0, 0⟩ ∧ 0 + 65536 ≤ 65536)
    ∧ (∀ kind ∈ [WaitKind.sleep, .acquire [0] [] 0, .future 0 false false, .waitn 0 0, .tag 0 0 none, .barrier 0 0 1 false,
        .fsleep 0 true], (idle [w kind]).thread 0 0 = some (w kind) ∧ (w kind).wait = some (waitOf kind)
        ∧ dlPassed 0 (waitOf kind).dl = true)
    ∧ (∀ kind ∈ [WaitKind.fence 4 31 [] [], .fence 0 1 [] [], .take 1, .put emptyDesc, .spawn emptyDesc ⟨0, 0, false, 0, false, false, false⟩, .condNew,
        .supWait, .supXfer true 0 0, .desc none [] [] [], .access, .suspended, .transit 1, .fsleep 5 false, .fsleep 5 true],
        (idle [w kind]).thread 0 0 = some (w kind) ∧ (w kind).wait = some (waitOf kind) ∧ dlPassed 0 (waitOf kind).dl = true)
    ∧ ((w (.desc none [] [] [])).acc.any isDescRead = false
      ∧ ({ w (.desc none [] [] []) with acc := [⟨0, .own, .desc 0, 0x040000001000, 8, 0, false, false, none, 0, []⟩] } : Thread).acc.any isDescRead = true)
    ∧ viewFut (withSlot { slot0 5 none with promise := some 0 } s) 1 5 = .pending 0 0 true (some 0)
    ∧ viewFut (withSlot { slot0 5 (some .done) with promise := some 0 } s) 1 5 = .ended ⟨0, 0, .done, .none, 0, 0, 0, [], []⟩ (some 0) := by
  refine ⟨by decide, by decide, ⟨idle [] |>.modCore 0 fun k => { k with dbg := { k.dbg with intvEnd := 0 } }, by decide⟩, ?_⟩
  decide

/-- An open gathering at its deadline: one member ready, one not yet; an idle core with a group of an interval to report. -/
theorem wit_CoreTimersActWhenDue_gathering :
    let m (n : Nat) (st : TState) (acc : List Access) : Thread :=
      { readyT n with pos := { (readyT n).pos with st := st, gmask := 3 }, gw := some ⟨3, ⟨0, none⟩, 0⟩, acc := acc }
    let a := m 0 .collective []
    let b := m 1 .collective [accOf .own (.store 7) 4]
    let s := idle [a, b]
    let k := { (idle []).core 0 with dbg := { DbgBlock.reset with intv := [(1, 2, 3, 4)], intvEnd := 0 },
                                     dbgNow := { DbgBlock.reset with trcfg := 2048 } }
    (gathering (s.core 0).threads a = [a, b] ∧ memberReady (s.core 0) a = true
      ∧ ∃ u ∈ gathering (s.core 0).threads a, u.gw.any (fun g => dlPassed s.time g.dl) = true)
    ∧ (k.dbg.intvEnd ≤ 0 ∧ k.dbgNow.trcfg.getLsbD 11 = true ∧ k.dbg.sel ≠ some 1) := by
  refine ⟨⟨by decide, by decide, ?_⟩, by decide⟩
  decide

/-! ### Witnesses: operations, the Granary -/

/-- The machine with one operation and this memory, the event's index 0. -/
def withOp (o : Op) (m : Mem) : State := { idle [] with ops := [o], mem := m }

def atomAt (a : Nat) : OpKind := .ratom 0 .n32 a 1 0 4
def loadBuf : OpKind := .wload .bf16 0 0 none

/-- A walk that meets the cache, one that finds a page of 2^30 bytes in the second table, and one beyond the canonical
addresses; acceptance of WLOAD and of MMA, and none of a held operation; WLOAD's one part; a completion; a peer's message of
a call not yet open; a posted write. -/
theorem wit_EnginesCarryOperationsThrough :
    let o := op0 (atomAt 8) 3
    let far := op0 (atomAt (2 ^ 56)) 3
    let m : Mem := [(0, 1), (1, 0x10), (4096, 3)]
    let page : TlbEnt := ⟨1, 0, 2 ^ 30, 0, 0, false, false, false, false⟩
    let cached : State := (withOp o m).modCore 0 fun k => { k with tlb := [page] }
    let mm : MmaArg := ⟨.e4m3, 0, 0, 0, 0, false, false, false, false, 0, false, 64, []⟩
    let l := op0 loadBuf 1
    let done : Op := { op0 (atomAt 8) 3 with accepted := true }
    (firstUndecided o (opNeeds (withOp o m) o) = some 8 ∧ walk (withOp o m) 1 (rootOf (withOp o m) o) 8 = .page page
      ∧ ((withOp o m).core 0).tlb = [] ∧ opAt (withOp o m) 0 = some o)
    ∧ (((cached.core 0).tlb.find? fun x => x.space == o.launch && covers x.va x.bytes 8) = some page)
    ∧ (firstUndecided far (opNeeds (withOp far m) far) = some (2 ^ 56)
      ∧ walk (withOp far m) 1 (rootOf (withOp far m) far) (2 ^ 56) = .fail .noncanonical (2 ^ 56) (2 ^ 72))
    ∧ (∀ p ∈ [l, op0 (.mma mm) 1], opAt (withOp p []) 0 = some p ∧ p.held = false ∧ p.accepted = false
        ∧ firstInLine (withOp p []) p = true ∧ storesDone (withOp p []) p = true)
    ∧ opAt (withOp { l with held := true } []) 0 = some { l with held := true }
    ∧ ((fun p : Op => opAt (withOp p []) 0 = some p ∧ p.accepted = true ∧ p.cause = .none ∧ mxFirst (withOp p []) p = true
        ∧ mxAwake (withOp p []) p = true) { l with accepted := true, parts := [onePart] })
    ∧ ownOk 0 (128 * rowBytes .bf16) = true ∧ 0 < 256
    ∧ (opAt (withOp done []) 0 = some done ∧ (∀ p ∈ allParts done, p.st ≠ 0) ∧ recsEnded done = true)
    ∧ callAt (idle []) 0 1 = none
    ∧ (([⟨0, 0, 0, 0, 1, 0, 0, (0, 0), none, none, [(5, 1)], false, none, 0⟩] : List Posted).find? fun q => q.id == 0) = some ⟨0, 0, 0, 0, 1, 0, 0, (0, 0), none, none, [(5, 1)], false, none, 0⟩
    := by decide

/-- An accepted operation of core 0 over one page of 2^30 bytes at physical address `pa`, with these parts. -/
def partsOp (kind : OpKind) (cls pa : Nat) (l : List Part) : Op :=
  { op0 kind cls with accepted := true, parts := l, pages := [⟨1, 0, 2 ^ 30, pa, 0, false, true, true, true⟩] }

/-- The machine with this operation, and one part of `n` bytes at offset 0. -/
def partsAt (o : Op) : State := { idle [] with ops := [o] }
def part0 (n kind : Nat) (write : Bool) : Part := ⟨64, n, 0, n, kind, false, write, .none, 0, 0, false⟩

/-- COPY: a part into the slice, one out to C memory, one out to another slice and to an S page, one that the S order holds
back, and one that meets a window that is not open. -/
theorem wit_EnginesCarryOperationsThrough_copies :
    let x (out : Bool) : CopyArg := ⟨out, false, 64, 0, 0, 8, none, none, false, false, .b32, false⟩
    let o (out : Bool) (kind pa : Nat) : Op := partsOp (.copy (x out)) 0 pa [part0 8 kind out]
    let ok (o : Op) (y : CopyArg) (a : Part) : Bool :=
      opAt (partsAt o) 0 == some o && o.parts[0]? == some a && o.accepted && partReady (partsAt o) o o.rel [] a
        && metaFree (partsAt o) o y a
    let p : Plan := ⟨8, 1, 1, 8, .n8⟩
    (∀ b : Bool, planOf (x b) = some p)
    ∧ ok (o false 1 4096) (x false) (part0 8 1 false) = true ∧ copyStart (partsAt (o false 1 4096)) (o false 1 4096) (x false) p (part0 8 1 false) = none
    ∧ ok (o true 1 4096) (x true) (part0 8 1 true) = true ∧ isSlicePhys (physAt (o true 1 4096) 64) = false
    ∧ isSlicePhys (physAt (o true 1 0x040000800000) 64) = true
    ∧ partReady { partsAt (o true 0 4096) with ops := [{ o true 0 4096 with id := 7 }] } { o true 0 4096 with iss := 1 } false [] (part0 8 0 true) = false
    ∧ ok (o true 1 0x80000000000) (x true) (part0 8 1 true) = true
    ∧ copyStart (partsAt (o true 1 0x80000000000)) (o true 1 0x80000000000) (x true) p (part0 8 1 true) = some (.hole, 64) := by
  decide +kernel

/-- The write of an S part of a COPY that is about to be performed, the copy's only part; and an atomic's register that a later
word has written in this cycle. -/
theorem wit_EnginesCarryOperationsThrough_posted :
    let x : CopyArg := ⟨true, false, 64, 0, 0, 8, none, none, false, false, .b32, false⟩
    let a := part0 8 0 true
    let o := partsOp (.copy x) 0 4096 [a]
    let w : Posted := ⟨0, 0, 0, 0, 1, 0, 0, (0, 0), none, some 0, [(4160, 1)], false, none, 0⟩
    let s : State := { partsAt { o with parts := [{ a with posted := true }] } with posted := [w] }
    (isSlicePhys (physAt o 64) = false ∧ a.kind = 0 ∧ opAt (partsAt o) 0 = some o ∧ partReady (partsAt o) o o.rel [] a = true
      ∧ metaFree (partsAt o) o x a = true ∧ copyStart (partsAt o) o x ⟨8, 1, 1, 8, .n8⟩ a = none)
    ∧ ((s.posted.find? fun q => q.id == s.ix) = some w ∧ w.link.any (linkDown s) = false ∧ w.part = some 0
      ∧ (opAt s w.op).isSome = true ∧ memWf s.mem = true)
    ∧ (let t : Thread := { th [] with late := (0, [(6, 9)]) }
       t.late.1 = s.cycle ∧ ∃ y ∈ t.late.2, y.1 = 4 + 2 ∧ (op0 (atomAt 8) 3).cyc < y.2) := by
  decide +kernel

/-- MMA of one row, with and without OUT; a GATHER's row and its last part, with and without pooling; RATOM. -/
theorem wit_EnginesCarryOperationsThrough_parts :
    let mm (out : Bool) : MmaArg := ⟨.bf16, if out then 0x400200 else 0x200, 0, 0, 0, false, false, false, false, 0, false, 64, []⟩
    let m (out : Bool) : Op := partsOp (.mma (mm out)) 1 0 [onePart]
    let g (pool : Nat) (l : List Part) : Op := partsOp (.gather .s8 pool 0 0 0 1 8 4 false) 2 4096 l
    let row := part0 8 1 false
    let r : Op := partsOp (.ratom 0 .n32 64 1 0 4) 4 4096 [part0 4 1 true]
    (∀ out : Bool, opAt (partsAt (m out)) 0 = some (m out) ∧ mxFirst (partsAt (m out)) (m out) = true
      ∧ mxAwake (partsAt (m out)) (m out) = true ∧ mmaFault (partsAt (m out)) (m out) (mm out) = .none
      ∧ mxCores (m out) = [0] ∧ mmaRows (mm out) = 1 ∧ mmaOut (mm out) = out)
    ∧ (∀ pool ∈ [0, 1, 2], let o := g pool [row, onePart]
      opAt (partsAt o) 0 = some o ∧ gatherReady (partsAt o) o 0 row = true ∧ startFault (partsAt o) o row.gva row.len false = none
      ∧ (let o := g pool [{ row with st := 1 }, onePart]; gatherReady (partsAt o) o 1 onePart = true ∧ o.parts[1]? = some onePart))
    ∧ opAt (partsAt r) 0 = some r ∧ partReady (partsAt r) r false [] (part0 4 1 true) = true
    ∧ (th []).id.launch = r.launch ∧ (th []).id.tid ∈ r.threads ∧ (th []).wait = none ∧ 4 + 3 < (th []).v.length := by
  decide +kernel

/-- COLL: a call that a rank has not joined, a whole one, and one of unlike operands. -/
theorem wit_EnginesCarryOperationsThrough_calls :
    let x (op : Nat) : CollArg := ⟨.f32, false, op, 0, 0, 64, 2⟩
    let o (op : Nat) : Op := partsOp (.coll .f32 false op 0 0 64 2 (some (5, 1, 0))) 3 4096 [onePart]
    let j (rank op : Nat) : Joined := ⟨rank, none, (2, op, .f32, false, 2), List.replicate 8 0⟩
    let s (op : Nat) (l : List Joined) : State := { partsAt (o op) with colls := [⟨5, 1, 2, l, false⟩] }
    let c (l : List Joined) : CollCall := ⟨5, 1, 2, l, false⟩
    ∀ op < 4, opAt (s op []) 0 = some (o op) ∧ teamAway (s op []) (o op) = false
      ∧ (∀ l ∈ [[j 1 op], [j 1 op, j 0 op], [j 1 7, j 0 op]], callAt (s op l) 5 1 = some (c l))
      ∧ callFull (c [j 1 op]) = false ∧ callFull (c [j 1 op, j 0 op]) = true ∧ callMatches (x op) (c [j 1 op, j 0 op]) = true
      ∧ callFull (c [j 1 7, j 0 op]) = true ∧ callMatches (x op) (c [j 1 7, j 0 op]) = false := by
  decide +kernel

/-- A peer of the table whose link is up, one whose link retrains; a posted write over that link, and over none. -/
theorem wit_EnginesCarryOperationsThrough_links :
    let s : State := { idle [] with hub := { Hub.reset with peers := [(0, (9, 0))] } }
    let down : State := { s with svc := { s.svc with retrain := [(0, 7), (2, 7)] } }
    peerUp s 9 = true ∧ peerUp s 8 = false ∧ peerUp down 9 = false ∧ (some (linkOf s 0)).any (linkDown down) = true
    ∧ (none : Option Nat).any (linkDown down) = false := by
  have h : Config.ethPort 0 / 2 % 2 = 0 ∨ Config.ethPort 0 / 2 % 2 = 1 := by omega
  rcases h with h | h <;>
    simp [peerUp, linkDown, linkOf, portsSplit, tblGet, idle, State.modCore, State.reset, Hub.reset, CfgUse.safeCfg, Service.reset, h]


/-- A held store without a release, of a value of at most 8 bytes. -/
def plainStore : Held → Bool
  | .store a => !a.rel && decide (a.size ≤ 8) && match a.kind with | .store _ => true | _ => false
  | _ => false

/-- A tiller at its commit step with a held store; an overdue suspended one; a wake record that has fired; a pager slot's
request, its ring named, full, and not named. -/
theorem wit_GranaryAndPagerEventsAct :
    let held : Entry := { entry0 emptyDesc [.store (accOf .own (.store 7) 8)] with committing := true }
    let s := withEntry held (idle [])
    let sus : Thread := { tillerTh [] with wait := some (waitOf .suspended) }
    let s2 := withEntry (entry0 emptyDesc []) (idle [sus])
    let w : Wake := ⟨0, 0, 1, 5, some (.done, [(4, 0)])⟩
    let away : Thread := { th [] with id := ⟨5, 1, false, 1, 5, 0, 1, 64⟩ }
    let s3 : State := { (idle [th []]).modCore 0 (fun k => { k with saved := [away] }) with gran := { Granary.reset with wakes := [w] } }
    let x : PSlot := ⟨0, 0, 1, 1, 0, 65536, 8, 0, false, none, 0⟩
    let ring (base head : Nat) : State := { idle [] with hub := { Hub.reset with
      pslots := [x], prbase := [(0, base)], prtail := [(0, 4096)], prhead := [(0, head)] } }
    (entryAt s 0 0 = some held ∧ held.committing = true ∧ held.st = .running ∧ ancestorsDone s held = true
      ∧ residentOf s held = true ∧ held.prov.filter (fun h => !heldElsewhere s held h) = held.prov
      ∧ held.prov.all plainStore = true)
    ∧ (s2.thread 0 0 = some sus ∧ sus.wait = some (waitOf .suspended) ∧ dlPassed s2.time (waitOf .suspended).dl = true
      ∧ tillerOf sus = some (0, 0) ∧ entryAt s2 0 0 = some (entry0 emptyDesc []) ∧ (entry0 emptyDesc []).committing = false)
    ∧ ((s3.gran.wakes.filter fun w => w.die == s3.cur)[s3.ix]? = some w ∧ savedHere s3 w = some away ∧ wakeOf s3 0 away = some w
      ∧ freeSlot (s3.core 0) = some 1)
    ∧ (∀ base ∈ [0, 0x1000], ((ring base 1).hub.pslots.find? fun x => x.die == (ring base 1).cur && x.slot == (ring base 1).ix) = some x
      ∧ tblGet (ring base 1).hub.prbase 0 0 = base)
    ∧ (tblGet (ring 0x1000 1).hub.prtail 0 0 + 2 ^ 32 - tblGet (ring 0x1000 1).hub.prhead 0 0) % 2 ^ 32 ≠ 4096
    ∧ (tblGet (ring 0x1000 0).hub.prtail 0 0 + 2 ^ 32 - tblGet (ring 0x1000 0).hub.prhead 0 0) % 2 ^ 32 = 4096 := by decide

/-- A finished tiller at its commit step, with nothing held. -/
theorem wit_GranaryAndPagerEventsAct_finished :
    let x : Entry := { entry0 emptyDesc [] with committing := true, st := .finished }
    let s := withEntry x (idle [])
    let s1 := s.modEntry 0 0 fun y => { y with prov := [], tiller := false, committing := false }
    entryAt s 0 0 = some x ∧ x.prov = [] ∧ ancestorsDone s x = true ∧ residentOf s x = true
    ∧ entryAt s1 0 0 = some { x with tiller := false, committing := false } := by decide

/-! ### Witnesses: packets, launches, teams -/

/-- A packet of operation `op` with these words from word 5 on. -/
def packet (op : Nat) (ws : List Nat) : List Quad :=
  ([0x100 + op, 0, 0, 0, 0] ++ ws ++ List.replicate (11 - ws.length) 0).map (BitVec.ofNat 64)

def pk0 (op : Nat) (ws : List Nat) (st : PkStage) (pdl : Option (Nat × Nat)) : Packet :=
  ⟨0, 0, packet op ws, st, .done, 0, 0, pdl, false, 0, 0, 0, 0⟩

/-- The machine with one packet, number 0. -/
def withPk (p : Packet) : State := { idle [] with hub := { Hub.reset with packets := [p], nextPk := 1, fagr := 0x1FF } }

/-- Queue 0 with this packet next. -/
def withQueue (ws : List Quad) (cwait : Option (Nat × Nat)) : State :=
  { idle [] with hub := { Hub.reset with
      fagr := 0x1FF, queues := [(0, { CmdQueue.reset with en := true, tail := 1, next := some ws, cwait := cwait })] } }

/-- An image of one word of code and one thread, at `a` in memory. -/
def imageNat : Nat := 0x4E474956 + 2 ^ 32 + 2 ^ 80 + 32 * 2 ^ 96 + 16 * 2 ^ 112 + 16 * 2 ^ 128
def withImage (s : State) : State := s.store 0x40 (leBytes 64 imageNat)

/-- A packet that starts, one that is malformed, one that has waited for its mailbox beyond its deadline; packets whose
operation is next, each under the condition of its clause; a completion with and without a produce step. -/
theorem wit_PacketsAreCarriedOut :
    let nop := packet 0 []
    let bad := packet 8 []
    let q (ws : List Quad) := queueAt (withQueue ws none) 0
    let late := withQueue nop (some (0, 0))
    (∀ ws ∈ [nop, bad], (q ws).next = some ws ∧ (q ws).en = true ∧ (q ws).blocked = none ∧ (q ws).cwait = none
      ∧ pkOrder ws = false ∧ pkCwait ws = false ∧ turnOf (withQueue ws none) 0 = true
      ∧ (∀ r ∈ (withQueue ws none).hub.packets, r.id < (withQueue ws none).hub.nextPk))
    ∧ badPacket bad = true ∧ badPacket nop = false ∧ featureBad (withQueue nop none) nop = false
    ∧ ((queueAt late 0).cwait = some (0, 0) ∧ (queueAt late 0).next = some nop ∧ 0 ≤ late.time)
    ∧ (∀ op < 8, packetAt (withPk (pk0 op [] .started none)) 0 = some (pk0 op [] .started none) ∧ pkOp (packet op []) = op)
    ∧ (∀ d ∈ [none, some (0, 0)], packetAt (withPk (pk0 0 [] .finished d)) 0 = some (pk0 0 [] .finished d)) := by decide

/-- Packets whose feature the bus did not agree, a LAUNCH that its queue keeps; SUPPLACE after the compute dies went down. -/
theorem wit_PacketsAreCarriedOut_features :
    let q (ws : List Quad) (fagr : Nat) : State := { withQueue ws none with hub := { (withQueue ws none).hub with fagr := fagr } }
    (∀ x ∈ [(packet 2 [], 0, 2), (packet 1 [0x40, 0, 0, 1], 0x1FF, 1), (packet 4 [], 0x1FF, 4)], badPacket x.1 = false
      ∧ turnOf (q x.1 x.2.1) 0 = true ∧ featureBad (q x.1 x.2.1) x.1 = decide (x.2.1 = 0) ∧ pkOp x.1 = x.2.2)
    ∧ ({ State.reset.svc with computeDown := true } : Service).computeDown = true ∧ (State.reset.svc).computeDown = false := by
  decide +kernel


/-- LAUNCH: image refused and accepted with a place free. MQUNLOAD at an empty slot and at one with an instance; MQKICK with
room; PREEMPT of an idle core and of a team whose launch has a save area; RESTORE of a saved team; SUPPLACE. -/
theorem wit_PacketsAreCarriedOut_operations :
    let launch := packet 1 [0x40, 0, 0, 1]
    let s := withImage (withPk ⟨0, 0, launch, .started, .done, 0, 0, none, false, 0, 0, 0, 0⟩)
    let obj : Maq := ⟨1, 1, [], [], 0, [(0, [])], 1, [], none⟩
    let m := (withPk (pk0 3 [] .started none)).setMaq 0 { MaqSlot.reset with obj := some obj }
    let l : Launch := ⟨1, imageOf 0x40 imageNat, 0, 0x1000, 1, 0, false, 0, 0, 0, 0, 9, 1, 0, 0, false, false⟩
    let p : State := { withPk (pk0 5 [] .started none) with launches := [l] }
    let x : SavedTeam := ⟨⟨1, 0, false⟩, 0, 0x1000, [], [], [], [], false, ActBank.zero, ActBank.zero, Machine.Matrix.zero, [], [], [], false, false⟩
    let r := (withPk (pk0 6 [] .started none)).modCore 0 fun k => { k with team := none, savedTeams := [x] }
    launchReason s (packet 1 [0, 0, 0, 1]) = some 3
    ∧ launchReason s launch = none ∧ pkWord launch 5 = 0x40
    ∧ (freePlaces s (s.hub.cfg.parts.getD 0 0) false 1).isEmpty = false
    ∧ (maqAt (withPk (pk0 3 [] .started none)) 0).obj = none
    ∧ ((maqAt m 0).obj = some obj ∧ obj.unloading = none ∧ obj.kicks = [] ∧ obj.live ≠ [])
    ∧ kicksFull m 0 = false
    ∧ (State.reset.core 0).team = none
    ∧ (canSave p 0 = true ∧ noRequest p (widen p 0) = true)
    ∧ ((r.core 0).savedTeams = [x] ∧ x.due = false ∧ x.team.paired = false)
    ∧ supReason (withImage (idle [])) 0x40 = none := by
  refine ⟨?_, ?_, by decide, ?_, by decide, by decide, by decide, by decide, by decide, by decide, ?_⟩ <;> decide +kernel


/-- A live launch of one team, all of it placed, with a save area. -/
def launch0 : Launch := ⟨1, imageOf 0x40 imageNat, 0, 0x1000, 1, 0, false, 1, 0, 0, 0, 9, 1, 0, 0, false, false⟩

/-- A Maquette of one task in slot 0, with one kick. -/
def maq0 (maxLive : Nat) (k : Kick) : Maq := ⟨1, maxLive, [List.replicate 8 0], [], 0, [], 0, [k], none⟩
def withMaq (maxLive : Nat) (k : Kick) : State :=
  { idle [] with launches := [launch0] }.setMaq 0 { MaqSlot.reset with obj := some (maq0 maxLive k) }

/-- A kick with a reserved bit set, one whose table is not a multiple of 16, one whose task names a queue that the launch
does not hold, and one that departs. -/
theorem wit_KicksDepartWhole :
    let k (bad : Bool) (ptab : Nat) : Kick := ⟨1, ptab, bad, none⟩
    let s (maxLive : Nat) (k : Kick) := withMaq maxLive k
    let ds := [] |>.foldl patchOne (maq0 1 (k false 0)).descs
    (∀ x ∈ [k true 0, k false 8, k false 0], (maqAt (s 1 x) (s 1 x).cur).obj = some (maq0 1 x) ∧ (maq0 1 x).kicks = x :: []
      ∧ (maq0 0 x).maxLive ≤ (maq0 0 x).live.length ∧ (maq0 1 x).live.length < (maq0 1 x).maxLive)
    ∧ patchTable (s 1 (k false 8)) 8 1 = none ∧ patchTable (s 1 (k false 0)) 0 1 = some []
    ∧ (∀ d ∈ ds, maqDescOk (s 1 (k false 0)) 1 1 0 0 (joinWords d) = true)
    ∧ maqDescOk (s 1 (k false 0)) 1 1 0 0 (joinWords [64, 0, 0, 0, 0, 0, 0, 0]) = false
    ∧ ((s 1 (k false 0)).instantiate 0 (maq0 1 (k false 0)) (ds.map fun d => descOf (joinWords d))).isSome = true
    ∧ ({ s 1 (k false 0) with hub := { (s 1 (k false 0)).hub with plinth := { Plinth.reset with qlim := [(0, 0)] } } }.instantiate 0
        (maq0 1 (k false 0)) (ds.map fun d => descOf (joinWords d))) = none := by
  refine ⟨?_, ?_, ?_, ?_, ?_, ?_, ?_⟩ <;> decide +kernel

/-- A data section that ends with the slice, on the last core. -/
theorem wit_PlacementFillsTheCore :
    let i := { imageOf 0x40 imageNat with dbase := 0x480000 - 64, dsize := 64 }
    let l := { launch0 with img := i }
    255 < State.reset.cores.length ∧ l.img.paired = false ∧ l.pcount = 0 ∧ memWf State.reset.mem = true
    ∧ (∀ r ∈ busRuns State.reset 4 (l.img.addr + l.img.dataOff) l.img.dsize, ∀ i, i < r.2 → ∀ j, j < Config.sliceBytes →
        r.1 + i ≠ sliceAt 255 + j)
    ∧ l.img.dbase + l.img.dsize ≤ Config.sliceBytes ∧ 0 < l.img.team ∧ l.img.team ≤ 2048 ∧ mxBusy State.reset 255 = false := by
  refine ⟨by rw [show State.reset.cores.length = 256 from List.length_replicate]; decide, rfl, rfl, rfl, fun r hr k hk j _ => ?_, by decide,
    by decide, by decide, by decide⟩
  rw [show busRuns State.reset 4 _ _ = [(0x40, 64)] by decide +kernel] at hr
  rw [List.mem_singleton.mp hr] at hk ⊢
  have h1 : k < 64 := hk
  have : sliceAt 255 = 0x4007F800000 := by decide
  show 0x40 + k ≠ sliceAt 255 + j
  omega

def pre0 : Preempt := ⟨0, 100, none, [0], false, false, false, 0, false⟩

/-- Core 0 with these threads under a request, and a live launch. -/
def asked (ts : List Thread) : State := { (idle ts).modCore 0 fun k => { k with
    code := [BitVec.ofNat 64 (headWord false), wordOf (.phint (noT 0 0 0))], pre := some pre0 } with launches := [launch0] }
def standing (st : TState) : Thread := { th [] with pos := posOf st 0 0 }

/-- A team with a place free; a launch that is over; a team that is over; a thread that is parked, one at a barrier, one
ready at a PHINT header; a request at its deadline; a drained team; a saved one whose turn has come; a time slice's end; a
record that is due and one that waits for room; a save and a load by a supervisor. -/
theorem wit_TeamsArePlacedSavedAndEnded :
    let place : State := { idle [] with launches := [{ launch0 with placed := 0 }] }
    let ended : State := { idle [] with launches := [{ launch0 with ended := 1 }] }
    let x : SavedTeam := ⟨⟨1, 0, false⟩, 0, 0x1000, [], [], [], [], false, ActBank.zero, ActBank.zero, Machine.Matrix.zero, [], [], [], false, true⟩
    let back : State := { (idle []).modCore 0 fun k => { k with team := none, savedTeams := [x] } with launches := [launch0] }
    let sl : State := { idle [] with hub := { Hub.reset with offsetSet := true, plinth := { Plinth.reset with slice := 100 } }, time := 100 }
    let r : FaultRec := recordOf ⟨0, 0, 0, 0⟩ (th []) .userTrap 1 0 0
    let rp : Thread := { standing .parked with frec := some r }
    let xs (save : Bool) : SupXfer := ⟨2048, 1, 0, 1, save, 0x100⟩
    let sup (st : TState) (save : Bool) := (idle [standing st]).modCore 0 fun k => { k with supX := [xs save] }
    (launchOf place 0 = none ∧ launchOf place 1 = some { launch0 with placed := 0 } ∧ ({ launch0 with placed := 0 }).placed < launch0.teams)
    ∧ (launchOf ended 1 = some { launch0 with ended := 1 } ∧ launch0.placed = launch0.teams ∧ (ended.posted.any fun p => p.launch == 1) = false)
    ∧ (teamOver (idle [standing .exited]) 0 ⟨1, 0, false⟩ = true ∧ ((idle [standing .exited]).core 0).pre = none
      ∧ ((idle [standing .exited]).core 0).retireDue = [] ∧ ((idle [standing .exited]).core 0).team = some ⟨1, 0, false⟩)
    ∧ (∀ st ∈ [TState.parked, .saved, .barrier, .ready], (asked [standing st]).thread 0 0 = some (standing st)
      ∧ savable ((asked [standing st]).core 0) (standing st) = true)
    ∧ (((asked []).core 0).pre = some pre0 ∧ pre0.saved = false ∧ pre0.graceOver = false ∧ (asked []).time < pre0.grace
      ∧ pre0.grace ≤ ({ asked [] with time := 100 } : State).time)
    ∧ (phintAt ((asked []).core 0) false 0 = true ∧ liveDesc (asked []) ((asked []).core 0) (standing .ready) = none)
    ∧ (((asked []).core 0).team = some ⟨1, 0, false⟩ ∧ launchOf (asked []) 1 = some launch0 ∧ drainedTeam (asked []) 0 1 = true)
    ∧ ((back.core 0).team = none ∧ ((back.core 0).savedTeams.find? (·.due)) = some x ∧ launchOf back 1 = some launch0
      ∧ (back.core 0).offline = false ∧ (back.core 0).retireDue = [])
    ∧ (∀ n ∈ [1, 100], n ≠ 0 ∧ n ≤ ieeeNow sl)
    ∧ ((idle [rp]).thread 0 0 = some rp ∧ rp.frec = some r ∧ landed rp = true
      ∧ ((idle [rp]).core 0).threads.all (fun u => !decide (u.id.slot < rp.id.slot)) = true)
    ∧ (let late : Thread := { rp with id := ⟨1, 1, false, 1, 1, 0, 1, 64⟩ }
      (idle [rp, late]).thread 0 1 = some late ∧ landed late = true ∧ rp.id.slot < late.id.slot ∧ rp.frec = some r ∧ late.frec = some r)
    ∧ Config.nFaultRecs - 1 < Config.nFaultRecs
    ∧ (∀ save ∈ [true, false], let st : TState := if save then .parked else .saved
      ((sup st save).core 0).supX = [xs save] ∧ threadAt ((sup st save).core 0).threads 0 = some (standing st)
        ∧ (standing st).id.gen = 1 ∧ landed (standing st) = true) := by decide +kernel

/-- A thread that parks in the only tick of its cycle, and one that parks in the first of two. -/
theorem wit_TeamsArePlacedSavedAndEnded_cycle :
    let r : FaultRec := recordOf ⟨0, 0, 0, 0⟩ (th []) .userTrap 1 0 0
    let s : State := idle [{ standing .parked with frec := some r }]
    let slow : State := { s with svc := { s.svc with clk := 600 } }
    ¬ (s.cycle ≤ r.cyc ∧ s.frac + s.svc.clk < 1200) ∧ slow.cycle ≤ r.cyc ∧ slow.frac + slow.svc.clk < 1200 := by decide

/-- A PHINT header whose liveness descriptor the image holds; a saved team whose core a spare has replaced. -/
theorem wit_TeamsArePlacedSavedAndEnded_descriptor :
    let l : Launch := { launch0 with img := { launch0.img with nlive := 1 } }
    let s : State := { asked [standing .ready] with launches := [l] }
    liveDesc s (s.core 0) (standing .ready) = some (0, 0)
    ∧ decodeWord (wordAt (s.core 0) false ((standing .ready).pos.hdr + 1)) = .one (.phint (noT 0 0 0)) := by
  decide +kernel

theorem wit_TeamsArePlacedSavedAndEnded_place :
    (freePlaces { idle [] with launches := [{ launch0 with placed := 0 }] } (2 ^ 256 - 1) false 1).isEmpty = false := by
  decide +kernel


/-! ### Witnesses: service, hub, traps, steps -/

/-- The ring of the service log full and with room; the events of service, each under the condition of its clause. -/
theorem wit_ServiceEventsAct :
    let s := idle [th []]
    let i := soloCore (.addi ⟨1, 0, 0, 0⟩) false (th [])
    let at_ : State := { s with cores := s.cores.set 0 { i with refetch := some (false, 1, 2048) } }
    let cool : TelemInput := ⟨3200, 0, 5, [94]⟩
    let due : State := { s with time := 1200000 }
    let fw (n : Nat) : State := { s with svc := { s.svc with fwState := n } }
    (4096 < (0 + 1 + 2 ^ 32 - 0xFFFFF000) % 2 ^ 32 ∧ ¬ 4096 < (s.svc.slptr + 1 + 2 ^ 32 - s.svc.slrd) % 2 ^ 32)
    ∧ (tblGet (s.core 0).corrected 0 0 + 1) % 256 ≠ 0
    ∧ ((at_.core 0).issue.isSome = true ∧ (∀ is ∈ (at_.core 0).issue, is.slots ≠ []) ∧ (at_.core 0).refetch = some (false, 1, 2048)
      ∧ (tblGet (at_.core 0).corrected 3 0 + 1) % 256 ≠ 0)
    ∧ ((State.reset.core 255).offline = false ∧ (State.reset.core 255).team = none ∧ (State.reset.core 255).pre = none)
    ∧ (∀ x ∈ s.svc.chanSpare, x.1 ≠ 23)
    ∧ (portExists s 1 0 = true ∧ 1 < lanesOf s 1 0)
    ∧ (let d : State := { s with svc := { s.svc with lanes := [(2, 2)], retrain := [(0, 7)] } }
      portExists d 1 0 = true ∧ lanesOf d 1 0 < 4 ∧ 4 ≤ maxLanes d ∧ tblGet d.svc.retrain (2 * d.cur + d.sub) 0 ≠ 0)
    ∧ (due.svc.nextTelem ≤ due.time ∧ (∀ t ∈ cool.tj, t < 95) ∧ cool.pwr ≤ due.hub.plinth.powerCap ∧ 5 ≤ cool.flow)
    ∧ (∃ t ∈ ([100, 110] : List Nat), 100 ≤ t) ∧ (∃ t ∈ ([110] : List Nat), 110 ≤ t)
    ∧ ((fw 0).svc.fwState = 0 ∧ (fw 1).svc.fwState = 1 ∧ (fw 2).svc.fwState = 2 ∧ (fw 3).svc.fwState = 3) := by decide

/-- A refetch that finds its word in the image, and one that finds none; a core to retire; channels of a stack with its spare
used; junctions at 100 and at 110 degrees. -/
theorem wit_ServiceEventsAct_errors :
    let s : State := (withImage { (idle [th []]) with launches := [launch0] }).modCore 0 fun k =>
      { k with refetch := some (false, 1, 2048), retireWant := some true }
    let gone : State := s.modCore 0 fun k => { k with team := none }
    let spared : State := { s with svc := { s.svc with chanSpare := [(7, 3)] } }
    (imageWordAt s 0 false 1).isSome = true ∧ ((imageWordAt s 0 false 1).all fun a => readable s a 8) = true
    ∧ opAt s 0 = none ∧ ((s.core 0).corrected = []) ∧ (s.core 1).refetch = none
    ∧ ((gone.core 0).retireWant = some true ∧ (gone.core 0).offline = false ∧ (gone.core 0).team = none ∧ (gone.core 0).pre = none)
    ∧ ((s.core 1).retireWant ≠ some true)
    ∧ ((∃ x ∈ spared.svc.chanSpare, x.1 = 7) ∧ tblGet spared.svc.chanSpare 7 32 ≠ 31 ∧ (7, 31) ∉ spared.svc.badChans ∧ 7 < 8 ∧ 31 < 32)
    ∧ ((∃ t ∈ ([100, 94] : List Nat), 100 ≤ t) ∧ (∀ t ∈ ([100, 94] : List Nat), t < 110) ∧ ∃ t ∈ ([94, 110] : List Nat), 110 ≤ t) := by
  decide +kernel

/-- A hub with its offset set, another not; a mailbox, a queue and a Maquette slot at the ends of their ranges; a shoot-down
that may start and one that is over; a core to halt; memory that a system core reads. -/
theorem wit_HubRegistersAct :
    let s := idle []
    let h := { Hub.reset with fagr := 0x1FF }
    let m : State := { s with hub := h }.setMaq 63 { MaqSlot.reset with obj := some { maq0 1 ⟨1, 0, false, none⟩ with kicks := [] } }
    let w : Nat := 2 ^ 10 + 2 ^ 8
    s.hub.offsetSet = false ∧ ({ h with offsetSet := true } : Hub).offsetSet = true
    ∧ (∀ d ∈ ({ s.svc with holdover := some 0 } : Service).holdover, d ≤ s.time)
    ∧ s.sub = 0 ∧ 4095 < 4096 ∧ consumers s 4095 = [] ∧ 255 < 256 ∧ 63 < 64
    ∧ ((maqAt m 63).obj = some { maq0 1 ⟨1, 0, false, none⟩ with kicks := [] } ∧ m.hub.fagr.testBit 0 = true ∧ m.hub.fagr.testBit 2 = true)
    ∧ (let d : State := { m with hub := { m.hub with fagr := 1 } }
      d.hub.fagr.testBit 2 = false ∧ (maqAt d 63).obj.isSome = true)
    ∧ (s.hub.shootDone = true ∧ (2 ^ 63 : Nat).testBit 63 = true)
    ∧ (w % 2 ^ 11 = 2 ^ 10 + 2 ^ 8 ∧ (State.reset.core 255).team = none ∧ (State.reset.core 255).saved = []
      ∧ (State.reset.core 255).threads = [] ∧ (State.reset.core 255).dbg.haltr = 0)
    ∧ (readable s 0 8 = true ∧ 0 < hubBase) := by decide

/-- A shoot-down whose dropped translation has placed a part of a copy that is done, that has still to be performed, and that
lies elsewhere; one of an operation that is over; a copy whose page a shoot-down names. -/
theorem wit_HubRegistersAct_shot :
    let x : Shot := ⟨0, 0, 0, 65536⟩
    let h := { Hub.reset with shootDone := false, shootOps := [x] }
    let c : CopyArg := ⟨true, false, 64, 0, 0, 8, none, none, false, false, .b32, false⟩
    let o (a : Part) : Op := { partsOp (.copy c) 0 4096 [a] with pages := [⟨1, 0, 65536, 4096, 0, false, true, true, true⟩] }
    let s (a : Part) : State := { partsAt (o a) with hub := h }
    let apart (a : Part) : Prop := a.gva + a.len ≤ x.va ∨ x.va + x.bytes ≤ a.gva
    (∀ a ∈ [{ part0 8 1 true with st := 1 }, part0 8 1 true, { part0 8 1 true with gva := 65536 }],
      opAt (s a) x.op = some (o a) ∧ (o a).accepted = true ∧ c.xp = false ∧ (s a).posted = [] ∧ placedBy (o a) = [(0, ⟨1, 0, 65536, 4096, 0, false, true, true, true⟩)])
    ∧ ¬ apart (part0 8 1 true) ∧ apart { part0 8 1 true with gva := 65536 } ∧ opAt (idle []) x.op = none
    ∧ (o (part0 8 1 true)).launch = (2 ^ 63 + 65536 + 1) % 2 ^ 16 := by
  decide +kernel

/-- A mailbox that has changed in this tick, and one that has not; a shoot-down that waits for a posted write; the ends of the
peer table. -/
theorem wit_HubRegistersAct_ticks :
    let h := { Hub.reset with shootDone := false, shootPosts := [3], mboxes := [(4095, { Mailbox.reset with at_ := some 0 })] }
    let w : Posted := ⟨3, 0, 0, 0, 1, 0, 0, (0, 0), none, none, [(5, 1)], false, none, 0⟩
    let s : State := { idle [] with hub := h, posted := [w] }
    (tblGet h.mboxes 4095 Mailbox.reset).at_ = some s.time ∧ (tblGet h.mboxes 0 Mailbox.reset).at_ ≠ some s.time
    ∧ (tblGet h.mboxes 0 Mailbox.reset).late = [] ∧ (∃ p ∈ s.posted, p.id ∈ h.shootPosts) ∧ h.shootDone = false
    ∧ (2 ^ 63 + 5 : Nat).testBit 63 = true ∧ (5 : Nat).testBit 63 = false ∧ 4095 < 4096
    ∧ (4096 < hubBase ∧ readable s 4096 8 = true) := by decide +kernel

theorem wit_TrapsParkAndResumesReturn :
    let k := soloCore (.addi ⟨1, 0, 0, 0⟩) false (th [])
    let u := park ⟨0, 0, 0, 0⟩ (th []) .illegal 1 0 0
    1 ≤ 1 ∧ 1 ≤ clauseLen k u ∧ 0 < clauseLen k u ∧ isHeader k false 2 = true ∧ isHeader k false 1 = false := by decide

/-- SKIP at the last word and beyond the clause, RETRY beyond it and at its header. -/
theorem wit_TrapsParkAndResumesReturn_ends :
    let k := soloCore (.addi ⟨1, 0, 0, 0⟩) false (th [])
    clauseLen k (park ⟨0, 0, 0, 0⟩ (th []) .illegal 1 0 0) ≤ 1 ∧ clauseLen k (park ⟨0, 0, 0, 0⟩ (th []) .illegal 2 0 0) < 2
    ∧ clauseLen k (park ⟨0, 0, 0, 0⟩ (th []) .illegal 0 0 0) ≤ 1 := by decide

/-- A word that is one instruction, a pair, and none; TBLSW while a load is under way; an event. -/
theorem wit_StepRunsTheDecodedInstruction :
    let s (w : Nat) := State.reset.withFetchWord 64 w
    let is (w : Nat) : Option Issue := ((s w).core 0).issue
    let w0 : Nat := 0x80401000FFFFFFFE
    (∀ w ∈ [w0, 0x4080802842020090, 0xC200000000000000], (s w).moves = .issue 0 :: [] ∧ (s w).svc.computeDown = false
      ∧ (is w).isSome = true ∧ (∀ x ∈ is w, x.slots ≠ [] ∧ x.next ≤ (s w).cycle ∧ wordAt ((s w).core 0) x.sup (x.hdr + x.widx) = BitVec.ofNat 64 w)
      ∧ ((s w).core 0).refetch = none)
    ∧ decodeWord (BitVec.ofNat 64 w0) = .one (.addi { d := 1, a := 0, g := 0, imm := 0xFFFFFFFE })
    ∧ tableHeld (s w0) (.addi { d := 1, a := 0, g := 0, imm := 0xFFFFFFFE }) = false
    ∧ tableHeld (solo (.tblsw (noT 0 0 0)) false { th [] with res := [⟨3, 0, [], none, 0, none, some [], false⟩] }) (.tblsw (noT 0 0 0)) = true
    ∧ decodeWord 0x4080802842020090 = .pair (.pairedAddS32 ⟨.a, 4, 5, 0, false, false⟩) (.pairedFmulF32 ⟨.b, 8, 9, 0, false, false⟩)
    ∧ decodeWord 0xC200000000000000 = .bad .header
    ∧ isEvent .nlatchRead = true := by decide +kernel

/-- Nothing is due before the issue; a word that stalls, and one whose stall is over; an issue behind which the tick has gone on,
so that a tick comes first. -/
theorem wit_StepRunsTheDecodedInstruction_order :
    let s := State.reset.withFetchWord 64 0x80401000FFFFFFFE
    let t (st : Option (List Reading)) : State := s.modCore 0 fun k => { k with issue := k.issue.map fun is => { is with stalled := st } }
    (∀ st ∈ [none, some []], (t st).phase ≤ issueRank (t st) 0 ∧ dueFirst (t st) (some (issueRank (t st) 0)) = none
      ∧ ((t st).core 0).regErr = [])
    ∧ (let x : State := { s.modCore 0 (fun k => { k with refetch := some (false, 1, 2048) }) with moves := [.issue 0] }
       (x.core 0).refetch ≠ none ∧ dueFirst x (some (issueRank x 0)) = none)
    ∧ dueFirst { State.reset with moves := [.tick] } none = none
    ∧ (let x : State := { State.reset with moves := [.event .gatherWindowExpiry 0 0 0], phase := tickRank 6 0 0 0 }
       (moveRank x (.event .gatherWindowExpiry 0 0 0)).any (fun r => decide (r < x.phase)) = true ∧ dueFirst x none = none)
    ∧ (let x : State := { s with moves := [.tick] }; moveRank x .tick = none ∧ dueFirst x none = some (.issue 0))
    ∧ (let u : Thread := { th [] with pos := posOf .barrier 0 0, wait := some ⟨.barrier 0 0 1 false, ⟨0, none⟩, 0, 0, 0⟩ }
       let x : State := { idle [u] with moves := [.event .waitDeadlineExpiry 0 0 0] }
       x.thread 0 0 = some u ∧ dueFirst x (some x.phase) = none
         ∧ (match exec .waitDeadlineExpiry { x with moves := [] } with | .next _ => true | _ => false) = true) := by decide +kernel

theorem wit_DecodingUndoesEncoding :
    (Instr.addi { d := 1, a := 0, g := 0, imm := 0xFFFFFFFE }).WellFormed
    ∧ encode (.addi { d := 1, a := 0, g := 0, imm := 0xFFFFFFFE }) = some 0x80401000FFFFFFFE
    ∧ ((halfOf (.pairedAddS32 (halfA 4 5))).map (·.2)) = some (halfA 4 5) ∧ ((halfOf (.pairedFmulF32 (halfB 8 9))).map (·.2)) = some (halfB 8 9)
    ∧ pairWellFormed (.pairedAddS32 (halfA 4 5)) (.pairedFmulF32 (halfB 8 9))
    ∧ encodePair (.pairedAddS32 (halfA 4 5)) (.pairedFmulF32 (halfB 8 9)) = some 0x4080802842020090 :=
  ⟨rfl, by decide, by decide, by decide, rfl, by decide⟩

theorem wit_EveryStepKeepsMemoryCanonical : memOk State.reset
    ∧ (match step { State.reset with moves := [.tick] } with | .next t => t.time | _ => 0) = 1 := by
  refine ⟨rfl, by decide +kernel⟩

theorem wit_EveryStepSettlesHalts :
    (match step { State.reset with moves := [.event .nlatchRead 0 0 0] } with | .next _ => true | _ => false) = true := by
  decide +kernel

theorem wit_MemoryReadsWhatWasStored : memWf [] = true ∧ memWf [(0, 1), (2 ^ 44 - 1, 255)] = true := by decide


/-! ### Witnesses: the statements over words at issue -/

/-- A value of a format that stochastic rounding keeps: 1, whatever r. -/
theorem wit_StochRoundFollowsItsRule :
    isF .f16 = true ∧ Ty.f16 ≠ .f32 ∧ 0 < 1
    ∧ (let a : Rat := ((1 : Nat) : Rat) * (2 : Rat) ^ (0 : Int)
       let u := ulpAt .f16 a
       let lo := (⌊a / u⌋ : Rat) * u
       let y := if (((2 ^ 32 - 1 : Nat)) : Int) < ⌊(a - lo) / u * 2 ^ 32⌋ then lo + u else lo
       y ≤ (fmtTable .f16).2.2) := by
  refine ⟨rfl, by decide, by decide, ?_⟩
  decide +kernel

/-- Words that act in each thread by themselves, each legal in a thread that takes it. -/
theorem wit_Runs : let f := noT 4 0 0
    ∀ i ∈ [Instr.mov f, .sel f, .lea f, .movi ⟨4, 0, 0, 7⟩, .ld f, .ldI f, .st f, .stRel f, .atom (n32 4 0 2), .dispatchOp (noT 0 0 0),
        .dlset (noT 0 0 0), .dladd (noT 0 0 0), .dlget f, .sleepu f, .barInit f, .barArrive f, .barWait f, .barWaitAcq f, .barArwt f, .slotClaim f, .slotTake f,
        .slotFree f, .fwait f, .fwaitAcq f, .fsleep f, .waitn f],
      fits (soloEnv i false (th [0x1000])) i (th [0x1000]) = true := by decide

/-! ### The Stoleil mailbox and the launch timing record -/

/-- The first command and the first two STOPs of the debug stub's session (22, the session). -/
theorem test_stoleil_words :
    (Message.resumeGroup 0 0).words = [0x8410000000000000, 0x8000000000000000]
    ∧ (Message.resumeGroup 1 4).words = [0x8410000000000001, 0x8000000000000004]
    ∧ (Message.stop 0x10 0 0 1 0 0xFFFF none).words = [0xC020000010000010, 0x800000000000FFFF, 0x8000000000000000]
    ∧ (Message.stop 0x10 7 0 0 8 0xFFFF none).words = [0xC020008000000710, 0x800000000000FFFF, 0x8000000000000000]
    ∧ (Message.stop 4 2 13 1 0 0x10 none).words = [0xC02000001001A204, 0x8000000000000010, 0x8000000000000000]
    ∧ (Message.ack 0).words = [0xC200000000000000] ∧ stoleilArea 5 = 0xF000000A00 := by decide

/-- The run of R413's example: the five parts sum to END less ENTRY. -/
theorem test_launch_timing_record :
    (timingRecord 1000000 1006000 1250000 30000 40000 0 170000 0 0).take 7
      = [1000000, 6000, 4000, 30000, 40000, 170000, 1250000] := by decide

end Sys2Proof.Tests
end

section
/-! Proofs for the family of the scope: what memory reads after writes, the guest words, the system words, the tests of futures,
landing results and delayed transfers. -/

namespace Sys2Proof.Scope

open Sys2Proof Sys2Proof.Machine Sys2Proof.Spec Sys2Proof.Laws

/-! ### Memory (R9, R81) -/

/-- The bytes of a value, stored in a row, read back as the value. -/
theorem memRead_store_leBytes {s : State} (h : memWf s.mem = true) (a n v : Nat) :
    memRead (s.store a (leBytes n v)).mem a n = v % 2 ^ (8 * n) := by
  have hread : memRead (s.store a (leBytes n v)).mem a (leBytes n v).length = ofLe (leBytes n v) :=
    memRead_ofLe fun j hj => by
      rw [State.store_get h, if_pos (by omega), Nat.add_sub_cancel_left]
  rwa [leBytes_length, ofLe_leBytes, show 256 = 2 ^ 8 from rfl, ← Nat.pow_mul] at hread

/-- Settles O60: the laws of `memPut` and `memClear`, and for a store of several bytes that of `State.store`. -/
theorem memoryReadsWhatWasStored : Obligations.MemoryReadsWhatWasStored := by
  unfold Obligations.MemoryReadsWhatWasStored
  intro m hm
  refine ⟨memGet_memPut hm, memWf_memPut hm, memGet_memClear m, ?_⟩
  rintro s a n v rfl
  refine ⟨memRead_store_leBytes hm a n v, fun b hb => ?_, State.store_wf hm a _⟩
  rw [State.store_get hm, leBytes_length, if_neg (by omega)]

/-! ### Guest words (R153, R154, R158, R159) -/

/-- The guest address after the instruction at GPC, with ILEN as GDD's low bits. -/
theorem gnextPc_eq (t : Thread) : gnextPc t = t.gst.gpc + BitVec.ofNat 32 (2 ^ (t.gst.gdd.toNat % 4)) := by
  simp [gnextPc, gddLen, field]

/-- GBRC branches on Va as a signed number against 0. -/
theorem condHolds_s32_iff (cc : Nat) (h : cc < 6) (x : Reg) : condHolds cc (intOf .s32 x.toNat) 0 = true ↔ holds cc x.toInt 0 := by
  rw [intOf_s32]
  exact condHolds_iff cc h x.toInt 0

/-- A write of a guest register leaves everything else of the thread. -/
theorem writeGuest_frame (t : Thread) (n : Nat) (x : Quad) : { t with gst := (writeGuest t n x).gst } = writeGuest t n x := by
  unfold writeGuest
  split <;> rfl

/-- Settles O20: each word by its meaning in one thread; GSET and GGET register by register. -/
theorem guestWordsGiveTheirResults : Obligations.GuestWordsGiveTheirResults := by
  unfold Obligations.GuestWordsGiveTheirResults
  intro f
  refine ⟨?gnext, ?gjmp, ?gjmpRel, fun hcc => ?gbrc, fun hn => ?gset, fun hn => ?gget⟩
  case gnext =>
    exact runs_of_wordMap (fun _ => rfl) fun _ t => congrArg (fun x => TRes.ok (setGpc t x)) (gnextPc_eq t)
  case gjmp => exact runs_of_wordMap (fun _ => rfl) fun _ _ => rfl
  case gjmpRel => exact runs_of_wordMap (fun _ => rfl) fun _ _ => rfl
  case gbrc =>
    refine ⟨fun t => condHolds (opxN f % 8) (intOf .s32 (readV t f.a.toNat).toNat) 0,
      runs_of_wordMap (fun _ => rfl) fun e t => ?_, fun t => condHolds_s32_iff _ hcc _⟩
    exact congrArg (fun x => TRes.ok (setGpc t (if condHolds _ _ _ = true then t.gst.gpc + b32 f e t else x))) (gnextPc_eq t)
  case gset =>
    refine ⟨fun t => (writeGuest t (opxN f) (if opxN f = 1 then readPair t f.a.toNat else (readV t f.a.toNat).setWidth 64)).gst,
      runs_of_wordMap (fun _ => rfl) fun _ t => ?_, fun t => ?_⟩
    · rw [writeGuest_frame]; rfl
    · -- One case per register number of R159.
      interval_cases h : f.opx.toNat <;> simp [writeGuest, gbpBits, opxN, h, a32, a64]
  case gget =>
    refine runs_of_wordMap (fun _ => rfl) fun e t => ?_
    interval_cases h : f.opx.toNat <;> simp [ggetWord, opxN, h, readSpecial]

/-! ### System words (R199, R265 to R268) -/

/-- Every thread that takes a word with one taker is that taker. -/
theorem eq_of_alone {e : Env} {i : Instr} {t u : Thread} (ha : Alone e i t) (hu : u ∈ e.k.threads) (hw : takesWord e i u = true) :
    u = t := by
  obtain ⟨hone, -, huniq, hlegal⟩ := ha
  have hmem : u.id.slot ∈ takers e i :=
    mem_sortBy.mpr (List.mem_map.mpr ⟨u, List.mem_filter.mpr ⟨hu, by rw [hw, hlegal u hu hw]; rfl⟩, rfl⟩)
  rw [hone, List.mem_singleton] at hmem
  exact huniq u hu hmem

/-- With one taker there is no higher position in its group, so its SYSW writes the G register (R199). -/
theorem outranked_alone {e : Env} {i : Instr} {t : Thread} (ha : Alone e i t) : outranked i e t = false := by
  refine List.any_eq_false.mpr fun u hu hout => ?_
  simp only [Bool.and_eq_true, decide_eq_true_eq] at hout
  obtain ⟨⟨⟨hw, -⟩, -⟩, hlt⟩ := hout
  rw [eq_of_alone ha hu hw] at hlt
  exact lt_irrefl _ hlt

/-- SYSW in its one thread: a G register of the group, or a special register of the thread. -/
theorem exec_sysw_alone {s : State} {e : Env} {f : Full} {t : Thread} (he : s.env = some e) (ha : Alone e (.sysw f) t) :
    exec (.sysw f) s = .next (if f.b.toNat < 64 then (ends s e t).writeG e.c t f.b.toNat (syswVal f t)
      else ends s e (writeSpecial e.ck.cyc t f.b.toNat (syswVal f t))) := by
  have hx : exec (.sysw f) s = .next (wordFold (.sysw f) (syswWord f) s) := rfl
  rw [hx, wordFold_alone he ha]
  simp only [syswWord, ends_eq, outranked_alone ha]
  rfl

theorem opxN_eq_zero (f : Full) : opxN f = 0 ↔ f.opx = 0 := (BitVec.toNat_inj (x := f.opx) (y := 0))

/-- The key of a G register in its core's table, as the statements write it. -/
theorem gKey_eq (t : Thread) (n : Nat) :
    gKey t.id.sup (gixOf t) n = (if t.id.sup then 1024 else 0) * 64 + t.id.tid / t.id.width * 64 + n := by
  rw [gKey, gixOf, Nat.add_mul]

/-- FSR loses the bits of the value but those that a landing of this cycle has set (R11, R105). -/
theorem writeSpecial_fsr (cyc : Nat) (t : Thread) (x : Quad) :
    writeSpecial cyc t 0x10E x = { t with sr := { t.sr with
      fsr := t.sr.fsr &&& ~~~(if t.hot.1 = cyc then x.setWidth 32 &&& ~~~t.hot.2 else x.setWidth 32) &&& 0x3F } } := by
  have hx : writeSpecial cyc t 0x10E x = { t with sr := { t.sr with
      fsr := fsrClear t.sr.fsr (x.setWidth 32 &&& ~~~(if t.hot.1 = cyc then t.hot.2 else 0)) } } := rfl
  by_cases h : t.hot.1 = cyc
  · rw [hx, if_pos h, if_pos h, fsrClear]
  · rw [hx, if_neg h, if_neg h, fsrClear, show ~~~(0 : Reg) = BitVec.allOnes 32 from rfl, BitVec.and_allOnes]

/-- A number that is no register which software may write changes nothing. -/
theorem writeSpecial_other (cyc : Nat) (t : Thread) (n : Nat) (x : Quad)
    (hn : n < 0x106 ∨ (0x107 ≤ n ∧ n ≤ 0x10D) ∨ n = 0x10F ∨ (0x11B ≤ n ∧ n < 0x120) ∨ 0x122 ≤ n) : writeSpecial cyc t n x = t := by
  unfold writeSpecial
  rw [if_neg (by omega), if_neg (by omega), if_neg (by omega), if_neg (by omega), if_neg (by simp; omega)]

/-- Settles O38: the words of one thread by their meanings, SYSW through `exec_sysw_alone`, and `writeSpecial` number by number. -/
theorem systemWordsGiveTheirResults : Obligations.SystemWordsGiveTheirResults := by
  unfold Obligations.SystemWordsGiveTheirResults
  refine ⟨fun f => ⟨?trap, ?bkpt, ?phint, ?yield, ?sysr, ?sysw⟩, fun t cyc n x => ?special⟩
  case trap => exact runs_of_wordMap (fun _ => rfl) fun _ _ => rfl
  case bkpt => exact runs_of_wordMap (fun _ => rfl) fun _ _ => rfl
  case phint => exact runs_of_wordMap (fun _ => rfl) fun _ _ => rfl
  case yield =>
    refine runsOn_of_wordMap (fun _ => rfl) fun e t => ?_
    by_cases h : f.opx = 0
    · rw [yieldWord, if_pos ((opxN_eq_zero f).mpr h), if_pos h]
    · rw [yieldWord, if_neg (mt (opxN_eq_zero f).mp h), if_neg h, opxN]
  case sysr => exact runs_of_wordMap (fun _ => rfl) fun _ _ => rfl
  case sysw =>
    intro s e t he ha
    rw [exec_sysw_alone he ha, State.writeG, gKey_eq]
    rfl
  case special =>
    refine ⟨?_, ?fsr, ?_, ?_, ?_, ?_, ?_, ?_, ?_, ?_, ?_, ?_, ?_, ?_, ?_, writeSpecial_other cyc t n x⟩
    case fsr => rintro rfl; exact writeSpecial_fsr cyc t x
    all_goals rintro rfl; rfl

/-! ### Tests of futures (R59 to R61, R68 to R70, R233 to R238) -/

theorem efaultCode_eq (c : EFault) : efaultCode c = causeNumber c := by cases c <;> rfl

theorem noteFault_sr_fault {t : Thread} {x : Ended} (hst : x.st = .fault) (hc : x.cls < 5) :
    (noteFault t x).sr = { t.sr with
      efc := BitVec.ofNat 32 (causeNumber x.cause + x.cls * 2 ^ 8), efa := BitVec.ofNat 64 x.fva
      pgf := if x.cause = .notMapped then x.pgf else t.sr.pgf } := by
  simp [noteFault, hst, hc, efaultCode_eq]

theorem noteFault_eq_self {t : Thread} {x : Ended} (h : x.st ≠ .fault ∨ 5 ≤ x.cls) : noteFault t x = t := by
  refine if_neg fun hc => ?_
  simp only [Bool.and_eq_true, beq_iff_eq, decide_eq_true_eq] at hc
  exact h.elim (fun h => h hc.1) (fun h => by omega)

theorem noteFault_frame (t : Thread) (x : Ended) : noteFault t x = { t with sr := (noteFault t x).sr } := by
  unfold noteFault
  split <;> rfl

@[simp] theorem noteFault_seen (t : Thread) (x : Ended) : (noteFault t x).seen = t.seen := by
  rw [noteFault_frame]

theorem noteSeen_frame (s : State) (t : Thread) (op : Nat) : noteSeen s t op = { t with seen := (noteSeen s t op).seen } := by
  unfold noteSeen
  split <;> rfl

@[simp] theorem noteSeen_sr (s : State) (t : Thread) (op : Nat) : (noteSeen s t op).sr = t.sr := by
  rw [noteSeen_frame]

/-- A completion joins what the thread has observed while a posted write of it is in flight (R88). -/
theorem mem_noteSeen {s : State} {t : Thread} {op id : Nat} :
    id ∈ (noteSeen s t op).seen ↔ id ∈ t.seen ∨ (id = op ∧ ∃ p ∈ s.posted, p.op = op) := by
  have hany : (s.posted.any fun p => p.op == op) = true ↔ ∃ p ∈ s.posted, p.op = op := by simp
  unfold noteSeen
  split
  case isTrue h =>
    rw [Bool.and_eq_true, hany] at h
    simp [h.1]
  case isFalse h =>
    rw [Bool.and_eq_true, hany, Bool.not_eq_true', ← Bool.not_eq_true, List.contains_iff_mem, not_and, not_not] at h
    refine ⟨Or.inl, ?_⟩
    rintro (hid | ⟨rfl, hp⟩)
    · exact hid
    · exact h hp

theorem observe_of_end {s : State} {t : Thread} {x : Ended} (h : x.st = .done ∨ x.st = .fault) :
    observe s t x = noteSeen s (noteFault t x) x.op := if_pos (by simpa using h)

theorem observe_of_other {s : State} {t : Thread} {x : Ended} (h : ¬ (x.st = .done ∨ x.st = .fault)) : observe s t x = t :=
  if_neg (by simpa using h)

theorem observe_frame (s : State) (t : Thread) (x : Ended) :
    observe s t x = { t with sr := (observe s t x).sr, seen := (observe s t x).seen } := by
  by_cases h : x.st = .done ∨ x.st = .fault
  · rw [observe_of_end h, noteSeen_frame, noteFault_frame]
  · rw [observe_of_other h]

theorem mem_observe_seen {s : State} {t : Thread} {x : Ended} {id : Nat} :
    id ∈ (observe s t x).seen ↔ id ∈ t.seen ∨ (id = x.op ∧ (x.st = .done ∨ x.st = .fault) ∧ ∃ p ∈ s.posted, p.op = x.op) := by
  by_cases h : x.st = .done ∨ x.st = .fault
  · simp only [observe_of_end h, mem_noteSeen, noteFault_seen, h, true_and]
  · simp only [observe_of_other h, h, false_and, and_false, or_false]

theorem observe_sr_of_no_fault {s : State} {t : Thread} {x : Ended} (h : x.st ≠ .fault ∨ 5 ≤ x.cls) : (observe s t x).sr = t.sr := by
  by_cases hd : x.st = .done ∨ x.st = .fault
  · rw [observe_of_end hd, noteSeen_sr, noteFault_eq_self h]
  · rw [observe_of_other hd]

theorem faultsAreNoted : FaultsAreNoted := by
  intro s t x
  refine ⟨fun hst hc => ?_, observe_sr_of_no_fault, observe_frame s t x, fun _ => mem_observe_seen, ?_⟩
  · rw [observe_of_end (.inr hst), noteSeen_sr, noteFault_sr_fault hst hc]
  · have hcls : (1 ≤ x.cls ∧ x.cls ≤ 3) ↔ (x.cls = 1 ∨ x.cls = 2 ∨ x.cls = 3) := by omega
    simp [summaryOf, hcls]

/-- FTIME reads the promise of a class 0 operation, and waits for one that its engine has not accepted (R235). -/
theorem ftimeWord_eq (f : Full) (e : Env) (t : Thread) :
    ftimeWord f e t = match promiseNow e.s t.id.launch (a64 f t) with
      | some v => .ok (later e t f 1 [(f.d.toNat, v.setWidth 32), (f.d.toNat + 1, (v >>> 32).setWidth 32)])
      | none => .ok { t with replies := t.replies ++ [⟨a64 f t, f.d.toNat, flagFor e f, e.ck.now, e.ck.cyc⟩],
                             flags := raised (flagFor e f) t.flags } := by
  unfold ftimeWord
  simp only [later_eq, flagFor_eq, a64]
  cases promiseNow e.s t.id.launch (readPair t f.a.toNat) with
  | some v => rfl
  | none => cases flagFor e f <;> rfl

/-- FCANCEL in its one thread, by what it finds (R234): the operation `o` goes, and the status lands a cycle later. -/
theorem exec_fcancel_alone {s : State} {e : Env} {f : Full} {t : Thread} (he : s.env = some e) (ha : Alone e (.fcancel f) t)
    {st : Status} {o : Option Op} (hv : cancelView s t.id.launch (a64 f t) = (st, o)) :
    exec (.fcancel f) s = .next ((o.elim s s.cancelOp).modThread e.c t.id.slot fun u =>
      wordDone e.is (laterStatus e u f 1 st [])) := by
  have hx : exec (.fcancel f) s = .next (wordFold (.fcancel f) (fcancelWord f) s) := rfl
  have hc : s.cancel t.id.launch (readPair t f.a.toNat) = (o.elim s s.cancelOp, st) := by
    rw [State.cancel, ← a64, hv]
    cases o <;> rfl
  rw [hx, wordFold_alone he ha]
  simp only [fcancelWord, hc, laterStatus_eq]

theorem cancelView_stale {s : State} {launch : Nat} {h : Quad} (hv : viewFut s launch h = .stale) :
    cancelView s launch h = (.stale, none) := by
  simp only [cancelView, hv]

/-- A pager future is no operation that FCANCEL withdraws. -/
theorem cancelView_pager {s : State} {launch op : Nat} {h : Quad} {acc : Bool} {p : Option Nat}
    (hv : viewFut s launch h = .pending 5 op acc p) : cancelView s launch h = (.absent, none) := by
  simp only [cancelView, hv, if_true]

theorem cancelView_pending {s : State} {launch cls op : Nat} {h : Quad} {acc : Bool} {p : Option Nat} {o : Op}
    (hv : viewFut s launch h = .pending cls op acc p) (hc : cls < 5) (ho : opAt s op = some o) :
    cancelView s launch h = if cancellable s o then (.done, some o) else (.absent, none) := by
  simp only [cancelView, hv, ho, if_neg (show ¬ cls = 5 by omega)]

/-- Whether an operation can still be withdrawn, kind by kind (R234, log entry 79). -/
theorem cancellable_eq (s : State) (o : Op) :
    cancellable s o = match o.kind with
      | .ratom .. => !o.accepted
      | .coll _ _ _ _ _ _ _ (some (cid, k, _)) => (callAt s cid k).all fun c => !callFull c
      | .wload .. | .mma _ => !(o.accepted && mxFirst s o && mxAwake s o)
      | _ => true := by
  unfold cancellable
  split <;> rename_i hk <;> simp only [hk]
  split <;> rename_i hc <;> simp only [hc, Option.all]

/-- The fields of a handle (R68). -/
theorem handle_fields {cls core slot seq : Nat} (hcls : cls < 5) (hcore : core < 256) (hslot : slot < 2 ^ 11) (hseq : seq < 2 ^ 40) :
    let h : Quad := BitVec.ofNat 64 (cls * 2 ^ 60 + core * 2 ^ 51 + slot * 2 ^ 40 + seq)
    hCls h = cls ∧ hCore h = core ∧ hSlot h = slot ∧ hSeq h = seq := by
  simp only [hCls, hCore, hSlot, hSeq, field, BitVec.toNat_ofNat]
  omega

/-- A handle of a class 0 to 4 slot reads as its slot does. -/
theorem viewFut_handle {s : State} {launch cls core slot seq : Nat} {x : ESlot} (hcls : cls < 5) (hcore : core < 256)
    (hslot : slot < 2 ^ 11) (hseq : seq < 2 ^ 40) (hx : slotOf (s.core core) launch cls slot = some x) :
    viewFut s launch (BitVec.ofNat 64 (cls * 2 ^ 60 + core * 2 ^ 51 + slot * 2 ^ 40 + seq)) = viewSlot x launch seq := by
  obtain ⟨h1, h2, h3, h4⟩ := handle_fields hcls hcore hslot hseq
  rw [viewFut, h1, h2, h3, h4, if_pos (by simp [hcls, hcore]), hx]

theorem viewSlot_absent {x : ESlot} {launch seq : Nat} (h : seq = 0 ∨ x.seq < seq ∨ x.used = false ∨ x.launch ≠ launch) :
    viewSlot x launch seq = .absent := if_pos (by simp; tauto)

section Given
variable {x : ESlot} {launch seq : Nat} (hu : x.used = true) (hl : x.launch = launch) (h0 : 0 < seq)
include hu hl h0

/-- A SEQ older than that of a used slot of the launch reads as stale. -/
theorem viewSlot_older (hs : seq < x.seq) : viewSlot x launch seq = .stale := by
  rw [viewSlot, if_neg (by simp [hu, hl]; omega), if_pos hs]

theorem viewSlot_open (hs : seq = x.seq) (hn : x.ended = none) : viewSlot x launch seq = .pending x.cls x.op x.accepted x.promise := by
  rw [viewSlot, if_neg (by simp [hu, hl]; omega), if_neg (by omega), hn]

theorem viewSlot_ended {st : Status} (hs : seq = x.seq) (hst : x.ended = some st) : viewSlot x launch seq =
    .ended ⟨x.op, x.cls, st, x.cause, x.fva, x.summary, x.pgf, x.relOps, x.relPosts⟩ x.promise := by
  rw [viewSlot, if_neg (by simp [hu, hl]; omega), if_neg (by omega), hst]

end Given

/-- Settles O35: the tests by their meanings, FCANCEL through `cancelView`, handles through `viewSlot`. -/
theorem futureTestsReport : Obligations.FutureTestsReport := by
  unfold Obligations.FutureTestsReport
  refine ⟨fun f => ⟨?ftest, ?ftime, ?qrd, faultsAreNoted, fun s e t he ha => ⟨?cancels, ?stale, ?pager, ?pending⟩⟩, ?handles⟩
  case ftest =>
    refine runs_of_wordMap (fun _ => rfl) fun e t => ?_
    simp only [ftestWord, a64]
    cases viewFut e.s t.id.launch (readPair t f.a.toNat) with
    | absent => exact congrArg TRes.ok (status_eq e _ _ _ (by decide))
    | stale => exact congrArg TRes.ok (status_eq e _ _ _ (by decide))
    | pending cls op acc p => rfl
    | ended x p => rfl
  case ftime =>
    refine runs_of_wordMap (fun _ => rfl) fun e t => ?_
    rw [ftimeWord_eq]
    simp only [promiseNow]
    cases viewFut e.s t.id.launch (a64 f t) with
    | absent => rfl
    | stale => rfl
    | pending cls op acc p =>
      by_cases hc : cls = 0
      · cases acc <;> simp [hc, promiseReg]
      · simp [hc]
    | ended x p => by_cases hc : x.cls = 0 <;> simp [hc, promiseReg]
  case qrd =>
    refine runs_of_wordMap (fun _ => rfl) fun e t => ?_
    by_cases h : t.fltNew.1 = e.ck.cyc <;> simp [qrdWord, readFlt, h, opxN]
  case cancels =>
    rcases hv : cancelView s t.id.launch (a64 f t) with ⟨st, o⟩
    rw [exec_fcancel_alone he ha hv]
    cases o <;> rfl
  case stale => exact cancelView_stale
  case pager => exact fun _ _ _ => cancelView_pager
  case pending =>
    intro cls op acc p o hv hc ho
    exact (cancelView_pending hv hc ho).trans
      (congrArg (fun can : Bool => if can = true then (Status.done, some o) else (.absent, none)) (cancellable_eq s o))
  case handles =>
    intro s launch cls core slot seq x hcls hcore hslot hseq hx
    simp only [viewFut_handle hcls hcore hslot hseq hx]
    exact ⟨viewSlot_absent, viewSlot_older, fun hu hl h0 heq => ⟨viewSlot_open hu hl h0 heq, fun _ => viewSlot_ended hu hl h0 heq⟩⟩

/-! ### Landing results (R17, R105, R315) -/

@[simp] theorem writeVs_late (t : Thread) (rs : List (Nat × Reg)) : (writeVs t rs).late = t.late := by
  induction rs generalizing t with
  | nil => rfl
  | cons x r ih => exact ih (writeV t x.1 x.2)

/-- Noting what has been written late commutes with the writes. -/
theorem writeVs_setLate (t : Thread) (rs : List (Nat × Reg)) (l : Nat × List (Nat × Nat)) :
    { writeVs t rs with late := l } = writeVs { t with late := l } rs := by
  induction rs generalizing t with
  | nil => rfl
  | cons x r ih => exact ih (writeV t x.1 x.2)

/-- The registers that words of this cycle have written late in the thread, each with the cycle in which its word issued. -/
def lateNow (cyc : Nat) (t : Thread) : List (Nat × Nat) := if t.late.1 = cyc then t.late.2 else []

theorem notPassed_eq (cyc seq : Nat) (t : Thread) (regs : List (Nat × Reg)) :
    notPassed cyc seq t regs = regs.filter fun x => !(lateNow cyc t).any fun y => y.1 == x.1 && decide (seq < y.2) := by
  by_cases h : t.late.1 = cyc <;> simp [notPassed, lateNow, h]

theorem writeLate_eq (cyc seq : Nat) (regs : List (Nat × Reg)) (t : Thread) :
    writeLate cyc seq regs t = writeVs { t with
      late := (cyc, lateNow cyc t ++ (notPassed cyc seq t regs).map fun x => (x.1, seq)) } (notPassed cyc seq t regs) := by
  rw [← writeVs_setLate]
  simp only [writeLate, noteLate, writeVs_late, List.map_map, lateNow]
  rfl

/-- The counts of the completion flags once that of a result has fallen. -/
def lowered (fl : Option Nat) (l : List Nat) : List Nat :=
  match fl with
  | none => l
  | some n => l.set n (l.getD n 0 - 1)

/-- A result without guest registers lands: its registers, its bits of FSR, its flag, and the count of R44. -/
theorem landResult_plain {r : Result} (hg : r.guest = none) (cyc : Nat) (t : Thread) (regs : List (Nat × Reg)) :
    landResult cyc t { r with regs := regs } = { setFsr (writeLate cyc r.seq regs t) r.fsr with
      flags := lowered r.flag (setFsr (writeLate cyc r.seq regs t) r.fsr).flags
      toc := if r.status = true then 0 else (setFsr (writeLate cyc r.seq regs t) r.fsr).toc } := by
  simp only [landResult, hg]
  cases r.flag <;> cases r.status <;> rfl

/-- The registers that a result may write beside the word at issue (R315). -/
theorem landRegs_eq (k : Core) (sl : Nat) (r : Result) :
    landRegs k sl r = match k.issue with
      | none => r.regs
      | some is => r.regs.filter fun x => !(decide (r.at_ < is.next) && is.wrote.any fun w => w.1 == sl && w.2.contains x.1) := by
  unfold landRegs
  cases k.issue with
  | none => rfl
  | some is => by_cases h : r.at_ < is.next <;> simp [h]

/-- The next result of a thread, once its cycle has come, may land. -/
theorem canLand_plain {s : State} {c i : Nat} {t : Thread} {r : Result} (hr : t.res[i]? = some r) (hat : r.at_ ≤ s.cycle)
    (hnext : ∀ q ∈ t.res, r.at_ < q.at_ ∨ (r.at_ = q.at_ ∧ r.seq ≤ q.seq)) (htab : r.table = none) : canLand s c t i = true := by
  simp only [canLand, hr, nextResult, tableTurn, htab, Option.isNone_none, Bool.true_or, Bool.and_true, Bool.and_eq_true,
    decide_eq_true_eq, List.all_eq_true, Bool.or_eq_true, beq_iff_eq]
  exact ⟨hnext, hat⟩

/-- The landing of a result without a table image and guest registers, as one change of its thread. -/
theorem exec_resultLands {s : State} {t : Thread} {r : Result} (ht : s.thread s.cur s.sub = some t) (hr : t.res[s.ix]? = some r)
    (hland : canLand s s.cur t s.ix = true) (htab : r.table = none) :
    exec .resultLands s = .next (((s.modThread s.cur s.sub fun u => refreshFlags s.clock (s.core s.cur)
      (landResult s.cycle (heat s.cycle r.fsr { u with res := u.res.eraseIdx s.ix })
        { r with regs := landRegs (s.core s.cur) s.sub r })).settle s.cur).lend s.cur) := by
  have hx : exec .resultLands s = execResultLands s := rfl
  have hid : (s.modCore s.cur fun k => k) = s := State.withCore_core s s.cur
  simp only [hx, execResultLands, ht, hr, hland, if_true, landAt, htab, hid, State.thread_slot ht]

/-! ### Delayed transfers (R147, R157) -/

/-- A delayed transfer whose words have been read arrives once its cycle has come. -/
theorem exec_delayedTransferArrival {s : State} {t : Thread} {x : Xfer} {w : Wait} {wx : Nat} (ht : s.thread s.cur s.sub = some t)
    (hx : t.xfer = some x) (hw : t.wait = some w) (hk : w.kind = .transit wx) (hat : x.at_ ≤ s.cycle) (hread : xferRead t x = true)
    {f : Thread → Thread}
    (hf : ∀ u ∈ (s.core s.cur).threads, u.id.slot = s.sub → arriveXfer s.clock (s.core s.cur) u x wx = f u) :
    exec .delayedTransferArrival s = .next ((s.modThread s.cur s.sub f).settle s.cur) := by
  have he : exec .delayedTransferArrival s = execDelayedTransferArrival s := rfl
  simp only [he, execDelayedTransferArrival, ht, hx, hw, hk, hread, hat, decide_true, Bool.and_self, if_true]
  rw [State.modThread_congr s s.cur s.sub _ f hf]

theorem xferRead_of_noReads {t : Thread} {x : Xfer} (hc : x.ret = true ∨ ∃ cnt, x.cnt = some cnt)
    (ha : ∀ a ∈ t.acc, a.kind ≠ .dispCount ∧ a.kind ≠ .dispEntry ∧ ∀ j, a.kind ≠ .fill j) : xferRead t x = true := by
  have hcount : (x.ret || x.cnt.isSome) = true := by
    obtain h | ⟨cnt, h⟩ := hc <;> simp [h]
  rw [xferRead, hcount, Bool.true_and, List.all_eq_true]
  intro a hm
  obtain ⟨h1, h2, h3⟩ := ha a hm
  cases hk : a.kind with
  | dispCount => exact absurd hk h1
  | dispEntry => exact absurd hk h2
  | fill j => exact absurd hk (h3 j)
  | _ => rfl

/-- A filling RET arrives at the newest entry, SP raised, seven entries held (R147). -/
theorem arriveXfer_ret {ck : Clock} {k : Core} {t : Thread} {x : Xfer} {wx : Nat} (hr : x.ret = true) :
    arriveXfer ck k t x wx =
      if isHeader k t.id.sup (x.words.getD 7 0).toNat = true then
        arriveAt ck k { t with sr := { t.sr with sp := t.sr.sp + 32 }, rs := ⟨t.rs.depth - 1, 7, x.words⟩ } (x.words.getD 7 0).toNat none .flow
      else park ck t .illegal wx 0 0 := by
  simp only [arriveXfer, hr, if_true]
  rfl

/-- The bits 30:15 of a table entry, masked in place or shifted down. -/
theorem field_entry_eq_zero {en : Reg} (h : en &&& 0x7FFF8000 = 0) : field en.toNat 30 15 = 0 := by
  have hx : en.extractLsb' 15 16 = 0 := by
    calc en.extractLsb' 15 16 = (en &&& 0x7FFF8000).extractLsb' 15 16 := by
          rw [BitVec.extractLsb'_and, show (0x7FFF8000 : Reg).extractLsb' 15 16 = BitVec.allOnes 16 by decide, BitVec.and_allOnes]
      _ = 0 := by rw [h]; rfl
  have := congrArg BitVec.toNat hx
  rwa [BitVec.extractLsb'_toNat, Nat.shiftRight_eq_div_pow] at this

theorem dispatchTo_beyond {k : Core} {t : Thread} {gop cnt : Reg} (ent : Option Reg) (h : cnt.toNat ≤ gop.toNat) :
    dispatchTo k t gop cnt ent = .inl .guestUndefined := if_pos h

/-- An entry with zero in bits 30:15, of an opcode below COUNT: undefined by its bit 31, else its handler when a header is there. -/
theorem dispatchTo_entry {k : Core} {t : Thread} {gop cnt en : Reg} (h : gop.toNat < cnt.toNat) (hz : en &&& 0x7FFF8000 = 0) :
    dispatchTo k t gop cnt (some en) = if en.getLsbD 31 = true then .inl .guestUndefined
      else if isHeader k t.id.sup (en.toNat % 2 ^ 15) = true then .inr (en.toNat % 2 ^ 15) else .inl .illegal := by
  have hlow : field en.toNat 14 0 = en.toNat % 2 ^ 15 := by simp [field]
  simp [dispatchTo, Nat.not_le.mpr h, field_entry_eq_zero hz, hlow]

/-- A DISPATCH that finds its opcode undefined traps, its record naming the opcode it issued with (R157, R348). -/
theorem arriveXfer_undefined {ck : Clock} {k : Core} {t : Thread} {x : Xfer} {wx : Nat} {cnt : Reg} (hr : x.ret = false)
    (hc : x.cnt = some cnt) (hd : dispatchTo k t x.gop cnt x.ent = .inl .guestUndefined) :
    arriveXfer ck k t x wx = recordOp x.gop (park ck t .guestUndefined wx 0 0) := by
  simp [arriveXfer, hr, hc, hd]

theorem arriveXfer_handler {ck : Clock} {k : Core} {t : Thread} {x : Xfer} {wx h : Nat} {cnt : Reg} (hr : x.ret = false)
    (hc : x.cnt = some cnt) (hd : dispatchTo k t x.gop cnt x.ent = .inr h) :
    arriveXfer ck k t x wx = arriveAt ck k t h (if x.pcMode then some t.gst.gpc else none) (.dispatch x.win) := by
  simp [arriveXfer, hr, hc, hd]

/-- Settles O42: the landing through `landResult_plain`, the transfers through `arriveXfer`'s cases. -/
theorem resultsAndTransfersLand : Obligations.ResultsAndTransfersLand := by
  unfold Obligations.ResultsAndTransfersLand
  intro s t ht
  refine ⟨fun r hr hat hnext htab hguest => ?land, fun x w wx hx hw hk hat hacc => ⟨fun hret huniq => ?ret, fun hret cnt hcnt =>
    ⟨fun hle => ?beyond, fun hlt en hen hz => ⟨fun h31 => ?undefined, fun h31 hhdr => ?handler⟩⟩⟩⟩
  case land =>
    rw [exec_resultLands ht hr (canLand_plain hr hat hnext htab) htab]
    refine congrArg (fun g => Host.Outcome.next (((s.modThread s.cur s.sub g).settle s.cur).lend s.cur))
      (funext fun u => congrArg (refreshFlags s.clock (s.core s.cur)) ?_)
    rw [landResult_plain hguest, writeLate_eq, notPassed_eq, landRegs_eq, State.thread_slot ht] <;> rfl
  case ret =>
    refine exec_delayedTransferArrival ht hx hw hk hat (xferRead_of_noReads (.inl hret) hacc) fun u hu hs => ?_
    obtain rfl := huniq u hu hs
    exact arriveXfer_ret hret
  case beyond =>
    refine exec_delayedTransferArrival ht hx hw hk hat (xferRead_of_noReads (.inr ⟨cnt, hcnt⟩) hacc) fun u _ _ => ?_
    exact arriveXfer_undefined hret hcnt (dispatchTo_beyond _ hle)
  case undefined =>
    refine exec_delayedTransferArrival ht hx hw hk hat (xferRead_of_noReads (.inr ⟨cnt, hcnt⟩) hacc) fun u _ _ => ?_
    exact arriveXfer_undefined hret hcnt (by rw [hen, dispatchTo_entry hlt hz, if_pos h31])
  case handler =>
    refine exec_delayedTransferArrival ht hx hw hk hat (xferRead_of_noReads (.inr ⟨cnt, hcnt⟩) hacc) fun u hu _ => ?_
    exact arriveXfer_handler hret hcnt (by
      rw [hen, dispatchTo_entry hlt hz, if_neg (by rw [h31]; decide), if_pos (hhdr u hu)])

end Sys2Proof.Scope
end

section
/-! Proofs for the family of threads, sheaves and clauses: transfers, calls and EXIT, deadline words, lanes, waits on futures, the
winnower's choice, the timers of a core, the placement of a team, and the step. -/

namespace Sys2Proof.Sheaves

open Sys2Proof Sys2Proof.Machine Sys2Proof.Spec Sys2Proof.Laws Sys2Proof.Scope

/-! ### Transfers and loops (R33, R145, R148, R149, R151) -/

/-- Bits 14:0 of the immediate are its low 15 bits. -/
theorem immTarget_eq (x : Imm) : immTarget x = (x.imm.setWidth 15).toNat := by simp [immTarget, field]

/-- The condition of BRC stands in bits 17:15 of the immediate. -/
theorem immCond_eq (x : Imm) : field x.imm.toNat 17 15 = x.imm.toNat / 2 ^ 15 % 8 := rfl

/-- A transfer of a thread that its word has changed elsewhere than in its identity. -/
theorem goTo_eq_jump {e : Env} {t u : Thread} (h : Nat) (hid : u.id = t.id) : goTo e u h = jump e t u h := by
  rw [goTo, jump, hid]

theorem goTo_immTarget {e : Env} {t u : Thread} (x : Imm) (hid : u.id = t.id) :
    goTo e u (immTarget x) = jump e t u (x.imm.setWidth 15).toNat := by
  rw [immTarget_eq, goTo_eq_jump _ hid]

theorem brcWord_eq (x : Imm) (e : Env) (t : Thread) :
    brcWord x e t = if condHolds (x.imm.toNat / 2 ^ 15 % 8) (intOf .s32 (readV t x.a.toNat).toNat) 0 = true
      then jump e t t (x.imm.setWidth 15).toNat else .ok t := by
  rw [brcWord, immCond_eq, goTo_immTarget x rfl, stay]

@[simp] theorem writeLc_id (t : Thread) (n : Nat) (v : Reg) : (writeLc t n v).id = t.id := by
  unfold writeLc
  split <;> rfl

/-- The D field of LOOP and LEND is 0 as a number just when it is 0 as a field. -/
theorem toNat_eq_zero_iff {w : Nat} (d : BitVec w) : d.toNat = 0 ↔ d = 0 := BitVec.toNat_inj (y := 0#w)

theorem readLc_eq (t : Thread) (d : BitVec 10) : readLc t d.toNat = if d = 0 then t.sr.lc0 else t.sr.lc1 := by
  simp only [readLc, toNat_eq_zero_iff]

theorem writeLc_eq (t : Thread) (d : BitVec 10) (n : Reg) :
    writeLc t d.toNat n = { t with sr := if d = 0 then { t.sr with lc0 := n } else { t.sr with lc1 := n } } := by
  simp only [writeLc, toNat_eq_zero_iff]
  split <;> rfl

theorem loopWord_eq (x : Imm) (e : Env) (t : Thread) :
    loopWord x e t = if readV t x.a.toNat = 0 then jump e t (writeLc t x.d.toNat (readV t x.a.toNat)) (x.imm.setWidth 15).toNat
      else .ok (writeLc t x.d.toNat (readV t x.a.toNat)) := by
  simp only [loopWord, goTo_immTarget x (writeLc_id t _ _), stay]

theorem toNat_le_one_iff (n : Reg) : n.toNat ≤ 1 ↔ n = 0 ∨ n = 1 := by
  rw [Nat.le_one_iff_eq_zero_or_eq_one]
  exact or_congr (BitVec.toNat_inj (y := 0#32)) (BitVec.toNat_inj (y := 1#32))

theorem lendWord_eq (x : Imm) (e : Env) (t : Thread) :
    lendWord x e t = if readLc t x.d.toNat = 0 ∨ readLc t x.d.toNat = 1 then .ok (writeLc t x.d.toNat 0)
      else jump e t (writeLc t x.d.toNat (readLc t x.d.toNat - 1)) (x.imm.setWidth 15).toNat := by
  simp only [lendWord, toNat_le_one_iff, goTo_immTarget x (writeLc_id t _ _), stay]

/-- Settles O18: each word by its meaning in one thread, the loop counters by `readLc_eq` and `writeLc_eq`. -/
theorem transfersGoToTheirHeaders : Obligations.TransfersGoToTheirHeaders := by
  unfold Obligations.TransfersGoToTheirHeaders
  refine ⟨fun x => ⟨?bra, fun hcc => ?brc, fun _ => ⟨?loop, ?lend⟩⟩, ?nop⟩
  case bra => exact runsOn_of_wordMap (fun _ => rfl) fun _ _ => goTo_immTarget x rfl
  case brc =>
    exact ⟨fun t => condHolds (x.imm.toNat / 2 ^ 15 % 8) (intOf .s32 (readV t x.a.toNat).toNat) 0,
      runsOn_of_wordMap (fun _ => rfl) (brcWord_eq x), fun t => condHolds_s32_iff _ hcc _⟩
  case loop =>
    refine runsOn_of_wordMap (fun _ => rfl) fun e t => ?_
    rw [loopWord_eq, writeLc_eq]
  case lend =>
    refine runsOn_of_wordMap (fun _ => rfl) fun e t => ?_
    rw [lendWord_eq, writeLc_eq, writeLc_eq, readLc_eq]
  case nop => exact fun f => runs_of_wordMap (fun _ => rfl) fun _ _ => rfl

/-! ### Calls, returns and exit (R26, R145 to R147, R150) -/

/-- The stack after the spill of a full one, which sends its stores to the queue or drops them (R147, R262). -/
theorem pushEntry_spilled (e : Env) (t : Thread) (p : Nat) (drop : Bool) :
    pushEntry (if drop = true then spilled t else { spilled t with acc := (spilled t).acc ++ spillStores e t p }) (nextOf e)
      = { t with
          sr := { t.sr with sp := t.sr.sp - 32 }
          rs := ⟨t.rs.depth + 1, 1, t.rs.ent.set 0 (BitVec.ofNat 32 (e.is.hdr + e.is.head.len + 1))⟩
          acc := if drop = true then t.acc else t.acc ++ spillOf e t p } := by
  cases drop <;> rfl

/-- A call in the terms of the statements: the target is checked first, then the depth, then the spill. -/
theorem callTo_eq (e : Env) (t : Thread) (h : Nat) : Machine.callTo e t h = Spec.callTo e t h := by
  unfold Machine.callTo Spec.callTo
  by_cases hh : isHeader e.k t.id.sup h = true
  case neg => simp [hh]
  simp only [hh, Bool.not_true, Bool.false_eq_true, if_false, Bool.true_eq_false, ne_eq, ite_not, jump, if_true, spillBase]
  congr 2
  cases checkAccOwn e t (t.sr.sp - 32) 32 4 false true with
  | trap c code => rfl
  | at_ p w => exact congrArg (fun u => TRes.ok (arriveAt e.ck e.k u h none .flow)) (pushEntry_spilled e t p _)

theorem callWord_eq (x : Imm) (e : Env) (t : Thread) : callWord x e t = Spec.callTo e t (x.imm.setWidth 15).toNat := by
  rw [callWord, immTarget_eq, callTo_eq]

/-- RET pops the newest entry that is held (R146). -/
theorem retWord_pop {e : Env} {t : Thread} (hd : t.rs.depth ≠ 0) (hh : t.rs.held ≠ 0) :
    retWord e t = jump e t { t with rs := { t.rs with depth := t.rs.depth - 1, held := t.rs.held - 1 } }
      (t.rs.ent.getD (t.rs.held - 1) 0).toNat := by
  rw [retWord, if_neg hd, if_neg hh]
  rfl

theorem threadAt_of_unique {ts : List Thread} {t : Thread} (ht : t ∈ ts) (huniq : ∀ u ∈ ts, u.id.slot = t.id.slot → u = t) :
    threadAt ts t.id.slot = some t := by
  cases hf : threadAt ts t.id.slot with
  | none => exact absurd (beq_self_eq_true _) (List.find?_eq_none.mp hf t ht)
  | some u => rw [huniq u (threadAt_mem hf) (by simpa using List.find?_some hf)]

theorem threadAt_map {ts : List Thread} {g : Thread → Thread} (hg : ∀ u, (g u).id = u.id) (sl : Nat) :
    threadAt (ts.map g) sl = (threadAt ts sl).map g := by
  rw [threadAt, List.find?_map, threadAt]
  congr 2
  funext u
  simp [hg]

/-- What no arrival, hold or gathering changes of a thread: who it is, its registers, and the header at which it stands. -/
structure Keeps (t u : Thread) : Prop where
  id : u.id = t.id
  v : u.v = t.v
  p : u.p = t.p
  q : u.q = t.q
  hdr : u.pos.hdr = t.pos.hdr

theorem Keeps.refl (t : Thread) : Keeps t t := ⟨rfl, rfl, rfl, rfl, rfl⟩

theorem Keeps.trans {t u w : Thread} (h1 : Keeps t u) (h2 : Keeps u w) : Keeps t w :=
  ⟨h2.id.trans h1.id, h2.v.trans h1.v, h2.p.trans h1.p, h2.q.trans h1.q, h2.hdr.trans h1.hdr⟩

theorem keeps_standReady (now : Nat) (k : Core) (t : Thread) : Keeps t (standReady now k t) := by
  unfold standReady
  split <;> exact ⟨rfl, rfl, rfl, rfl, rfl⟩

theorem keeps_standCollective (now dlmax : Nat) (k : Core) (t : Thread) : Keeps t (standCollective now dlmax k t) := by
  unfold standCollective
  dsimp only
  split
  · exact ⟨rfl, rfl, rfl, rfl, rfl⟩
  · exact .trans (u := { t with pos := { t.pos with gmask := 0 } }) ⟨rfl, rfl, rfl, rfl, rfl⟩ (keeps_standReady now k _)

theorem keeps_stand (now dlmax : Nat) (k : Core) (t : Thread) (x : Header) : Keeps t (stand now dlmax k t x) := by
  unfold stand
  split
  · exact keeps_standCollective now dlmax k t
  · exact keeps_standReady now k t

theorem keeps_release (ck : Clock) (k : Core) (t : Thread) : Keeps t (release ck k t) := by
  unfold release
  split
  · exact .trans ⟨rfl, rfl, rfl, rfl, rfl⟩ (keeps_stand _ _ k _ _)
  · exact keeps_standReady _ k t

theorem keeps_countTimeout (lim : Nat) (t : Thread) : Keeps t (countTimeout lim t) := by
  unfold countTimeout
  split <;> exact ⟨rfl, rfl, rfl, rfl, rfl⟩

theorem keeps_formMember (ck : Clock) (ms : List Thread) (st : Status) (t : Thread) : Keeps t (formMember ck ms st t) := by
  have hcgs : Keeps t (setCgs t st ms.length) := ⟨rfl, rfl, rfl, rfl, rfl⟩
  have hpos (u : Thread) : Keeps u { u with pos := { u.pos with st := .ready, since := ck.now, gid := formedNum ms }, gw := none } :=
    ⟨rfl, rfl, rfl, rfl, rfl⟩
  simp only [formMember]
  split
  · exact ⟨rfl, rfl, rfl, rfl, rfl⟩
  · exact (hcgs.trans (keeps_countTimeout _ _)).trans (hpos _)

/-- What the pass of R34 and R38 makes of one thread: a hold that it releases, then a gathering that is whole. -/
def settleHold (ck : Clock) (k : Core) (t : Thread) : Thread :=
  if (gatherLet k ck.cyc).contains t.id.slot then releaseLate ck k t else t
def settleForm (ck : Clock) (k : Core) (t : Thread) : Thread :=
  if (t.pos.st == .collective && gatheringWhole k t) = true then formMember ck (gathering k.threads t) .done t else t

theorem settleCore_threads (ck : Clock) (k : Core) : (settleCore ck k).threads =
    (k.threads.map (settleHold ck k)).map (settleForm ck { k with threads := k.threads.map (settleHold ck k) }) := rfl

theorem keeps_settleHold (ck : Clock) (k : Core) (t : Thread) : Keeps t (settleHold ck k t) := by
  unfold settleHold
  split
  · exact .trans (keeps_release ck k t) ⟨rfl, rfl, rfl, rfl, rfl⟩
  · exact .refl t

theorem keeps_settleForm (ck : Clock) (k : Core) (t : Thread) : Keeps t (settleForm ck k t) := by
  unfold settleForm
  split
  · exact keeps_formMember ck _ _ t
  · exact .refl t

/-- Only held threads are let go. -/
theorem mem_gatherLet {k : Core} {cyc sl : Nat} (h : sl ∈ gatherLet k cyc) : ∃ u ∈ k.threads, gatherHeld u = true ∧ u.id.slot = sl := by
  simp only [gatherLet, List.mem_map, List.mem_append, List.mem_filter] at h
  obtain ⟨u, hu, rfl⟩ := h
  exact ⟨u, by tauto, by tauto, rfl⟩

/-- The pass of R34 and R38 leaves a thread that is neither held nor in a gathering. -/
theorem threadAt_settleCore {ck : Clock} {k : Core} {u : Thread} {sl : Nat} (hu : threadAt k.threads sl = some u)
    (huniq : ∀ v ∈ k.threads, v.id.slot = sl → v = u) (hg : u.pos.st ≠ .gather) (hc : u.pos.st ≠ .collective) :
    threadAt (settleCore ck k).threads sl = some u := by
  have hsl : u.id.slot = sl := by simpa using List.find?_some hu
  have hhold : settleHold ck k u = u := by
    refine if_neg fun hm => ?_
    obtain ⟨v, hv, hheld, hs⟩ := mem_gatherLet (List.contains_iff_mem.mp hm)
    rw [huniq v hv (hs.trans hsl)] at hheld
    exact hg (by simpa using (Bool.and_eq_true_iff.mp hheld).1)
  have hform (l : Core) : settleForm ck l u = u := if_neg (by simp [hc])
  rw [settleCore_threads, threadAt_map fun u => (keeps_settleForm ck _ u).id,
    threadAt_map fun u => (keeps_settleHold ck k u).id, hu]
  simp only [Option.map_some, hhold, hform]

theorem thread_settleWord {s : State} {u : Thread} {sl : Nat} (hc : s.cur < s.cores.length) (hu : s.thread s.cur sl = some u)
    (huniq : ∀ v ∈ (s.core s.cur).threads, v.id.slot = sl → v = u) (hg : u.pos.st ≠ .gather) (hn : u.pos.st ≠ .collective) :
    (settleWord s).thread s.cur sl = some u := by
  unfold settleWord
  split
  · exact hu
  · rw [State.thread, State.settle, State.modCore, State.core_withCore _ _ _ hc]
    exact threadAt_settleCore hu huniq hg hn

@[simp] theorem settleWord_mem (s : State) : (settleWord s).mem = s.mem := by
  unfold settleWord
  split <;> rfl

theorem dropLatches_threads (old : List Thread) (k : Core) : (dropLatches old k).threads = k.threads := by
  have hdrop (k : Core) (t : Thread) : (dropLatch k t).threads = k.threads := by
    unfold dropLatch
    split
    · split <;> rfl
    · rfl
  unfold dropLatches
  generalize k.threads.filter _ = l
  induction l generalizing k with
  | nil => rfl
  | cons t r ih => exact (ih (dropLatch k t)).trans (hdrop k t)

theorem endWord_id (e : Env) (t : Thread) (r : TRes) (h : ∀ u, r = .ok u → u.id = t.id) : (endWord e t r).id = t.id := by
  cases r with
  | ok u =>
    rw [← h u rfl]
    simp only [endWord, wordDone]
    split <;> rfl
  | trap cause code arg => rfl

theorem runThread_exit_id (e : Env) (f : Full) (u : Thread) : (runThread e (.exit f) exitWord u).id = u.id := by
  unfold runThread
  split
  · split
    · refine endWord_id e u _ fun v hv => ?_
      obtain rfl := TRes.ok.inj hv
      rfl
    · rfl
  · rfl

/-- The machine after EXIT: the core's threads, each by its own meeting with the word (R150). -/
theorem exec_exit {s : State} {e : Env} (f : Full) (he : s.env = some e) (hlen : e.c < s.cores.length) : exec (.exit f) s =
    .next (settleWord (s.withCore e.c
      (dropLatches e.k.threads { e.k with threads := e.k.threads.map (runThread e (.exit f) exitWord) }))) := by
  have hx : exec (.exit f) s = .next (settleWord ((wordMap (.exit f) exitWord s).modCore s.cur (dropLatches (s.core s.cur).threads))) := rfl
  obtain ⟨-, hc, hk, -⟩ := env_spec he
  simp only [hx, wordMap, he, State.modCore, ← hc, State.core_withCore _ _ _ hlen, State.withCore_withCore]
  rw [hk, hc]

/-- An exited thread as EXIT leaves it in its slot (R26, R150). -/
theorem thread_after_exit {s s' : State} {e : Env} {f : Full} {t : Thread} (he : s.env = some e) (hlen : e.c < s.cores.length)
    (ht : t ∈ e.k.threads) (hw : takesWord e (.exit f) t = true) (hl : legalHere e (.exit f) t = true)
    (huniq : ∀ u ∈ e.k.threads, u.id.slot = t.id.slot → u = t) (hs : exec (.exit f) s = .next s') :
    s'.thread e.c t.id.slot = some (wordDone e.is (exitThread e.ck.now t)) ∧ s'.mem = s.mem := by
  rw [exec_exit f he hlen] at hs
  obtain rfl := Host.Outcome.next.inj hs
  obtain ⟨-, hc, -, -⟩ := env_spec he
  have hrun : runThread e (.exit f) exitWord t = wordDone e.is (exitThread e.ck.now t) := by
    rw [runThread, if_pos hw, if_pos hl]
    rfl
  have hfind : threadAt e.k.threads t.id.slot = some t := threadAt_of_unique ht huniq
  have hthreads : ((s.withCore e.c (dropLatches e.k.threads
      { e.k with threads := e.k.threads.map (runThread e (.exit f) exitWord) })).core e.c).threads
      = e.k.threads.map (runThread e (.exit f) exitWord) := by
    rw [State.core_withCore _ _ _ hlen, dropLatches_threads]
  refine ⟨?_, by simp⟩
  rw [hc] at hlen hthreads ⊢
  have hst : (wordDone e.is (exitThread e.ck.now t)).pos.st = .exited := by
    unfold wordDone
    split <;> rfl
  refine thread_settleWord ?_ ?_ ?_ ?_ ?_
  · simpa [State.withCore] using hlen
  · show threadAt ((s.withCore _ _).core s.cur).threads t.id.slot = _
    rw [hthreads, threadAt_map (runThread_exit_id e f), hfind, Option.map_some, hrun]
  · show ∀ v ∈ ((s.withCore _ _).core s.cur).threads, _
    rw [hthreads]
    intro v hv hs
    obtain ⟨u, hu, rfl⟩ := List.mem_map.mp hv
    rw [runThread_exit_id] at hs
    rw [huniq u hu hs, hrun]
  · simp [hst]
  · simp [hst]

/-- Settles O19: the calls through `callTo_eq`, RET by what its stack holds, EXIT by the thread that it leaves in its slot. -/
theorem callsReturnsAndExit : Obligations.CallsReturnsAndExit := by
  unfold Obligations.CallsReturnsAndExit
  refine ⟨⟨fun x => ?call, fun f => ?calli, fun f => ?ret⟩, fun f s e t he hlen ht hw hl huniq => ?exit⟩
  case call => exact runsOnIf_of_wordMix (fun _ => rfl) fun e t _ => callWord_eq x e t
  case calli => exact runsOnIf_of_wordMix (fun _ => rfl) fun e t _ => callTo_eq e t _
  case ret =>
    refine runsOn_of_wordMap (fun _ => rfl) fun e t => ?_
    by_cases hd : t.rs.depth = 0
    · simp only [retWord, hd, if_true]
    · by_cases hh : t.rs.held = 0
      · simp only [retWord, hd, hh, if_true, if_false]
        cases checkAccOwn e t t.sr.sp 32 4 true false <;> rfl
      · rw [retWord_pop hd hh, if_neg hd, if_neg hh]
  case exit =>
    obtain ⟨hthread, hmem⟩ := thread_after_exit he hlen ht hw hl huniq (exec_exit f he hlen)
    refine ⟨_, _, exec_exit f he hlen, hthread, ?_, ?_, ?_, ?_, ?_, ?_, ?_, ?_, hmem⟩
    all_goals
      unfold wordDone
      split <;> rfl

/-! ### Deadline words (R40, R41, R197, R198) -/

theorem dlStore_eq (x : Quad) : dlStore x = if x = allOnes then x else x &&& ~~~(1#64 <<< 62) := by
  simp only [dlStore, beq_iff_eq]
  rfl

theorem intOf_s64 (x : BitVec 64) : intOf .s64 x.toNat = x.toInt := by
  have hm : x.toNat % 2 ^ 64 = x.toNat := Nat.mod_eq_of_lt x.isLt
  simp only [intOf, tyBits, isSigned, hm, Bool.true_and, decide_eq_true_eq, BitVec.toInt_eq_toNat_cond]
  split <;> split <;> omega

/-- VALUE moved by a span stays between 0 and 2^62 - 1 (R198). -/
theorem clampValue_eq (v span : Int) : ((min (max (v + span) 0) (2 ^ 62 - 1 : Nat)).toNat : Int) = max 0 (min (2 ^ 62 - 1) (v + span)) := by
  omega

theorem dlAdd_eq (x : Quad) (span : Int) : dlAdd x span = if x = allOnes then x
    else BitVec.ofInt 64 (max 0 (min (2 ^ 62 - 1) ((x.toNat % 2 ^ 62 : Nat) + span)) + (if x.getLsbD 63 then 2 ^ 63 else 0)) := by
  simp only [dlAdd, beq_iff_eq, dlValue]
  refine if_congr Iff.rfl rfl ?_
  rw [show dlMode x = x.getLsbD 63 from rfl, ← BitVec.ofInt_natCast, Nat.cast_add, clampValue_eq, Nat.cast_ite]
  rfl

theorem dlPassed_effDl (e : Env) (x : Quad) : dlPassed e.ck.now (effDl e.ck.now e.ck.dlmax x) = true ↔
    (deadline e x).at_ ≤ e.ck.now ∨ (deadline e x).left = some 0 := by
  simp [deadline_eq, dlPassed]

/-- Settles O27: each word by its meaning in one thread, through `dlStore_eq`, `dlAdd_eq` and the rule of effective deadlines. -/
theorem deadlineWordsGiveTheirResults : Obligations.DeadlineWordsGiveTheirResults := by
  unfold Obligations.DeadlineWordsGiveTheirResults
  intro f
  refine ⟨?dlset, ?dladd, ?dlget, ?sleepu⟩
  case dlset =>
    refine runs_of_wordMap (fun _ => rfl) fun e t => ?_
    rw [dlsetWord, setDl, dlStore_eq, a64]
  case dladd =>
    refine runs_of_wordMap (fun _ => rfl) fun e t => ?_
    rw [dladdWord, dlAdd_eq, intOf_s64]
    rfl
  case dlget => exact runs_of_wordMap (fun _ => rfl) fun _ _ => rfl
  case sleepu =>
    refine runs_of_wordMap (fun _ => rfl) fun e t => ?_
    rw [sleepuWord, status_eq e t _ _ (by decide), waiting_eq]
    exact if_congr (dlPassed_effDl e _) rfl rfl

/-! ### Waits on futures and counters (R26, R42, R87, R233, R236, R237) -/

/-- A wait that ends with its status alone, in the terms of the statements. -/
theorem endWait_eq_leaves (e : Env) (t : Thread) (w : Wait) (st : Status) : endWait e.ck e.k t w st [] = leaves e t w.reg st := rfl

/-- A word that waits begins its wait, and the present state of the completion board ends it at once or lets it wait. -/
theorem beginWait_eq {s : State} {e : Env} (he : s.env = some e) (t : Thread) (kind : WaitKind) (st : TState) (dsel : BitVec 2)
    (reg : Nat) : beginWait e t kind st dsel reg = .ok (settleThread s e.c (waiting e t kind st dsel.toNat reg)) := by
  rw [← waiting_eq]
  simp only [State.env, Option.map_eq_some_iff] at he
  obtain ⟨is, -, rfl⟩ := he
  rfl

@[simp] theorem observe_wait (s : State) (t : Thread) (x : Ended) : (observe s t x).wait = t.wait := by rw [observe_frame]

theorem any_or {α : Type} (l : List α) (p q : α → Bool) : (l.any fun a => p a || q a) = (l.any p || l.any q) := by
  induction l with
  | nil => rfl
  | cons a r ih => simp only [List.any_cons, ih]; ac_rfl

/-- What the acquire step of FWAIT.acq still waits for: posted writes of the operation and of what its release has ordered before it,
and operations of that set (R87, R88). -/
theorem acquire_pending (s : State) (ids ops : List Nat) : (postedAny s ids || relPending s ops []) =
    (s.posted.any (fun p => ids.contains p.id || (ops.contains p.op && p.kind != 2)) || s.ops.any fun o => ops.contains o.id && touchesSC o) := by
  simp only [postedAny, relPending, List.contains_nil, Bool.false_or, any_or]
  rw [Bool.or_comm (s.ops.any _), Bool.or_assoc]


/-- FWAIT.acq that finds its operation done waits on for its posted writes; every other wait on an ended future ends (R87, R233). -/
theorem endFuture_eq {s : State} {e : Env} {t : Thread} {w : Wait} {h : Quad} {acq : Bool} {x : Ended} (ht : t.wait = some w)
    (hk : w.kind = .future h acq false) :
    let u := writeV (observe s t x) (w.reg + 1) (summaryOf x)
    let ids := (s.posted.filter fun p => p.op == x.op).map (·.id) ++ x.relPosts
    let due := s.posted.any (fun p => ids.contains p.id || (x.relOps.contains p.op && p.kind != 2))
      || s.ops.any fun o => x.relOps.contains o.id && touchesSC o
    endFuture s e.ck e.k t w acq false x = if acq = true ∧ x.st = .done ∧ due = true
      then { u with wait := u.wait.map fun w => { w with kind := .acquire ids x.relOps h.toNat } }
      else leavesWith e u w.reg x.st [w.reg + 1] := by
  intro u ids due
  have hu : u.wait = some w := (observe_wait s t x).trans ht
  have hcond : (acq && x.st == .done && (postedAny s ids || relPending s x.relOps [])) = true ↔ acq = true ∧ x.st = .done ∧ due = true := by
    rw [acquire_pending, Bool.and_eq_true, Bool.and_eq_true, beq_iff_eq, and_assoc]
  refine if_congr hcond ?_ rfl
  rw [hu, hk]
  rfl

theorem env_clock_core {s : State} {e : Env} (he : s.env = some e) : s.clock = e.ck ∧ s.core e.c = e.k := by
  simp only [State.env, Option.map_eq_some_iff] at he
  obtain ⟨is, -, rfl⟩ := he
  exact ⟨rfl, rfl⟩

theorem settleThread_future {s : State} {e : Env} {t : Thread} {w : Wait} {h : Quad} {acq task : Bool} (he : s.env = some e)
    (ht : t.wait = some w) (hk : w.kind = .future h acq task) :
    settleThread s e.c t = pollFuture s e.ck e.k t w h acq task := by
  obtain ⟨hck, hcore⟩ := env_clock_core he
  simp only [settleThread, ht, hk, hck, hcore]

theorem settleThread_fsleep {s : State} {e : Env} {t : Thread} {w : Wait} {h : Quad} {begun : Bool} (he : s.env = some e)
    (ht : t.wait = some w) (hk : w.kind = .fsleep h begun) :
    settleThread s e.c t = pollSleep s e.ck e.k t w h begun := by
  obtain ⟨hck, hcore⟩ := env_clock_core he
  simp only [settleThread, ht, hk, hck, hcore]

theorem settleThread_waitn {s : State} {e : Env} {t : Thread} {w : Wait} {cls thr : Nat} (he : s.env = some e)
    (ht : t.wait = some w) (hk : w.kind = .waitn cls thr) :
    settleThread s e.c t = if t.q.getD cls 0 ≤ thr then leaves e t w.reg .done else t := by
  obtain ⟨hck, hcore⟩ := env_clock_core he
  simp only [settleThread, ht, hk, hck, hcore, endWait_eq_leaves]

section Poll
variable {s : State} {e : Env} {t : Thread} {w : Wait} {h : Quad} {acq : Bool}

theorem pollFuture_absent (hv : viewFut s t.id.launch h = .absent) : pollFuture s e.ck e.k t w h acq false =
    leavesWith e (writeV t (w.reg + 1) 0) w.reg .absent [w.reg + 1] := by
  simp only [pollFuture, hv]
  rfl

theorem pollFuture_stale (hv : viewFut s t.id.launch h = .stale) : pollFuture s e.ck e.k t w h acq false =
    leavesWith e (writeV t (w.reg + 1) 0) w.reg .stale [w.reg + 1] := by
  simp only [pollFuture, hv]
  rfl

theorem pollFuture_pending {cls op : Nat} {acc : Bool} {p : Option Nat} (hv : viewFut s t.id.launch h = .pending cls op acc p) :
    pollFuture s e.ck e.k t w h acq false = t := by
  simp only [pollFuture, hv]

theorem pollFuture_ended {x : Ended} {p : Option Nat} (hv : viewFut s t.id.launch h = .ended x p) :
    pollFuture s e.ck e.k t w h acq false = endFuture s e.ck e.k t w acq false x := by
  simp only [pollFuture, hv]

theorem pollSleep_absent (hv : viewFut s t.id.launch h = .absent) :
    pollSleep s e.ck e.k t w h false = leaves e t w.reg .absent := by
  simp only [pollSleep, hv, endWait_eq_leaves]

theorem pollSleep_stale (hv : viewFut s t.id.launch h = .stale) :
    pollSleep s e.ck e.k t w h false = leaves e t w.reg .stale := by
  simp only [pollSleep, hv, endWait_eq_leaves]

/-- FSLEEP on an operation that has not ended: one of class 0, once accepted, gives the promise to sleep for (R236). -/
theorem pollSleep_pending {cls op : Nat} {acc : Bool} {p : Option Nat} (hv : viewFut s t.id.launch h = .pending cls op acc p) :
    pollSleep s e.ck e.k t w h false = if cls ≠ 0 then leaves e t w.reg .absent else if acc = false then t else p.elim (asWait t w h)
      fun p => if p ≤ e.ck.now then asWait t w h else { t with wait := some { w with kind := .fsleep h true } } := by
  simp only [pollSleep, hv, endWait_eq_leaves]
  cases acc <;> cases p <;> rfl

/-- FSLEEP on an operation that has ended sleeps on for a promise that lies ahead, but for one that failed (R236). -/
theorem pollSleep_ended {x : Ended} {p : Option Nat} (hv : viewFut s t.id.launch h = .ended x p) :
    pollSleep s e.ck e.k t w h false = if x.cls ≠ 0 then leaves e t w.reg .absent
      else if x.st = .fault ∨ x.st = .cancelled then leaves e (observe s t x) w.reg x.st
      else p.elim (leaves e (observe s t x) w.reg x.st) fun p =>
        if p ≤ e.ck.now then leaves e (observe s t x) w.reg x.st else { t with wait := some { w with kind := .fsleep h true } } := by
  simp only [pollSleep, hv, endWait_eq_leaves, Bool.or_eq_true, beq_iff_eq]
  cases p <;> rfl

end Poll

/-- Settles O34: each word begins its wait, and `pollFuture`, `pollSleep` or the counter's threshold says what becomes of it. -/
theorem futureWaitsMeetTheirFuture : Obligations.FutureWaitsMeetTheirFuture := by
  unfold Obligations.FutureWaitsMeetTheirFuture
  intro f s e he d wait kind fwait fsleep done
  have hdone {i : Instr} {word : Env → Thread → TRes} {g : Thread → Thread} (hx : exec i s = .next (settleWord (wordMap i word s)))
      (hg : ∀ t, word e t = .ok (g t)) : done i g := by
    show exec i s = _
    rw [hx, wordMap_spec he, after_congr (g := fun _ t => .ok (g t)) fun t _ => hg t]
  have hfwait (acq : Bool) (t : Thread) : fwaitWord f acq e t = .ok (fwait acq t) := by
    rw [fwaitWord, beginWait_eq he, settleThread_future he rfl rfl]
    refine congrArg TRes.ok ?_
    simp only [fwait, a64]
    cases hv : viewFut s t.id.launch (readPair t f.a.toNat) with
    | absent => exact pollFuture_absent hv
    | stale => exact pollFuture_stale hv
    | pending cls op acc p => exact pollFuture_pending hv
    | ended x p =>
      rw [pollFuture_ended (t := waiting e t _ _ _ _) hv, endFuture_eq (h := readPair t f.a.toNat) rfl rfl]
  refine ⟨hdone rfl (hfwait false), hdone rfl (hfwait true), hdone rfl fun t => ?fsleep, hdone rfl fun t => ?waitn, faultsAreNoted⟩
  case fsleep =>
    rw [fsleepWord, beginWait_eq he, settleThread_fsleep he rfl rfl]
    refine congrArg TRes.ok ?_
    simp only [fsleep, a64]
    cases hv : viewFut s t.id.launch (readPair t f.a.toNat) with
    | absent => exact pollSleep_absent hv
    | stale => exact pollSleep_stale hv
    | pending cls op acc p =>
      rw [pollSleep_pending (t := waiting e t _ _ _ _) hv]
      cases p <;> rfl
    | ended x p =>
      rw [pollSleep_ended (t := waiting e t _ _ _ _) hv]
      cases p <;> rfl
  case waitn =>
    rw [waitnWord, beginWait_eq he, settleThread_waitn he rfl rfl]
    rfl

/-! ### Sorting -/

theorem length_sortBy {α : Type} (le : α → α → Bool) (l : List α) : (sortBy le l).length = l.length := by
  have hins (x : α) (l : List α) : (insertBy le x l).length = l.length + 1 := by
    induction l with
    | nil => rfl
    | cons y r ih =>
      unfold insertBy
      split <;> simp [ih]
  induction l with
  | nil => rfl
  | cons x r ih => rw [sortBy, hins, ih, List.length_cons]

/-- What stands first after a sort has the greatest measure, where the order agrees with the measure. -/
theorem measure_le_head_sortBy {α : Type} {le : α → α → Bool} {f : α → Nat} {l : List α}
    (hle : ∀ x ∈ l, ∀ y ∈ l, if le x y = true then f y ≤ f x else f x ≤ f y) {x : α} {r : List α} (hs : sortBy le l = x :: r) :
    ∀ y ∈ l, f y ≤ f x := by
  induction l generalizing x r with
  | nil => simp
  | cons z q ih =>
    rw [sortBy] at hs
    cases hq : sortBy le q with
    | nil =>
      rw [hq, insertBy] at hs
      obtain ⟨rfl, -⟩ := List.cons.inj hs
      have : q = [] := List.length_eq_zero_iff.mp (by rw [← length_sortBy le, hq]; rfl)
      simp [this]
    | cons y p =>
      have hy : y ∈ q := mem_sortBy.mp (hq ▸ List.mem_cons_self)
      have hmax := ih (fun a ha b hb => hle a (List.mem_cons_of_mem z ha) b (List.mem_cons_of_mem z hb)) hq
      have hzy := hle z List.mem_cons_self y (List.mem_cons_of_mem z hy)
      rw [hq, insertBy] at hs
      split at hs <;> obtain ⟨rfl, -⟩ := List.cons.inj hs
      case isTrue h =>
        rw [if_pos h] at hzy
        exact List.forall_mem_cons.mpr ⟨le_rfl, fun a ha => (hmax a ha).trans hzy⟩
      case isFalse h =>
        rw [if_neg h] at hzy
        exact List.forall_mem_cons.mpr ⟨hzy, hmax⟩

/-! ### The winnower (R28 to R31, R39, R409, R410) -/

/-- The threads that a choice considers, and of these those with the key of a thread (R26, R28). -/
def considered (cyc : Nat) (k : Core) : List Thread := k.threads.filter fun t => candidate k t && decide (t.pos.free ≤ cyc)
def alike (cyc : Nat) (k : Core) (key : List Nat) : List Thread := (considered cyc k).filter fun u => keyOf k u == key

theorem ready_of_considered {cyc : Nat} {k : Core} {t : Thread} (h : t ∈ considered cyc k) : t.pos.st = .ready := by
  have := (List.mem_filter.mp h).2
  simp only [candidate, Bool.and_eq_true, beq_iff_eq] at this
  exact this.1.1.1

/-- The chosen sheaf: none when none is considered, else at most 64 of the key whose information stands first. -/
theorem chooseSheaf_cases (now cyc : Nat) (k : Core) :
    (considered cyc k = [] ∧ chooseSheaf now cyc k = [])
    ∨ ∃ x r, sortBy (keyBefore now) ((considered cyc k).map (keyInfo k (considered cyc k))) = x :: r
      ∧ (∀ t ∈ chooseSheaf now cyc k, t ∈ alike cyc k x.key) ∧ (chooseSheaf now cyc k).length = min 64 (alike cyc k x.key).length := by
  cases hs : sortBy (keyBefore now) ((considered cyc k).map (keyInfo k (considered cyc k))) with
  | nil =>
    refine .inl ⟨?_, ?_⟩
    · have := congrArg List.length hs
      simpa [length_sortBy] using this
    · rw [considered] at hs
      simp only [chooseSheaf, hs]
  | cons x r =>
    refine .inr ⟨x, r, rfl, fun t ht => ?_, ?_⟩
    · rw [considered] at hs
      simp only [chooseSheaf, hs] at ht
      exact mem_sortBy.mp (List.mem_of_mem_take ht)
    · rw [considered] at hs
      simp only [chooseSheaf, hs, List.length_take, length_sortBy]
      rfl

theorem exists_key_of_mem {now cyc : Nat} {k : Core} {t : Thread} (ht : t ∈ chooseSheaf now cyc k) :
    ∃ key, (∀ u ∈ chooseSheaf now cyc k, u ∈ alike cyc k key) ∧ (chooseSheaf now cyc k).length = min 64 (alike cyc k key).length := by
  obtain ⟨-, hnil⟩ | ⟨x, -, -, hmine, hlen⟩ := chooseSheaf_cases now cyc k
  · rw [hnil] at ht
    exact absurd ht List.not_mem_nil
  · exact ⟨x.key, hmine, hlen⟩

theorem keyOf_of_alike {cyc : Nat} {k : Core} {key : List Nat} {t : Thread} (h : t ∈ alike cyc k key) :
    t ∈ considered cyc k ∧ keyOf k t = key := by
  simpa [alike] using h

/-- Since of a key is that of one of its candidates. -/
theorem le_since_keyInfo {k : Core} {cs : List Thread} {t : Thread} {b : Nat} (hcs : ∀ u ∈ cs, b ≤ u.pos.since) (ht : t ∈ cs) :
    b ≤ (keyInfo k cs t).since := by
  have hfold (l : List Thread) (m : Nat) (hl : ∀ u ∈ l, b ≤ u.pos.since) (hm : b ≤ m) :
      b ≤ l.foldl (fun m u => min m u.pos.since) m := by
    induction l generalizing m with
    | nil => exact hm
    | cons u r ih => 
      exact ih _ (fun v hv => hl v (List.mem_cons_of_mem u hv)) (le_min hm (hl u List.mem_cons_self))
  exact hfold _ _ (fun u hu => hcs u (List.mem_filter.mp hu).1) (hcs t ht)

/-- Of two keys that are not aged, the one with more candidates up to 64 comes first. -/
theorem keyBefore_young {now : Nat} {x y : KeyInfo} (hx : now ≤ x.since + 4096) (hy : now ≤ y.since + 4096) :
    if keyBefore now x y = true then min y.count 64 ≤ min x.count 64 else min x.count 64 ≤ min y.count 64 := by
  have hax : decide (4096 < now - x.since) = false := decide_eq_false (by omega)
  have hay : decide (4096 < now - y.since) = false := decide_eq_false (by omega)
  by_cases hc : min x.count 64 = min y.count 64
  · simp [hc]
  · have hk : keyBefore now x y = decide (min y.count 64 < min x.count 64) := by
      simp [keyBefore, hax, hay, hc]
    rw [hk]
    split <;> simp_all <;> omega

/-- With no aged key, no key has more candidates, up to 64, than the sheaf has threads (R30). -/
theorem min_alike_le_chooseSheaf {now cyc : Nat} {k : Core} (hy : ∀ t ∈ considered cyc k, now ≤ t.pos.since + 4096) :
    ∀ t ∈ considered cyc k, min 64 (alike cyc k (keyOf k t)).length ≤ (chooseSheaf now cyc k).length := by
  intro t ht
  obtain ⟨hnil, -⟩ | ⟨x, r, hs, -, hlen⟩ := chooseSheaf_cases now cyc k
  · rw [hnil] at ht
    exact absurd ht List.not_mem_nil
  · have hyoung : ∀ z ∈ (considered cyc k).map (keyInfo k (considered cyc k)), now ≤ z.since + 4096 := by
      intro z hz
      obtain ⟨u, hu, rfl⟩ := List.mem_map.mp hz
      have := le_since_keyInfo (k := k) (b := now - 4096) (fun v hv => by have := hy v hv; omega) hu
      omega
    have hmax := measure_le_head_sortBy (f := fun z => min z.count 64)
      (fun a ha b hb => keyBefore_young (hyoung a ha) (hyoung b hb)) hs (keyInfo k _ t) (List.mem_map_of_mem ht)
    obtain ⟨u, -, rfl⟩ := List.mem_map.mp (mem_sortBy.mp (hs ▸ List.mem_cons_self (a := x) (l := r)))
    rw [hlen, Nat.min_comm 64, Nat.min_comm 64]
    exact hmax

/-- The counts of a group in an interval, zeros for one that has not issued (R409). -/
def countsOf (l : List IntvCount) (g : Nat) : Nat × Nat × Nat := ((l.find? fun x => x.1 == g).map (·.2)).getD (0, 0, 0)

theorem countsOf_cons (x : IntvCount) (l : List IntvCount) (g : Nat) : countsOf (x :: l) g = if x.1 = g then x.2 else countsOf l g := by
  by_cases h : x.1 = g <;> simp [countsOf, h]

/-- Counting a group that is listed already changes its own counts alone. -/
theorem countsOf_map (words : Nat) (l : List IntvCount) (g h : Nat) (hany : h = g → l.any (·.1 == g) = true) :
    countsOf (l.map fun x => if x.1 = g then (g, x.2.1 + 1, x.2.2.1 + words, x.2.2.2) else x) h =
      if h = g then ((countsOf l g).1 + 1, (countsOf l g).2.1 + words, (countsOf l g).2.2) else countsOf l h := by
  induction l with
  | nil =>
    rw [if_neg (fun hh => by simpa using hany hh)]
    rfl
  | cons x r ih =>
    simp only [List.map_cons, countsOf_cons]
    by_cases hx : x.1 = g
    · by_cases hh : h = g
      · simp [hx, hh]
      · have := ih (fun e => absurd e hh)
        simp [hx, hh, Ne.symm hh] at this ⊢
        exact this
    · by_cases hh : h = g
      · have := ih (fun e => by simpa [hx] using hany e)
        subst hh
        simpa [hx] using this
      · have := ih (fun e => absurd e hh)
        simp only [hx, hh, if_false] at this ⊢
        rw [this]

theorem countsOf_of_not_any {l : List IntvCount} {g : Nat} (h : ¬ l.any (·.1 == g) = true) : countsOf l g = (0, 0, 0) := by
  have hf : l.find? (fun x => x.1 == g) = none := List.find?_eq_none.mpr fun x hx hg => h (List.any_eq_true.mpr ⟨x, hx, hg⟩)
  rw [countsOf, hf]
  rfl

theorem countsOf_append_singleton (l : List IntvCount) (x : IntvCount) (h : Nat) (hl : ¬ l.any (·.1 == x.1) = true) :
    countsOf (l ++ [x]) h = if h = x.1 then x.2 else countsOf l h := by
  induction l with
  | nil =>
    rw [List.nil_append, countsOf_cons]
    simp only [eq_comm]
  | cons y r ih =>
    simp only [List.any_cons, Bool.or_eq_true, not_or, beq_iff_eq] at hl
    obtain ⟨hy, hr⟩ := hl
    rw [List.cons_append, countsOf_cons, countsOf_cons, ih hr]
    by_cases h1 : h = x.1
    · simp [h1, hy]
    · simp [h1]

/-- The issue of a clause counts it and its words in its group, and in no other (R409). -/
theorem countsOf_addIntv (words : Nat) (l : List IntvCount) (g h : Nat) : countsOf (addIntv words l g) h =
    if h = g then ((countsOf l g).1 + 1, (countsOf l g).2.1 + words, (countsOf l g).2.2) else countsOf l h := by
  unfold addIntv
  by_cases hany : l.any (·.1 == g) = true
  · rw [if_pos hany, countsOf_map words l g h fun _ => hany]
  · rw [if_neg hany, countsOf_append_singleton l _ h hany, countsOf_of_not_any hany, Nat.zero_add, Nat.zero_add]

theorem countsOf_foldl_of_not_mem {words : Nat} {gs : List Nat} {l : List IntvCount} {g : Nat} (hg : g ∉ gs) :
    countsOf (gs.foldl (addIntv words) l) g = countsOf l g := by
  induction gs generalizing l with
  | nil => rfl
  | cons a r ih =>
    rw [List.mem_cons, not_or] at hg
    rw [List.foldl_cons, ih hg.2, countsOf_addIntv, if_neg hg.1]

/-- Each group of a sheaf is counted once. -/
theorem countsOf_foldl {words : Nat} {gs : List Nat} (hnd : gs.Nodup) {l : List IntvCount} {g : Nat} (hg : g ∈ gs) :
    countsOf (gs.foldl (addIntv words) l) g = ((countsOf l g).1 + 1, (countsOf l g).2.1 + words, (countsOf l g).2.2) := by
  induction gs generalizing l with
  | nil => exact absurd hg List.not_mem_nil
  | cons a r ih =>
    obtain ⟨ha, hr⟩ := List.nodup_cons.mp hnd
    rw [List.foldl_cons]
    by_cases h : g = a
    · rw [h, countsOf_foldl_of_not_mem ha, countsOf_addIntv, if_pos rfl]
    · rw [ih hr ((List.mem_cons.mp hg).resolve_left h), countsOf_addIntv, if_neg h]

theorem nodup_eraseDups (l : List Nat) : l.eraseDups.Nodup := by
  induction hn : l.length using Nat.strong_induction_on generalizing l with
  | _ n ih =>
    cases l with
    | nil => exact List.nodup_nil
    | cons a r =>
      rw [List.eraseDups_cons, List.nodup_cons, List.mem_eraseDups]
      refine ⟨by simp, ih _ ?_ _ rfl⟩
      have := List.length_filter_le (fun b => !b == a) r
      rw [← hn, List.length_cons]
      omega

/-- Without a write to the debug block under way, nothing comes into force. -/
theorem takeDbg_of_none {s : State} {c : Nat} (h : (s.core c).dbgDue = none) : s.takeDbg c = s := by
  simp [State.takeDbg, h]

theorem slotFree_of {cyc : Nat} {k : Core} (h : k.issue = none ∨ ∃ is, k.issue = some is ∧ is.slots = [] ∧ is.next ≤ cyc) :
    slotFree cyc k = true := by
  obtain h | ⟨is, h, hs, hn⟩ := h <;> simp [slotFree, *]

theorem traceSelect_off (s : State) (c : Nat) {k : Core} (ts : List Thread) (h : k.dbgNow.trcfg.getLsbD 11 = false) :
    traceSelect s c k ts = none := by
  simp only [traceSelect, trOn, h]
  rfl

/-- A selected group stays selected (R409). -/
theorem traceSelect_on (s : State) (c : Nat) {k : Core} (ts : List Thread) (h : k.dbgNow.trcfg.getLsbD 11 = true) {g : Nat}
    (hg : k.dbg.sel = some g) : traceSelect s c k ts = some g := by
  simp only [traceSelect, trOn, h, hg]
  rfl

/-- The winnower's choice with the issue slot free: the clause of the chosen sheaf issues (R31). -/
theorem exec_winnowerChoice {s : State} (hslot : slotFree s.cycle (s.core s.cur) = true) (hoff : (s.core s.cur).offline = false)
    (href : (s.core s.cur).refetch = none) (hdbg : (s.core s.cur).dbgDue = none) :
    exec .winnowerChoice s = .next (issueClause s s.cur (s.core s.cur) (chooseSheaf s.time s.cycle (s.core s.cur))) := by
  have hx : exec .winnowerChoice s = execWinnowerChoice s := rfl
  simp [hx, execWinnowerChoice, hslot, hoff, href, takeDbg_of_none hdbg]

/-- Settles O43: the choice through `chooseSheaf_cases` and `min_alike_le_chooseSheaf`, the issue by `issueClause`. -/
theorem theWinnowerIssuesTheSheafItChooses : Obligations.TheWinnowerIssuesTheSheafItChooses := by
  unfold Obligations.TheWinnowerIssuesTheSheafItChooses
  intro s k ts cs alike'
  refine ⟨?ready, ?onekey, min_alike_le_chooseSheaf, ?issue⟩
  case ready =>
    intro t ht
    obtain ⟨key, hmine, -⟩ := exists_key_of_mem ht
    have hc := (keyOf_of_alike (hmine t ht)).1
    exact ⟨hc, ready_of_considered hc⟩
  case onekey =>
    intro t ht
    obtain ⟨key, hmine, hlen⟩ := exists_key_of_mem ht
    have hkey (u : Thread) (hu : u ∈ ts) : keyOf k u = key := (keyOf_of_alike (hmine u hu)).2
    refine ⟨?_, fun u hu => (hkey u hu).trans (hkey t ht).symm⟩
    show ts.length = min 64 (alike s.cycle k (keyOf k t)).length
    rw [hkey t ht]
    exact hlen
  case issue =>
    intro hslot hoff href hdbg t r h hts hhead slots traces groups words counts
    refine ⟨traceSelect s s.cur k ts, traceMark (traceSelect s s.cur k ts) ts,
      (if traces = true then groups else []).foldl (addIntv words) k.dbg.intv, fun hoff => ?off, fun hon => ⟨fun g hg => ?sel, fun g hg => ?count⟩, ?exec⟩
    case off =>
      rw [traceSelect_off s s.cur ts hoff, hoff]
      exact ⟨rfl, rfl, rfl⟩
    case sel => exact traceSelect_on s s.cur ts hon hg
    case count =>
      rw [if_pos hon]
      exact countsOf_foldl (nodup_eraseDups _) hg
    case exec =>
      rw [exec_winnowerChoice (slotFree_of hslot) hoff href hdbg]
      show Host.Outcome.next (issueClause s s.cur k ts) = _
      clear_value ts
      subst hts
      simp only [issueClause, hhead, List.length_map]
      rfl

/-! ### The timers of a core: holds and gatherings (R34, R38, R267) -/

theorem gatherHeld_eq (t : Thread) : gatherHeld t = (decide (t.pos.st = .gather) && t.hold.any fun h => !h.yield_) := by
  unfold gatherHeld
  cases t.hold <;> simp [beq_eq_decide]

/-- A window is over when that of an earliest arrival among those held with the key is. -/
theorem windowOver_iff (cyc : Nat) (ts : List Thread) (t : Thread) : windowOver cyc ts t = true ↔
    ∃ u ∈ ts, (gatherHeld u = true ∧ sameKey t u = true) ∧ ∃ h, u.hold = some h ∧ h.until_ ≤ cyc
      ∧ ∀ v ∈ ts, gatherHeld v = true → sameKey t v = true → ∀ g, v.hold = some g → h.arrived ≤ g.arrived := by
  simp only [windowOver, List.any_eq_true, List.all_eq_true, List.mem_filterMap, List.mem_filter, Bool.and_eq_true, decide_eq_true_eq]
  constructor
  · rintro ⟨h, ⟨u, ⟨hu, hk⟩, hh⟩, hle, hall⟩
    exact ⟨u, hu, hk, h, hh, hle, fun v hv hg hs g hvg => hall g ⟨v, ⟨hv, hg, hs⟩, hvg⟩⟩
  · rintro ⟨u, hu, hk, h, hh, hle, hall⟩
    exact ⟨h, ⟨u, ⟨hu, hk⟩, hh⟩, hle, fun g ⟨v, ⟨hv, hg, hs⟩, hvg⟩ => hall v hv hg hs g hvg⟩

theorem gatheringOver_iff (now : Nat) (ts : List Thread) (t : Thread) : gatheringOver now ts t = true ↔
    ∃ u ∈ gathering ts t, (u.gw.any fun g => dlPassed now g.dl) = true := by
  rw [gatheringOver, List.any_eq_true]
  refine exists_congr fun u => and_congr_right fun _ => ?_
  cases u.gw <;> rfl

@[simp] theorem countTimeout_pos (lim : Nat) (t : Thread) : (countTimeout lim t).pos = t.pos := by
  unfold countTimeout
  split <;> rfl

/-- A member that forms at the deadline leaves with PARTIAL in CGS and a TIMEOUT counted (R38, R39, R44). -/
theorem formMember_partial (ck : Clock) (ms : List Thread) (t : Thread) : formMember ck ms .partialDone t =
    { countTimeout ck.escl { t with sr := { t.sr with cgs := BitVec.ofNat 32 (5 + ms.length * 2 ^ 16) } } with
      pos := { t.pos with st := .ready, since := ck.now, gid := formedNum ms }, gw := none } := by
  have hdone : (Status.partialDone == Status.done) = false := rfl
  simp only [formMember, hdone, Bool.false_eq_true, if_false, countTimeout_pos]
  rfl

/-- A gathering at its deadline, in one thread: a member that is present forms, one whose flag holds it back stays behind in a
gathering of its own, and every other thread is as it was (R38). -/
theorem expireGathering_eq (s : State) (k : Core) (t : Thread) (sup : Bool) :
    (if (t.id.sup != sup) = true then t
      else if (t.pos.st == .collective && t.gw.isSome && memberReady k t && gatheringOver s.time k.threads t) = true then
        formMember s.clock ((gathering k.threads t).filter (memberReady k)) .partialDone t
      else if (t.pos.st == .collective && t.gw.isSome && gatheringOver s.time k.threads t) = true then
        { t with gw := t.gw.map fun g => { g with num := reopened s.time k t } }
      else t)
    = if t.id.sup = sup ∧ t.pos.st = .collective ∧ t.gw ≠ none
          ∧ (∃ u ∈ gathering k.threads t, u.gw.any (fun g => dlPassed s.time g.dl) = true) then
        if memberReady k t = true then
          { countTimeout s.hub.plinth.escl { t with sr := { t.sr with
              cgs := BitVec.ofNat 32 (5 + ((gathering k.threads t).filter (memberReady k)).length * 2 ^ 16) } } with
            pos := { t.pos with st := .ready, since := s.time, gid := formedNum ((gathering k.threads t).filter (memberReady k)) }
            gw := none }
        else { t with gw := t.gw.map fun g => { g with num := reopened s.time k t } }
      else t := by
  by_cases hsup : t.id.sup = sup
  case neg => rw [if_pos (by simpa using hsup), if_neg fun h => hsup h.1]
  have hover : (t.pos.st == .collective && t.gw.isSome && gatheringOver s.time k.threads t) = true ↔ t.pos.st = .collective ∧ t.gw ≠ none
      ∧ ∃ u ∈ gathering k.threads t, u.gw.any (fun g => dlPassed s.time g.dl) = true := by
    rw [Bool.and_eq_true, Bool.and_eq_true, gatheringOver_iff, beq_iff_eq, Option.isSome_iff_ne_none, and_assoc]
  rw [if_neg (by simpa using hsup), formMember_partial]
  by_cases hm : memberReady k t = true
  · simp only [hm, Bool.and_true, hover, hsup, true_and, if_true]
    split
    · rfl
    · rfl
  · simp only [hm, Bool.and_false, Bool.false_and, Bool.false_eq_true, if_false, hover, hsup, true_and]

/-! ### The timers of a core: the trace (R409 to R411) -/

theorem traceWrite_eq (s : State) (c x : Nat) : s.traceWrite c x = ringPut s c x := by
  simp only [State.traceWrite, ringPut, trSize, State.busStore, busPut, State.storeN, field, Nat.pow_zero, Nat.div_one]

/-- The counts that an interval ends with: a clause under way adds the stalls that it has had to those of its groups. -/
theorem intvCounts_eq (k : Core) : intvCounts k = k.dbg.intv.map fun x => match k.issue with
    | some is => if !is.slots.isEmpty && is.groups.contains x.1 then (x.1, x.2.1, x.2.2.1, x.2.2.2 + is.stalls) else x
    | none => x := by
  unfold intvCounts
  cases k.issue with
  | none => simp
  | some is =>
    dsimp only
    cases is.slots.isEmpty <;> simp [addStalls]

/-! ### The timers of a core: waits (R41 to R43, R89, R236) -/

theorem bitAt_eq_testBit (x n : Nat) : bitAt x n = x.testBit n := by
  rw [bitAt, Nat.testBit_eq_decide_div_mod_eq]
  rfl

/-- A sum of distinct powers of two has just the bits of its exponents. -/
theorem testBit_sum_pow (p : Nat → Bool) (n : Nat) :
    let m := ((List.range n).filter p).foldl (fun m k => m + 2 ^ k) 0
    m < 2 ^ n ∧ ∀ b, m.testBit b = true ↔ b < n ∧ p b = true := by
  induction n with
  | zero => simp
  | succ n ih =>
    obtain ⟨hlt, hbit⟩ := ih
    simp only [List.range_succ, List.filter_append, List.foldl_append]
    generalize ((List.range n).filter p).foldl (fun m k => m + 2 ^ k) 0 = m at hlt hbit
    cases hp : p n with
    | false =>
      simp only [List.filter_cons, hp, List.filter_nil, List.foldl_nil, Bool.false_eq_true, if_false]
      refine ⟨by omega, fun b => (hbit b).trans ⟨fun h => ⟨by omega, h.2⟩, fun h => ⟨?_, h.2⟩⟩⟩
      have : b ≠ n := by rintro rfl; rw [hp] at h; exact absurd h.2 (by decide)
      omega
    | true =>
      simp only [List.filter_cons, hp, List.filter_nil, List.foldl_nil, List.foldl_cons, if_true]
      refine ⟨by omega, fun b => ?_⟩
      rw [Nat.add_comm m]
      rcases Nat.lt_trichotomy b n with hb | rfl | hb
      · rw [Nat.testBit_two_pow_add_gt hb, hbit]
        exact and_congr_left fun _ => by omega
      · rw [Nat.testBit_two_pow_add_eq, Nat.testBit_lt_two_pow hlt]
        simp [hp]
      · rw [Nat.testBit_lt_two_pow]
        · simp; omega
        · have := Nat.pow_le_pow_right (show 0 < 2 by decide) (show n + 1 ≤ b from hb)
          omega

theorem drained_iff (s : State) (c : Nat) (t : Thread) (scope b : Nat) : drained s c t scope b = true ↔
    (∀ o ∈ s.ops, o.core = c → o.cls = b → o.launch = t.id.launch → t.id.tid ∉ o.threads)
    ∧ (4 ≤ scope → ∀ p ∈ s.posted, p.core = c → p.tid = t.id.tid → p.launch = t.id.launch → p.cls ≠ b) := by
  have hscope : ∀ q : Prop, (scope < 4 ∨ q) ↔ (4 ≤ scope → q) := fun q => by
    rw [← not_lt, imp_iff_or_not, not_not, or_comm]
  simp [drained, opsOpen, postedOpen, hscope]

theorem testBit_drainedMask (s : State) (c : Nat) (t : Thread) (scope mask b : Nat) : (drainedMask s c t scope mask).testBit b = true ↔
    b < 5 ∧ mask.testBit b = true
      ∧ (∀ o ∈ s.ops, o.core = c → o.cls = b → o.launch = t.id.launch → t.id.tid ∉ o.threads)
      ∧ (4 ≤ scope → ∀ p ∈ s.posted, p.core = c → p.tid = t.id.tid → p.launch = t.id.launch → p.cls ≠ b) := by
  rw [drainedMask, (testBit_sum_pow _ 5).2 b, Bool.and_eq_true, bitAt_eq_testBit, drained_iff]

/-- The deadline of a thread's wait, once passed, ends it as `expireWait` says. -/
theorem exec_waitDeadlineExpiry {s : State} {t : Thread} {w : Wait} (ht : s.thread s.cur s.sub = some t) (hw : t.wait = some w)
    (hd : dlPassed s.time w.dl = true) : exec .waitDeadlineExpiry s = .next (s.expireWait s.cur t w) := by
  have hx : exec .waitDeadlineExpiry s = execWaitDeadlineExpiry s := rfl
  simp only [hx, execWaitDeadlineExpiry, ht, hw, hd, if_true]

section Promise
variable {s : State} {c : Nat} {t : Thread} {w : Wait} {h : Quad} {p : Nat}

/-- The promise is reached before the deadline, and the operation has ended: the sleeper takes its status (R236). -/
theorem wakeAtPromise_ended {x : Ended} (hv : viewFut s t.id.launch h = .ended x (some p)) (hp : p ≤ s.time) (hdl : p ≤ w.dl.at_) :
    wakeAtPromise s c t w h = endWait s.clock (s.core c) (observe s t x) w x.st [] := by
  simp only [wakeAtPromise, hv, not_lt.mpr hp, not_lt.mpr hdl, decide_false, Bool.or_self, Bool.false_eq_true, if_false]

theorem wakeAtPromise_pending {cls op : Nat} {acc : Bool} (hv : viewFut s t.id.launch h = .pending cls op acc (some p))
    (hp : p ≤ s.time) (hdl : p ≤ w.dl.at_) : wakeAtPromise s c t w h = if dlPassed s.time w.dl = true
      then endWait s.clock (s.core c) t w .timeout [] else park s.clock t .promiseMissed (clauseLen (s.core c) t) 0 h := by
  simp only [wakeAtPromise, hv, not_lt.mpr hp, not_lt.mpr hdl, decide_false, Bool.or_self, Bool.false_eq_true, if_false]

end Promise

/-- A sleeping thread whose promise is reached: it wakes with its operation's status, or is parked for a missed promise (R236). -/
theorem exec_promiseTimeReached {s : State} {t u : Thread} {w : Wait} {h : Quad} (hw : t.wait = some w) (hk : w.kind = .fsleep h true)
    (huniq : ∀ v ∈ (s.core s.cur).threads, v.id.slot = s.sub → v = t) (hu : wakeAtPromise s s.cur t w h = u) :
    exec .promiseTimeReached s = .next ((s.modThread s.cur s.sub fun _ => u).settle s.cur) := by
  have hx : exec .promiseTimeReached s = execPromiseTimeReached s := rfl
  rw [hx, execPromiseTimeReached]
  refine congrArg (fun y : State => Host.Outcome.next (y.settle s.cur)) (State.modThread_congr s s.cur s.sub _ _ fun v hv hs => ?_)
  obtain rfl := huniq v hv hs
  simp only [hw, hk, hu]

/-- A report of the oldest operation of a class (R72, R88, R238). -/
theorem reportOne_eq {s : State} {t : Thread} {cls : Nat} {r : OpRef} {st : Status} (hr : (t.ops.find? fun o => o.cls == cls) = some r)
    (hst : r.ended = some st) : reportOne s t cls =
      { t with seen := if s.posted.any (fun p => p.op == r.op) ∧ r.op ∉ t.seen then t.seen ++ [r.op] else t.seen
               ops := t.ops.erase r, q := t.q.set cls (t.q.getD cls 0 - 1),
               flt := if st = .fault ∨ st = .cancelled then t.flt.set cls true else t.flt
               fltNew := if st = .fault ∨ st = .cancelled then
                   let was : List Bool × List Bool := if t.fltNew.1 = s.cycle then t.fltNew.2 else (t.flt, [])
                   (s.cycle, was.1, (List.range 5).map fun j => was.2.getD j false || j == cls)
                 else t.fltNew } := by
  have hseen : (noteSeen s t r.op).seen = if s.posted.any (fun p => p.op == r.op) ∧ r.op ∉ t.seen then t.seen ++ [r.op] else t.seen := by
    unfold noteSeen
    by_cases h : s.posted.any (fun p => p.op == r.op) = true ∧ r.op ∉ t.seen
    · rw [if_pos h, if_pos (by simpa using h)]
    · rw [if_neg h, if_neg (by simpa using h)]
  simp only [reportOne, oldestRef, hr, hst, Bool.or_eq_true, beq_iff_eq]
  rw [noteSeen_frame, hseen]
  by_cases hbad : st = .fault ∨ st = .cancelled
  · simp only [hbad, if_true, setFlt]
  · simp only [hbad, if_false]

theorem exec_gatherWindowExpiry (s : State) : exec .gatherWindowExpiry s = .next ((s.withCore s.cur { s.core s.cur with
    threads := (s.core s.cur).threads.map fun t => if (gatherHeld t && windowOver s.cycle (s.core s.cur).threads t) = true
      then release s.clock (s.core s.cur) t else t }).settle s.cur) := rfl

/-- Idle sub-arrays that no operation uses gate themselves once their idle time is over (R227). -/
theorem exec_subarrayGate {s : State} (hidle : (s.core s.cur).mx.idleFor ≠ 0) (hbusy : mxBusy s s.cur = false)
    (hwake : (s.core s.cur).mx.waking = none) (hat : (s.core s.cur).mx.idleAt + (s.core s.cur).mx.idleFor ≤ s.cycle) :
    exec .subarrayGate s = .next (s.withCore s.cur { s.core s.cur with mx := { (s.core s.cur).mx with gated := 0xFFFF } }) := by
  have hx : exec .subarrayGate s = execSubarrayGate s := rfl
  rw [hx, execSubarrayGate, State.modCore, if_pos (by simp [hidle, hbusy, hwake, hat])]
  rfl

theorem exec_subarrayWakeComplete {s : State} {w : Nat} (hw : (s.core s.cur).mx.waking = some w) (hle : w ≤ s.cycle) :
    exec .subarrayWakeComplete s =
      .next (s.withCore s.cur { s.core s.cur with mx := { (s.core s.cur).mx with gated := 0, waking := none } }) := by
  have hx : exec .subarrayWakeComplete s = execSubarrayWakeComplete s := rfl
  simp only [hx, execSubarrayWakeComplete, State.modCore, hw, hle, if_true]

theorem exec_yieldHoldExpiry {s : State} {t : Thread} {h : Hold} (hh : t.hold = some h) (hst : t.pos.st = .gather) (hy : h.yield_ = true)
    (hat : h.until_ ≤ s.cycle) (huniq : ∀ u ∈ (s.core s.cur).threads, u.id.slot = s.sub → u = t) :
    exec .yieldHoldExpiry s = .next ((s.modThread s.cur s.sub (release s.clock (s.core s.cur))).settle s.cur) := by
  have hx : exec .yieldHoldExpiry s = execYieldHoldExpiry s := rfl
  rw [hx, execYieldHoldExpiry, State.modThread_congr s s.cur s.sub _ (release s.clock (s.core s.cur)) fun u hu hs => ?_]
  obtain rfl := huniq u hu hs
  simp only [hh, hst, hy, hat, beq_self_eq_true, decide_true, Bool.and_self, if_true]

/-- A counter reports to a thread (R72, R238). -/
theorem exec_counterReport {s : State} {t u : Thread} (huniq : ∀ v ∈ (s.core s.cur).threads, v.id.slot = s.sub → v = t)
    (hu : reportOne s t s.ix = u) : exec .counterReport s = .next ((s.modThread s.cur s.sub fun _ => u).settleWaitsAt s.cur) := by
  have hx : exec .counterReport s = .next ((s.modThread s.cur s.sub fun t => reportOne s t s.ix).settleWaitsAt s.cur) := rfl
  rw [hx, State.modThread_congr s s.cur s.sub _ (fun _ => u) fun v hv hs => by rw [huniq v hv hs, hu]]

theorem exec_engineReplyLimit {s : State} {t : Thread} {r : Reply} (hr : t.replies[s.ix]? = some r) (hat : r.issued + 65536 ≤ s.time)
    (huniq : ∀ u ∈ (s.core s.cur).threads, u.id.slot = s.sub → u = t) :
    exec .engineReplyLimit s = .next (s.modThread s.cur s.sub fun _ =>
      { t with replies := t.replies.eraseIdx s.ix,
               res := t.res ++ [{ at_ := s.cycle, seq := r.cyc, regs := [(r.dst, 0), (r.dst + 1, 0)], guest := none,
                                  fsr := 0, flag := r.flag, table := none, status := false }] }) := by
  have hx : exec .engineReplyLimit s = execEngineReplyLimit s := rfl
  rw [hx, execEngineReplyLimit, State.modThread_congr s s.cur s.sub _ _ fun u hu hs => ?_]
  obtain rfl := huniq u hu hs
  simp only [hr]
  exact if_neg (Nat.not_lt.mpr hat)

/-- What a passed deadline makes of an FSLEEP: the outcome of its operation when the promise has come too, else TIMEOUT (R236). -/
theorem expireSleep_outcome {s : State} {c : Nat} {t : Thread} {h : Quad} {x : Ended} {p : Nat}
    (hv : viewFut s t.id.launch h = .ended x (some p)) (hp : p ≤ s.time) :
    s.expireSleep c t h true = (s.modThread c t.id.slot fun u => observe s u x).endWaitAt c t.id.slot x.st [] := by
  simp only [State.expireSleep, hv, hp, decide_true, Bool.and_self, if_true]

theorem expireSleep_timeout {s : State} {c : Nat} {t : Thread} {h : Quad} {begun : Bool}
    (hv : ∀ x p, viewFut s t.id.launch h = .ended x (some p) → begun = false ∨ s.time < p) :
    s.expireSleep c t h begun = s.endWaitAt c t.id.slot .timeout [] := by
  unfold State.expireSleep
  split
  · rename_i x p hx
    refine if_neg ?_
    obtain h | h := hv x p hx
    · simp [h]
    · simp [h]
  · rfl

section Expires
variable {s : State} {c : Nat} {t : Thread} {w : Wait}

/-- The waits that a passed deadline ends TIMEOUT, without anything else (R42). -/
theorem expireWait_timeout (h : (∃ m, w.kind = .take m) ∨ (∃ x, w.kind = .put x) ∨ (∃ x y, w.kind = .spawn x y) ∨ w.kind = .condNew
    ∨ w.kind = .supWait ∨ (∃ y u a, w.kind = .supXfer y u a) ∨ (∃ x ws ids ps, w.kind = .desc x ws ids ps ∧ t.acc.any isDescRead = false)) :
    s.expireWait c t w = s.endWaitAt c t.id.slot .timeout [] := by
  obtain ⟨m, h⟩ | ⟨x, h⟩ | ⟨x, y, h⟩ | h | h | ⟨y, u, a, h⟩ | ⟨x, ws, ids, ps, h, ha⟩ := h
  case inr.inr.inr.inr.inr.inr => simp only [State.expireWait, h, ha, Bool.false_eq_true, if_false]
  all_goals simp only [State.expireWait, h]

/-- The waits that no deadline ends (R157, R261, R430). -/
theorem expireWait_stays (h : w.kind = .access ∨ w.kind = .suspended ∨ (∃ x, w.kind = .transit x)
    ∨ (∃ x ws ids ps, w.kind = .desc x ws ids ps ∧ t.acc.any isDescRead = true)) : s.expireWait c t w = s := by
  obtain h | h | ⟨x, h⟩ | ⟨x, ws, ids, ps, h, ha⟩ := h
  case inr.inr.inr => simp only [State.expireWait, h, ha, if_true]
  all_goals simp only [State.expireWait, h]

end Expires

/-- Settles O44: each timer by the lemma about it, the waits by `expireWait` kind by kind. -/
theorem coreTimersActWhenDue : Obligations.CoreTimersActWhenDue := by
  unfold Obligations.CoreTimersActWhenDue
  intro s c k held with_ due
  refine ⟨?window, rfl, fun hidle hbusy hwake hat => exec_subarrayGate hidle hbusy hwake hat,
    fun w hw hle => exec_subarrayWakeComplete hw hle, ?interval, ?gatherings,
    fun t ht => ⟨fun h hh hst hy hat huniq => exec_yieldHoldExpiry hh hst hy hat huniq,
      fun r hr st hst huniq => exec_counterReport huniq (reportOne_eq hr hst),
      fun r hr hat huniq => exec_engineReplyLimit hr hat huniq,
      fun w hw => ⟨fun hd => ?deadline, fun h p hk hp hdl huniq => ⟨fun x hv => ?woken, fun cls op acc hv => ?missed⟩⟩⟩⟩
  case window =>
    rw [exec_gatherWindowExpiry]
    refine congrArg (fun ts => Host.Outcome.next ((s.withCore c { k with threads := ts }).settle c)) (List.map_congr_left fun t _ => ?_)
    have hwith (u : Thread) : with_ t u = (gatherHeld u && sameKey t u) := by
      simp only [with_, held, gatherHeld_eq, sameKey, Bool.and_assoc]
    have hdue : windowOver s.cycle k.threads t = due t := by
      rw [Bool.eq_iff_iff, windowOver_iff]
      simp only [due, hwith, List.any_eq_true, List.all_eq_true, Option.any_eq_true, Option.all_eq_true,
        Bool.and_eq_true, Bool.or_eq_true, Bool.not_eq_true', ← Bool.not_eq_true, ← imp_iff_not_or, and_imp, decide_eq_true_eq]
    show (if (gatherHeld t && windowOver s.cycle k.threads t) = true then _ else _) = _
    rw [gatherHeld_eq, hdue]
  case interval =>
    have hx : exec .traceIntervalEnd s = execTraceIntervalEnd s := rfl
    simp only [hx, execTraceIntervalEnd, traceWrite_eq, intvCounts_eq]
    exact congrArg Host.Outcome.next (if_congr Iff.rfl rfl (if_congr (Bool.not_eq_true' _ ▸ Iff.rfl) rfl rfl))
  case gatherings =>
    have hx : exec .collectiveDeadlineExpiry s = .next (s.modCore c (expireGatherings s.clock (decide (2048 ≤ s.sub)))) := rfl
    refine ⟨fun t => ((gathering k.threads t).filter (memberReady k)).length, reopened s.time k,
      fun t => formedNum ((gathering k.threads t).filter (memberReady k)), ?_, fun t => rfl, fun t => rfl,
      fun t u h => congrArg (fun l : List Thread => formedNum (l.filter (memberReady k))) h⟩
    rw [hx]
    refine congrArg (fun ts => Host.Outcome.next (s.withCore c { k with threads := ts })) (List.map_congr_left fun t _ => ?_)
    exact expireGathering_eq s k t (decide (2048 ≤ s.sub))
  case woken => exact exec_promiseTimeReached hw hk huniq (wakeAtPromise_ended hv hp hdl)
  case missed => exact exec_promiseTimeReached hw hk huniq (wakeAtPromise_pending hv hp hdl)
  case deadline =>
    rw [exec_waitDeadlineExpiry ht hw hd]
    refine ⟨fun hk => ?_, fun ids ops x hk => ?_, fun h acq hk => ?_, fun cls n hk => ?_, fun tag n d hk => ?_,
      fun obj ph n acq hk => ?_, fun scope mask accs x hk => ⟨drainedMask s c t scope mask, testBit_drainedMask s c t scope mask, ?_⟩,
      fun hk => ?timeout, fun hk => ?stays, fun h begun hk => ⟨fun x p hv hb hp => ?outcome, fun hv => ?late⟩⟩
    case timeout => exact congrArg Host.Outcome.next (expireWait_timeout hk)
    case stays => exact congrArg Host.Outcome.next (expireWait_stays hk)
    all_goals simp only [State.expireWait, hk]
    case outcome =>
      subst hb
      exact congrArg Host.Outcome.next (expireSleep_outcome hv hp)
    case late => exact congrArg Host.Outcome.next (expireSleep_timeout hv)
    all_goals rfl

/-! ### The step (R31, R120 to R122, R129, R308, R419; log entry 2) -/

/-- The machine after a move, once completed halts and wake records are cleared. -/
def stepBy (x : State) (m : Move) : Host.Outcome State Fault Refusal :=
  match perform x m with
  | .next t => .next (endStep t)
  | r => r

theorem step_eq (s : State) : step s = stepBy (takeMove s).2 (takeMove s).1 := rfl

section Asked
variable {s : State} {m : Move} {rest : List Move}

theorem takeMove_asked (hm : s.moves = m :: rest) : takeMove s = asked s { s with moves := rest } m := by
  simp only [takeMove, hm]

/-- Nothing due comes before the move that is asked for: it is made in its rank. -/
theorem step_asked {r : Nat} (hm : s.moves = m :: rest) (hr : askedRank s m = some r) (hp : s.phase ≤ r)
    (hd : dueFirst s (some r) = none) : step s = stepBy { s with moves := rest, phase := r } m := by
  rw [step_eq, takeMove_asked hm]
  simp only [asked, hr, if_neg (not_lt.mpr hp), hd]
  rfl

/-- A move of no rank follows all that is due. -/
theorem step_asked_last (hm : s.moves = m :: rest) (hr : askedRank s m = none) (hd : dueFirst s none = none) :
    step s = stepBy { s with moves := rest } m := by
  rw [step_eq, takeMove_asked hm]
  simp only [asked, hr, hd]

/-- A move that comes too late in its tick waits, and the tick passes. -/
theorem step_late {r : Nat} (hm : s.moves = m :: rest) (hr : askedRank s m = some r) (hp : r < s.phase) (hd : dueFirst s none = none) :
    step s = stepBy s .tick := by
  rw [step_eq, takeMove_asked hm]
  simp only [asked, hr, if_pos hp, hd]
  rfl

/-- What is due before the move that is asked for comes first. -/
theorem step_due {d : Move} (hm : s.moves = m :: rest) (hp : ∀ r, askedRank s m = some r → s.phase ≤ r)
    (hd : dueFirst s (askedRank s m) = some d) : step s = stepBy { s with phase := (moveRank s d).getD s.phase } d := by
  rw [step_eq, takeMove_asked hm]
  cases hr : askedRank s m with
  | none =>
    rw [hr] at hd
    simp only [asked, hr, hd]
    rfl
  | some r =>
    rw [hr] at hd
    simp only [asked, hr, if_neg (not_lt.mpr (hp r hr)), hd]
    rfl

end Asked

theorem lt_length_of_issue {s : State} {c : Nat} {is : Issue} (h : (s.core c).issue = some is) : c < s.cores.length := by
  by_contra hc
  rw [State.core, List.getD_eq_default _ _ (not_lt.mp hc)] at h
  exact absurd h (by simp [Core.reset])

theorem perform_issue {x : State} {c : Nat} (h : x.svc.computeDown = false) : perform x (.issue c) = issueOn x c := by
  simp only [perform, h, Bool.false_eq_true, if_false]

/-- A word in the slot whose cycle has come. -/
theorem wordDue_of {s : State} {c : Nat} {is : Issue} (h : (s.core c).issue = some is) (hs : is.slots ≠ []) (hn : is.next ≤ s.cycle) :
    wordDue s c = some is := by
  simp [wordDue, h, hs, hn, Option.filter]

section Word
variable {s : State} {c : Nat} {is : Issue}

/-- With the word's cycle come and no refetch under way, the core issues what the word decodes to. -/
theorem issueOn_one (hi : (s.core c).issue = some is) (hs : is.slots ≠ []) (hn : is.next ≤ s.cycle) (hr : (s.core c).refetch = none)
    {i : Instr} (hw : decodeWord (wordAt (s.core c) is.sup (is.hdr + is.widx)) = .one i) : issueOn s c = runOne s c is i := by
  simp only [issueOn, wordDue_of hi hs hn, hr, Option.isSome_none, Bool.false_eq_true, if_false, issueWord, hw]

theorem issueOn_pair (hi : (s.core c).issue = some is) (hs : is.slots ≠ []) (hn : is.next ≤ s.cycle) (hr : (s.core c).refetch = none)
    {a b : Instr} (hw : decodeWord (wordAt (s.core c) is.sup (is.hdr + is.widx)) = .pair a b) : issueOn s c = runPair s c is a b := by
  simp only [issueOn, wordDue_of hi hs hn, hr, Option.isSome_none, Bool.false_eq_true, if_false, issueWord, hw]

/-- A word that is no legal instruction parks its threads, and the slot moves on (R129). -/
theorem issueOn_bad (hi : (s.core c).issue = some is) (hs : is.slots ≠ []) (hn : is.next ≤ s.cycle) (hr : (s.core c).refetch = none)
    {y : Reject} (hw : decodeWord (wordAt (s.core c) is.sup (is.hdr + is.widx)) = .bad y) : issueOn s c =
      .next (advance ((s.stopWords c is).parkBads c is (wordAt (s.core c) is.sup (is.hdr + is.widx))) c) := by
  simp only [issueOn, wordDue_of hi hs hn, hr, Option.isSome_none, Bool.false_eq_true, if_false, issueWord, hw]

theorem issueOn_of_refetch (hi : (s.core c).issue = some is) (hs : is.slots ≠ []) (hn : is.next ≤ s.cycle)
    (hr : (s.core c).refetch ≠ none) : issueOn s c = .next (s.waitCycle c) := by
  simp only [issueOn, wordDue_of hi hs hn, Option.isSome_iff_ne_none.mpr hr, if_true]

/-- The instruction in a slot: held for a table image, entering its stall, at once, or a stall later (R180, R308). -/
theorem runOne_of_held {i : Instr} (hf : is.stalled = none) (ht : tableHeld { s with cur := c } i = true) :
    runOne s c is i = .next (({ s with cur := c } : State).waitCycle c) := by
  simp only [runOne, hf, Option.isSome_none, Bool.false_eq_true, if_false, ht, if_true]

theorem runOne_of_stall {i : Instr} (hf : is.stalled = none) (ht : tableHeld { s with cur := c } i = false)
    (hn : stallOf i (({ s with cur := c } : State).stopWords c is) ≠ 0) : runOne s c is i =
      .next ((({ s with cur := c } : State).stopWords c is).stallWord c i (stallOf i (({ s with cur := c } : State).stopWords c is))) := by
  simp only [runOne, hf, Option.isSome_none, Bool.false_eq_true, if_false, ht, hn]

theorem runOne_of_free {i : Instr} (hf : is.stalled = none) (ht : tableHeld { s with cur := c } i = false)
    (hn : stallOf i (({ s with cur := c } : State).stopWords c is) = 0) :
    runOne s c is i = runWord (({ s with cur := c } : State).stopWords c is) c i := by
  simp only [runOne, hf, Option.isSome_none, Bool.false_eq_true, if_false, ht, hn, if_true]

theorem runOne_of_stalled {i : Instr} (hf : is.stalled ≠ none) : runOne s c is i = runWord { s with cur := c } c i := by
  simp only [runOne, Option.isSome_iff_ne_none.mpr hf, if_true]

/-- Without an uncorrectable error in its registers a word issues as it is. -/
theorem readRegisters_of_clean {f : State → Out} {is : List Instr} (h : (s.core s.cur).regErr = []) : readRegisters s is f = s := by
  unfold readRegisters
  cases he : s.env with
  | none => rfl
  | some e =>
    obtain ⟨-, -, hk, -⟩ := env_spec he
    simp only [hk, h, List.isEmpty_nil, if_true]

theorem core_modCore {f : Core → Core} (hc : c < s.cores.length) : (s.modCore c f).core c = f (s.core c) := by
  rw [State.modCore, State.core_withCore _ _ _ hc]

/-- The stops on a word change threads alone. -/
theorem stopWords_core (hc : c < s.cores.length) : (s.stopWords c is).core c =
    { s.core c with threads := (s.core c).threads.map (stopWord s.clock (s.core c) is) } := core_modCore hc

theorem asRead_of_fresh (hi : (s.core c).issue = some is) (hf : is.stalled = none) : s.asRead c = s := by
  simp only [State.asRead, hi, hf, Option.isNone_none, if_true]

theorem asRead_cur : (s.asRead c).cur = s.cur := by
  unfold State.asRead
  split
  · rfl
  · split <;> rfl

theorem asRead_regErr (hc : c < s.cores.length) : ((s.asRead c).core c).regErr = (s.core c).regErr := by
  unfold State.asRead
  split
  · rfl
  · split
    · rfl
    · rw [core_modCore hc]

theorem keepLanded_of_fresh {b : State} (s1 s0 : State) (i : Instr) (hi : (b.core c).issue = some is) (hf : is.stalled = none) :
    s1.keepLanded s0 b c i = s1 := by
  have he : ({ b with cur := c } : State).env = some ⟨{ b with cur := c }, c, b.core c, is, b.clock⟩ := by
    show ((b.core c).issue).map _ = _
    rw [hi]
    rfl
  simp only [State.keepLanded, he, hf, Option.isNone_none, if_true]

/-- A word issues on the registers that it read at its slot cycle (R308). -/
theorem runWord_eq {i : Instr} {t : State} (hc : c < s.cores.length) (hcur : s.cur = c) (hreg : (s.core c).regErr = [])
    (ht : exec i (s.asRead c) = .next t) :
    runWord s c i = .next (advance ((t.keepLanded s (s.asRead c) c i).noteWord (s.asRead c) [i]) c) := by
  have hclean : ((s.asRead c).core (s.asRead c).cur).regErr = [] := by rw [asRead_cur, hcur, asRead_regErr hc, hreg]
  simp only [runWord, readRegisters_of_clean hclean, ht]

/-- A word without a stall issues in its slot cycle. -/
theorem runWord_of_fresh {i : Instr} {t : State} (hi : (s.core c).issue = some is) (hf : is.stalled = none) (hcur : s.cur = c)
    (hreg : (s.core c).regErr = []) (ht : exec i s = .next t) : runWord s c i = .next (advance (t.noteWord s [i]) c) := by
  have hread : s.asRead c = s := asRead_of_fresh hi hf
  rw [runWord_eq (lt_length_of_issue hi) hcur hreg (by rw [hread, ht]), hread, keepLanded_of_fresh t s i hi hf]

theorem openPair_regErr {a b : Instr} (hcur : s.cur = c) (hc : c < s.cores.length) (hreg : (s.core c).regErr = []) :
    ((s.openPair c a b).core (s.openPair c a b).cur).regErr = [] := by
  unfold State.openPair
  split
  · rw [hcur, hreg]
  · rw [State.modCore_cur, hcur, core_modCore hc, hreg]

/-- Both halves of a paired word issue, half A first (R122). -/
theorem runPair_eq {a b : Instr} {t u : State} (hi : (s.core c).issue = some is) (hreg : (s.core c).regErr = [])
    (ht : exec a (({ s with cur := c }.stopWords c is).openPair c a b) = .next t) (hu : exec b t = .next u) :
    runPair s c is a b = .next (advance (u.noteWord (({ s with cur := c }.stopWords c is).openPair c a b) [a, b]) c) := by
  have hc : c < ({ s with cur := c } : State).cores.length := lt_length_of_issue hi
  have hclean : (((({ s with cur := c } : State).stopWords c is).openPair c a b).core _).regErr = [] :=
    openPair_regErr (c := c) rfl (by simpa [State.stopWords, State.modCore, State.withCore] using hc) (by rw [stopWords_core hc]; exact hreg)
  simp only [runPair, readRegisters_of_clean hclean, execPair, ht, hu]

end Word

/-- The deadline of a barrier is made where the list asks for it, every other event in its own rank (R43). -/
theorem askedRank_event {s : State} {i : Instr} {cur sub ix r : Nat}
    (hearly : (i = .waitDeadlineExpiry ∧ ∃ u w, s.thread cur sub = some u ∧ u.wait = some w ∧ ∃ a n p q, w.kind = .barrier a n p q) →
      r = s.phase)
    (hown : ¬ (i = .waitDeadlineExpiry ∧ ∃ u w, s.thread cur sub = some u ∧ u.wait = some w ∧ ∃ a n p q, w.kind = .barrier a n p q) →
      r = eventRank s i cur sub ix) : askedRank s (.event i cur sub ix) = some r := by
  by_cases hi : i = .waitDeadlineExpiry
  case neg =>
    rw [hown fun h => hi h.1]
    unfold askedRank
    split
    · rename_i heq
      exact absurd (Move.event.inj heq).1 hi
    · rfl
  subst hi
  have hwait : ((s.thread cur sub).bind (·.wait)).any barrierWait = true ↔
      ∃ u w, s.thread cur sub = some u ∧ u.wait = some w ∧ ∃ a n p q, w.kind = .barrier a n p q := by
    have hbar (w : Wait) : barrierWait w = true ↔ ∃ a n p q, w.kind = .barrier a n p q := by
      unfold barrierWait
      cases w.kind <;> simp
    simp only [Option.any_eq_true, Option.bind_eq_some_iff, hbar]
    exact ⟨fun ⟨w, ⟨u, hu, hw⟩, hk⟩ => ⟨u, w, hu, hw, hk⟩, fun ⟨u, w, hu, hw, hk⟩ => ⟨w, ⟨u, hu, hw⟩, hk⟩⟩
  by_cases hb : ∃ u w, s.thread cur sub = some u ∧ u.wait = some w ∧ ∃ a n p q, w.kind = .barrier a n p q
  · rw [hearly ⟨rfl, hb⟩, askedRank, if_pos (hwait.mpr hb)]
  · rw [hown fun h => hb h.2, askedRank, if_neg (mt hwait.mp hb)]
    rfl

/-- Settles O54: the move by `takeMove`'s cases, the word by what it decodes to and whether it has stalled. -/
theorem stepRunsTheDecodedInstruction : Obligations.StepRunsTheDecodedInstruction := by
  unfold Obligations.StepRunsTheDecodedInstruction
  intro s rest made
  refine ⟨fun c is hm hdown hi hs hn hp hd => ?issue, fun i cur sub ix t r hm hev hearly hown hp hd ht => ?event,
    fun hm hd => step_asked_last hm rfl hd, fun m r hm hr hp hd => step_late hm hr hp hd, fun m d hm hp hd => step_due hm hp hd⟩
  case issue =>
    intro w x s0 s1 n
    have hnext {y : State} (h : issueOn x c = .next y) : step s = .next (endStep y) := by
      have hperf : perform x (.issue c) = .next y := (perform_issue (x := x) hdown).trans h
      rw [step_asked hm rfl hp hd, stepBy, hperf]
    have hc : c < s0.cores.length := lt_length_of_issue (s := s) hi
    have hstops : s1.core c = { s.core c with threads := (s.core c).threads.map (stopWord s0.clock (s.core c) is) } := stopWords_core hc
    have hlive : (s1.core c).issue = some is := by rw [hstops]; exact hi
    refine ⟨fun hr => hnext (issueOn_of_refetch hi hs hn hr), fun hr => ?_⟩
    have hone {i : Instr} := issueOn_one (s := x) (i := i) hi hs hn hr
    refine ⟨fun i hw hf ht => hnext ?held, fun i hw hf ht hst => hnext ?stall, fun i t hw hf ht hst hreg hx => hnext ?fresh,
      fun i t hw hf hreg hx => hnext ?stalled, fun a b t u hw hreg ha hb => hnext ?pair, fun y hw => hnext (issueOn_bad (s := x) hi hs hn hr hw)⟩
    case held => exact (hone hw).trans (runOne_of_held hf ht)
    case stall => exact (hone hw).trans (runOne_of_stall hf ht hst)
    case fresh =>
      have hclean : (s1.core c).regErr = [] := by rw [hstops]; exact hreg
      exact (hone hw).trans ((runOne_of_free hf ht hst).trans (runWord_of_fresh hlive hf rfl hclean hx))
    case stalled => exact (hone hw).trans ((runOne_of_stalled hf).trans (runWord_eq hc rfl hreg hx))
    case pair => exact (issueOn_pair (s := x) hi hs hn hr hw).trans (runPair_eq (s := x) hi hreg ha hb)
  case event =>
    have hperf : perform { s with moves := rest, phase := r } (.event i cur sub ix) = .next t := (if_pos hev).trans ht
    rw [step_asked hm (askedRank_event hearly hown) hp hd, stepBy, hperf]

/-! ### Cells of memory -/

/-- Cells that agree with one function put its values at their addresses, and leave the rest. -/
theorem memGet_memPutCells {m : Mem} (h : memWf m = true) {cs : List Host.Cell} {F : Nat → Byte} (hF : ∀ x ∈ cs, x.2 = F x.1) (a : Nat) :
    memGet (memPutCells m cs) a = if a ∈ cs.map (·.1) then F a else memGet m a := by
  induction cs generalizing m with
  | nil => rfl
  | cons x r ih =>
    show memGet (memPutCells (memPut m x.1 x.2) r) a = _
    rw [ih (memWf_memPut h x.1 x.2) fun y hy => hF y (List.mem_cons_of_mem x hy), memGet_memPut h]
    by_cases hr : a ∈ r.map (·.1)
    · simp [hr]
    · by_cases hx : a = x.1
      · simp [hx, hF x List.mem_cons_self]
      · simp [hx, hr]

/-- A listed byte is what its address reads as, and an address that does not read zero is listed. -/
theorem mem_iff_memGet {lo : Nat} {m : Mem} (h : memWfFrom lo m = true) (a : Nat) (v : Byte) : (a, v) ∈ m ↔ memGet m a = v ∧ v ≠ 0 := by
  induction m generalizing lo with
  | nil =>
    refine ⟨fun h => absurd h List.not_mem_nil, fun h => absurd h.1.symm h.2⟩
  | cons x r ih =>
    simp only [memWfFrom, Bool.and_eq_true, decide_eq_true_eq, bne_iff_ne] at h
    obtain ⟨⟨-, hne⟩, hr⟩ := h
    rw [List.mem_cons, ih hr, memGet]
    by_cases hx : x.1 = a
    · rw [if_pos hx, memGet_below hr (by omega), Prod.ext_iff]
      constructor
      · rintro (⟨-, rfl⟩ | ⟨rfl, h⟩)
        · exact ⟨rfl, hne⟩
        · exact absurd rfl h
      · rintro ⟨rfl, -⟩
        exact .inl ⟨hx.symm, rfl⟩
    · rw [if_neg hx, Prod.ext_iff]
      exact ⟨fun h => h.resolve_left fun h => hx h.1.symm, .inr⟩

@[simp] theorem memBytes_length (m : Mem) (a n : Nat) : (memBytes m a n).length = n := by
  induction n generalizing a with
  | zero => rfl
  | succ n ih => rw [memBytes, List.length_cons, ih]

theorem memBytes_getD (m : Mem) (a n j : Nat) : (memBytes m a n).getD j 0 = if j < n then memGet m (a + j) else 0 := by
  induction n generalizing a j with
  | zero => simp [memBytes]
  | succ n ih =>
    cases j with
    | zero => simp [memBytes]
    | succ j =>
      rw [memBytes, List.getD_cons_succ, ih, show a + 1 + j = a + (j + 1) by omega]
      exact if_congr (by omega) rfl rfl

/-- What a list of runs holds, one behind the other. -/
def runBytes (m : Mem) (runs : List (Nat × Nat)) : List Byte := runs.flatMap fun r => memBytes m r.1 r.2

theorem mem_memCells {m : Mem} (h : memWf m = true) (lo len : Nat) (x : Host.Cell) :
    x ∈ memCells m lo len ↔ x.1 < len ∧ memGet m (lo + x.1) = x.2 ∧ x.2 ≠ 0 := by
  obtain ⟨off, v⟩ := x
  simp only [memCells, List.mem_map, List.mem_filter, Bool.and_eq_true, decide_eq_true_eq, Prod.mk.injEq]
  constructor
  · rintro ⟨⟨a, w⟩, ⟨hm, hlo, hhi⟩, rfl, rfl⟩
    have := (mem_iff_memGet h a w).mp hm
    rw [Nat.add_sub_cancel' hlo]
    exact ⟨by omega, this⟩
  · rintro ⟨hlt, hg⟩
    exact ⟨(lo + off, v), ⟨(mem_iff_memGet h _ v).mpr hg, by omega, by omega⟩, by omega, rfl⟩

theorem mem_shiftCells (a : Nat) (cs : List Host.Cell) (x : Host.Cell) : x ∈ shiftCells a cs ↔ a ≤ x.1 ∧ (x.1 - a, x.2) ∈ cs := by
  obtain ⟨off, v⟩ := x
  simp only [shiftCells, List.mem_map, Prod.mk.injEq]
  constructor
  · rintro ⟨⟨y, w⟩, hy, rfl, rfl⟩
    exact ⟨by omega, by rwa [Nat.add_sub_cancel_left]⟩
  · rintro ⟨hle, hy⟩
    exact ⟨_, hy, by omega, rfl⟩

theorem runBytes_cons_getD (m : Mem) (r : Nat × Nat) (rs : List (Nat × Nat)) (j : Nat) :
    (runBytes m (r :: rs)).getD j 0 = if j < r.2 then memGet m (r.1 + j) else (runBytes m rs).getD (j - r.2) 0 := by
  rw [runBytes, List.flatMap_cons]
  by_cases hj : j < r.2
  · rw [List.getD_append _ _ _ _ (by rwa [memBytes_length]), memBytes_getD, if_pos hj, if_pos hj]
  · rw [List.getD_append_right _ _ _ _ (by rw [memBytes_length]; omega), memBytes_length, if_neg hj]
    rfl

/-- The cells of runs are the bytes that do not read zero, each with its offset. -/
theorem mem_runCells {m : Mem} (h : memWf m = true) (runs : List (Nat × Nat)) (x : Host.Cell) :
    x ∈ runCells m runs ↔ (runBytes m runs).getD x.1 0 = x.2 ∧ x.2 ≠ 0 := by
  have hfold (l : List Host.Cell) (n : Nat) :
      x ∈ (runs.foldl (fun (x : List Host.Cell × Nat) r => (x.1 ++ shiftCells x.2 (memCells m r.1 r.2), x.2 + r.2)) (l, n)).1 ↔
        x ∈ l ∨ (n ≤ x.1 ∧ (runBytes m runs).getD (x.1 - n) 0 = x.2 ∧ x.2 ≠ 0) := by
    induction runs generalizing l n with
    | nil =>
      simp only [List.foldl_nil, runBytes, List.flatMap_nil, List.getD_nil]
      exact ⟨.inl, fun h => h.resolve_right fun h => h.2.2 h.2.1.symm⟩
    | cons r rs ih =>
      rw [List.foldl_cons, ih, List.mem_append, mem_shiftCells, mem_memCells h, runBytes_cons_getD, or_assoc]
      refine or_congr Iff.rfl ?_
      by_cases hlt : x.1 - n < r.2
      · simp only [hlt, true_and, if_true]
        refine ⟨fun h => h.resolve_right fun h => ?_, .inl⟩
        omega
      · simp only [hlt, false_and, and_false, false_or, if_false, Nat.sub_sub]
        exact and_congr_left fun _ => by omega
  rw [runCells, hfold]
  simp

theorem windowRuns_length_le (fuel a n : Nat) : ((windowRuns fuel a n).map (·.2)).sum ≤ n := by
  induction fuel generalizing a n with
  | zero => simp [windowRuns]
  | succ fuel ih =>
    rw [windowRuns]
    split
    · simp
    · split
      · have := ih (a + min n (0x80000000 - a % 0x80000000)) (n - min n (0x80000000 - a % 0x80000000))
        simp only [List.map_cons, List.sum_cons]
        omega
      · simp

/-- A range in pieces has no more bytes than the range. -/
theorem busBytes_length_le (s : State) (a n : Nat) : (busBytes s a n).length ≤ n := by
  simpa [busBytes, busRuns, List.length_flatMap, Function.comp_def] using windowRuns_length_le 4 a n

/-- A copy leaves the bytes of its source at its destination, and every other byte as it was (R395). -/
theorem copyIn_get {s : State} (h : memWf s.mem = true) (src dest len a : Nat) : memGet (s.copyIn src dest len).mem a =
    if dest ≤ a ∧ a < dest + len then (busBytes s src len).getD (a - dest) 0 else memGet s.mem a := by
  have hclear : memWf (s.clearRange dest (dest + len)).mem = true := State.clearRange_wf h _ _
  have hcell (x : Host.Cell) : x ∈ shiftCells dest (runCells s.mem (busRuns s 4 src len)) ↔
      dest ≤ x.1 ∧ (busBytes s src len).getD (x.1 - dest) 0 = x.2 ∧ x.2 ≠ 0 := by
    rw [mem_shiftCells, mem_runCells h]
    rfl
  have hmem : a ∈ (shiftCells dest (runCells s.mem (busRuns s 4 src len))).map (·.1) ↔
      dest ≤ a ∧ (busBytes s src len).getD (a - dest) 0 ≠ 0 := by
    rw [List.mem_map]
    constructor
    · rintro ⟨x, hx, rfl⟩
      obtain ⟨hle, hv, hne⟩ := (hcell x).mp hx
      exact ⟨hle, hv ▸ hne⟩
    · rintro ⟨hle, hne⟩
      exact ⟨(a, _), (hcell _).mpr ⟨hle, rfl, hne⟩, rfl⟩
  show memGet (memPutCells (s.clearRange dest (dest + len)).mem _) a = _
  rw [memGet_memPutCells hclear (F := fun b => (busBytes s src len).getD (b - dest) 0) fun x hx => ((hcell x).mp hx).2.1.symm,
    State.clearRange_get]
  by_cases hin : dest ≤ a ∧ a < dest + len
  · rw [if_pos hin]
    by_cases hz : (busBytes s src len).getD (a - dest) 0 = 0
    · rw [if_neg fun h => (hmem.mp h).2 hz, if_pos hin, hz]
    · rw [if_pos (hmem.mpr ⟨hin.1, hz⟩), if_pos hin]
  · have hout : ¬ (dest ≤ a ∧ (busBytes s src len).getD (a - dest) 0 ≠ 0) := by
      rintro ⟨hle, hne⟩
      refine hne (List.getD_eq_default _ _ ?_)
      have := busBytes_length_le s src len
      omega
    rw [if_neg (mt hmem.mp hout), if_neg hin, if_neg hin]

/-! ### The placement of a team (R25, R227, R380, R395) -/

theorem runBytes_congr {m m' : Mem} {runs : List (Nat × Nat)} (h : ∀ r ∈ runs, ∀ i, i < r.2 → memGet m (r.1 + i) = memGet m' (r.1 + i)) :
    runBytes m runs = runBytes m' runs := by
  have hbytes (a n : Nat) (hn : ∀ i, i < n → memGet m (a + i) = memGet m' (a + i)) : memBytes m a n = memBytes m' a n := by
    refine List.ext_getElem (by simp) fun j h1 _ => ?_
    have hj : j < n := by simpa using h1
    have hg := memBytes_getD m a n j
    have hg' := memBytes_getD m' a n j
    rw [if_pos hj] at hg hg'
    rw [← List.getD_eq_getElem _ 0, ← List.getD_eq_getElem _ 0, hg, hg', hn j hj]
  induction runs with
  | nil => rfl
  | cons r rs ih =>
    simp only [runBytes, List.flatMap_cons] at ih ⊢
    rw [hbytes r.1 r.2 (h r List.mem_cons_self), ih fun q hq => h q (List.mem_cons_of_mem r hq)]

/-- Steps 1 to 3 without preloads: the slice holds the data image and zeros, and no other byte has changed. -/
theorem fillSlice_get {s : State} {l : Launch} {c : Nat} (hpre : l.pcount = 0) (hwf : memWf s.mem = true)
    (hruns : ∀ r ∈ busRuns s 4 (l.img.addr + l.img.dataOff) l.img.dsize, ∀ i, i < r.2 → ∀ j, j < Config.sliceBytes →
      r.1 + i ≠ sliceAt c + j)
    (hfit : l.img.dbase + l.img.dsize ≤ Config.sliceBytes) (a : Nat) : memGet (s.fillSlice c l).mem a =
      if sliceAt c ≤ a ∧ a < sliceAt c + Config.sliceBytes then
        if l.img.dbase ≤ a - sliceAt c ∧ a - sliceAt c < l.img.dbase + l.img.dsize then
          (busBytes s (l.img.addr + l.img.dataOff) l.img.dsize).getD (a - sliceAt c - l.img.dbase) 0
        else 0
      else memGet s.mem a := by
  have hmem : (s.fillSlice c l).mem = (((s.endStrays c).clearRange (sliceAt c) (sliceAt c + Config.sliceBytes)).copyIn
      (l.img.addr + l.img.dataOff) (sliceAt c + l.img.dbase) l.img.dsize).mem := by
    simp only [State.fillSlice, State.refill, preloads, hpre]
    rfl
  have hsame : busBytes ((s.endStrays c).clearRange (sliceAt c) (sliceAt c + Config.sliceBytes)) (l.img.addr + l.img.dataOff) l.img.dsize
      = busBytes s (l.img.addr + l.img.dataOff) l.img.dsize := by
    show runBytes _ (busRuns s 4 _ _) = runBytes s.mem (busRuns s 4 _ _)
    refine runBytes_congr fun r hr i hi => ?_
    rw [State.clearRange_get, if_neg]
    · rfl
    · rintro ⟨h1, h2⟩
      exact hruns r hr i hi (r.1 + i - sliceAt c) (by omega) (by omega)
  have hclear : memWf ((s.endStrays c).clearRange (sliceAt c) (sliceAt c + Config.sliceBytes)).mem = true := State.clearRange_wf hwf _ _
  rw [hmem, copyIn_get hclear, hsame, State.clearRange_get]
  by_cases hin : sliceAt c ≤ a ∧ a < sliceAt c + Config.sliceBytes
  · rw [if_pos hin, if_pos hin, Nat.sub_sub]
    exact if_congr (by omega) rfl rfl
  · rw [if_neg hin, if_neg hin, if_neg (by omega)]
    rfl

theorem Keeps.park {t u : Thread} (h : Keeps t u) {ck : Clock} {cause : Cause} {w code : Nat} {arg : Quad} :
    Keeps t (Machine.park ck u cause w code arg) := ⟨h.id, h.v, h.p, h.q, h.hdr⟩

/-- An arrival moves a thread to its header, and keeps who it is and its registers. -/
theorem keeps_arriveAt (ck : Clock) (k : Core) (t : Thread) (h : Nat) (gtag : Option Reg) (how : Arrive) :
    Keeps { t with pos := { t.pos with hdr := h } } (arriveAt ck k t h gtag how) := by
  unfold arriveAt
  dsimp only
  split
  · split
    · refine .park ?_
      exact ⟨rfl, rfl, rfl, rfl, rfl⟩
    · refine .park ?_
      exact ⟨rfl, rfl, rfl, rfl, rfl⟩
  · split
    · refine .park ?_
      exact ⟨rfl, rfl, rfl, rfl, rfl⟩
    · split
      · refine .park ?_
        exact ⟨rfl, rfl, rfl, rfl, rfl⟩
      · split
        · exact ⟨rfl, rfl, rfl, rfl, rfl⟩
        · refine .trans ?_ (keeps_stand _ _ k _ _)
          exact ⟨rfl, rfl, rfl, rfl, rfl⟩

/-- What a thread of a team is as it is placed (R25): zeroed registers, no operation counted, at the entry clause. -/
structure Seated (i : Image) (sup : Bool) (t : Thread) : Prop where
  sup : t.id.sup = sup
  v : t.v = List.replicate i.regs 0
  p : t.p = 1
  q : t.q = List.replicate 5 0
  hdr : t.pos.hdr = i.entry

theorem Seated.keep {i : Image} {sup : Bool} {t u : Thread} (h : Seated i sup t) (hk : Keeps t u) : Seated i sup u :=
  ⟨by rw [hk.id, h.sup], hk.v.trans h.v, hk.p.trans h.p, hk.q.trans h.q, hk.hdr.trans h.hdr⟩

/-- What the statement reads of a thread's place: slot, TID, team, width, registers. -/
def seatOf (t : Thread) : Nat × Nat × Nat × Nat × Nat := (t.id.slot, t.id.tid, t.id.tmx, t.id.width, t.id.nregs)

theorem seatOf_keeps {t u : Thread} (h : Keeps t u) : seatOf u = seatOf t := by rw [seatOf, h.id, seatOf]

/-- A thread that a halt under way may stop arrives, and its arrival leaves no mark (R25, R415). -/
theorem keeps_place (ck : Clock) (k : Core) (t : Thread) (entry : Nat) (b : Bool) :
    Keeps { t with pos := { t.pos with hdr := entry } }
      { arriveAt ck k (if b = true then haltDueIn t else t) entry none (.dispatch none) with
        pos := { (arriveAt ck k (if b = true then haltDueIn t else t) entry none (.dispatch none)).pos with arr := none } } := by
  refine .trans ?_ (.trans (keeps_arriveAt ck k (if b = true then haltDueIn t else t) entry none (.dispatch none)) ?_)
  · split <;> exact ⟨rfl, rfl, rfl, rfl, rfl⟩
  · exact ⟨rfl, rfl, rfl, rfl, rfl⟩

theorem placeThread_eq (ck : Clock) (i : Image) (id : Ident) (k : Core) (hregs : id.nregs = i.regs) : ∃ t gen,
    placeThread ck i.entry id k = { k with threads := k.threads ++ [t], gen := gen }
    ∧ seatOf t = (id.slot, id.tid, id.tmx, id.width, id.nregs) ∧ Seated i id.sup t := by
  refine ⟨_, _, rfl, seatOf_keeps (keeps_place ck k _ _ _), ?_⟩
  exact .keep ⟨rfl, congrArg (List.replicate · 0) hregs, rfl, rfl, rfl⟩ (keeps_place ck k _ _ _)

/-- A team takes its slots in TID order (R25). -/
theorem placeThreads_eq (ck : Clock) (i : Image) (launch tmx base lo n : Nat) (sup : Bool) (k : Core) : ∃ ts gen,
    placeThreads ck i launch tmx base lo n sup k = { k with threads := k.threads ++ ts, gen := gen }
    ∧ ts.map seatOf = (List.range n).map (fun j => (base + j, lo + j, tmx, i.group, i.regs)) ∧ ∀ t ∈ ts, Seated i sup t := by
  induction n with
  | zero => exact ⟨[], k.gen, by simp [placeThreads], rfl, by simp⟩
  | succ n ih =>
    obtain ⟨ts, gen, hk, hseat, hts⟩ := ih
    obtain ⟨t, gen', hk', ht, hnew⟩ := placeThread_eq ck i ⟨base + n, 0, sup, launch, lo + n, tmx, i.group, i.regs⟩
      { k with threads := k.threads ++ ts, gen := gen } rfl
    refine ⟨ts ++ [t], gen', ?_, ?_, ?_⟩
    · rw [placeThreads, List.range_succ, List.foldl_append]
      change placeThread ck i.entry _ (placeThreads ck i launch tmx base lo n sup k) = _
      rw [hk, hk', List.append_assoc]
    · rw [List.map_append, hseat, List.range_succ, List.map_append, List.map_singleton, ht, List.map_singleton]
    · exact List.forall_mem_append.mpr ⟨hts, by simpa using hnew⟩

/-- No thread that a team leaves behind stands in a slot of the next (R150). -/
theorem above_of_mem_leftBehind {k : Core} {t : Thread} (h : t ∈ leftBehind k) : t.id.sup = true ∨ Config.nSlots ≤ t.id.slot := by
  have hbase (l : List Thread) (b : Nat) : b ≤ l.foldl (fun n u => max n (u.id.slot + 1)) b := by
    induction l generalizing b with
    | nil => exact le_rfl
    | cons u r ih => exact (le_max_left b _).trans (ih _)
  rcases List.mem_append.mp h with h | h
  · exact .inl (by simpa [supThreads] using (List.mem_filter.mp h).2)
  · obtain ⟨j, -, rfl⟩ := List.mem_mapIdx.mp h
    exact .inr ((hbase _ _).trans (Nat.le_add_right _ j))

theorem fillSlice_cores (s : State) (c : Nat) (l : Launch) (hpre : l.pcount = 0) : (s.fillSlice c l).cores = (s.endStrays c).cores := by
  simp only [State.fillSlice, State.refill, preloads, hpre]
  rfl

theorem placeCores_one {i : Image} {c : Nat} (hpair : i.paired = false) : placeCores i c = [c] := by
  rw [placeCores, hpair, if_neg Bool.false_ne_true]

/-- Steps 1 to 4 leave the core ready, its sub-arrays gated or on their way to be awake (R227). -/
theorem prepareTeam_core {s : State} {l : Launch} {tmx c : Nat} (hc : c < s.cores.length) (hpair : l.img.paired = false)
    (hpre : l.pcount = 0) : ∃ mx, (s.prepareTeam l tmx c).core c = { readyCore s l tmx ((s.fillSlice c l).core c) with mx := mx }
      ∧ mx.acc = [] ∧ mx.gated = if s.hub.plinth.gating = 0 then 0 else BitVec.allOnes 16 := by
  have hc0 : c < (s.fillSlice c l).cores.length := by
    rw [fillSlice_cores s c l hpre]
    simpa [State.endStrays, State.modCore, State.withCore] using hc
  have hc1 : c < ((s.fillSlice c l).modCore c (readyCore s l tmx)).cores.length := by
    simpa [State.modCore, State.withCore] using hc0
  rw [State.prepareTeam, placeCores_one hpair, List.foldl_cons, List.foldl_nil]
  dsimp only
  split
  · rw [State.wakeArray, core_modCore hc1, core_modCore hc0]
    split
    · exact ⟨_, rfl, rfl, rfl⟩
    · exact ⟨_, rfl, rfl, rfl⟩
  · rw [core_modCore hc0]
    exact ⟨_, rfl, rfl, rfl⟩

theorem prepareTeam_mem {s : State} {l : Launch} {tmx c : Nat} (hpair : l.img.paired = false) :
    (s.prepareTeam l tmx c).mem = (s.fillSlice c l).mem := by
  rw [State.prepareTeam, placeCores_one hpair, List.foldl_cons, List.foldl_nil]
  dsimp only
  split <;> rfl

theorem prepareTeam_length {s : State} {l : Launch} {tmx c : Nat} (hpair : l.img.paired = false) (hpre : l.pcount = 0) :
    (s.prepareTeam l tmx c).cores.length = s.cores.length := by
  have hfill : (s.fillSlice c l).cores.length = s.cores.length := by
    rw [fillSlice_cores s c l hpre]
    simp [State.endStrays, State.modCore, State.withCore]
  rw [State.prepareTeam, placeCores_one hpair, List.foldl_cons, List.foldl_nil]
  dsimp only
  split <;> simpa [State.wakeArray, State.modCore, State.withCore] using hfill

theorem placeAt_one {s : State} {l : Launch} {c : Nat} (hpair : l.img.paired = false) (hpre : l.pcount = 0) :
    s.placeAt l [c] = ((((s.prepareTeam l l.placed c).modCore c
      (placeThreads (s.prepareTeam l l.placed c).clock l.img l.num l.placed 0 0 l.img.team false)).settle c).modLaunch l.num
        fun l => { l with placed := l.placed + 1 }) := by
  have hread : preloadsRead s l = true := by rw [preloadsRead, preloads, hpre]; rfl
  have hper : perCore l.img = l.img.team := by rw [perCore, hpair, if_neg Bool.false_ne_true]
  have hseat (x : State) (n : Nat) : x.seatTeam l n c =
      (x.modCore c (placeThreads x.clock l.img l.num n 0 0 l.img.team false)).settle c := by
    rw [State.seatTeam, placeCores_one hpair, List.foldl_cons, List.foldl_nil, if_pos rfl, hper]
  rw [← hseat, State.placeAt, hread]
  rfl

/-- The core of a placed team: the core made ready, with the team's threads behind those left there, as R34 and R38 let them go. -/
theorem placeAt_core {s : State} {l : Launch} {c : Nat} (hc : c < s.cores.length) (hpair : l.img.paired = false)
    (hpre : l.pcount = 0) : ∃ mx ts gen ck, (s.placeAt l [c]).core c = settleCore ck
        { readyCore s l l.placed ((s.fillSlice c l).core c) with
          mx := mx, threads := leftBehind ((s.fillSlice c l).core c) ++ ts, gen := gen }
      ∧ mx.acc = [] ∧ (mx.gated = if s.hub.plinth.gating = 0 then 0 else BitVec.allOnes 16)
      ∧ ts.map seatOf = (List.range l.img.team).map (fun j => (j, j, l.placed, l.img.group, l.img.regs))
      ∧ ∀ t ∈ ts, Seated l.img false t := by
  obtain ⟨mx, hk, hacc, hgated⟩ := prepareTeam_core (tmx := l.placed) hc hpair hpre
  obtain ⟨ts, gen, hplace, hseat, hts⟩ := placeThreads_eq (s.prepareTeam l l.placed c).clock l.img l.num l.placed 0 0 l.img.team false
    ((s.prepareTeam l l.placed c).core c)
  have hlen : c < (s.prepareTeam l l.placed c).cores.length := by rwa [prepareTeam_length hpair hpre]
  refine ⟨mx, ts, gen, (s.prepareTeam l l.placed c).clock, ?_, hacc, hgated, by simpa only [Nat.zero_add] using hseat, hts⟩
  rw [placeAt_one hpair hpre]
  change (State.settle _ c).core c = _
  rw [State.settle, core_modCore (by simpa [State.modCore, State.withCore] using hlen), core_modCore hlen, hplace, hk]
  rfl

/-- The pass of R34 and R38 moves no thread and keeps every register. -/
theorem settleCore_threads_map (ck : Clock) (k : Core) : ∃ g, (settleCore ck k).threads = k.threads.map g ∧ ∀ t, Keeps t (g t) := by
  refine ⟨settleForm ck { k with threads := k.threads.map (settleHold ck k) } ∘ settleHold ck k, ?_, fun t => ?_⟩
  · rw [settleCore_threads, List.map_map]
  · exact (keeps_settleHold ck k t).trans (keeps_settleForm ck _ _)

/-- A thread of the team now in the slots. -/
def inSlots (t : Thread) : Bool := !t.id.sup && decide (t.id.slot < Config.nSlots)

/-- Of a placed core's threads in the slots, every one is the team's. -/
theorem filter_inSlots_placed {k : Core} {ts : List Thread} (hts : ∀ t ∈ ts, inSlots t = true) :
    (leftBehind k ++ ts).filter inSlots = ts := by
  rw [List.filter_append, List.filter_eq_self.mpr hts, List.filter_eq_nil_iff.mpr, List.nil_append]
  intro t ht
  rcases above_of_mem_leftBehind ht with h | h
  · simp [inSlots, h]
  · simp [inSlots, h]

/-- Settles O49: the slice by what each step of its filling writes, the threads by induction on the slots that the team takes. -/
theorem placementFillsTheCore : Obligations.PlacementFillsTheCore := by
  unfold Obligations.PlacementFillsTheCore
  intro s l c hc _ hpair hteam hpre hwf hruns hfit
  dsimp only
  have hmem (a : Nat) : memGet (s.placeAt l [c]).mem a = memGet (s.fillSlice c l).mem a := by
    rw [placeAt_one hpair hpre, ← prepareTeam_mem (tmx := l.placed) hpair]
    rfl
  obtain ⟨mx, ts, gen, ck, hk, hacc, hgated, hseat, hts⟩ := placeAt_core hc hpair hpre
  obtain ⟨g, hg, hkeep⟩ := settleCore_threads_map ck { readyCore s l l.placed ((s.fillSlice c l).core c) with
          mx := mx, threads := leftBehind ((s.fillSlice c l).core c) ++ ts, gen := gen }
  have hin : ∀ t ∈ ts, inSlots t = true := by
    intro t ht
    obtain ⟨j, hj, hjt⟩ := List.mem_map.mp (hseat ▸ List.mem_map_of_mem (f := seatOf) ht)
    have hslot : t.id.slot = j := congrArg Prod.fst hjt.symm
    have hj : j < l.img.team := List.mem_range.mp hj
    simp only [inSlots, (hts t ht).sup, hslot, Config.nSlots, Bool.not_false, Bool.true_and, decide_eq_true_eq]
    omega
  have hthreads : ((s.placeAt l [c]).core c).threads.filter inSlots = ts.map g := by
    have hcomp : inSlots ∘ g = inSlots := funext fun t => by simp [inSlots, (hkeep t).id]
    rw [hk, hg, List.filter_map, hcomp, filter_inSlots_placed hin]
  refine ⟨fun off hoff => ?slice, fun a ha => ?outside, ?_⟩
  case slice =>
    rw [hmem, fillSlice_get hpre hwf hruns hfit, if_pos (by omega), Nat.add_sub_cancel_left]
  case outside => rw [hmem, fillSlice_get hpre hwf hruns hfit, if_neg (by omega)]
  refine ⟨?team, ?_⟩
  case team =>
    rw [hk, ← hpair]
    rfl
  refine ⟨by rw [hk]; rfl, by rw [hk]; rfl, by rw [hk]; rfl, by rw [hk]; rfl, by rw [hk]; exact hacc,
    fun _ => by rw [hk]; exact hgated, ?seats, fun t ht hsup hslot => ?seated⟩
  case seats =>
    change (((s.placeAt l [c]).core c).threads.filter inSlots).map seatOf = _
    rw [hthreads, List.map_map, ← hseat]
    exact List.map_congr_left fun t _ => seatOf_keeps (hkeep t)
  case seated =>
    have hmemt : t ∈ ts.map g := hthreads ▸ List.mem_filter.mpr ⟨ht, by simp [inSlots, hsup, hslot, Config.nSlots]⟩
    obtain ⟨u, hu, rfl⟩ := List.mem_map.mp hmemt
    obtain ⟨-, hv, hp, hq, hh⟩ := (hts u hu).keep (hkeep u)
    exact ⟨hv, hp, hq, hh⟩

/-! ### Rounding (R94, R101, R102) -/

/-- The exponent field of the grid on which the magnitude of code `x` lies: a code just above a power of two counts on the grid
below it. -/
def codeExp (ty : Ty) (x : Nat) : Nat := x / 2 ^ fracBits ty - 1

/-- The magnitude of code `x` without a sign, the codes above the greatest finite one going on in the same way. -/
def magVal (ty : Ty) (x : Nat) : Rat :=
  ((x - codeExp ty x * 2 ^ fracBits ty : Nat) : Rat) * 2 ^ ((codeExp ty x : Int) + 1 - biasOf ty - fracBits ty)

/-- The code of `y` units of a grid is of the value of `y` units: a carry into the next binade changes nothing. -/
theorem magVal_units {ty : Ty} {k y : Nat} (hy : y ≤ 2 ^ (fracBits ty + 1)) (hk : k = 0 ∨ 2 ^ fracBits ty ≤ y) :
    magVal ty (k * 2 ^ fracBits ty + y) = y * 2 ^ ((k : Int) + 1 - biasOf ty - fracBits ty) := by
  have hpos : 0 < 2 ^ fracBits ty := by positivity
  rw [pow_succ] at hy
  have hdiv : (k * 2 ^ fracBits ty + y) / 2 ^ fracBits ty = k + y / 2 ^ fracBits ty := by
    rw [Nat.mul_comm, Nat.mul_add_div hpos]
  by_cases hlow : y < 2 ^ fracBits ty
  · have hk0 : k = 0 := hk.resolve_right (by omega)
    simp [magVal, codeExp, hk0, Nat.div_eq_of_lt hlow]
  by_cases hmid : y < 2 ^ fracBits ty * 2
  · have hq : y / 2 ^ fracBits ty = 1 := by
      rw [Nat.div_eq_iff hpos]
      omega
    simp [magVal, codeExp, hdiv, hq]
  · have hytop : y = 2 ^ fracBits ty * 2 := by omega
    have hq : y / 2 ^ fracBits ty = 2 := by rw [hytop, Nat.mul_div_cancel_left _ hpos]
    have hsub : k * 2 ^ fracBits ty + y - (k + 1) * 2 ^ fracBits ty = 2 ^ fracBits ty := by
      rw [Nat.succ_mul]
      omega
    have hexp : ((k + 1 : Nat) : Int) + 1 - biasOf ty - fracBits ty = ((k : Int) + 1 - biasOf ty - fracBits ty) + 1 := by
      push_cast
      ring
    rw [magVal, codeExp, hdiv, hq, show k + 2 - 1 = k + 1 from rfl, hsub, hexp, zpow_add_one₀ two_ne_zero, hytop]
    push_cast
    ring

theorem magVal_strictMono (ty : Ty) : StrictMono (magVal ty) := by
  refine strictMono_nat_of_lt_succ fun x => ?_
  have hpos : 0 < 2 ^ fracBits ty := by positivity
  have hx := Nat.div_add_mod x (2 ^ fracBits ty)
  have hr := Nat.mod_lt x hpos
  obtain ⟨k, y, rfl, hy, hk⟩ : ∃ k y, x = k * 2 ^ fracBits ty + y ∧ y < 2 ^ (fracBits ty + 1) ∧ (k = 0 ∨ 2 ^ fracBits ty ≤ y) := by
    rcases hq : x / 2 ^ fracBits ty with _ | q
    · rw [hq] at hx
      exact ⟨0, x, by omega, by rw [pow_succ]; omega, .inl rfl⟩
    · refine ⟨q, x % 2 ^ fracBits ty + 2 ^ fracBits ty, ?_, by rw [pow_succ]; omega, .inr (by omega)⟩
      rw [hq, Nat.mul_succ, Nat.mul_comm] at hx
      omega
  rw [Nat.add_assoc, magVal_units hy.le hk, magVal_units hy (hk.imp_right (by omega))]
  push_cast
  have : (0 : Rat) < 2 ^ ((k : Int) + 1 - biasOf ty - fracBits ty) := by positivity
  linarith

/-- A code's sign stands above its magnitude. -/
theorem sign_mag_fields {ty : Ty} (neg : Bool) {x : Nat} (hbits : tyBits ty - 1 = fracBits ty + expBits ty)
    (hx : x < 2 ^ (tyBits ty - 1)) : bitAt (signBit ty neg + x) (tyBits ty - 1) = neg
      ∧ (signBit ty neg + x) / 2 ^ fracBits ty % 2 ^ expBits ty = x / 2 ^ fracBits ty
      ∧ (signBit ty neg + x) % 2 ^ fracBits ty = x % 2 ^ fracBits ty := by
  have hq : x / 2 ^ fracBits ty < 2 ^ expBits ty := by
    rw [Nat.div_lt_iff_lt_mul (by positivity), ← pow_add, Nat.add_comm, ← hbits]
    exact hx
  cases neg
  · simp [signBit, bitAt, Nat.div_eq_of_lt hx, Nat.mod_eq_of_lt hq]
  · have hs : 2 ^ (tyBits ty - 1) = 2 ^ fracBits ty * 2 ^ expBits ty := by rw [hbits, pow_add]
    refine ⟨?_, ?_, ?_⟩
    · simp [signBit, bitAt, Nat.add_div_left, Nat.div_eq_of_lt hx]
    · rw [signBit, if_pos rfl, hs, Nat.mul_add_div (by positivity), Nat.add_mod_left, Nat.mod_eq_of_lt hq]
    · rw [signBit, if_pos rfl, hs, Nat.mul_add_mod]

/-- The codes up to the greatest finite one, under either sign, have the finite values of R94. -/
theorem fvOf_code {ty : Ty} (hty : isF ty = true) (neg : Bool) {x : Nat} (hx : x ≤ maxCode ty) :
    fvOf ty (signBit ty neg + x) =
      .fin neg (x - codeExp ty x * 2 ^ fracBits ty) ((codeExp ty x : Int) + 1 - biasOf ty - fracBits ty) := by
  have hbits : tyBits ty - 1 = fracBits ty + expBits ty := by revert hty; cases ty <;> decide
  have hmax : maxCode ty < 2 ^ (tyBits ty - 1) := by revert hty; cases ty <;> decide
  have htop : hasInf ty = true → maxCode ty < (2 ^ expBits ty - 1) * 2 ^ fracBits ty := by revert hty; cases ty <;> decide
  obtain ⟨hsign, hexp, hfrac⟩ := sign_mag_fields neg hbits (hx.trans_lt hmax)
  have hinf : (hasInf ty && x / 2 ^ fracBits ty == 2 ^ expBits ty - 1) = false := by
    rw [Bool.and_eq_false_iff, or_iff_not_imp_left, Bool.not_eq_false, beq_eq_false_iff_ne]
    exact fun h => (Nat.div_lt_of_lt_mul (by rw [Nat.mul_comm]; exact hx.trans_lt (htop h))).ne
  have hnan : (ty == .e4m3 && x / 2 ^ fracBits ty == 15 && x % 2 ^ fracBits ty == 7) = false := by
    by_cases h : ty = .e4m3
    · subst h
      simp only [fracBits, maxCode] at hx ⊢
      simp
      omega
    · simp [h]
  simp only [fvOf, hsign, hexp, hfrac, hinf, hnan, Bool.false_eq_true, if_false]
  have hdm := Nat.div_add_mod x (2 ^ fracBits ty)
  rcases hq : x / 2 ^ fracBits ty with _ | q
  · rw [hq] at hdm
    simp only [codeExp, hq, if_true, FV.fin.injEq, true_and]
    exact ⟨by omega, by simp⟩
  · rw [hq, Nat.mul_succ, Nat.mul_comm] at hdm
    rw [if_neg q.succ_ne_zero]
    simp only [codeExp, hq, FV.fin.injEq, true_and, Nat.add_sub_cancel]
    exact ⟨by omega, by push_cast; ring⟩

theorem magVal_maxCode {ty : Ty} (hty : isF ty = true) : magVal ty (maxCode ty) = (fmtTable ty).2.2 := by
  cases ty <;> simp [isF] at hty <;> norm_num [magVal, codeExp, maxCode, expBits, fracBits, biasOf, fmtTable]

/-- How a part of a unit compares with half a unit. -/
def partIs : Below → Rat → Prop
  | .exact, d => d = 0
  | .less, d => 0 < d ∧ d < 1 / 2
  | .half, d => d = 1 / 2
  | .more, d => 1 / 2 < d ∧ d < 1

theorem partIs_range {b : Below} {d : Rat} (h : partIs b d) : 0 ≤ d ∧ d < 1 := by
  cases b <;> simp only [partIs] at h <;> constructor <;> linarith

theorem partIs_zero_iff {b : Below} {d : Rat} (h : partIs b d) : b = .exact ↔ d = 0 := by
  cases b <;> simp only [partIs] at h <;> simp only [reduceCtorEq, false_iff, true_iff]
  · exact h
  · exact h.1.ne'
  · rw [h]
    norm_num
  · linarith

/-- A quotient of naturals is its whole part and a part of a unit. -/
theorem partIs_of_rem {b : Below} {r n : Nat} (hn : 0 < n) (h : match b with
    | .exact => r = 0
    | .less => 0 < r ∧ 2 * r < n
    | .half => 2 * r = n
    | .more => n < 2 * r ∧ r < n) : partIs b ((r : Rat) / n) := by
  have hn' : (0 : Rat) < n := by exact_mod_cast hn
  cases b <;> simp only at h <;> simp only [partIs]
  · simp [h]
  · obtain ⟨h0, h1⟩ := h
    have h0 : (0 : Rat) < r := by exact_mod_cast h0
    have h1 : (2 * r : Rat) < n := by exact_mod_cast h1
    exact ⟨by positivity, by rw [div_lt_div_iff₀ hn' two_pos]; linarith⟩
  · have h : (2 * r : Rat) = n := by exact_mod_cast h
    rw [div_eq_div_iff hn'.ne' two_ne_zero]
    linarith
  · obtain ⟨h0, h1⟩ := h
    have h0 : (n : Rat) < 2 * r := by exact_mod_cast h0
    have h1 : (r : Rat) < n := by exact_mod_cast h1
    exact ⟨by rw [div_lt_div_iff₀ two_pos hn']; linarith, by rwa [div_lt_one hn']⟩

/-- A magnitude is its whole units of the grid and the part below (R102). -/
theorem splitGrid_spec (m : Nat) (e u : Int) :
    partIs (splitGrid m e u false).2 ((m : Rat) * 2 ^ e / 2 ^ u - (splitGrid m e u false).1) := by
  rw [mul_div_assoc, ← zpow_sub₀ two_ne_zero]
  unfold splitGrid
  split
  next hue =>
    obtain ⟨k, hk⟩ := Int.eq_ofNat_of_zero_le (sub_nonneg.mpr hue)
    simp [partIs, hk]
  next hue =>
    obtain ⟨k, hk⟩ : ∃ k : Nat, u - e = k + 1 := ⟨(u - e - 1).toNat, by omega⟩
    have hexp : e - u = -((k + 1 : Nat) : Int) := by omega
    have hsh : (u - e).toNat = k + 1 := by omega
    have hdm := Nat.div_add_mod m (2 ^ (k + 1))
    have hr := Nat.mod_lt m (show 0 < 2 ^ (k + 1) by positivity)
    have hfrac : (m : Rat) * 2 ^ (e - u) - (m / 2 ^ (k + 1) : Nat) = (m % 2 ^ (k + 1) : Nat) / (2 ^ (k + 1) : Nat) := by
      have hcast : (m : Rat) = (2 ^ (k + 1) : Nat) * (m / 2 ^ (k + 1) : Nat) + (m % 2 ^ (k + 1) : Nat) := by exact_mod_cast hdm.symm
      rw [hexp, zpow_neg, zpow_natCast, sub_eq_iff_eq_add, ← div_eq_mul_inv, div_eq_iff (by positivity), add_mul, Nat.cast_pow,
        Nat.cast_ofNat, div_mul_cancel₀ _ (by positivity)]
      rw [Nat.cast_pow, Nat.cast_ofNat] at hcast
      linarith
    simp only [hsh, Nat.add_sub_cancel, hfrac]
    refine partIs_of_rem (by positivity) ?_
    generalize m % 2 ^ (k + 1) = r at hr
    rw [pow_succ] at hr ⊢
    by_cases h0 : r = 0
    · simp [h0]
    by_cases h1 : r < 2 ^ k
    · simp only [h0, h1]
      simp
      omega
    by_cases h2 : r = 2 ^ k
    · simp [h2, Nat.mul_comm]
    · simp [h0, h1, h2]
      omega

/-- Whether R102 takes the next unit of the grid above `lo`. -/
def roundsUp (rm : Rm) (neg : Bool) (lo : Nat) (b : Below) : Bool :=
  match rm, b with
  | _, .exact => false
  | .rne, .less => false
  | .rne, .more => true
  | .rne, .half => lo % 2 == 1
  | .rz, _ => false
  | .rup, _ => !neg
  | .rdn, _ => neg

/-- The units of the grid that R102 rounds a magnitude to. -/
def unitsOf (ty : Ty) (rm : Rm) (neg : Bool) (m : Nat) (e : Int) : Nat :=
  let s := splitGrid m e (gridExp ty m e) false
  if roundsUp rm neg s.1 s.2 then s.1 + 1 else s.1

theorem unitsOf_range (ty : Ty) (rm : Rm) (neg : Bool) (m : Nat) (e : Int) :
    (splitGrid m e (gridExp ty m e) false).1 ≤ unitsOf ty rm neg m e
      ∧ unitsOf ty rm neg m e ≤ (splitGrid m e (gridExp ty m e) false).1 + 1 := by
  unfold unitsOf
  dsimp only
  split <;> omega

/-- The flags beside overflow (R102). -/
def gridFlags (ty : Ty) (m : Nat) (e : Int) : Reg :=
  if (splitGrid m e (gridExp ty m e) false).2 == .exact then 0 else if isTiny ty m e then flagNX ||| flagUF else flagNX

/-- Round is its units of the grid under a sign, or Overflow (R102). -/
theorem roundMag_eq (ty : Ty) (rm : Rm) (sat neg : Bool) (m : Nat) (e : Int) : roundMag ty rm sat neg m e false =
    if maxCode ty < gridCode ty (unitsOf ty rm neg m e) (gridExp ty m e) then
      ⟨(overflow ty rm sat neg).code, (overflow ty rm sat neg).flags ||| gridFlags ty m e⟩
    else ⟨signBit ty neg + gridCode ty (unitsOf ty rm neg m e) (gridExp ty m e), gridFlags ty m e⟩ := rfl

/-- R102's choice between `lo` units and the next, by the part of a unit that lies above `lo`. -/
theorem roundedMag_of_part {ty : Ty} {rm : Rm} {neg : Bool} {a u : Rat} {lo : Nat} {b : Below} (hulp : ulpAt ty a = u) (hu : 0 < u)
    (h : partIs b (a / u - lo)) : roundedMag ty rm neg a = ((if roundsUp rm neg lo b then lo + 1 else lo : Nat) : Rat) * u := by
  obtain ⟨h0, h1⟩ := partIs_range h
  have hfloor : ⌊a / u⌋ = (lo : Int) := by
    rw [Int.floor_eq_iff]
    push_cast
    constructor <;> linarith
  have ha : a - lo * u = (a / u - lo) * u := by rw [sub_mul, div_mul_cancel₀ _ hu.ne']
  have heq : a = lo * u ↔ a / u - lo = 0 := by rw [← sub_eq_zero, ha, mul_eq_zero, or_iff_left hu.ne']
  have hlt : a - lo * u < lo * u + u - a ↔ a / u - lo < 1 / 2 := by
    rw [← mul_lt_mul_iff_left₀ (b := a / u - lo) hu, ← ha]
    constructor <;> intro <;> linarith
  have hgt : lo * u + u - a < a - lo * u ↔ 1 / 2 < a / u - lo := by
    rw [← mul_lt_mul_iff_left₀ (c := a / u - lo) hu, ← ha]
    constructor <;> intro <;> linarith
  have hpar : (lo : Int) % 2 = 0 ↔ lo % 2 = 0 := by omega
  unfold roundedMag
  simp only [hulp, hfloor, Int.cast_natCast, heq, hlt, hgt, hpar]
  cases b with
  | exact =>
    rw [if_pos (show a / u - lo = 0 from h)]
    cases rm <;> rfl
  | less =>
    obtain ⟨hp, hl⟩ := h
    simp only [hp.ne', hl, if_true, if_false]
    cases rm <;> cases neg <;> simp [roundsUp, add_mul]
  | half =>
    simp only [show a / u - lo = 1 / 2 from h, lt_irrefl, if_false, if_neg (show ¬ (1 / 2 : Rat) = 0 by norm_num)]
    rcases Nat.mod_two_eq_zero_or_one lo with hl | hl <;> cases rm <;> cases neg <;> simp [roundsUp, hl, add_mul]
  | more =>
    obtain ⟨hl, -⟩ := h
    have hne : a / u - lo ≠ 0 := by linarith
    simp only [hne, hl, hl.not_gt, if_true, if_false]
    cases rm <;> cases neg <;> simp [roundsUp, add_mul]

theorem fmtTable_bias {ty : Ty} (hty : isF ty = true) : (fmtTable ty).1 = biasOf ty := by revert hty; cases ty <;> decide

theorem fmtTable_frac {ty : Ty} (hty : isF ty = true) : (fmtTable ty).2.1 = fracBits ty := by revert hty; cases ty <;> decide

theorem log_mag {m : Nat} (hm : 0 < m) (e : Int) : Int.log 2 ((m : Rat) * 2 ^ e) = Nat.log2 m + e := by
  have hpos : (0 : Rat) < (m : Rat) * 2 ^ e := by positivity
  have hlo : ((2 : Rat) ^ (Nat.log2 m)) ≤ m := by exact_mod_cast Nat.log2_self_le hm.ne'
  have hhi : (m : Rat) < 2 ^ (Nat.log2 m + 1) := by exact_mod_cast Nat.lt_log2_self
  refine le_antisymm (Int.lt_add_one_iff.mp ((Int.lt_zpow_iff_log_lt one_lt_two hpos).mp ?_))
    ((Int.zpow_le_iff_le_log one_lt_two hpos).mp ?_)
  · rw [show (Nat.log2 m : Int) + e + 1 = ((Nat.log2 m + 1 : Nat) : Int) + e by push_cast; ring, Nat.cast_ofNat, zpow_add₀ two_ne_zero,
      zpow_natCast]
    gcongr
  · rw [Nat.cast_ofNat, zpow_add₀ two_ne_zero, zpow_natCast]
    gcongr

section Magnitude
variable {ty : Ty} (hty : isF ty = true) {m : Nat} (hm : 0 < m) (e : Int)
include hty hm

theorem ulpAt_eq : ulpAt ty ((m : Rat) * 2 ^ e) = 2 ^ gridExp ty m e := by
  rw [ulpAt, fmtTable_bias hty, fmtTable_frac hty, log_mag hm, gridExp]

theorem isTiny_iff : isTiny ty m e = true ↔ (m : Rat) * 2 ^ e < 2 ^ (1 - (fmtTable ty).1) := by
  rw [isTiny, decide_eq_true_iff, ← log_mag hm, fmtTable_bias hty]
  exact (Int.lt_zpow_iff_log_lt one_lt_two (by positivity)).symm

omit hty in
/-- The whole units of a magnitude: below twice the first of a binade, and no less than that, except on the lowest grid. -/
theorem units_bounds : (splitGrid m e (gridExp ty m e) false).1 < 2 ^ (fracBits ty + 1)
    ∧ (gridExp ty m e = 1 - biasOf ty - fracBits ty ∨ 2 ^ fracBits ty ≤ (splitGrid m e (gridExp ty m e) false).1) := by
  obtain ⟨h0, h1⟩ := partIs_range (splitGrid_spec m e (gridExp ty m e))
  have hpos : (0 : Rat) < (m : Rat) * 2 ^ e := by positivity
  have hlo : (2 : Rat) ^ ((Nat.log2 m : Int) + e) ≤ (m : Rat) * 2 ^ e := by
    rw [← log_mag hm]
    exact Int.zpow_log_le_self one_lt_two hpos
  have hhi : (m : Rat) * 2 ^ e < (2 : Rat) ^ ((Nat.log2 m : Int) + e + 1) := by
    rw [← log_mag hm]
    exact Int.lt_zpow_succ_log_self one_lt_two _
  have hu : gridExp ty m e = max ((Nat.log2 m : Int) + e) (1 - biasOf ty) - fracBits ty := rfl
  constructor
  · have hup : (m : Rat) * 2 ^ e / 2 ^ gridExp ty m e < 2 ^ (fracBits ty + 1) := by
      rw [div_lt_iff₀ (by positivity), ← zpow_natCast, ← zpow_add₀ two_ne_zero]
      refine hhi.trans_le (zpow_le_zpow_right₀ one_le_two ?_)
      push_cast
      omega
    exact_mod_cast (by linarith : ((splitGrid m e (gridExp ty m e) false).1 : Rat) < 2 ^ (fracBits ty + 1))
  · by_cases hb : (Nat.log2 m : Int) + e ≤ 1 - biasOf ty
    · exact .inl (by omega)
    · have hup : (2 : Rat) ^ fracBits ty ≤ (m : Rat) * 2 ^ e / 2 ^ gridExp ty m e := by
        rw [le_div_iff₀ (by positivity), ← zpow_natCast, ← zpow_add₀ two_ne_zero]
        refine le_trans (zpow_le_zpow_right₀ one_le_two ?_) hlo
        omega
      have : (2 : Rat) ^ fracBits ty < (splitGrid m e (gridExp ty m e) false).1 + 1 := by linarith
      exact .inr (Nat.lt_add_one_iff.mp (by exact_mod_cast this))

omit hty in
/-- A number of units of the magnitude's grid from its floor to the next has the code of its value. -/
theorem magVal_gridCode {y : Nat} (hy : (splitGrid m e (gridExp ty m e) false).1 ≤ y)
    (hy1 : y ≤ (splitGrid m e (gridExp ty m e) false).1 + 1) :
    magVal ty (gridCode ty y (gridExp ty m e)) = y * 2 ^ gridExp ty m e := by
  obtain ⟨hlt, hk⟩ := units_bounds (ty := ty) hm e
  have hge : 1 - (biasOf ty : Int) - fracBits ty ≤ gridExp ty m e := by
    rw [gridExp]
    omega
  obtain ⟨k, hkk⟩ := Int.eq_ofNat_of_zero_le (show 0 ≤ gridExp ty m e + fracBits ty + biasOf ty - 1 by omega)
  rw [gridCode, hkk, Int.toNat_natCast, magVal_units (by omega) (hk.imp (by omega) (by omega))]
  congr 2
  omega

theorem roundedMag_eq (rm : Rm) (neg : Bool) :
    roundedMag ty rm neg ((m : Rat) * 2 ^ e) = unitsOf ty rm neg m e * 2 ^ gridExp ty m e :=
  roundedMag_of_part (ulpAt_eq hty hm e) (by positivity) (splitGrid_spec m e (gridExp ty m e))

theorem roundedFlags_eq : roundedFlags ty ((m : Rat) * 2 ^ e) = gridFlags ty m e := by
  have hspec := splitGrid_spec m e (gridExp ty m e)
  obtain ⟨h0, h1⟩ := partIs_range hspec
  have hu : (0 : Rat) < 2 ^ gridExp ty m e := by positivity
  have hfloor : ⌊(m : Rat) * 2 ^ e / 2 ^ gridExp ty m e⌋ = ((splitGrid m e (gridExp ty m e) false).1 : Int) := by
    rw [Int.floor_eq_iff]
    push_cast
    constructor <;> linarith
  have hexact : (m : Rat) * 2 ^ e = (splitGrid m e (gridExp ty m e) false).1 * 2 ^ gridExp ty m e ↔
      ((splitGrid m e (gridExp ty m e) false).2 == .exact) = true := by
    rw [← div_eq_iff hu.ne', ← sub_eq_zero, beq_iff_eq]
    exact (partIs_zero_iff hspec).symm
  simp only [roundedFlags, gridFlags, ulpAt_eq hty hm, hfloor, Int.cast_natCast, hexact, ← isTiny_iff hty hm]
  rfl

/-- A rounded magnitude overflows just when its code lies above the greatest finite one. -/
theorem overflows_iff (rm : Rm) (neg : Bool) : (fmtTable ty).2.2 < roundedMag ty rm neg ((m : Rat) * 2 ^ e) ↔
    maxCode ty < gridCode ty (unitsOf ty rm neg m e) (gridExp ty m e) := by
  obtain ⟨hlo, hhi⟩ := unitsOf_range ty rm neg m e
  rw [roundedMag_eq hty hm, ← magVal_gridCode hm e hlo hhi, ← magVal_maxCode hty, (magVal_strictMono ty).lt_iff_lt]

end Magnitude

theorem ratOf_code {ty : Ty} (hty : isF ty = true) (neg : Bool) {x : Nat} (hx : x ≤ maxCode ty) :
    ratOf (fvOf ty (signBit ty neg + x)) = some ((if neg then -1 else 1) * magVal ty x) := by
  rw [fvOf_code hty neg hx, ratOf, mul_assoc, magVal]

theorem infCode_value {ty : Ty} (hinf : hasInf ty = true) (hty : isF ty = true) (neg : Bool) : fvOf ty (infCode ty neg) = .inf neg := by
  revert hinf hty
  cases ty <;> cases neg <;> decide

/-- The greatest finite value under a sign. -/
theorem ratOf_maxCode {ty : Ty} (hty : isF ty = true) (neg : Bool) :
    ratOf (fvOf ty (signBit ty neg + maxCode ty)) = some ((if neg then -1 else 1) * (fmtTable ty).2.2) := by
  rw [ratOf_code hty neg le_rfl, magVal_maxCode hty]

theorem overflow_flags (ty : Ty) (rm : Rm) (sat neg : Bool) : (overflow ty rm sat neg).flags = 0x14 := by
  unfold overflow
  split <;> rfl

theorem overflow_e2m1 (rm : Rm) (sat neg : Bool) : (overflow .e2m1 rm sat neg).code = signBit .e2m1 neg + maxCode .e2m1 := rfl

theorem overflow_e4m3 (rm : Rm) (sat neg : Bool) :
    (overflow .e4m3 rm sat neg).code = if sat then signBit .e4m3 neg + maxCode .e4m3 else 0x7F := rfl

/-- A format with infinities overflows to one where the mode rounds away from zero. -/
theorem overflow_hasInf {ty : Ty} (h4 : ty ≠ .e4m3) (h2 : ty ≠ .e2m1) (rm : Rm) (sat neg : Bool) : (overflow ty rm sat neg).code =
    if rm = .rne ∨ (rm = .rup ∧ neg = false) ∨ (rm = .rdn ∧ neg = true) then infCode ty neg else signBit ty neg + maxCode ty := by
  unfold overflow
  split
  · exact absurd rfl h4
  · exact absurd rfl h2
  · cases rm <;> cases neg <;> rfl

theorem hasInf_of_ne {ty : Ty} (h4 : ty ≠ .e4m3) (h2 : ty ≠ .e2m1) : hasInf ty = true := by
  revert h4 h2
  cases ty <;> decide

/-- R102: Round of a nonzero finite value. -/
theorem isRound_roundMag {ty : Ty} (hty : isF ty = true) (rm : Rm) (sat neg : Bool) {m : Nat} (hm : 0 < m) (e : Int) :
    IsRound ty rm sat neg ((m : Rat) * 2 ^ e) (roundMag ty rm sat neg m e false) := by
  unfold IsRound
  simp only [Rat.cast_id, overflows_iff hty hm, roundedFlags_eq hty hm, roundMag_eq, exists_eq_right]
  by_cases hover : maxCode ty < gridCode ty (unitsOf ty rm neg m e) (gridExp ty m e)
  · rw [if_pos hover, if_pos hover]
    refine ⟨by rw [overflow_flags, BitVec.or_comm], ?_⟩
    by_cases h4 : ty = .e4m3
    · subst h4
      cases sat
      · rfl
      · simpa [overflow_e4m3] using ratOf_maxCode hty neg
    by_cases h2 : ty = .e2m1
    · subst h2
      simpa [overflow_e2m1] using ratOf_maxCode hty neg
    · simp only [h4, h2, false_and, or_self, if_false, overflow_hasInf h4 h2]
      split
      · exact infCode_value (hasInf_of_ne h4 h2) hty neg
      · exact ratOf_maxCode hty neg
  · rw [if_neg hover, if_neg hover]
    obtain ⟨hlo, hhi⟩ := unitsOf_range ty rm neg m e
    refine ⟨rfl, ?_, ?_⟩
    · rw [ratOf_code hty neg (not_lt.mp hover), magVal_gridCode hm e hlo hhi, roundedMag_eq hty hm]
    · rw [fvOf_code hty neg (not_lt.mp hover)]
      rfl

theorem roundTo_of_pos {m : Nat} (hm : 0 < m) (ty : Ty) (rm : Rm) (sat neg : Bool) (e : Int) :
    roundTo ty rm sat (.fin neg m e) = roundMag ty rm sat neg m e false := by
  obtain ⟨n, rfl⟩ := Nat.exists_eq_add_of_lt hm
  rw [Nat.zero_add]
  rfl

/-! ### Exact sums, products and the order of values (R96, R108, R164 to R166) -/

/-- The sign of a finite value as a factor. -/
def signOf (neg : Bool) : Rat := if neg then -1 else 1

theorem signOf_mul (x y : Bool) : signOf x * signOf y = signOf (x != y) := by cases x <;> cases y <;> simp [signOf]

theorem mag_eq_zero_iff {m : Nat} {e : Int} : (m : Rat) * 2 ^ e = 0 ↔ m = 0 := by
  rw [mul_eq_zero, or_iff_left (by positivity), Nat.cast_eq_zero]

theorem signed_eq_zero_iff {n : Bool} {m : Nat} {e : Int} : signOf n * m * 2 ^ e = 0 ↔ m = 0 := by
  have hs : signOf n ≠ 0 := by cases n <;> simp [signOf]
  rw [mul_assoc, mul_eq_zero, or_iff_right hs, mag_eq_zero_iff]

theorem signed_neg_iff {n : Bool} {m : Nat} {e : Int} (hm : 0 < m) : signOf n * m * 2 ^ e < 0 ↔ n = true := by
  have hpos : (0 : Rat) < m * 2 ^ e := by positivity
  rw [mul_assoc]
  cases n
  · simpa [signOf] using hpos.le
  · simpa [signOf] using hpos

theorem abs_signed {n : Bool} {m : Nat} {e : Int} : |signOf n * m * 2 ^ e| = m * 2 ^ e := by
  have hs : |signOf n| = 1 := by cases n <;> simp [signOf]
  rw [mul_assoc, abs_mul, hs, one_mul, abs_of_nonneg (by positivity)]

theorem ratOf_fin (neg : Bool) (m : Nat) (e : Int) : ratOf (.fin neg m e) = some (signOf neg * m * 2 ^ e) := rfl

theorem scaled_mul {u e : Int} (h : u ≤ e) (neg : Bool) (m : Nat) : (scaled u neg m e : Rat) * 2 ^ u = signOf neg * m * 2 ^ e := by
  obtain ⟨k, hk⟩ := Int.eq_ofNat_of_zero_le (sub_nonneg.mpr h)
  have he : e = k + u := by omega
  have hpow : (m : Rat) * (2 ^ k : Nat) * 2 ^ u = m * 2 ^ e := by
    rw [he, zpow_add₀ two_ne_zero, zpow_natCast, mul_assoc, Nat.cast_pow, Nat.cast_ofNat]
  unfold scaled signOf
  rw [hk, Int.toNat_natCast]
  cases neg
  · simpa using hpow
  · simpa using hpow

theorem leastExp_none {l : List FV} (h : leastExp l = none) {neg : Bool} {m : Nat} {e : Int} (hv : .fin neg m e ∈ l) : m = 0 := by
  induction l with
  | nil => cases hv
  | cons v r ih =>
    match v, hv with
    | .fin n (k + 1) e', hv => cases h
    | .fin n 0 e', hv => exact (List.mem_cons.mp hv).elim (fun hv => (FV.fin.inj hv).2.1) (ih h)
    | .nan, hv => exact ih h ((List.mem_cons.mp hv).resolve_left (by simp))
    | .inf n, hv => exact ih h ((List.mem_cons.mp hv).resolve_left (by simp))

theorem leastExp_le {l : List FV} {u : Int} (h : leastExp l = some u) {neg : Bool} {m : Nat} {e : Int} (hv : .fin neg (m + 1) e ∈ l) :
    u ≤ e := by
  induction l generalizing u with
  | nil => cases hv
  | cons v r ih =>
    match v, hv with
    | .fin n (k + 1) e', hv =>
      obtain rfl := Option.some.inj h
      rcases hr : leastExp r with _ | u'
      · rcases List.mem_cons.mp hv with hv | hv
        · simp [(FV.fin.inj hv).2.2]
        · exact absurd (leastExp_none hr hv) m.succ_ne_zero
      · rcases List.mem_cons.mp hv with hv | hv
        · simp [(FV.fin.inj hv).2.2]
        · exact (min_le_right _ _).trans (ih hr hv)
    | .fin n 0 e', hv => exact ih h ((List.mem_cons.mp hv).resolve_left (by simp))
    | .nan, hv => exact ih h ((List.mem_cons.mp hv).resolve_left (by simp))
    | .inf n, hv => exact ih h ((List.mem_cons.mp hv).resolve_left (by simp))

/-- The exact sum in units at or below every exponent. -/
theorem sumScaled_mul {u : Int} {l : List FV} {qs : List Rat} (hq : l.map ratOf = qs.map some)
    (hu : ∀ neg m e, .fin neg (m + 1) e ∈ l → u ≤ e) : (sumScaled u l : Rat) * 2 ^ u = qs.sum := by
  induction l generalizing qs with
  | nil =>
    obtain rfl : qs = [] := by simpa using hq.symm
    simp [sumScaled]
  | cons v r ih =>
    obtain _ | ⟨q, qs⟩ := qs
    · cases hq
    obtain ⟨hv, hr⟩ := List.cons.inj hq
    have ih := ih hr fun neg m e h => hu neg m e (List.mem_cons_of_mem v h)
    rw [List.sum_cons, ← ih]
    match v, hv with
    | .fin neg 0 e, hv =>
      obtain rfl := Option.some.inj hv
      simp [sumScaled]
    | .fin neg (m + 1) e, hv =>
      obtain rfl := Option.some.inj hv
      rw [sumScaled, Int.cast_add, add_mul, scaled_mul (hu neg m e List.mem_cons_self)]
      rfl

theorem exists_fin {v : FV} {q : Rat} (h : ratOf v = some q) : ∃ neg m e, v = .fin neg m e ∧ q = signOf neg * m * 2 ^ e := by
  match v, h with
  | .fin neg m e, h => exact ⟨neg, m, e, rfl, (Option.some.inj h).symm⟩

/-- No NaN and no infinity is among finite values. -/
theorem any_special_eq_false {l : List FV} {qs : List Rat} (hq : l.map ratOf = qs.map some) :
    l.any fvIsNaN = false ∧ ∀ n, (l.any fun v => v == .inf n) = false := by
  have hfin : ∀ v ∈ l, ∃ neg m e, v = .fin neg m e := by
    intro v hv
    obtain ⟨q, -, h⟩ := List.mem_map.mp (hq ▸ List.mem_map_of_mem (f := ratOf) hv)
    obtain ⟨neg, m, e, h, -⟩ := exists_fin h.symm
    exact ⟨neg, m, e, h⟩
  simp only [List.any_eq_false]
  refine ⟨fun v hv => ?_, fun n v hv => ?_⟩
  · obtain ⟨neg, m, e, rfl⟩ := hfin v hv
    simp [fvIsNaN]
  · obtain ⟨neg, m, e, rfl⟩ := hfin v hv
    simp

section Sum
variable {rm : Rm} {l : List FV} {qs : List Rat} (hq : l.map ratOf = qs.map some)
include hq

/-- Zeros alone add to a zero whose sign they give (R96). -/
theorem sumFV_zeros (hl : leastExp l = none) : sumFV rm l =
    (.fin (if l.all fvNeg then !l.isEmpty else rm == .rdn && l.any fvNeg) 0 0, 0) := by
  obtain ⟨hnan, hinf⟩ := any_special_eq_false hq
  simp only [sumFV, hnan, hinf, hl, Bool.false_eq_true, if_false, Bool.and_self]

/-- Other finite values add to their exact sum, or to the zero that the mode gives (R96). -/
theorem sumFV_exact {u : Int} (hl : leastExp l = some u) :
    (qs.sum = 0 → sumFV rm l = (.fin (rm == .rdn) 0 0, 0))
    ∧ (qs.sum ≠ 0 → ∃ m e, sumFV rm l = (.fin (decide (qs.sum < 0)) m e, 0) ∧ 0 < m ∧ (m : Rat) * 2 ^ e = |qs.sum|) := by
  obtain ⟨hnan, hinf⟩ := any_special_eq_false hq
  have hval := sumScaled_mul hq fun neg m e => leastExp_le hl
  have hu : (0 : Rat) < 2 ^ u := by positivity
  have hsum : sumFV rm l = (if sumScaled u l = 0 then .fin (rm == .rdn) 0 0 else .fin (sumScaled u l < 0) (sumScaled u l).natAbs u, 0) := by
    simp only [sumFV, hnan, hinf, hl, Bool.false_eq_true, if_false, Bool.and_self]
  have hzero : qs.sum = 0 ↔ sumScaled u l = 0 := by rw [← hval, mul_eq_zero, or_iff_left hu.ne', Int.cast_eq_zero]
  have hneg : qs.sum < 0 ↔ sumScaled u l < 0 := by rw [← hval, ← not_le, mul_nonneg_iff_of_pos_right hu, Int.cast_nonneg_iff, not_le]
  rw [hsum, Ne, hzero]
  refine ⟨fun h => by rw [if_pos h], fun h => ⟨(sumScaled u l).natAbs, u, ?_, Int.natAbs_pos.mpr h, ?_⟩⟩
  · rw [if_neg h]
    simp only [hneg]
  · rw [← hval, abs_mul, abs_of_pos hu, Nat.cast_natAbs, Int.cast_abs]

end Sum

/-- An infinity stays what it is beside a finite value or one of its own sign (R108, R164). -/
theorem sumFV_inf_left {rm : Rm} {x : Bool} {b : FV} (hn : b ≠ .nan) (hi : b ≠ .inf !x) : sumFV rm [.inf x, b] = (.inf x, 0) := by
  match b with
  | .nan => exact absurd rfl hn
  | .inf y =>
    obtain rfl : x = y := by cases x <;> cases y <;> simp at hi ⊢
    cases x <;> rfl
  | .fin n m e => cases x <;> rfl

theorem sumFV_inf_right {rm : Rm} {x : Bool} {a : FV} (hn : a ≠ .nan) (hi : a ≠ .inf !x) : sumFV rm [a, .inf x] = (.inf x, 0) := by
  match a with
  | .nan => exact absurd rfl hn
  | .inf y =>
    obtain rfl : x = y := by cases x <;> cases y <;> simp at hi ⊢
    cases x <;> rfl
  | .fin n m e => cases x <;> rfl

section Pair
variable (rm : Rm) {a b : FV} {x y : Rat} (hx : ratOf a = some x) (hy : ratOf b = some y)
include hx hy

/-- Two finite values whose exact sum is not zero. -/
theorem sumFV_pair_nonzero (hxy : x + y ≠ 0) :
    ∃ m e, sumFV rm [a, b] = (.fin (decide (x + y < 0)) m e, 0) ∧ 0 < m ∧ (m : Rat) * 2 ^ e = |x + y| := by
  have hq : [a, b].map ratOf = [x, y].map some := by simp [hx, hy]
  have hsum : [x, y].sum = x + y := by simp
  rw [← hsum] at hxy ⊢
  rcases hl : leastExp [a, b] with _ | u
  · obtain ⟨n, m, e, rfl, rfl⟩ := exists_fin hx
    obtain ⟨n', m', e', rfl, rfl⟩ := exists_fin hy
    obtain rfl : m = 0 := leastExp_none hl (neg := n) (e := e) (by simp)
    obtain rfl : m' = 0 := leastExp_none hl (neg := n') (e := e') (by simp)
    simp at hxy
  · exact (sumFV_exact hq hl).2 hxy

/-- Two finite values whose exact sum is zero give a zero of R96's sign. -/
theorem sumFV_pair_zero (hxy : x + y = 0) : ∃ e, sumFV rm [a, b] = (.fin (zeroSign rm (fvNeg a) (fvNeg b)) 0 e, 0) := by
  have hq : [a, b].map ratOf = [x, y].map some := by simp [hx, hy]
  have hsum : [x, y].sum = x + y := by simp
  refine ⟨0, ?_⟩
  obtain ⟨n, m, e, rfl, rfl⟩ := exists_fin hx
  obtain ⟨n', m', e', rfl, rfl⟩ := exists_fin hy
  rcases hl : leastExp [.fin n m e, .fin n' m' e'] with _ | u
  · rw [sumFV_zeros hq hl]
    cases n <;> cases n' <;> simp [zeroSign, fvNeg, Bool.beq_eq_decide_eq]
  · have hsign : n ≠ n' := by
      rintro rfl
      have hpos : (m : Rat) * 2 ^ e + m' * 2 ^ e' = 0 := by cases n <;> simp [signOf] at hxy <;> linarith
      obtain ⟨hm, hm'⟩ := (add_eq_zero_iff_of_nonneg (by positivity) (by positivity)).mp hpos
      obtain rfl := mag_eq_zero_iff.mp hm
      obtain rfl := mag_eq_zero_iff.mp hm'
      cases hl
    rw [(sumFV_exact hq hl).1 (hsum.trans hxy)]
    simp [zeroSign, fvNeg, hsign, Bool.beq_eq_decide_eq]

end Pair

theorem ratOf_zero_iff {n : Bool} {m : Nat} {e : Int} : ratOf (.fin n m e) = some 0 ↔ m = 0 := by
  rw [ratOf_fin, Option.some.injEq, signed_eq_zero_iff]

theorem mulFV_clash {a b : FV} (h : zeroByInf a b) : mulFV a b = (.nan, true) := by
  rcases h with ⟨h0, x, rfl⟩ | ⟨h0, x, rfl⟩
  all_goals
    obtain ⟨n, m, e, rfl, -⟩ := exists_fin h0
    obtain rfl := ratOf_zero_iff.mp h0
    rfl

theorem mulFV_nan {a b : FV} (h : a = .nan ∨ b = .nan) : mulFV a b = (.nan, false) := by
  rcases h with rfl | rfl
  · cases b <;> rfl
  · cases a <;> rfl

theorem mulFV_inf {a b : FV} {x : Bool} (h : infProduct a b x) : mulFV a b = (.inf x, false) := by
  obtain ⟨⟨y, hy⟩, ha, hb, hz, rfl⟩ := h
  match a, b with
  | .nan, _ => exact absurd rfl ha
  | .inf _, .nan => exact absurd rfl hb
  | .fin _ _ _, .nan => exact absurd rfl hb
  | .fin _ _ _, .fin _ _ _ => simp at hy
  | .inf _, .inf _ => rfl
  | .inf n, .fin n' m e =>
    have hm : m ≠ 0 := fun hm => hz (.inr ⟨ratOf_zero_iff.mpr hm, n, rfl⟩)
    simp [mulFV, hm, fvNeg]
  | .fin n' m e, .inf n =>
    have hm : m ≠ 0 := fun hm => hz (.inl ⟨ratOf_zero_iff.mpr hm, n, rfl⟩)
    simp [mulFV, hm, fvNeg]

theorem signed_mul (n n' : Bool) (m m' : Nat) (e e' : Int) :
    signOf n * m * 2 ^ e * (signOf n' * m' * 2 ^ e') = signOf (n != n') * (m * m' : Nat) * 2 ^ (e + e') := by
  rw [zpow_add₀ two_ne_zero, ← signOf_mul, Nat.cast_mul]
  ring

/-- The formats of scalar and packed arithmetic. -/
def plainTy : Ty → Bool
  | .f32 | .f16 | .bf16 => true
  | _ => false

section Plain
variable {ty : Ty} (hty : plainTy ty = true) (rm : Rm)
include hty

theorem roundWith_nan (fl : Reg) : roundWith ty rm false (.nan, fl) = ⟨(plainNan ty).code, fl⟩ := by
  revert hty
  cases ty <;> simp [plainTy, roundWith, roundTo, specialCode, plainNan] <;> decide

theorem roundWith_inf (neg : Bool) : roundWith ty rm false (.inf neg, 0) = infinity ty neg := by
  revert hty
  cases ty <;> cases neg <;> simp [plainTy, roundWith, roundTo, specialCode] <;> decide

theorem roundWith_zero (neg : Bool) (e : Int) : roundWith ty rm false (.fin neg 0 e, 0) = Spec.zero ty neg := by
  revert hty
  cases ty <;> cases neg <;> simp [plainTy, roundWith, roundTo, specialCode] <;> decide

theorem isRound_roundWith (neg : Bool) {m : Nat} (hm : 0 < m) (e : Int) :
    IsRound ty rm false neg ((m : Rat) * 2 ^ e) (roundWith ty rm false (.fin neg m e, 0)) := by
  have hf : isF ty = true := by
    revert hty
    cases ty <;> decide
  have hr : roundWith ty rm false (.fin neg m e, 0) = roundMag ty rm false neg m e false := by
    simp [roundWith, roundTo_of_pos hm]
  rw [hr]
  exact isRound_roundMag hf rm false neg hm e

/-- R164: the special results of a sum. -/
theorem sumCases_addRound (a b : FV) : SumCases ty rm a b (addRound ty rm a b) := by
  unfold SumCases addRound
  refine ⟨?nan, ?clash, ?left, ?right, ?zero⟩
  case nan =>
    intro h
    have hs : sumFV rm [a, b] = (.nan, 0) := by rcases h with rfl | rfl <;> simp [sumFV, fvIsNaN]
    rw [hs]
    exact roundWith_nan hty rm 0
  case clash =>
    rintro x rfl rfl
    have hs : sumFV rm [.inf x, .inf !x] = (.nan, 1) := by cases x <;> rfl
    rw [hs]
    exact roundWith_nan hty rm 1
  case left =>
    rintro x rfl hn hi
    rw [sumFV_inf_left hn hi]
    exact roundWith_inf hty rm x
  case right =>
    rintro x rfl hn hi
    rw [sumFV_inf_right hn hi]
    exact roundWith_inf hty rm x
  case zero =>
    intro x y hx hy hxy
    obtain ⟨e, hs⟩ := sumFV_pair_zero rm hx hy hxy
    rw [hs]
    exact roundWith_zero hty rm _ e

theorem isSum_addRound (a b : FV) : IsSum ty rm a b (addRound ty rm a b) := by
  refine ⟨sumCases_addRound hty rm a b, fun x y hx hy hxy => ?_⟩
  obtain ⟨m, e, hs, hm, hval⟩ := sumFV_pair_nonzero rm hx hy hxy
  rw [addRound, hs, ← hval]
  exact isRound_roundWith hty rm _ hm e

/-- R164: the special results of a product. -/
theorem productCases_mulRound (a b : FV) : ProductCases ty a b (mulRound ty rm a b) := by
  unfold ProductCases
  refine ⟨?clash, ?nan, ?inf, ?zero⟩
  case clash =>
    intro h
    rw [mulRound, mulFV_clash h]
    exact roundWith_nan hty rm 1
  case nan =>
    intro h
    rw [mulRound, mulFV_nan h]
    exact roundWith_nan hty rm 0
  case inf =>
    intro x h
    rw [mulRound, mulFV_inf h]
    exact roundWith_inf hty rm x
  case zero =>
    intro x y hx hy hxy
    obtain ⟨n, m, e, rfl, rfl⟩ := exists_fin hx
    obtain ⟨n', m', e', rfl, rfl⟩ := exists_fin hy
    rw [signed_mul] at hxy
    have hm : m * m' = 0 := signed_eq_zero_iff.mp hxy
    simp only [mulRound, mulFV, hm]
    exact roundWith_zero hty rm _ _

theorem isProduct_mulRound (a b : FV) : IsProduct ty rm a b (mulRound ty rm a b) := by
  refine ⟨productCases_mulRound hty rm a b, fun x y hx hy hxy => ?_⟩
  obtain ⟨n, m, e, rfl, rfl⟩ := exists_fin hx
  obtain ⟨n', m', e', rfl, rfl⟩ := exists_fin hy
  rw [signed_mul] at hxy ⊢
  have hm : 0 < m * m' := Nat.pos_of_ne_zero (mt signed_eq_zero_iff.mpr hxy)
  simp only [signed_neg_iff hm, Bool.decide_eq_true, abs_signed]
  exact isRound_roundWith hty rm _ hm _

end Plain

/-- Two finite values compare as their rational values do. -/
theorem cmpFV_fin {n n' : Bool} {m m' : Nat} {e e' : Int} :
    ∃ u : Rat, 0 < u ∧ (cmpFV (.fin n m e) (.fin n' m' e') : Rat) * u = signOf n * m * 2 ^ e - signOf n' * m' * 2 ^ e' := by
  refine ⟨2 ^ min e e', by positivity, ?_⟩
  rw [cmpFV, Int.cast_sub, sub_mul, scaled_mul (min_le_left e e'), scaled_mul (min_le_right e e')]

/-- The comparison of two values that are not NaN is their order (R165, R166). -/
theorem cmpFV_neg_iff {a b : FV} (ha : a ≠ .nan) (hb : b ≠ .nan) : cmpFV a b < 0 ↔ below a b := by
  match a, b with
  | .nan, _ => exact absurd rfl ha
  | .inf _, .nan => exact absurd rfl hb
  | .fin _ _ _, .nan => exact absurd rfl hb
  | .inf x, .inf y => cases x <;> cases y <;> simp [cmpFV, below, ratOf]
  | .inf x, .fin n m e => cases x <;> simp [cmpFV, below, ratOf]
  | .fin n m e, .inf y => cases y <;> simp [cmpFV, below, ratOf]
  | .fin n m e, .fin n' m' e' =>
    obtain ⟨u, hu, hc⟩ := @cmpFV_fin n n' m m' e e'
    have hlt : cmpFV (.fin n m e) (.fin n' m' e') < 0 ↔ signOf n * m * 2 ^ e < signOf n' * m' * 2 ^ e' := by
      rw [← sub_neg (a := signOf n * m * 2 ^ e), ← hc, ← not_le, ← not_le, mul_nonneg_iff_of_pos_right hu, Int.cast_nonneg_iff]
    simp [hlt, below, ratOf_fin]

theorem cmpFV_pos_iff {a b : FV} (ha : a ≠ .nan) (hb : b ≠ .nan) : 0 < cmpFV a b ↔ below b a := by
  rw [← cmpFV_neg_iff hb ha]
  match a, b with
  | .nan, _ => exact absurd rfl ha
  | .inf _, .nan => exact absurd rfl hb
  | .fin _ _ _, .nan => exact absurd rfl hb
  | .inf x, .inf y => cases x <;> cases y <;> simp [cmpFV]
  | .inf x, .fin n m e => cases x <;> simp [cmpFV]
  | .fin n m e, .inf y => cases y <;> simp [cmpFV]
  | .fin n m e, .fin n' m' e' =>
    simp only [cmpFV, min_comm e' e]
    omega

/-! ### SampleIndex (R110) -/

/-- The values of weights and of their sums: zero, positive, or positive infinity. -/
def isWeight (v : FV) : Bool := match v with
  | .nan => false
  | .inf neg => !neg
  | .fin neg _ _ => !neg

theorem isWeight_sampleWeight (x : Nat) : isWeight (f32 (sampleWeight x)) = true := by
  unfold sampleWeight
  dsimp only
  split
  · decide
  · next h =>
    simp only [Bool.or_eq_true, not_or, Bool.not_eq_true] at h
    obtain ⟨⟨hnan, -⟩, hneg⟩ := h
    unfold f32
    match fvOf .f32 x, hnan, hneg with
    | .inf n, _, h => simpa [isWeight, fvNeg] using h
    | .fin n m e, _, h => simpa [isWeight, fvNeg] using h

theorem f32_code_zero : f32 0 = .fin false 0 (-149) := by decide

theorem ratOf_f32_zero : ratOf (f32 0) = some 0 := by simp [f32_code_zero, ratOf_fin]

theorem f32_infinity (neg : Bool) : f32 (infinity .f32 neg).code = .inf neg := by cases neg <;> decide

theorem f32_zero (neg : Bool) : f32 (Spec.zero .f32 neg).code = .fin neg 0 (-149) := by cases neg <;> decide

theorem below_zero_iff {v : FV} (hv : v ≠ .nan) : below (f32 0) v ↔ (fvIsZero v || fvNeg v) = false := by
  rw [← cmpFV_pos_iff hv (by decide)]
  match v with
  | .nan => exact absurd rfl hv
  | .inf n => cases n <;> decide
  | .fin n m e =>
    obtain ⟨u, hu, hc⟩ := @cmpFV_fin n false m 0 e (-149)
    have hpos : 0 < cmpFV (.fin n m e) (f32 0) ↔ 0 < signOf n * m * 2 ^ e := by
      rw [f32_code_zero, ← Int.cast_pos (R := Rat), ← mul_pos_iff_of_pos_right hu, hc]
      simp
    rcases Nat.eq_zero_or_pos m with rfl | hm
    · simp [hpos, fvIsZero]
    · have hz : fvIsZero (.fin n m e) = false := by
        obtain ⟨k, rfl⟩ := Nat.exists_eq_succ_of_ne_zero hm.ne'
        rfl
      have hne : signOf n * m * 2 ^ e ≠ 0 := mt signed_eq_zero_iff.mp hm.ne'
      rw [hpos, hz, Bool.false_or, ← Bool.not_eq_true, fvNeg, ← signed_neg_iff (e := e) hm, not_lt]
      exact ⟨le_of_lt, fun h => lt_of_le_of_ne h hne.symm⟩

/-- A weight counts when it lies above zero (R110). -/
theorem sampleWeight_spec (x : Nat) :
    (below (f32 0) (f32 x) → sampleWeight x = x) ∧ (¬ below (f32 0) (f32 x) → sampleWeight x = 0) := by
  by_cases hn : f32 x = .nan
  · have h0 : sampleWeight x = 0 := by
      rw [sampleWeight, show fvOf .f32 x = .nan from hn]
      rfl
    exact ⟨fun h => absurd hn h.2.1, fun _ => h0⟩
  · have hnan : fvIsNaN (fvOf .f32 x) = false := by
      change fvIsNaN (f32 x) = false
      cases hv : f32 x <;> simp_all [fvIsNaN]
    rw [below_zero_iff hn]
    simp only [sampleWeight, hnan, Bool.false_or, Bool.not_eq_false]
    exact ⟨fun h => by rw [if_neg (by rw [← f32, h]; decide)], fun h => by rw [if_pos (by rwa [← f32])]⟩

/-- What Round gives has the sign of the exact value and is no NaN. -/
theorem isRound_value {neg : Bool} {a : Rat} {r : Rounded} (h : IsRound .f32 .rne false neg a r) :
    f32 r.code = .inf neg ∨ ∃ m e, f32 r.code = .fin neg m e := by
  unfold IsRound at h
  dsimp only at h
  split at h
  · obtain ⟨-, h⟩ := h
    simp at h
    exact .inl h
  · obtain ⟨-, ⟨q, hq, -⟩, hneg⟩ := h
    obtain ⟨n, m, e, hv, -⟩ := exists_fin hq
    rw [hv] at hneg
    obtain rfl : n = neg := hneg
    exact .inr ⟨m, e, hv⟩

theorem isWeight_iff {v : FV} : isWeight v = true ↔ v = .inf false ∨ ∃ m e, v = .fin false m e := by
  match v with
  | .nan => simp [isWeight]
  | .inf n => simp [isWeight]
  | .fin n m e => simp [isWeight]

/-- A rounded sum of weights and sums of weights is one again. -/
theorem isWeight_addRound {a b : FV} (ha : isWeight a = true) (hb : isWeight b = true) :
    isWeight (f32 (addRound .f32 .rne a b).code) = true := by
  obtain ⟨⟨-, -, hl, hr, hz⟩, hround⟩ := isSum_addRound (ty := .f32) rfl .rne a b
  rw [isWeight_iff] at ha hb
  obtain rfl | ⟨m, e, rfl⟩ := ha
  · rw [hl false rfl (by rintro rfl; simp at hb) (by rintro rfl; simp at hb)]
    decide
  obtain rfl | ⟨m', e', rfl⟩ := hb
  · rw [hr false rfl (by simp) (by simp)]
    decide
  by_cases hxy : signOf false * m * 2 ^ e + signOf false * m' * 2 ^ e' = 0
  · rw [hz _ _ rfl rfl hxy, f32_zero]
    rfl
  · have hpos : ¬ signOf false * m * 2 ^ e + signOf false * m' * 2 ^ e' < 0 := by
      simp only [signOf, Bool.false_eq_true, if_false, one_mul, not_lt]
      positivity
    have h := isRound_value (hround _ _ (ratOf_fin ..) (ratOf_fin ..) hxy)
    rw [decide_eq_false hpos] at h
    exact isWeight_iff.mpr h

/-- A product with a finite value that is not zero is no NaN. -/
theorem not_nan_of_isProduct {a b : FV} {r : Rounded} (h : IsProduct .f32 .rne a b r) (ha : a ≠ .nan) {y : Rat} (hb : ratOf b = some y)
    (hy : y ≠ 0) : f32 r.code ≠ .nan := by
  obtain ⟨⟨-, -, hi, hz⟩, hround⟩ := h
  match a, ha with
  | .inf n, _ =>
    obtain ⟨n', m, e, rfl, -⟩ := exists_fin hb
    rw [hi (n != n') ⟨⟨n, .inl rfl⟩, by simp, by simp, ?_, rfl⟩, f32_infinity]
    · exact FV.noConfusion
    · rintro (⟨h0, -⟩ | ⟨h0, -⟩)
      · simp [ratOf] at h0
      · exact hy (Option.some.inj (hb.symm.trans h0))
  | .fin n m e, _ =>
    by_cases hxy : signOf n * m * 2 ^ e * y = 0
    · rw [hz _ _ rfl hb hxy, f32_zero]
      exact FV.noConfusion
    · rcases isRound_value (hround _ _ rfl hb hxy) with h | ⟨m', e', h⟩ <;> simp [h]

theorem length_samplePrefix (o : Option Nat) (l : List Nat) : (samplePrefix o l).length = l.length := by
  induction l generalizing o with
  | nil => rfl
  | cons w r ih => exact congrArg Nat.succ (ih _)

/-- Each sum of SampleIndex adds the next weight to the one before (R110). -/
theorem samplePrefix_succ {o : Option Nat} {l : List Nat} {i : Nat} (h : i + 1 < l.length) (d : Rounded) :
    (samplePrefix o l).getD (i + 1) d = addRound .f32 .rne (f32 ((samplePrefix o l).getD i d).code) (f32 (l.getD (i + 1) 0)) := by
  induction l generalizing o i with
  | nil => cases h
  | cons w r ih =>
    cases i with
    | zero =>
      cases r with
      | nil => simp at h
      | cons x r => rfl
    | succ i => exact ih (by simpa using h)

/-- The sums of the weights of a SAMPLE up to a lane. -/
def sampleSum (ws : List Nat) (i : Nat) : Rounded := (samplePrefix none (ws.map sampleWeight)).getD i ⟨0, 0⟩

/-- The weight of a lane as it enters the sums. -/
def weightAt (ws : List Nat) (i : Nat) : Nat := (ws.map sampleWeight).getD i 0

theorem weightAt_eq {ws : List Nat} {i : Nat} (h : i < ws.length) : weightAt ws i = sampleWeight (ws.getD i 0) := by
  simp [weightAt, List.getD_eq_getElem?_getD, h]

theorem sampleSum_zero {ws : List Nat} (h : 0 < ws.length) : sampleSum ws 0 = ⟨weightAt ws 0, 0⟩ := by
  obtain ⟨w, r, rfl⟩ := List.exists_cons_of_length_pos h
  rfl

theorem sampleSum_succ {ws : List Nat} {i : Nat} (h : i + 1 < ws.length) :
    sampleSum ws (i + 1) = addRound .f32 .rne (f32 (sampleSum ws i).code) (f32 (weightAt ws (i + 1))) :=
  samplePrefix_succ (by simpa using h) _

theorem isWeight_weightAt {ws : List Nat} {i : Nat} (h : i < ws.length) : isWeight (f32 (weightAt ws i)) = true := by
  rw [weightAt_eq h]
  exact isWeight_sampleWeight _

theorem isWeight_sampleSum {ws : List Nat} {i : Nat} (h : i < ws.length) : isWeight (f32 (sampleSum ws i).code) = true := by
  induction i with
  | zero =>
    rw [sampleSum_zero h]
    exact isWeight_weightAt h
  | succ i ih =>
    rw [sampleSum_succ h]
    exact isWeight_addRound (ih (by omega)) (isWeight_weightAt h)

/-- Without a weight above zero every sum is zero. -/
theorem sampleSum_eq_zero {ws : List Nat} (hz : ∀ i < ws.length, weightAt ws i = 0) {i : Nat} (h : i < ws.length) :
    (sampleSum ws i).code = 0 := by
  induction i with
  | zero => rw [sampleSum_zero h, hz 0 h]
  | succ i ih =>
    rw [sampleSum_succ h, ih (by omega), hz _ h]
    decide

/-- The flags of the sums (R102, R110). -/
def sumFlags (ws : List Nat) : Reg :=
  (if ws.any fun w => fvIsNaN (fvOf .f32 w) then flagIV else 0) |||
    (samplePrefix none (ws.map sampleWeight)).foldl (fun m p => m ||| p.flags) 0

/-- The operand that a NaN or negative uniform value stands for (R110). -/
def sampleUniform (u : Nat) : FV :=
  if fvIsNaN (f32 u) || cmpFV (f32 u) (.fin false 0 0) < 0 then .fin false 0 0 else f32 u

def sampleTau (ws : List Nat) (u : Nat) : Rounded := mulRound .f32 .rne (sampleUniform u) (f32 (sampleSum ws (ws.length - 1)).code)

/-- The total of the weights is the last of the sums. -/
theorem sampleTotal_eq {ws : List Nat} (h : 0 < ws.length) :
    ((samplePrefix none (ws.map sampleWeight)).map (·.code)).getLastD 0 = (sampleSum ws (ws.length - 1)).code := by
  have hlen : ws.length - 1 < (samplePrefix none (ws.map sampleWeight)).length := by
    rw [length_samplePrefix, List.length_map]
    omega
  rw [List.getLastD_eq_getLast?, List.getLast?_eq_getElem?, List.length_map, length_samplePrefix, List.length_map, List.getElem?_map,
    sampleSum, List.getD_eq_getElem _ _ hlen, List.getElem?_eq_getElem hlen]
  rfl

theorem sampleIndex_absent {ws : List Nat} {u : Nat} (h : 0 < ws.length)
    (ht : (fvIsZero (f32 (sampleSum ws (ws.length - 1)).code) || fvIsInf (f32 (sampleSum ws (ws.length - 1)).code)) = true) :
    sampleIndex ws u = (none, sumFlags ws) := by
  rw [sampleIndex, sampleTotal_eq h]
  exact if_pos ht

/-- The lane that SampleIndex takes: the first whose sum lies above tau, or else the last whose weight counts (R110). -/
def sampleLane (ws : List Nat) (u : Nat) : Nat :=
  match (samplePrefix none (ws.map sampleWeight)).findIdx? fun p => 0 < cmpFV (f32 p.code) (f32 (sampleTau ws u).code) with
  | some i => i
  | none => (ws.map sampleWeight).length - 1 - ((ws.map sampleWeight).reverse.findIdx fun v => v != 0)

theorem sampleIndex_lane {ws : List Nat} {u : Nat} (h : 0 < ws.length)
    (ht : (fvIsZero (f32 (sampleSum ws (ws.length - 1)).code) || fvIsInf (f32 (sampleSum ws (ws.length - 1)).code)) = false) :
    sampleIndex ws u = (some (sampleLane ws u), sumFlags ws ||| (sampleTau ws u).flags) := by
  rw [sampleIndex, sampleTotal_eq h]
  exact if_neg (ne_true_of_eq_false ht)

theorem foldl_or {α : Type} (g : α → Reg) (l : List α) (x : Reg) :
    l.foldl (fun m p => m ||| g p) x = x ||| l.foldl (fun m p => m ||| g p) 0 := by
  induction l generalizing x with
  | nil => simp
  | cons p r ih => 
    rw [List.foldl_cons, ih, List.foldl_cons, ih (0 ||| g p)]
    simp [BitVec.or_assoc]

theorem samplePrefix_eq_map (ws : List Nat) : samplePrefix none (ws.map sampleWeight) = (List.range ws.length).map (sampleSum ws) := by
  refine List.ext_getElem (by simp [length_samplePrefix]) fun i h1 h2 => ?_
  rw [List.getElem_map, List.getElem_range, sampleSum, List.getD_eq_getElem _ _ h1]

open Classical in
theorem sumFlags_eq (ws : List Nat) : sumFlags ws =
    (List.range ws.length).foldl (fun m i => m ||| (sampleSum ws i).flags) (if ∃ x ∈ ws, f32 x = .nan then 1 else 0) := by
  have hany : (ws.any fun w => fvIsNaN (fvOf .f32 w)) = true ↔ ∃ x ∈ ws, f32 x = .nan := by
    rw [List.any_eq_true]
    refine exists_congr fun x => and_congr_right fun _ => ?_
    rw [f32]
    cases fvOf .f32 x <;> simp [fvIsNaN]
  rw [foldl_or fun i => (sampleSum ws i).flags, sumFlags, samplePrefix_eq_map, List.foldl_map]
  simp only [hany]
  rfl

theorem fvIsZero_iff {v : FV} : fvIsZero v = true ↔ same v (f32 0) := by
  rw [f32_code_zero]
  match v with
  | .nan => simp [fvIsZero, same, ratOf]
  | .inf n => simp [fvIsZero, same, ratOf]
  | .fin n m e =>
    have hm : fvIsZero (.fin n m e) = true ↔ m = 0 := by cases m <;> simp [fvIsZero]
    have hs : same (.fin n m e) (.fin false 0 (-149)) ↔ signOf n * m * 2 ^ e = 0 := by simp [same, ratOf_fin]
    rw [hm, hs, signed_eq_zero_iff]

/-- A total of weights is zero or infinite as the statement's order says (R110). -/
theorem total_void_iff {v : FV} (h : isWeight v = true) : (fvIsZero v || fvIsInf v) = true ↔ same v (f32 0) ∨ v = .inf false := by
  rw [Bool.or_eq_true, fvIsZero_iff]
  refine or_congr_right ?_
  rcases isWeight_iff.mp h with rfl | ⟨m, e, rfl⟩ <;> simp [fvIsInf]

theorem below_zero_right {v : FV} (e : Int) : below v (.fin false 0 e) ↔ below v (f32 0) := by
  rw [f32_code_zero]
  simp [below, ratOf_fin]

/-- The uniform operand counts as it is unless it is NaN or below zero (R110). -/
theorem sampleUniform_spec (u : Nat) : (f32 u = .nan ∨ below (f32 u) (f32 0) → sampleUniform u = .fin false 0 0)
    ∧ (¬ (f32 u = .nan ∨ below (f32 u) (f32 0)) → sampleUniform u = f32 u) := by
  have hcond : (fvIsNaN (f32 u) || decide (cmpFV (f32 u) (.fin false 0 0) < 0)) = true ↔ f32 u = .nan ∨ below (f32 u) (f32 0) := by
    by_cases hn : f32 u = .nan
    · simp [hn, fvIsNaN]
    · have hnan : fvIsNaN (f32 u) = false := by
        cases hv : f32 u <;> simp_all [fvIsNaN]
      rw [hnan, Bool.false_or, decide_eq_true_eq, cmpFV_neg_iff hn (by simp), below_zero_right, or_iff_right hn]
  rw [← hcond]
  exact ⟨fun h => if_pos h, fun h => if_neg h⟩

/-- The first entry of the reversed list that is not zero is the list's last one. -/
theorem last_nonzero {l : List Nat} (h : ∃ v ∈ l, v ≠ 0) : ∃ i, l.length - 1 - (l.reverse.findIdx fun v => v != 0) = i
    ∧ i < l.length ∧ l.getD i 0 ≠ 0 ∧ ∀ j, i < j → j < l.length → l.getD j 0 = 0 := by
  have hlt : (l.reverse.findIdx fun v => v != 0) < l.reverse.length :=
    List.findIdx_lt_length_of_exists (by simpa using h)
  have hlen : l.reverse.length = l.length := List.length_reverse
  refine ⟨_, rfl, by omega, ?_, fun j hj hjl => ?_⟩
  · have hne := List.findIdx_getElem (w := hlt)
    rw [List.getElem_reverse] at hne
    rw [List.getD_eq_getElem _ _ (by omega)]
    simpa using hne
  · have hz := List.not_of_lt_findIdx (p := fun v : Nat => v != 0) (xs := l.reverse) (i := l.length - 1 - j) (by omega)
    rw [List.getElem_reverse] at hz
    rw [List.getD_eq_getElem _ _ hjl]
    simpa [show l.length - 1 - (l.length - 1 - j) = j by omega] using hz

section Lane
variable {ws : List Nat} {u : Nat} (h : 0 < ws.length) {x : Rat}
  (hx : ratOf (f32 (sampleSum ws (ws.length - 1)).code) = some x) (hx0 : x ≠ 0)
include hx

/-- Tau is the rounded product of R110's operands. -/
theorem isProduct_sampleTau :
    (f32 u = .nan ∨ below (f32 u) (f32 0) → IsProduct .f32 .rne (f32 0) (f32 (sampleSum ws (ws.length - 1)).code) (sampleTau ws u))
    ∧ (¬ (f32 u = .nan ∨ below (f32 u) (f32 0)) →
      IsProduct .f32 .rne (f32 u) (f32 (sampleSum ws (ws.length - 1)).code) (sampleTau ws u)) := by
  obtain ⟨hlow, hkeep⟩ := sampleUniform_spec u
  refine ⟨fun hu => ?_, fun hu => ?_⟩
  · have hsame : sampleTau ws u = mulRound .f32 .rne (f32 0) (f32 (sampleSum ws (ws.length - 1)).code) := by
      obtain ⟨n, m, e, hv, -⟩ := exists_fin hx
      rw [sampleTau, hlow hu, f32_code_zero, hv, mulRound, mulRound]
      simp only [mulFV, Nat.zero_mul, Bool.false_eq_true, if_false]
      exact (roundWith_zero rfl _ _ _).trans (roundWith_zero rfl _ _ _).symm
    rw [hsame]
    exact isProduct_mulRound rfl _ _ _
  · rw [sampleTau, hkeep hu]
    exact isProduct_mulRound rfl _ _ _

include hx0

theorem not_nan_sampleTau : f32 (sampleTau ws u).code ≠ .nan := by
  obtain ⟨hlow, hkeep⟩ := isProduct_sampleTau (u := u) hx
  by_cases hu : f32 u = .nan ∨ below (f32 u) (f32 0)
  · exact not_nan_of_isProduct (hlow hu) (by decide) hx hx0
  · exact not_nan_of_isProduct (hkeep hu) (not_or.mp hu).1 hx hx0

include h

/-- The lane taken is the first whose sum lies above tau, or else the last whose weight counts (R110). -/
theorem sampleLane_spec : sampleLane ws u < ws.length
    ∧ ((below (f32 (sampleTau ws u).code) (f32 (sampleSum ws (sampleLane ws u)).code)
        ∧ ∀ j < sampleLane ws u, ¬ below (f32 (sampleTau ws u).code) (f32 (sampleSum ws j).code))
      ∨ ((∀ j < ws.length, ¬ below (f32 (sampleTau ws u).code) (f32 (sampleSum ws j).code)) ∧ weightAt ws (sampleLane ws u) ≠ 0
        ∧ ∀ j, sampleLane ws u < j → j < ws.length → weightAt ws j = 0)) := by
  have habove {i : Nat} (hi : i < ws.length) : 0 < cmpFV (f32 (sampleSum ws i).code) (f32 (sampleTau ws u).code) ↔
      below (f32 (sampleTau ws u).code) (f32 (sampleSum ws i).code) := by
    refine cmpFV_pos_iff (fun hn => ?_) (not_nan_sampleTau hx hx0)
    have hw := isWeight_sampleSum hi
    rw [hn] at hw
    cases hw
  unfold sampleLane
  rw [samplePrefix_eq_map]
  split
  next i hi =>
    obtain ⟨hlt, hp, hbefore⟩ := List.findIdx?_eq_some_iff_getElem.mp hi
    simp only [List.length_map, List.length_range, List.getElem_map, List.getElem_range, decide_eq_true_eq] at hlt hp hbefore
    exact ⟨hlt, .inl ⟨(habove hlt).mp hp, fun j hj => mt (habove (hj.trans hlt)).mpr (hbefore j hj)⟩⟩
  next hnone =>
    have hex : ∃ v ∈ ws.map sampleWeight, v ≠ 0 := by
      by_contra hall
      push Not at hall
      have hzero := sampleSum_eq_zero (ws := ws) (fun i hi => ?_) (Nat.sub_lt h one_pos)
      · rw [hzero] at hx
        exact hx0 (Option.some.inj (hx.symm.trans ratOf_f32_zero))
      · rw [weightAt_eq hi]
        exact hall _ (List.mem_map_of_mem (by rw [List.getD_eq_getElem _ _ hi]; exact List.getElem_mem hi))
    obtain ⟨i, hi, hlt, hne, hlater⟩ := last_nonzero hex
    rw [hi]
    rw [List.length_map] at hlt hlater
    refine ⟨hlt, .inr ⟨fun j hj => mt (habove hj).mpr ?_, hne, hlater⟩⟩
    have := List.findIdx?_eq_none_iff.mp hnone (sampleSum ws j) (List.mem_map_of_mem (List.mem_range.mpr hj))
    simpa using this

end Lane

/-- SampleIndex of weights in some lane is R110's. -/
theorem isSample_sampleIndex {ws : List Nat} (h : 0 < ws.length) (u : Nat) : IsSample ws u (sampleIndex ws u).1 (sampleIndex ws u).2 := by
  have hweight := isWeight_sampleSum (Nat.sub_lt h one_pos)
  refine ⟨weightAt ws, sampleSum ws, fun i hi => ?_, sampleSum_zero h, fun i hi => ?_, ?_⟩
  · rw [weightAt_eq hi]
    split
    next hb => exact (sampleWeight_spec _).1 hb
    next hb => exact (sampleWeight_spec _).2 hb
  · rw [sampleSum_succ hi]
    exact isSum_addRound rfl _ _ _
  dsimp only
  split
  next hv =>
    rw [sampleIndex_absent h ((total_void_iff hweight).mpr hv), sumFlags_eq]
    exact ⟨rfl, rfl⟩
  next hv =>
    have hvoid := eq_false_of_ne_true (mt (total_void_iff hweight).mp hv)
    obtain ⟨x, hx⟩ : ∃ x, ratOf (f32 (sampleSum ws (ws.length - 1)).code) = some x := by
      rcases isWeight_iff.mp hweight with hi | ⟨m, e, hf⟩
      · exact absurd (.inr hi) hv
      · exact ⟨_, by rw [hf, ratOf_fin]⟩
    have hx0 : x ≠ 0 := by
      rintro rfl
      exact hv (.inl (.inr ⟨0, hx, ratOf_f32_zero⟩))
    rw [sampleIndex_lane h hvoid, ← sumFlags_eq]
    refine ⟨sampleTau ws u, ?_, rfl, sampleLane ws u, rfl, sampleLane_spec h hx hx0⟩
    split
    next hu => exact (isProduct_sampleTau hx).1 hu
    next hu => exact (isProduct_sampleTau hx).2 hu

/-! ### The active set, SHFL, VOTE and SAMPLE (R38, R110, R201 to R203, R205) -/

theorem pairwise_sortBy {α : Type} {f : α → Nat} (l : List α) :
    (sortBy (fun a b => decide (f a ≤ f b)) l).Pairwise fun a b => f a ≤ f b := by
  have hinsert (x : α) (r : List α) (hr : r.Pairwise fun a b => f a ≤ f b) :
      (insertBy (fun a b => decide (f a ≤ f b)) x r).Pairwise fun a b => f a ≤ f b := by
    induction r with
    | nil => exact List.pairwise_singleton _ x
    | cons y r ih =>
      obtain ⟨hy, hr'⟩ := List.pairwise_cons.mp hr
      rw [insertBy]
      split
      next hle =>
        have hle : f x ≤ f y := by simpa using hle
        exact List.pairwise_cons.mpr ⟨List.forall_mem_cons.mpr ⟨hle, fun z hz => hle.trans (hy z hz)⟩, hr⟩
      next hle =>
        refine List.pairwise_cons.mpr ⟨fun z hz => ?_, ih hr'⟩
        rcases mem_insertBy.mp hz with rfl | hz
        · exact (not_le.mp (by simpa using hle)).le
        · exact hy z hz
  induction l with
  | nil => exact .nil
  | cons x r ih => exact hinsert x _ ih

theorem mem_actives {e : Env} {i : Instr} {t u : Thread} : u ∈ actives e i t ↔ u ∈ e.k.threads ∧ u.id.sup = t.id.sup
    ∧ u.id.tid / u.id.width = t.id.tid / t.id.width ∧ takesWord e i u = true ∧ u.pos.gmask.getLsbD (u.id.tid % u.id.width) = true := by
  rw [actives, mem_sortBy, List.mem_filter]
  simp only [sameGroup, isActive, lanePos, gixOf, Bool.and_eq_true, beq_iff_eq]
  tauto

/-- The source thread is the active one at a position within the group (R202). -/
theorem activeAt_eq (l : List Thread) (width : Nat) (q : Int) :
    activeAt l width q = l.find? fun u => decide ((lanePos u : Int) = q) && decide (q < width) := by
  unfold activeAt
  by_cases hq : 0 ≤ q ∧ q < width
  · rw [if_pos (by simpa using hq)]
    refine congrArg (l.find? ·) (funext fun u => ?_)
    rw [decide_eq_true hq.2, Bool.and_true, Bool.beq_eq_decide_eq]
  · rw [if_neg (by simpa using hq), eq_comm, List.find?_eq_none]
    intro u _
    simp only [Bool.and_eq_true, decide_eq_true_eq]
    omega

theorem shflSource_eq (b pos : Nat) : shflSource (field b 7 0) pos =
    if b / 64 % 4 = 0 then ((b % 64 : Nat) : Int) else if b / 64 % 4 = 1 then (pos : Int) - (b % 64 : Nat)
    else if b / 64 % 4 = 2 then (pos : Int) + (b % 64 : Nat) else ((pos ^^^ (b % 64) : Nat) : Int) := by
  have hc : field (field b 7 0) 5 0 = b % 64 := by
    simp only [field]
    omega
  have hm : field (field b 7 0) 7 6 = b / 64 % 4 := by
    simp only [field]
    omega
  unfold shflSource
  rw [hc, hm]
  rcases (by omega : b / 64 % 4 = 0 ∨ b / 64 % 4 = 1 ∨ b / 64 % 4 = 2 ∨ b / 64 % 4 = 3) with h | h | h | h <;> rw [h] <;> rfl

theorem writeT_readA (f : Full) (t u : Thread) : writeT t f.ty f.d.toNat (readA u f) = put f (a32 f u) (a64 f u) t := by
  unfold writeT put readA readT a32 a64
  split <;> simp

/-- The ballot holds a bit for each thread whose predicate is true (R203). -/
theorem ballotOf_testBit (p : Nat) (l : List Thread) (n : Nat) :
    (ballotOf p l).testBit n = true ↔ ∃ u ∈ l, lanePos u = n ∧ readP u p = true := by
  have hfold (r : List Thread) (x : Nat) : (r.foldl (fun n u => n ||| 2 ^ lanePos u) x).testBit n = true ↔
      x.testBit n = true ∨ ∃ u ∈ r, lanePos u = n := by
    induction r generalizing x with
    | nil => simp
    | cons v r ih => simp [ih, Nat.testBit_two_pow, or_assoc]
  rw [ballotOf, hfold]
  simp only [Nat.zero_testBit, Bool.false_eq_true, false_or, List.mem_filter]
  exact exists_congr fun u => by tauto

/-- The modes of VOTE: all, any, uniform (R203). -/
theorem voteMode_iff (p : Nat) (l : List Thread) (mode : Nat) : voteMode p l mode = true ↔ match mode with
    | 0 => ∀ u ∈ l, readP u p = true
    | 1 => ∃ u ∈ l, readP u p = true
    | _ => ∃ b, ∀ u ∈ l, readP u p = b := by
  match mode with
  | 0 => simp [voteMode]
  | 1 => simp [voteMode]
  | _ + 2 => simp [voteMode, or_comm]

theorem laneWeights_eq (f : Full) (l : List Thread) (width : Nat) : laneWeights f l width = (List.range width).map fun p =>
    ((l.find? fun u => lanePos u == p).map fun u => (a32 f u).toNat).getD 0 := by
  refine List.map_congr_left fun p _ => ?_
  cases l.find? fun u => lanePos u == p <;> rfl

/-- Settles O30: SHFL and VOTE by what their helpers read of the active set, SAMPLE by the correctness of Round (R102) and the
sums of SampleIndex. -/
theorem shufflesVotesAndSamples : Obligations.ShufflesVotesAndSamples := by
  unfold Obligations.ShufflesVotesAndSamples
  refine ⟨fun f => ⟨?shfl, fun hmode => ?vote, ?sample⟩, fun e i t => ⟨fun u => mem_actives, ?order⟩⟩
  case shfl =>
    refine runs_of_wordMap (fun _ => rfl) fun e t => ?_
    rw [shflWord, writeT_readA, activeAt_eq, shflSource_eq]
    rfl
  case vote =>
    refine ⟨fun e t => BitVec.ofNat 64 (ballotOf f.a.toNat (actives e (.vote f) t)),
      fun e t => voteMode f.a.toNat (actives e (.vote f) t) (f.opx.toNat / 8), runs_of_wordMap (fun _ => rfl) fun e t => ?_,
      fun e t => ⟨fun n hn => ?_, voteMode_iff _ _ _⟩⟩
    · have hop : field (opxN f) 5 3 = f.opx.toNat / 8 := by
        simp only [field, opxN]
        omega
      rw [voteWord, hop]
    · rw [BitVec.getLsbD_ofNat, decide_eq_true hn, Bool.true_and]
      exact ballotOf_testBit _ _ _
  case sample =>
    refine ⟨fun e t => (sampleIndex (laneWeights f (actives e (.sample f) t) t.id.width) (b32 f e t).toNat).1,
      fun e t => (sampleIndex (laneWeights f (actives e (.sample f) t) t.id.width) (b32 f e t).toNat).2,
      runs_of_wordMap (fun _ => rfl) fun e t => ?_, fun e t hw => ?_⟩
    · rw [sampleWord]
      dsimp only [b32]
      cases (sampleIndex (laneWeights f (actives e (.sample f) t) t.id.width) (readB32 e t f).toNat).1 <;>
        exact congrArg (fun u => TRes.ok (setFsr u _)) (status_eq _ _ _ _ (by simp))
    · dsimp only
      rw [← laneWeights_eq]
      exact isSample_sampleIndex (by simpa [laneWeights] using hw) _
  case order => exact pairwise_sortBy _

end Sys2Proof.Sheaves
end

section
/-! Proofs for the family of the memory that programs see: the checks of a local access, what accesses do at their commit points, and
how the engines carry their operations through. -/

namespace Sys2Proof.MemorySeen

open Sys2Proof Sys2Proof.Machine Sys2Proof.Spec Sys2Proof.Laws Sys2Proof.Scope Sys2Proof.Sheaves


/-! ### Checks of a local access (R51, R345, R403) -/

/-- Watchpoint `j` of the core watches a byte of the access. -/
def watched (e : Env) (a : Reg) (n : Nat) (load store : Bool) (j : Nat) : Prop :=
  wpHits (e.k.dbgNow.wp.getD j 0) a n load store = true

theorem wpHits_iff (w : Quad) (a : Reg) (n : Nat) (load store : Bool) : wpHits w a n load store = true ↔
    w.getLsbD 49 = true ∧ w.toNat / 2 ^ 24 % 2 ^ 23 ≠ 0 ∧ w.getLsbD 23 = a.getLsbD 31
      ∧ ((load = true ∧ w.getLsbD 47 = true) ∨ (store = true ∧ w.getLsbD 48 = true))
      ∧ w.toNat % 2 ^ 23 < a.toNat % 2 ^ 31 + n ∧ a.toNat % 2 ^ 31 < w.toNat % 2 ^ 23 + w.toNat / 2 ^ 24 % 2 ^ 23 := by
  simp only [wpHits, field, Bool.and_eq_true, Bool.or_eq_true, bne_iff_ne, beq_iff_eq, decide_eq_true_eq, pow_zero, Nat.div_one,
    and_assoc]

/-- The lowest watchpoint that hits comes before everything else. -/
theorem checkAcc_watched {e : Env} {t : Thread} {a : Reg} {n al j : Nat} {load store : Bool}
    (hskip : ¬ (t.id.sup = true ∨ t.dbg.skw = some (t.pos.hdr, e.is.widx))) (hj : j < 4) (hit : watched e a n load store j)
    (hlow : ∀ i < j, ¬ watched e a n load store i) : checkAcc e t a n al load store = .trap .watchpoint j := by
  have hw : watchAt e t a n load store = some j := by
    rw [watchAt, if_neg (by simpa using hskip), List.find?_range_eq_some]
    exact ⟨hit, List.mem_range.mpr hj, fun i hi => by simpa [watched] using hlow i hi⟩
  rw [checkAcc, hw]

theorem watchAt_none {e : Env} {t : Thread} {a : Reg} {n : Nat} {load store : Bool}
    (h : (t.id.sup = true ∨ t.dbg.skw = some (t.pos.hdr, e.is.widx)) ∨ ∀ j < 4, ¬ watched e a n load store j) :
    watchAt e t a n load store = none := by
  rw [watchAt]
  split
  · rfl
  next hskip =>
    rw [List.find?_range_eq_none]
    exact fun j hj => by simpa [watched] using h.resolve_left (by simpa using hskip) j hj

theorem partnerOpen_iff (s : State) (c : Nat) : partnerOpen s c = true ↔
    ∃ x y, (s.core c).team = some x ∧ (s.core (partnerOf c)).team = some y ∧ x.launch = y.launch := by
  unfold partnerOpen
  cases (s.core c).team <;> cases (s.core (partnerOf c)).team <;> simp

theorem outOfBounds_iff (s : State) (c : Nat) (a : Reg) (n : Nat) : outOfBounds s c a n = true ↔
    a.toNat / 2 ^ 23 % 2 ^ 8 ≠ 0 ∨ 0x480000 < a.toNat % 2 ^ 23 + n ∨ (a.getLsbD 31 = true ∧ ¬ partnerOpen s c = true) := by
  simp only [Machine.outOfBounds, field, offsetOf, Config.sliceBytes, Bool.or_eq_true, bne_iff_ne, decide_eq_true_eq, Bool.and_eq_true,
    Bool.not_eq_true', Bool.not_eq_true, pow_zero, Nat.div_one, or_assoc]

theorem physOf_eq (c : Nat) (a : Reg) :
    physOf c a = 0x040000000000 + 0x800000 * (if a.getLsbD 31 then partnerOf c else c) + a.toNat % 2 ^ 23 := by
  simp only [physOf, sliceAt, offsetOf, field, Config.sramBase, Config.sliceStep, pow_zero, Nat.div_one]
  split <;> omega

/-- Settles O23: no watchpoint left to meet, the bounds and the alignment of the slice decide. -/
theorem localAddressesAreChecked : Obligations.LocalAddressesAreChecked := by
  unfold Obligations.LocalAddressesAreChecked
  intro e t a n al load store
  simp only [← wpHits_iff]
  refine ⟨fun hskip j hj hit hlow => checkAcc_watched hskip hj hit hlow, fun hfree => ?_⟩
  have hw := watchAt_none (e := e) (t := t) (a := a) (n := n) hfree
  have hout := outOfBounds_iff e.s e.c a n
  rw [partnerOpen_iff] at hout
  have hal : offsetOf a = a.toNat % 2 ^ 23 := by simp [offsetOf, field]
  refine ⟨fun h => ?_, fun h hmis => ?_, fun h hok => ?_⟩ <;> rw [checkAcc, hw, checkLocal]
  · rw [if_pos (hout.mpr h)]
  · rw [if_neg (mt hout.mp h), if_pos (hal ▸ hmis)]
  · rw [if_neg (mt hout.mp h), if_neg (by rw [hal]; exact not_not.mpr hok), physOf_eq]
    rfl
/-! ### O45: a remote atomic whose target has failed -/

theorem finishIfOver_mem (s : State) (id : Nat) : (s.finishIfOver id).mem = s.mem := by
  unfold State.finishIfOver
  split
  · split <;> rfl
  · rfl

/-- A record that finds the service log's ring full is dropped: memory stays (R418). -/
theorem logRec_mem_of_full {s : State} (h : 4096 < (s.svc.slptr + 1 + 2 ^ 32 - s.svc.slrd) % 2 ^ 32) (k u l d : Nat) :
    (s.logRec k u l d).mem = s.mem := by
  simp only [State.logRec, if_pos h]

theorem logBad_mem_of_full {s : State} (h : 4096 < (s.svc.slptr + 1 + 2 ^ 32 - s.svc.slrd) % 2 ^ 32) (o : Op)
    (rs : List (Nat × Nat)) : (s.logBad o rs).mem = s.mem := by
  unfold State.logBad
  split
  · exact logRec_mem_of_full h ..
  · rfl

/-- The part of an accepted RATOM is performed once it is ready (R83, R232). -/
theorem exec_ratomPart {s : State} {o : Op} {op : Nat} {ty : Ty} {addr : Nat} {b cmp : Quad} {d : Nat} {a : Part}
    (ho : opAt s s.ix = some o) (hk : o.kind = .ratom op ty addr b cmp d) (hp : o.parts = [a]) (hacc : o.accepted = true)
    (hready : partReady s o false [] a = true) :
    exec .enginePartPerformed s = .next (s.performRatom o op ty addr b cmp d) := by
  have h : exec .enginePartPerformed s = execEnginePartPerformed s := rfl
  simp [h, execEnginePartPerformed, ho, State.performPart, hk, hp, hacc, hready]

/-- R422: a RATOM whose target has failed changes no memory, but for the record in the log's ring. -/
theorem performRatom_mem_of_bad {s : State} {o : Op} {ty : Ty} {addr : Nat} (hbad : vaBad s o addr (ratomBytes ty) = true)
    (hfull : 4096 < (s.svc.slptr + 1 + 2 ^ 32 - s.svc.slrd) % 2 ^ 32) (op : Nat) (b cmp : Quad) (d : Nat) :
    (s.performRatom o op ty addr b cmp d).mem = s.mem := by
  rw [State.performRatom, if_pos hbad, finishIfOver_mem]
  exact logBad_mem_of_full hfull ..

def atomPart : Part := ⟨64, 4, 0, 4, 1, false, true, .none, 0, 0, false⟩

/-- An accepted atomic ADD of 1 to the word at address 64, which its page places at physical address 4160. -/
def lateAtom : Op :=
  { id := 0, core := 0, cls := 4, slot := 0, seq := 0, launch := 1, sup := false, threads := [0], kind := .ratom 0 .n32 64 1 0 4,
    rel := false, cyc := 0, iss := 0, relOps := [], relPosts := [], held := false, accepted := true, order := 0,
    parts := [atomPart], pages := [⟨1, 0, 2 ^ 30, 4096, 0, false, true, true, true⟩], faults := [], rows := [], cause := .none,
    fva := 0, exc := 0, cancel := false, promise := none, pgf := 0, issued := 0 }

/-- The machine with that operation, whose target's channel has failed since it was accepted, and a service log whose ring is
full. -/
def failedTarget : State :=
  { State.reset with
    ops := [lateAtom]
    svc := { Service.reset with badChans := [(1, Config.hbmChannel 4160 % 32)], slptr := 4096 } }

theorem failedTarget_bad : vaBad failedTarget lateAtom 64 (ratomBytes .n32) = true := by
  have hp : physAt lateAtom (64 + 0) = 4160 := by decide
  have hr : (regionOf 4160).1 = .hbm := by decide
  have h0 : onBadChan failedTarget 4160 1 = true := by simp [onBadChan, failedTarget, hr]
  have hne : failedTarget.svc.badChans.isEmpty = false := rfl
  unfold vaBad
  rw [hne, Bool.not_false, Bool.true_and, List.any_eq_true]
  exact ⟨0, by decide, by rw [hp]; exact h0⟩

/-- Refutes O45: the clause about RATOM leaves out the target that lies on a channel which has failed since the operation was
accepted. The model does not perform such an atomic (R232, R422), here an ADD of 1 to a word that stays 0. -/
theorem not_enginesCarryOperationsThrough : ¬ Obligations.EnginesCarryOperationsThrough := by
  intro h
  obtain ⟨-, -, -, -, hatom, -⟩ := h failedTarget
  have hop : opAt failedTarget failedTarget.ix = some lateAtom := by decide +kernel
  have hready : partReady failedTarget lateAtom false [] atomPart = true := by decide +kernel
  obtain ⟨s', hrun, -, hmem, -⟩ := hatom lateAtom 0 .n32 64 1 0 4 atomPart hop rfl rfl rfl hready
  rw [exec_ratomPart hop rfl rfl rfl hready] at hrun
  obtain rfl : failedTarget.performRatom lateAtom 0 .n32 64 1 0 4 = s' := by injection hrun
  rw [performRatom_mem_of_bad failedTarget_bad (by decide)] at hmem
  have hword := congrArg (memGet · 4160) hmem
  revert hword
  decide +kernel
/-! ### Order, cycle and value of an access (R80, R184, R311) -/

/-- The access names bytes of bank word `w` (R48). -/
def names (a : Access) (w : Nat) : Prop := a.phys < 8 * w + 8 ∧ 8 * w < a.phys + a.size

theorem apart_iff {x y : Access} (hx : 0 < x.size) (hy : 0 < y.size) : apart x y = true ↔ ∀ w, ¬ (names x w ∧ names y w) := by
  simp only [apart, Bool.or_eq_true, decide_eq_true_eq, names]
  constructor
  · intro h w hw
    omega
  · intro h
    by_contra hc
    refine h (max (x.phys / 8) (y.phys / 8)) ?_
    omega

theorem mayPass_iff {x y : Access} (hx : 0 < x.size) (hy : 0 < y.size) :
    mayPass x y = true ↔ x.path ≠ y.path ∧ (x.inv = true
      ∨ (x.path = .own ∧ isLoad x.kind = true ∧ isStoreOrAtom y.kind = true ∧ ∀ w, ¬ (names x w ∧ names y w))) := by
  rw [← apart_iff hx hy, mayPass]
  by_cases hp : x.path = y.path
  · simp [hp]
  · cases hi : x.inv <;> simp [hp, and_assoc]

theorem loadRegs_pair (d v : Nat) (hv : v < 2 ^ 64) :
    loadRegs d 8 false v = [(d, (BitVec.ofNat 64 v).setWidth 32), (d + 1, (BitVec.ofNat 64 v >>> 32).setWidth 32)] := by
  have hlow : BitVec.ofNat 32 v = (BitVec.ofNat 64 v).setWidth 32 := by
    apply BitVec.eq_of_toNat_eq
    simp only [BitVec.toNat_ofNat, BitVec.toNat_setWidth]
    omega
  have hhigh : BitVec.ofNat 32 (v / 2 ^ 32) = (BitVec.ofNat 64 v >>> 32).setWidth 32 := by
    apply BitVec.eq_of_toNat_eq
    simp only [BitVec.toNat_ofNat, BitVec.toNat_setWidth, BitVec.toNat_ushiftRight, Nat.shiftRight_eq_div_pow]
    omega
  rw [loadRegs, if_pos rfl, hlow, hhigh]

theorem loadRegs_zero (d v n : Nat) (hn : n ∈ [1, 2, 4]) (hv : v < 2 ^ (8 * n)) :
    loadRegs d n false v = [(d, (BitVec.ofNat (8 * n) v).setWidth 32)] := by
  have h8 : n ≠ 8 := by rintro rfl; simp at hn
  have hval : BitVec.ofNat 32 v = (BitVec.ofNat (8 * n) v).setWidth 32 := by
    apply BitVec.eq_of_toNat_eq
    rw [BitVec.toNat_setWidth, BitVec.toNat_ofNat, BitVec.toNat_ofNat, Nat.mod_eq_of_lt hv]
  simp [loadRegs, h8, hval]

theorem loadRegs_sign (d v n : Nat) (hn : n ∈ [1, 2, 4]) (hv : v < 2 ^ (8 * n)) :
    loadRegs d n true v = [(d, (BitVec.ofNat (8 * n) v).signExtend 32)] := by
  have h8 : n ≠ 8 := by rintro rfl; simp at hn
  have hval : BitVec.ofNat 32 (if 2 ^ (8 * n - 1) ≤ v then v + (2 ^ 32 - 2 ^ (8 * n)) else v)
      = (BitVec.ofNat (8 * n) v).signExtend 32 := by
    apply BitVec.eq_of_toNat_eq
    rw [BitVec.toNat_signExtend, BitVec.msb_eq_decide, BitVec.toNat_setWidth, BitVec.toNat_ofNat, BitVec.toNat_ofNat,
      Nat.mod_eq_of_lt hv]
    obtain rfl | rfl | rfl : n = 1 ∨ n = 2 ∨ n = 4 := by simpa using hn
    all_goals
      simp only [decide_eq_true_eq]
      split <;> omega
  rw [← hval, loadRegs, if_neg h8]
  simp only [Bool.true_and, decide_eq_true_eq]
  split <;> rfl

theorem dueCycle_eq {s : State} {a : Access} (hc : isCntf a = false) (ht : ∀ l, a.kind ≠ .tblld l) :
    dueCycle s a = max a.after (a.cyc + latOf a + (contended s a).toNat) := by
  unfold dueCycle
  split
  · rename_i h
    simp [isCntf, h] at hc
  · rename_i h
    exact absurd h (ht _)
  · rfl

theorem dueCycle_own {s : State} {a : Access} (hc : isCntf a = false) (ht : ∀ l, a.kind ≠ .tblld l) (hp : a.path = .own) :
    dueCycle s a = max a.after (a.cyc + 6) := by
  have hfree : contended s a = false := by simp [contended, hp]
  have hlat : latOf a = 6 := by rw [latOf, hp]; rfl
  rw [dueCycle_eq hc ht, hlat, hfree, Bool.toNat_false, Nat.add_zero]

theorem dueCycle_partner {s : State} {a : Access} (hc : isCntf a = false) (ht : ∀ l, a.kind ≠ .tblld l) (hp : a.path = .partner) :
    dueCycle s a = max a.after (a.cyc + 14) ∨ dueCycle s a = max a.after (a.cyc + 15) := by
  have hlat : latOf a = 14 := by rw [latOf, hp]; rfl
  rw [dueCycle_eq hc ht, hlat]
  cases contended s a
  · exact .inl rfl
  · exact .inr rfl
/-! ### An access commits (R80, R81, R88, R317) -/

/-- Access `a`, at place `ix` of the thread's queues, may commit now, but for the order of the stores of one word. -/
structure Ripe (s : State) (t : Thread) (a : Access) : Prop where
  thread : s.thread s.cur s.sub = some t
  acc : t.acc[s.ix]? = some a
  pass : ∀ b ∈ t.acc.take s.ix, mayPass a b = true
  due : dueCycle s a ≤ s.cycle
  rel : a.rel = true → s.ix = 0 ∧ ∀ p ∈ s.posted, p.id ∉ a.posts

theorem releaseHolds_iff (s : State) (a : Access) : releaseHolds s a = true ↔ ∀ p ∈ s.posted, p.id ∉ a.posts := by
  simp [releaseHolds, postedAny]

theorem canCommit_of_ripe {s : State} {t : Thread} {a : Access} (h : Ripe s t a) (htwin : earlierTwin (s.core s.cur) t a = false)
    (htable : earlierTable (s.core s.cur) a = false) : canCommit s s.cur t s.ix = true := by
  have hpass : (t.acc.take s.ix).all (mayPass a) = true := List.all_eq_true.mpr h.pass
  have hrel : (!a.rel || (s.ix == 0 && releaseHolds s a)) = true := by
    cases hr : a.rel
    · rfl
    · obtain ⟨hix, hposts⟩ := h.rel hr
      simp [hix, (releaseHolds_iff s a).mpr hposts]
  simp [canCommit, h.acc, hpass, hrel, htwin, htable]

theorem ripeAccess_of_ripe {s : State} {t : Thread} {a : Access} (h : Ripe s t a) (htwin : earlierTwin (s.core s.cur) t a = false)
    (htable : earlierTable (s.core s.cur) a = false) (hrow : isCntf a = true → rowFree s a = true) :
    ripeAccess s (isCntf a) = some (t, a) := by
  have hdue := h.due
  have hrow' : (!isCntf a || rowFree s a) = true := by
    cases hc : isCntf a
    · rfl
    · exact hrow hc
  simp [ripeAccess, h.thread, h.acc, canCommit_of_ripe h htwin htable, hdue, hrow']

/-- The machine once access `a` has left its queue, and what stood behind it has been held back (R317). -/
def taken (s : State) (a : Access) : State :=
  s.modThread s.cur s.sub fun u => { u with acc := u.acc.take s.ix ++ (u.acc.drop (s.ix + 1)).map fun b =>
    if a.path = .partner ∧ b.path = .own ∧ mayPass b a = false then { b with after := max b.after (s.cycle + 1) } else b }

theorem heldBehind_eq (cyc : Nat) (a : Access) : heldBehind cyc a = fun b =>
    if a.path = .partner ∧ b.path = .own ∧ mayPass b a = false then { b with after := max b.after (cyc + 1) } else b := by
  funext b
  simp [heldBehind, and_assoc]

/-- What a core looks at again once one of its accesses has committed. -/
def looked (c : Nat) (x : State) : State := (x.settleWaitsAt c).settleGran.lend c

theorem commitAt_eq {s : State} {t : Thread} {a : Access} (ht : s.thread s.cur s.sub = some t) :
    commitAt s s.cur t s.ix a = looked s.cur ((taken s a).commitAcc s.cur t a) := by
  rw [commitAt, State.thread_slot ht, taken, ← heldBehind_eq]
  rfl

theorem exec_directAccessCommit {s : State} {t : Thread} {a : Access} (h : Ripe s t a)
    (htwin : earlierTwin (s.core s.cur) t a = false) (htable : earlierTable (s.core s.cur) a = false) (hc : isCntf a = false) :
    exec .directAccessCommit s = .next (looked s.cur ((taken s a).commitAcc s.cur t a)) := by
  have hexec : exec .directAccessCommit s = execDirectAccessCommit s := rfl
  have hripe := ripeAccess_of_ripe h htwin htable (by simp [hc])
  rw [hc] at hripe
  rw [hexec, execDirectAccessCommit, hripe, ← commitAt_eq h.thread]

theorem exec_cntfRowServe {s : State} {t : Thread} {a : Access} (h : Ripe s t a)
    (htwin : earlierTwin (s.core s.cur) t a = false) (htable : earlierTable (s.core s.cur) a = false) (hc : isCntf a = true)
    (hrow : rowFree s a = true) : exec .cntfRowServe s = .next (looked s.cur ((taken s a).commitAcc s.cur t a)) := by
  have hexec : exec .cntfRowServe s = execCntfRowServe s := rfl
  have hripe := ripeAccess_of_ripe h htwin htable (fun _ => hrow)
  rw [hc] at hripe
  rw [hexec, execCntfRowServe, hripe, ← commitAt_eq h.thread]

/-! ### Loads, stores, atomics and filter rows (R81, R184 to R186, R207) -/

theorem latOf_eq (a : Access) : latOf a = if a.path = .own then 6 else 14 := by
  cases h : a.path <;> simp only [latOf, h] <;> rfl

/-- A thread that runs no tiller sees no held store (R92). -/
theorem heldStores_plain (s : State) {t : Thread} (h : t.spec = .plain) (id : Nat) : heldStores s t id = [] := by
  simp [heldStores, heldItems, specs, h, sortBy]

theorem ofLe_memGet (m : Mem) (a n : Nat) : ofLe ((List.range n).map fun j => memGet m (a + j)) = memRead m a n := by
  induction n generalizing a with
  | zero => rfl
  | succ n ih =>
    have hnext := ih (a + 1)
    rw [List.range_succ_eq_map, List.map_cons, List.map_map, ofLe, memRead, ← hnext]
    simp [Function.comp_def, Nat.add_assoc, Nat.add_comm 1]

theorem loadVal_plain {s : State} {t : Thread} {a : Access} (hs : t.spec = .plain) (hi : a.inv = false) :
    loadVal s t a = memRead s.mem a.phys a.size := by
  rw [← ofLe_memGet, loadVal, loadBytes, heldStores_plain s hs]
  simp [hi, heldBytes]

/-- A result that lands in cycle `n` joins the thread's. -/
def lands (a : Access) (n : Nat) (regs : List (Nat × Reg)) (u : Thread) : Thread :=
  { u with res := u.res ++ [{ at_ := n, seq := a.cyc, regs := regs, guest := none, fsr := 0, flag := a.flag, table := none, status := false }] }

/-- The cycle in which the result of an access that commits now lands at the earliest (R314). -/
def landsAt (s : State) (a : Access) : Nat := max s.cycle (a.cyc + if a.path = .own then 6 else 14)

theorem addResult_accResult (x s : State) (c sl : Nat) (a : Access) (regs : List (Nat × Reg)) :
    x.addResult c sl (accResult s a regs) = x.modThread c sl (lands a (landsAt s a) regs) := by
  rw [landsAt, ← latOf_eq]
  rfl

theorem commitAcc_load {s : State} {t : Thread} {a : Access} {d : Nat} {sext : Bool} (hk : a.kind = .load d sext)
    (hs : t.spec = .plain) (hi : a.inv = false) (c : Nat) : s.commitAcc c t a =
      s.modThread c t.id.slot (lands a (landsAt s a) (loadRegs d a.size sext (memRead s.mem a.phys a.size))) := by
  rw [← addResult_accResult, ← loadVal_plain hs hi]
  simp [State.commitAcc, hk, hi]

theorem commitAcc_store {s : State} {t : Thread} {a : Access} {v : Quad} (hk : a.kind = .store v) (hsize : a.size ≤ 8) (c : Nat) :
    s.commitAcc c t a = (s.store a.phys (leBytes a.size v.toNat)).inertWaits a.phys := by
  simp [State.commitAcc, State.storeAcc, hk, Nat.not_lt.mpr hsize, State.storeN]

theorem commitAcc_atom {s : State} {t : Thread} {a : Access} {op : Nat} {ty : Ty} {b cmp : Quad} {d : Nat}
    (hk : a.kind = .atom op ty b cmp d) (c : Nat) : s.commitAcc c t a =
      ((s.store a.phys (leBytes a.size (atomNew op ty (memRead s.mem a.phys a.size) b.toNat cmp.toNat))).inertWaits a.phys).modThread
        c t.id.slot (lands a (landsAt s a) (oldRegs d ty (memRead s.mem a.phys a.size))) := by
  rw [← addResult_accResult]
  simp [State.commitAcc, hk, State.storeN]

/-- The last row of a filter word, whose result lands 6 cycles after (R207). -/
theorem commitAcc_lastRow {s : State} {t : Thread} {a : Access} {add : Bool} {key inc least d : Nat}
    (hk : a.kind = .cntf add 3 key inc least d) (hs : t.spec = .plain) (hi : a.inv = false) (c : Nat) :
    let old := memRead s.mem a.phys a.size
    let x := if add then min (old + inc) 0xFFFF else old
    let y := if add then (s.store a.phys (leBytes 2 x)).inertWaits a.phys else s
    s.commitAcc c t a = y.modThread c t.id.slot (lands a (y.cycle + 6) [(d, BitVec.ofNat 32 (min least x))]) := by
  intro old x y
  have hold : loadVal s t a = old := loadVal_plain hs hi
  simp only [State.commitAcc, hk, State.cntfCommit, rowVals, hold, if_true]
  rfl

/-! ### Barrier accesses (R187 to R192) -/

@[simp] theorem recordPosted_mem (s : State) (c : Nat) (t : Thread) (o ph : Nat) : (recordPosted s c t o ph).mem = s.mem := by
  unfold recordPosted
  simp only
  split <;> rfl

/-- The token that an arrival with count `n` gives (R190). -/
theorem arriveBar_token (s : State) (c : Nat) (t : Thread) (o n : Nat) : (arriveBar s c t o n).2 =
    (memRead s.mem (o + 8) 4, if n < memRead s.mem o 4 ∧ ¬ memRead s.mem (o + 4) 4 = 0 then n else 0) := by
  by_cases hn : n = 0
  · simp [arriveBar, hn, barPhase]
  by_cases hi : memRead s.mem (o + 4) 4 = 0
  · simp [arriveBar, hn, barPhase, barInit, hi]
  by_cases hlt : n < memRead s.mem o 4
  · simp [arriveBar, hn, barPhase, barInit, barPend, hi, hlt]
  · simp [arriveBar, hn, barPhase, barInit, barPend, hi, hlt]

theorem commitAcc_arrive {s : State} {t : Thread} {a : Access} {n d : Nat} (hk : a.kind = .barArrive n d) (c : Nat) :
    s.commitAcc c t a = (arriveBar s c t a.phys n).1.modThread c t.id.slot (lands a (landsAt s a)
      [(d, BitVec.ofNat 32 (memRead s.mem (a.phys + 8) 4)), (d + 1, BitVec.ofNat 32
        (if n < memRead s.mem a.phys 4 ∧ ¬ memRead s.mem (a.phys + 4) 4 = 0 then n else 0))]) := by
  have hcommit : s.commitAcc c t a = (arriveBar s c t a.phys n).1.addResult c t.id.slot (accResult s a
      [(d, BitVec.ofNat 32 (arriveBar s c t a.phys n).2.1), (d + 1, BitVec.ofNat 32 (arriveBar s c t a.phys n).2.2)]) := by
    simp only [State.commitAcc, hk]
  rw [hcommit, addResult_accResult, arriveBar_token]

theorem commitAcc_init {s : State} {t : Thread} {a : Access} {n : Nat} (hk : a.kind = .barInit n) (c : Nat) :
    s.commitAcc c t a = s.initBarrier a.phys n := by
  simp [State.commitAcc, hk]

theorem meetBarrier_inert {s : State} {o : Nat} (h : memRead s.mem (o + 4) 4 = 0) (c : Nat) (t : Thread) (p n : Nat) (acq : Bool) :
    s.meetBarrier c t o p n acq = s.endWaitAt c t.id.slot .absent [] := by
  simp [State.meetBarrier, barInit, h]

section Meets
variable {s : State} {o : Nat} (hlive : ¬ memRead s.mem (o + 4) 4 = 0)
include hlive

theorem meetBarrier_passed {p : Nat} (h : memRead s.mem (o + 8) 4 ≠ p) (c : Nat) (t : Thread) (n : Nat) :
    s.meetBarrier c t o p n false = (s.modThread c t.id.slot fun u => sawPhase s u o p).endWaitAt c t.id.slot .done [] := by
  simp [State.meetBarrier, barInit, barPhase, hlive, h, State.doneOrAcquire]

theorem meetBarrier_late {p : Nat} (h : memRead s.mem (o + 8) 4 = p) {t : Thread} (hlate : waitPassed s t = true) (c n : Nat) :
    s.meetBarrier c t o p n false = (s.withdraw c t o p n).endWaitAt c t.id.slot .timeout [] := by
  simp [State.meetBarrier, barInit, barPhase, hlive, h, hlate]

theorem meetBarrier_waits {p : Nat} (h : memRead s.mem (o + 8) 4 = p) {t : Thread} (hlate : waitPassed s t = false) (c n : Nat) :
    s.meetBarrier c t o p n false = s.waitAs c t.id.slot (.barrier o p n false) := by
  simp [State.meetBarrier, barInit, barPhase, hlive, h, hlate]

end Meets

theorem commitAcc_wait {s : State} {t : Thread} {a : Access} {p n : Nat} {acq : Bool} (hk : a.kind = .barWait p n acq) (c : Nat) :
    s.commitAcc c t a = s.meetBarrier c t a.phys p n acq := by
  simp [State.commitAcc, hk]

theorem commitAcc_arwt {s : State} {t : Thread} {a : Access} {n : Nat} (hk : a.kind = .barArwt n) (c : Nat) :
    s.commitAcc c t a = (arriveBar s c t a.phys n).1.meetBarrier c t a.phys (memRead s.mem (a.phys + 8) 4)
      (if n < memRead s.mem a.phys 4 ∧ ¬ memRead s.mem (a.phys + 4) 4 = 0 then n else 0) false := by
  have hcommit : s.commitAcc c t a = (arriveBar s c t a.phys n).1.meetBarrier c t a.phys (arriveBar s c t a.phys n).2.1
      (arriveBar s c t a.phys n).2.2 false := by
    simp only [State.commitAcc, hk]
  rw [hcommit, arriveBar_token]

/-! ### Tag accesses (R193, R194) -/

/-- What a change of a core leaves in it, it leaves in every core. -/
theorem proj_modCore {α : Type} {p : Core → α} {f : Core → Core} (h : ∀ k, p (f k) = p k) (s : State) (c d : Nat) :
    p ((s.modCore c f).core d) = p (s.core d) := by
  by_cases hd : d = c
  · subst hd
    by_cases hlen : d < s.cores.length
    · rw [core_modCore hlen, h]
    · simp [State.modCore, State.withCore, State.core, Nat.not_lt.mp hlen]
  · rw [State.modCore, State.core_withCore_ne _ _ _ _ hd]

@[simp] theorem tagAt_modThread (s : State) (c sl h n : Nat) (f : Thread → Thread) : tagAt (s.modThread c sl f) h n = tagAt s h n :=
  proj_modCore (p := fun k => tblGet k.tags n Tag.empty) (by exact fun _ => rfl) s c h

theorem commitAcc_claim {s : State} {t : Thread} {a : Access} {n m : Nat} (hk : a.kind = .slotClaim n m) (c : Nat) :
    s.commitAcc c t a = s.meetTag c t (a.phys / 1024) n (some m) := by
  simp [State.commitAcc, hk]

theorem commitAcc_take {s : State} {t : Thread} {a : Access} {n : Nat} (hk : a.kind = .slotTake n) (c : Nat) :
    s.commitAcc c t a = s.meetTag c t (a.phys / 1024) n none := by
  simp [State.commitAcc, hk]

theorem meetTag_claims {s : State} {h n : Nat} (hfree : (tagAt s h n).st = 0) (m c : Nat) (t : Thread) :
    s.meetTag c t h n (some m) = ((s.setTag h n ⟨if m = 0 then 2 else 1, false, false,
      if m = 0 then (tagAt s h n).count else m, ((tagAt s h n).gen + 1) % 2 ^ 32, []⟩).endWaitAt c t.id.slot .done []).settleTag h n 4 := by
  simp [State.meetTag, tagServe, hfree, State.sawFill, claimed]

theorem meetTag_takes {s : State} {h n : Nat} (hfull : (tagAt s h n).st = 2) (c : Nat) (t : Thread) :
    s.meetTag c t h n none = ((((s.modThread c t.id.slot fun u => sawOps s u (tagAt s h n).ops).setTag h n
      { tagAt s h n with st := 3 }).endWaitAt c t.id.slot (if (tagAt s h n).short then .fault else .done) []).settleTag h n 4) := by
  simp [State.meetTag, tagServe, hfull, State.sawFill]

theorem tagServe_none {x : Tag} {claim : Option Nat} (h : x.st ≠ if claim.isSome then 0 else 2) : tagServe x claim = none := by
  cases claim with
  | none => exact if_neg h
  | some n => exact if_neg h

theorem meetTag_late {s : State} {h n : Nat} {claim : Option Nat} (hst : (tagAt s h n).st ≠ if claim.isSome then 0 else 2)
    {t : Thread} (hlate : waitPassed s t = true) (c : Nat) : s.meetTag c t h n claim = s.endWaitAt c t.id.slot .timeout [] := by
  simp [State.meetTag, tagServe_none hst, hlate]

theorem meetTag_waits {s : State} {h n : Nat} {claim : Option Nat} (hst : (tagAt s h n).st ≠ if claim.isSome then 0 else 2)
    {t : Thread} (hlate : ¬ waitPassed s t = true) (c : Nat) : s.meetTag c t h n claim = s.waitAs c t.id.slot (.tag h n claim) := by
  simp [State.meetTag, tagServe_none hst, hlate]

/-- The thread gets the status of SLOT.FREE. -/
def answers (s : State) (a : Access) (d : Nat) (st : Status) (u : Thread) : Thread :=
  { u with res := u.res ++ [{ at_ := landsAt s a, seq := a.cyc, regs := [(d, codeOfStatus st)], guest := none, fsr := 0,
                              flag := a.flag, table := none, status := true }] }

theorem commitAcc_free {s : State} {t : Thread} {a : Access} {n d : Nat} (hk : a.kind = .slotFree n d) (c : Nat) :
    s.commitAcc c t a = (s.freeTag (a.phys / 1024) n).1.modThread c t.id.slot (answers s a d (s.freeTag (a.phys / 1024) n).2) := by
  simp only [State.commitAcc, hk, accResult, latOf_eq, codeOfStatus_eq, State.addResult]
  rfl

theorem freeTag_taken {s : State} {h n : Nat} (hst : (tagAt s h n).st = 3) :
    s.freeTag h n = ((s.setTag h n { tagAt s h n with st := 0 }).settleTag h n 4, .done) := by
  simp [State.freeTag, hst]

theorem freeTag_other {s : State} {h n : Nat} (hst : (tagAt s h n).st ≠ 3) : s.freeTag h n = (s, .absent) := by
  simp [State.freeTag, hst]
/-! ### Words of memory after stores (R9, R81) -/

theorem memGet_memPut_ne (m : Mem) {a b : Nat} (h : b ≠ a) (v : Byte) : memGet (memPut m a v) b = memGet m b := by
  induction m with
  | nil =>
    rw [memPut]
    split
    · rfl
    · simp [memGet, h.symm]
  | cons x r ih =>
    obtain ⟨y, w⟩ := x
    rcases Nat.lt_trichotomy a y with hlt | rfl | hgt
    · rw [memPut, if_pos hlt]
      split
      · rfl
      · simp [memGet, h.symm]
    · rw [memPut, if_neg (Nat.lt_irrefl a), if_pos rfl]
      split
      · simp [memGet, h.symm]
      · simp [memGet, h.symm]
    · rw [memPut, if_neg (by omega), if_neg (by omega), memGet, memGet, ih]

/-- A store leaves what lies beside it, in whatever form memory is listed. -/
theorem memGet_memPutAll_out (m : Mem) {a b : Nat} {bs : List Byte} (h : b < a ∨ a + bs.length ≤ b) :
    memGet (memPutAll m a bs) b = memGet m b := by
  induction bs generalizing m a with
  | nil => rfl
  | cons x r ih =>
    rw [List.length_cons] at h
    rw [memPutAll, ih _ (by omega), memGet_memPut_ne _ (by omega)]

theorem storeN_get_out (s : State) {a n b : Nat} (h : b < a ∨ a + n ≤ b) (v : Nat) :
    memGet (s.storeN a n v).mem b = memGet s.mem b :=
  memGet_memPutAll_out _ (by rwa [leBytes_length])

theorem memRead_storeN_out (s : State) {a n b k : Nat} (h : b + k ≤ a ∨ a + n ≤ b) (v : Nat) :
    memRead (s.storeN a n v).mem b k = memRead s.mem b k :=
  memRead_congr fun _ _ _ => storeN_get_out s (by omega) v

theorem memRead_storeN_self {s : State} (h : memWf s.mem = true) {a n v : Nat} (hv : v < 2 ^ (8 * n)) :
    memRead (s.storeN a n v).mem a n = v := by
  rw [State.storeN, memRead_store_leBytes h, Nat.mod_eq_of_lt hv]

theorem memRead_lt (m : Mem) (a n : Nat) : memRead m a n < 256 ^ n := by
  induction n generalizing a with
  | zero => exact Nat.one_pos
  | succ n ih =>
    have hhigh := ih (a + 1)
    have hlow := (memGet m a).isLt
    rw [memRead, Nat.pow_succ]
    omega

theorem memRead_word_lt (m : Mem) (a : Nat) : memRead m a 4 < 2 ^ 32 := memRead_lt m a 4

theorem memRead_add (m : Mem) (a k n : Nat) : memRead m a (k + n) = memRead m a k + 256 ^ k * memRead m (a + k) n := by
  induction k generalizing a with
  | zero => simp [memRead]
  | succ k ih =>
    rw [show k + 1 + n = (k + n) + 1 by omega, memRead, memRead, ih, Nat.pow_succ, show a + 1 + k = a + (k + 1) by omega,
      Nat.mul_add, Nat.add_assoc, Nat.mul_comm (256 ^ k) 256, Nat.mul_assoc]

/-- Word `j` of the 16-byte object at `o` (R73). -/
def objWord (m : Mem) (o j : Nat) : Nat := memRead m (o + 4 * j) 4

theorem objWord_lt (m : Mem) (o j : Nat) : objWord m o j < 2 ^ 32 := memRead_word_lt m _

theorem memRead_object (m : Mem) (o : Nat) :
    memRead m o 16 = objWord m o 0 + 2 ^ 32 * objWord m o 1 + 2 ^ 64 * objWord m o 2 + 2 ^ 96 * objWord m o 3 := by
  have h1 : memRead m o 16 = objWord m o 0 + 256 ^ 4 * memRead m (o + 4) 12 := memRead_add m o 4 12
  have h2 : memRead m (o + 4) 12 = objWord m o 1 + 256 ^ 4 * memRead m (o + 8) 8 := memRead_add m (o + 4) 4 8
  have h3 : memRead m (o + 8) 8 = objWord m o 2 + 256 ^ 4 * objWord m o 3 := memRead_add m (o + 8) 4 4
  omega

/-- The object's bits SHORT and OVER, and those above them (R73). -/
theorem setBits_eq (m : Mem) (o : Nat) (short past : Bool) :
    setBits m o short past = objWord m o 3 / 4 * 4 + short.toNat + 2 * past.toNat := by
  cases short <;> cases past <;> rfl

theorem bitAt_toNat (x n : Nat) : (bitAt x n).toNat = x / 2 ^ n % 2 := by
  have hlt : x / 2 ^ n % 2 < 2 := Nat.mod_lt _ Nat.two_pos
  unfold bitAt
  generalize x / 2 ^ n % 2 = y at hlt
  obtain rfl | rfl : y = 0 ∨ y = 1 := by omega
  · rfl
  · rfl

theorem setBits_lt (m : Mem) (o : Nat) (short past : Bool) : setBits m o short past < 2 ^ 32 := by
  have h := objWord_lt m o 3
  have hshort := Bool.toNat_le short
  have hpast := Bool.toNat_le past
  rw [setBits_eq]
  omega

/-- One word of an object is stored. -/
theorem objWord_storeN {s : State} (h : memWf s.mem = true) {o i v : Nat} (hv : v < 2 ^ 32) (j : Nat) :
    objWord (s.storeN (o + 4 * i) 4 v).mem o j = if j = i then v else objWord s.mem o j := by
  split
  · next hj => rw [hj, objWord, memRead_storeN_self h hv]
  · next hj => exact memRead_storeN_out s (by omega) v

theorem objWord_storePend {s : State} (h : memWf s.mem = true) {o v : Nat} (hv : v < 2 ^ 32) (j : Nat) :
    objWord (s.storeN o 4 v).mem o j = if j = 0 then v else objWord s.mem o j := objWord_storeN h (i := 0) hv j

theorem objWord_storeBits {s : State} (h : memWf s.mem = true) {o v : Nat} (hv : v < 2 ^ 32) (j : Nat) :
    objWord (s.storeN (o + 12) 4 v).mem o j = if j = 3 then v else objWord s.mem o j := objWord_storeN h (i := 3) hv j

/-- Every word of an object is stored. -/
theorem objWord_storeAll {s : State} (h : memWf s.mem = true) {o w0 w1 w2 w3 : Nat} (h0 : w0 < 2 ^ 32) (h1 : w1 < 2 ^ 32)
    (h2 : w2 < 2 ^ 32) (h3 : w3 < 2 ^ 32) :
    let m := (s.storeN o 16 (w0 + w1 * 2 ^ 32 + w2 * 2 ^ 64 + w3 * 2 ^ 96)).mem
    objWord m o 0 = w0 ∧ objWord m o 1 = w1 ∧ objWord m o 2 = w2 ∧ objWord m o 3 = w3 := by
  intro m
  have hall : memRead m o 16 = w0 + w1 * 2 ^ 32 + w2 * 2 ^ 64 + w3 * 2 ^ 96 := memRead_storeN_self h (by omega)
  rw [memRead_object] at hall
  have l0 := objWord_lt m o 0
  have l1 := objWord_lt m o 1
  have l2 := objWord_lt m o 2
  have l3 := objWord_lt m o 3
  omega

/-- The lower half of an object is stored. -/
theorem objWord_storeHalf {s : State} (h : memWf s.mem = true) {o w0 w1 : Nat} (h0 : w0 < 2 ^ 32) (h1 : w1 < 2 ^ 32) :
    let m := (s.storeN o 8 (w0 + w1 * 2 ^ 32)).mem
    objWord m o 0 = w0 ∧ objWord m o 1 = w1 ∧ objWord m o 2 = objWord s.mem o 2 ∧ objWord m o 3 = objWord s.mem o 3 := by
  intro m
  have hhalf : memRead m o 8 = w0 + w1 * 2 ^ 32 := memRead_storeN_self h (by omega)
  rw [show (8 : Nat) = 4 + 4 from rfl, memRead_add] at hhalf
  have l0 : memRead m o 4 < 2 ^ 32 := memRead_word_lt m o
  have l1 := memRead_word_lt m (o + 4)
  have h2 : objWord m o 2 = objWord s.mem o 2 := memRead_storeN_out s (by omega) _
  have h3 : objWord m o 3 = objWord s.mem o 3 := memRead_storeN_out s (by omega) _
  refine ⟨?_, ?_, h2, h3⟩
  · show memRead m o 4 = w0
    omega
  · show memRead m (o + 4) 4 = w1
    omega

/-! ### Memory is left alone by whoever is told of a barrier -/

theorem foldl_mem {α : Type} {g : State → α → State} (hg : ∀ s x, (g s x).mem = s.mem) (l : List α) (s : State) :
    (l.foldl g s).mem = s.mem := by
  induction l generalizing s with
  | nil => rfl
  | cons x r ih => rw [List.foldl_cons, ih, hg]

theorem fireBarrier_mem (s : State) (c : Nat) (t : Thread) (w : Wait) (o ph : Nat) (acq : Bool) (st : Status) :
    (fireBarrier s c t w o ph acq st).mem = s.mem := by
  unfold fireBarrier
  simp only
  split <;> rfl

theorem fireSaved_mem (o : Nat) (f : Nat → Option Status) (s : State) (c : Nat) : (fireSaved o f s c).mem = s.mem := by
  unfold fireSaved
  refine foldl_mem (fun s t => ?_) _ s
  split
  · split
    · split
      · split
        · exact fireBarrier_mem ..
        · rfl
      · rfl
    · rfl
  · rfl

@[simp] theorem endBarrier_mem (s : State) (o : Nat) (f : Nat → Option Status) : (s.endBarrier o f).mem = s.mem :=
  foldl_mem (fun s c => by rw [fireSaved_mem, State.modCore_mem]) _ s

@[simp] theorem dropArrivals_mem (s : State) (o : Nat) (f : Nat → Bool) : (dropArrivals s o f).mem = s.mem :=
  foldl_mem (fun s c => State.modCore_mem s c _) _ s

theorem initBarrier_mem (s : State) (o n : Nat) : (s.initBarrier o n).mem =
    ((s.storeN o 8 (n + n * 2 ^ 32)).storeN (o + 12) 4 (setBits s.mem o false false)).mem := by
  simp [State.initBarrier]

theorem completePhase_mem (s : State) (o : Nat) (short past : Bool) : (s.completePhase o short past).mem =
    (s.storeN o 16 (objWord s.mem o 1 + objWord s.mem o 1 * 2 ^ 32 + (objWord s.mem o 2 + 1) % 2 ^ 32 * 2 ^ 64
      + setBits s.mem o false (past || bitAt (objWord s.mem o 3) 1) * 2 ^ 96)).mem := by
  simp only [State.completePhase, dropArrivals_mem, endBarrier_mem]
  rfl

/-! ### The words of a barrier object (R74, R189) -/

theorem decBarrier_inert {s : State} {o : Nat} (h : objWord s.mem o 1 = 0) (d : Nat) (short : Bool) :
    s.decBarrier o d short = s.storeN (o + 12) 4 (setBits s.mem o (bitAt (objWord s.mem o 3) 0) true) :=
  if_pos h

theorem decBarrier_counts {s : State} {o d : Nat} (h : objWord s.mem o 1 ≠ 0) (hd : d < objWord s.mem o 0) (short : Bool) :
    s.decBarrier o d short = (s.storeN o 4 (objWord s.mem o 0 - d)).storeN (o + 12) 4
      (setBits s.mem o (short || bitAt (objWord s.mem o 3) 0) (bitAt (objWord s.mem o 3) 1)) :=
  (if_neg h).trans (if_pos hd)

theorem decBarrier_completes {s : State} {o d : Nat} (h : objWord s.mem o 1 ≠ 0) (hd : objWord s.mem o 0 ≤ d) (short : Bool) :
    s.decBarrier o d short = s.completePhase o (short || bitAt (objWord s.mem o 3) 0) (decide (objWord s.mem o 0 < d)) :=
  (if_neg h).trans (if_neg (Nat.not_lt.mpr hd))

/-- Nothing beside the object changes. -/
def OnlyObject (s : State) (m : Mem) (o : Nat) : Prop := ∀ a, a < o ∨ o + 16 ≤ a → memGet m a = memGet s.mem a

theorem onlyObject_decBarrier (s : State) (o d : Nat) (short : Bool) : OnlyObject s (s.decBarrier o d short).mem o := by
  intro a ha
  by_cases hi : objWord s.mem o 1 = 0
  · rw [decBarrier_inert hi, storeN_get_out _ (by omega)]
  by_cases hd : d < objWord s.mem o 0
  · rw [decBarrier_counts hi hd, storeN_get_out _ (by omega), storeN_get_out _ (by omega)]
  · rw [decBarrier_completes hi (Nat.not_lt.mp hd), completePhase_mem, storeN_get_out _ (by omega)]

theorem onlyObject_initBarrier (s : State) (o n : Nat) : OnlyObject s (s.initBarrier o n).mem o := by
  intro a ha
  rw [initBarrier_mem, storeN_get_out _ (by omega), storeN_get_out _ (by omega)]

theorem initBarrier_words {s : State} (h : memWf s.mem = true) {o n : Nat} (hn : n < 2 ^ 32) :
    let m := (s.initBarrier o n).mem
    objWord m o 0 = n ∧ objWord m o 1 = n ∧ objWord m o 2 = objWord s.mem o 2 ∧ objWord m o 3 = objWord s.mem o 3 / 4 * 4 := by
  intro m
  have hm : m = _ := initBarrier_mem s o n
  obtain ⟨h0, h1, h2, -⟩ := objWord_storeHalf h hn hn (o := o)
  have hbits := objWord_storeBits (State.store_wf h o (leBytes 8 (n + n * 2 ^ 32))) (setBits_lt s.mem o false false) (o := o)
  rw [hm]
  exact ⟨(hbits 0).trans h0, (hbits 1).trans h1, (hbits 2).trans h2, hbits 3⟩

/-- What a decrement leaves in the object's words: an inert barrier keeps all but OVER, a count above `d` goes down by it, and
otherwise the phase completes (R74). -/
theorem decBarrier_words_inert {s : State} (h : memWf s.mem = true) {o : Nat} (hi : objWord s.mem o 1 = 0) (d : Nat) (short : Bool) :
    let m := (s.decBarrier o d short).mem
    objWord m o 0 = objWord s.mem o 0 ∧ objWord m o 1 = 0 ∧ objWord m o 2 = objWord s.mem o 2
      ∧ objWord m o 3 = objWord s.mem o 3 / 4 * 4 + 2 + objWord s.mem o 3 % 2 := by
  intro m
  have hbits := objWord_storeBits h (setBits_lt s.mem o (bitAt (objWord s.mem o 3) 0) true) (o := o)
  rw [← decBarrier_inert hi d short] at hbits
  refine ⟨hbits 0, (hbits 1).trans hi, hbits 2, (hbits 3).trans ?_⟩
  simp only [if_pos, setBits_eq, bitAt_toNat, Bool.toNat_true]
  omega

theorem decBarrier_words_counts {s : State} (h : memWf s.mem = true) {o d : Nat} (hi : objWord s.mem o 1 ≠ 0)
    (hd : d < objWord s.mem o 0) (short : Bool) :
    let m := (s.decBarrier o d short).mem
    objWord m o 0 = objWord s.mem o 0 - d ∧ objWord m o 1 = objWord s.mem o 1 ∧ objWord m o 2 = objWord s.mem o 2
      ∧ objWord m o 3 = objWord s.mem o 3 / 4 * 4 + 2 * (objWord s.mem o 3 / 2 % 2)
        + if short then 1 else objWord s.mem o 3 % 2 := by
  intro m
  have hlt := objWord_lt s.mem o 0
  have hpend := objWord_storePend h (v := objWord s.mem o 0 - d) (by omega) (o := o)
  have hbits := objWord_storeBits (State.store_wf h o (leBytes 4 (objWord s.mem o 0 - d)))
    (setBits_lt s.mem o (short || bitAt (objWord s.mem o 3) 0) (bitAt (objWord s.mem o 3) 1)) (o := o)
  rw [← State.storeN, ← decBarrier_counts hi hd short] at hbits
  refine ⟨(hbits 0).trans (hpend 0), (hbits 1).trans (hpend 1), (hbits 2).trans (hpend 2), (hbits 3).trans ?_⟩
  cases short
  · simp only [if_pos, setBits_eq, Bool.false_or, bitAt_toNat, Bool.false_eq_true, if_false]
    omega
  · simp only [if_pos, setBits_eq, Bool.true_or, bitAt_toNat, Bool.toNat_true]
    omega

theorem decBarrier_words_completes {s : State} (h : memWf s.mem = true) {o d : Nat} (hi : objWord s.mem o 1 ≠ 0)
    (hd : objWord s.mem o 0 ≤ d) (short : Bool) :
    let m := (s.decBarrier o d short).mem
    objWord m o 0 = objWord s.mem o 1 ∧ objWord m o 1 = objWord s.mem o 1 ∧ objWord m o 2 = (objWord s.mem o 2 + 1) % 2 ^ 32
      ∧ objWord m o 3 = objWord s.mem o 3 / 4 * 4 + 2 * (if objWord s.mem o 0 < d then 1 else objWord s.mem o 3 / 2 % 2) := by
  intro m
  have hm : m = _ := (congrArg State.mem (decBarrier_completes hi hd short)).trans (completePhase_mem ..)
  obtain ⟨h0, h1, h2, h3⟩ := objWord_storeAll h (objWord_lt s.mem o 1) (objWord_lt s.mem o 1)
    (Nat.mod_lt (objWord s.mem o 2 + 1) (Nat.two_pow_pos 32))
    (setBits_lt s.mem o false (decide (objWord s.mem o 0 < d) || bitAt (objWord s.mem o 3) 1)) (o := o)
  rw [hm]
  refine ⟨h0, h1, h2, h3.trans ?_⟩
  by_cases hover : objWord s.mem o 0 < d
  · simp [setBits_eq, hover]
  · simp [setBits_eq, bitAt_toNat, hover]

theorem decBarrier_mem_congr {s s' : State} (h : s'.mem = s.mem) (o d : Nat) (short : Bool) :
    (s'.decBarrier o d short).mem = (s.decBarrier o d short).mem := by
  have hw : ∀ j, objWord s'.mem o j = objWord s.mem o j := fun j => by rw [h]
  have hstore : ∀ a n v, (s'.storeN a n v).mem = (s.storeN a n v).mem := fun a n v => congrArg (memPutAll · a (leBytes n v)) h
  by_cases hi : objWord s.mem o 1 = 0
  · rw [decBarrier_inert hi, decBarrier_inert (by rwa [hw]), hstore, h]
  by_cases hd : d < objWord s.mem o 0
  · rw [decBarrier_counts hi hd, decBarrier_counts (by rwa [hw]) (by rwa [hw]), h]
    exact congrArg (memPutAll · _ _) (hstore ..)
  · have hd' := Nat.not_lt.mp hd
    rw [decBarrier_completes hi hd', decBarrier_completes (by rwa [hw]) (by rwa [hw]), completePhase_mem, completePhase_mem, hstore, h]

/-- An arrival changes memory as its decrement does; of a count of 0 there is none (R74, R190). -/
theorem arriveBar_mem (s : State) (c : Nat) (t : Thread) (o n : Nat) :
    (arriveBar s c t o n).1.mem = if n = 0 then s.mem else (s.decBarrier o n false).mem := by
  by_cases hn : n = 0
  · simp [arriveBar, hn]
  by_cases hi : barInit s.mem o = 0
  · simp [arriveBar, hn, hi]
  rw [if_neg hn, ← decBarrier_mem_congr (recordPosted_mem s c t o (barPhase s.mem o))]
  simp only [arriveBar, if_neg hn, if_neg hi]
  split <;> rfl

/-! ### A wait that has ended stays ended (R27, R34, R38) -/

theorem standReady_wait (now : Nat) (k : Core) (t : Thread) : (standReady now k t).wait = t.wait := by
  unfold standReady
  split <;> rfl

theorem stand_wait (now dlmax : Nat) (k : Core) (t : Thread) (x : Header) : (stand now dlmax k t x).wait = t.wait := by
  unfold stand
  split
  · unfold standCollective
    dsimp only
    split
    · rfl
    · exact standReady_wait ..
  · exact standReady_wait ..

theorem release_wait (ck : Clock) (k : Core) (t : Thread) : (release ck k t).wait = t.wait := by
  unfold release
  split
  · exact stand_wait ..
  · exact standReady_wait ..

theorem formMember_wait (ck : Clock) (ms : List Thread) (st : Status) (t : Thread) : (formMember ck ms st t).wait = t.wait := by
  simp only [formMember, countTimeout]
  split
  · rfl
  · split <;> rfl

theorem settleHold_wait (ck : Clock) (k : Core) (t : Thread) : (settleHold ck k t).wait = t.wait := by
  unfold settleHold
  split
  · exact release_wait ck k t
  · rfl

theorem settleForm_wait (ck : Clock) (k : Core) (t : Thread) : (settleForm ck k t).wait = t.wait := by
  unfold settleForm
  split
  · exact formMember_wait ..
  · rfl

/-- A thread that arrives waits for nothing (R27). -/
theorem arriveAt_wait (ck : Clock) (k : Core) (t : Thread) (h : Nat) (gtag : Option Reg) (how : Arrive) :
    (arriveAt ck k t h gtag how).wait = none := by
  unfold arriveAt
  dsimp only
  split
  · split <;> rfl
  · split
    · rfl
    · split
      · rfl
      · split
        · rfl
        · exact stand_wait ..

theorem fallThrough_wait (ck : Clock) (k : Core) (t : Thread) (how : Arrive) : (fallThrough ck k t how).wait = none := by
  unfold fallThrough
  split
  · exact arriveAt_wait ..
  · rfl

theorem fallThrough_id (ck : Clock) (k : Core) (t : Thread) (how : Arrive) : (fallThrough ck k t how).id = t.id := by
  unfold fallThrough
  split
  · exact (keeps_arriveAt ck k t _ none how).id
  · rfl

theorem fallThrough_v (ck : Clock) (k : Core) (t : Thread) (how : Arrive) : (fallThrough ck k t how).v = t.v := by
  unfold fallThrough
  split
  · exact (keeps_arriveAt ck k t _ none how).v
  · rfl

theorem keeps_countStatus (lim : Nat) (t : Thread) (st : Status) : Keeps t (countStatus lim t st) := by
  unfold countStatus
  split
  · exact keeps_countTimeout lim t
  · exact ⟨rfl, rfl, rfl, rfl, rfl⟩

theorem endWait_wait (ck : Clock) (k : Core) (t : Thread) (w : Wait) (st : Status) : (endWait ck k t w st []).wait = none :=
  fallThrough_wait ..

theorem endWait_id (ck : Clock) (k : Core) (t : Thread) (w : Wait) (st : Status) : (endWait ck k t w st []).id = t.id :=
  (fallThrough_id ..).trans (keeps_countStatus ck.escl _ st).id

/-- The status is in the register that the wait names (R42). -/
theorem endWait_v (ck : Clock) (k : Core) (t : Thread) (w : Wait) (st : Status) :
    (endWait ck k t w st []).v = t.v.set w.reg (statusReg st) :=
  (fallThrough_v ..).trans (keeps_countStatus ck.escl _ st).v

/-- Thread `t` as the end of a wait leaves it: the status in its register, and no wait. -/
structure Told (t : Thread) (reg : Nat) (st : Status) (u : Thread) : Prop where
  id : u.id = t.id
  wait : u.wait = none
  reg : readV u reg = codeOfStatus st

theorem Told.keeps {t u w : Thread} {reg : Nat} {st : Status} (h : Told t reg st u) (hk : Keeps u w) (hw : w.wait = u.wait) :
    Told t reg st w :=
  ⟨hk.id.trans h.id, hw.trans h.wait, by rw [readV, hk.v]; exact h.reg⟩

theorem told_endWait {t u : Thread} {w : Wait} (hid : u.id = t.id) (hv : w.reg < u.v.length) (ck : Clock) (k : Core) (st : Status) :
    Told t w.reg st (endWait ck k u w st []) := by
  refine ⟨(endWait_id ..).trans hid, endWait_wait .., ?_⟩
  rw [readV, endWait_v, ← codeOfStatus_eq]
  simp [hv]

theorem sawOps_frame (s : State) (t : Thread) (ops : List Nat) : sawOps s t ops = { t with seen := (sawOps s t ops).seen } := by
  unfold sawOps
  generalize ops.filter _ = l
  induction l generalizing t with
  | nil => rfl
  | cons i r ih =>
    rw [List.foldl_cons, ih, noteSeen_frame]

/-! ### Who is told of a barrier (R74, R191) -/

/-- What a thread of core `c` becomes as the waiters on the object are judged. -/
def tellBar (s : State) (o : Nat) (f : Nat → Option Status) (c : Nat) (k : Core) (t : Thread) : Thread :=
  match t.wait with
  | some w => match w.kind with
    | .barrier o' ph _ acq => if o' = o then (match f ph with | some st => endBarThread s c k t w o ph acq st | none => t) else t
    | _ => t
  | none => t

theorem endBarCore_eq (s : State) (o : Nat) (f : Nat → Option Status) (c : Nat) (k : Core) :
    endBarCore s o f c k = settleCore s.clock { k with threads := k.threads.map (tellBar s o f c k) } := rfl

theorem endBarThread_ends {s : State} {o ph c : Nat} {k : Core} {t : Thread} {w : Wait} {acq : Bool} {st : Status}
    (h : acq = false ∨ st ≠ .done) : endBarThread s c k t w o ph acq st =
      endWait s.clock k (if st == .done || st == .fault then sawPhase s t o ph else t) w st [] := by
  refine if_neg ?_
  rcases h with h | h
  · simp [h]
  · simp [h]

theorem sawPhase_id (s : State) (t : Thread) (o ph : Nat) : (sawPhase s t o ph).id = t.id := by
  rw [sawPhase, sawOps_frame]

theorem sawPhase_v (s : State) (t : Thread) (o ph : Nat) : (sawPhase s t o ph).v = t.v := by
  rw [sawPhase, sawOps_frame]

theorem endBarThread_id (s : State) (c : Nat) (k : Core) (t : Thread) (w : Wait) (o ph : Nat) (acq : Bool) (st : Status) :
    (endBarThread s c k t w o ph acq st).id = t.id := by
  have hsaw : (if st == .done || st == .fault then sawPhase s t o ph else t).id = t.id := by
    split
    · exact sawPhase_id ..
    · rfl
  unfold endBarThread
  dsimp only
  split
  · exact hsaw
  · rw [endWait_id, hsaw]

theorem tellBar_id (s : State) (o : Nat) (f : Nat → Option Status) (c : Nat) (k : Core) (t : Thread) :
    (tellBar s o f c k t).id = t.id := by
  unfold tellBar
  split
  · split
    · split
      · split
        · exact endBarThread_id ..
        · rfl
      · rfl
    · rfl
  · rfl

theorem tellBar_told {s : State} {o p n c : Nat} {acq : Bool} {f : Nat → Option Status} {st : Status} {t : Thread} {w : Wait}
    (hw : t.wait = some w) (hk : w.kind = .barrier o p n acq) (hv : w.reg < t.v.length) (hf : f p = some st)
    (hacq : acq = false ∨ st ≠ .done) (k : Core) : Told t w.reg st (tellBar s o f c k t) := by
  have htell : tellBar s o f c k t = endBarThread s c k t w o p acq st := by simp [tellBar, hw, hk, hf]
  rw [htell, endBarThread_ends hacq]
  split
  · exact told_endWait (sawPhase_id ..) (by rwa [sawPhase_v]) ..
  · exact told_endWait rfl hv ..

theorem tellBar_idle (s : State) (o : Nat) (f : Nat → Option Status) (c : Nat) (k : Core) {t : Thread} (h : t.wait = none) :
    tellBar s o f c k t = t := by
  simp [tellBar, h]

/-- The pass of R34 and R38 over one thread. -/
def settledThread (ck : Clock) (k : Core) (t : Thread) : Thread :=
  settleForm ck { k with threads := k.threads.map (settleHold ck k) } (settleHold ck k t)

theorem threadAt_settled (ck : Clock) (k : Core) (sl : Nat) :
    threadAt (settleCore ck k).threads sl = (threadAt k.threads sl).map (settledThread ck k) := by
  rw [settleCore_threads, threadAt_map fun u => (keeps_settleForm ..).id, threadAt_map fun u => (keeps_settleHold ..).id,
    Option.map_map]
  rfl

theorem Told.settled {t u : Thread} {reg : Nat} {st : Status} (h : Told t reg st u) (ck : Clock) (k : Core) :
    Told t reg st (settledThread ck k u) :=
  (h.keeps (keeps_settleHold ..) (settleHold_wait ..)).keeps (keeps_settleForm ..) (settleForm_wait ..)

/-- The thread in a slot as the end of a barrier's waits leaves it in its core. -/
theorem threadAt_endBarCore (s : State) (o : Nat) (f : Nat → Option Status) (c : Nat) (k : Core) (sl : Nat) :
    threadAt (endBarCore s o f c k).threads sl = (threadAt k.threads sl).map fun t =>
      settledThread s.clock { k with threads := k.threads.map (tellBar s o f c k) } (tellBar s o f c k t) := by
  rw [endBarCore_eq, threadAt_settled, threadAt_map (tellBar_id s o f c k), Option.map_map]
  rfl

/-! ### A change of one core, seen from the others -/

/-- The same cores, with the same threads resident. -/
structure SameThreads (s s' : State) : Prop where
  count : s'.cores.length = s.cores.length
  threads : ∀ d, (s'.core d).threads = (s.core d).threads

theorem SameThreads.refl (s : State) : SameThreads s s := ⟨rfl, fun _ => rfl⟩

theorem SameThreads.trans {s s' s'' : State} (h : SameThreads s s') (h' : SameThreads s' s'') : SameThreads s s'' :=
  ⟨h'.count.trans h.count, fun d => (h'.threads d).trans (h.threads d)⟩

theorem sameThreads_modCore {f : Core → Core} (h : ∀ k, (f k).threads = k.threads) (s : State) (c : Nat) :
    SameThreads s (s.modCore c f) :=
  ⟨by simp [State.modCore, State.withCore], fun d => proj_modCore (p := (·.threads)) h s c d⟩

theorem sameThreads_fireWake (s : State) (c : Nat) (t : Thread) (st : Status) (regs : List (Nat × Reg)) :
    SameThreads s (s.fireWake c t st regs) := ⟨rfl, fun _ => rfl⟩

theorem sameThreads_fireBarrier (s : State) (c : Nat) (t : Thread) (w : Wait) (o ph : Nat) (acq : Bool) (st : Status) :
    SameThreads s (fireBarrier s c t w o ph acq st) := by
  unfold fireBarrier
  dsimp only
  split
  · exact (sameThreads_modCore (by exact fun _ => rfl) s c).trans (sameThreads_modCore (by exact fun _ => rfl) _ c)
  · exact (sameThreads_modCore (by exact fun _ => rfl) s c).trans (sameThreads_fireWake ..)

theorem sameThreads_foldl {α : Type} {g : State → α → State} (hg : ∀ s x, SameThreads s (g s x)) (l : List α) (s : State) :
    SameThreads s (l.foldl g s) := by
  induction l generalizing s with
  | nil => exact .refl s
  | cons x r ih => exact (hg s x).trans (ih (g s x))

theorem sameThreads_fireSaved (o : Nat) (f : Nat → Option Status) (s : State) (c : Nat) : SameThreads s (fireSaved o f s c) := by
  unfold fireSaved
  refine sameThreads_foldl (fun s t => ?_) _ s
  split
  · split
    · split
      · split
        · exact sameThreads_fireBarrier ..
        · exact .refl s
      · exact .refl s
    · exact .refl s
  · exact .refl s

/-! ### The end of a barrier's waits (R74) -/

/-- What the end of a barrier's waits does in one of the two cores that reach the object. -/
def endBarAt (o : Nat) (f : Nat → Option Status) (s : State) (c : Nat) : State :=
  fireSaved o f (s.modCore c (endBarCore s o f c)) c

theorem endBarrier_eq (s : State) (o : Nat) (f : Nat → Option Status) :
    s.endBarrier o f = endBarAt o f (endBarAt o f s (sliceCore o)) (partnerOf (sliceCore o)) := rfl

section EndBarAt
variable {o : Nat} {f : Nat → Option Status} {s : State}

theorem endBarAt_count (o : Nat) (f : Nat → Option Status) (s : State) (c : Nat) :
    (endBarAt o f s c).cores.length = s.cores.length := by
  rw [endBarAt, (sameThreads_fireSaved ..).count]
  simp [State.modCore, State.withCore]

theorem thread_endBarAt_ne {c d : Nat} (h : d ≠ c) (sl : Nat) : (endBarAt o f s c).thread d sl = s.thread d sl := by
  rw [State.thread, endBarAt, (sameThreads_fireSaved ..).threads, State.modCore, State.core_withCore_ne _ _ _ _ h, State.thread]

theorem thread_endBarAt {c : Nat} (hc : c < s.cores.length) (sl : Nat) : ∃ k, (endBarAt o f s c).thread c sl =
    (s.thread c sl).map fun t => settledThread s.clock k (tellBar s o f c (s.core c) t) := by
  rw [State.thread, endBarAt, (sameThreads_fireSaved ..).threads, core_modCore hc, threadAt_endBarCore]
  exact ⟨_, rfl⟩

/-- A waiter of the core is told. -/
theorem told_endBarAt {c p n : Nat} {acq : Bool} {st : Status} {t : Thread} {w : Wait} (hc : c < s.cores.length)
    (ht : s.thread c t.id.slot = some t) (hw : t.wait = some w) (hk : w.kind = .barrier o p n acq) (hv : w.reg < t.v.length)
    (hf : f p = some st) (hacq : acq = false ∨ st ≠ .done) :
    ∃ u, (endBarAt o f s c).thread c t.id.slot = some u ∧ Told t w.reg st u := by
  obtain ⟨k, hat⟩ := thread_endBarAt (o := o) (f := f) hc t.id.slot
  rw [ht, Option.map_some] at hat
  exact ⟨_, hat, (tellBar_told hw hk hv hf hacq _).settled ..⟩

/-- Who has been told stays as it is, whichever core is next. -/
theorem told_endBarAt_next {c d sl reg : Nat} {st : Status} {t u : Thread} (hd : d < s.cores.length)
    (hu : s.thread d sl = some u) (htold : Told t reg st u) :
    ∃ u', (endBarAt o f s c).thread d sl = some u' ∧ Told t reg st u' := by
  by_cases h : d = c
  · subst h
    obtain ⟨k, hat⟩ := thread_endBarAt (o := o) (f := f) hd sl
    rw [hu, Option.map_some, tellBar_idle _ _ _ _ _ htold.wait] at hat
    exact ⟨_, hat, htold.settled ..⟩
  · exact ⟨u, by rwa [thread_endBarAt_ne h], htold⟩

/-- Every resident waiter on the object for whom there is a status gets it (R74, R191). -/
theorem endBarrier_tells {c p n : Nat} {acq : Bool} {st : Status} {t : Thread} {w : Wait}
    (hreach : c = sliceCore o ∨ c = partnerOf (sliceCore o)) (hc : c < s.cores.length) (ht : s.thread c t.id.slot = some t)
    (hw : t.wait = some w) (hk : w.kind = .barrier o p n acq) (hv : w.reg < t.v.length) (hf : f p = some st)
    (hacq : acq = false ∨ st ≠ .done) : ∃ u, (s.endBarrier o f).thread c t.id.slot = some u ∧ Told t w.reg st u := by
  rw [endBarrier_eq]
  by_cases hown : c = sliceCore o
  · subst hown
    obtain ⟨u, hu, htold⟩ := told_endBarAt hc ht hw hk hv hf hacq
    exact told_endBarAt_next (by rwa [endBarAt_count]) hu htold
  · obtain rfl := hreach.resolve_left hown
    exact told_endBarAt (by rwa [endBarAt_count]) (by rwa [thread_endBarAt_ne hown]) hw hk hv hf hacq

end EndBarAt

/-! ### Bytes counted at a tag (R76) -/

theorem tagAt_setTag {s : State} {h : Nat} (hh : h < s.cores.length) (n : Nat) (x : Tag) : tagAt (s.setTag h n x) h n = x := by
  rw [tagAt, State.setTag, core_modCore hh]
  exact tblGet_tblPut_self ..

theorem tagQueue_setTag (s : State) (h n : Nat) (x : Tag) : tagQueue (s.setTag h n x) h n = tagQueue s h n := by
  have hthreads := (sameThreads_modCore (f := fun k => { k with tags := tblPut k.tags n x }) (fun _ => rfl) s h).threads
  simp only [tagQueue, State.setTag, hthreads]

/-- A tag that nobody waits at serves nobody. -/
theorem settleTag_of_empty {s : State} {h n : Nat} (hq : tagQueue s h n = []) (fuel : Nat) : s.settleTag h n fuel = s := by
  cases fuel with
  | zero => rfl
  | succ fuel => simp [State.settleTag, hq]

theorem tagAt_countTag {s : State} {h n : Nat} (hh : h < s.cores.length) (hq : tagQueue s h n = []) (b : Nat) (short : Bool) :
    tagAt (s.countTag h n b short) h n =
      if (tagAt s h n).st = 1 then
        { tagAt s h n with short := (tagAt s h n).short || short, stray := (tagAt s h n).stray || decide ((tagAt s h n).count < b),
                           count := (tagAt s h n).count - b, st := if (tagAt s h n).count ≤ b then 2 else 1 }
      else { tagAt s h n with stray := true } := by
  by_cases hst : (tagAt s h n).st = 1
  · rw [State.countTag, if_pos hst, if_pos hst, settleTag_of_empty (by rwa [tagQueue_setTag]), tagAt_setTag hh]
  · rw [State.countTag, if_neg hst, if_neg hst, tagAt_setTag hh]

/-! ### An arrival and a wait in one word (R192) -/

section Arrives
variable {s : State} {o n : Nat} (c : Nat) (t : Thread)

theorem arriveBar_inert (hi : objWord s.mem o 1 = 0) : objWord (arriveBar s c t o n).1.mem o 1 = 0 := by
  rw [arriveBar_mem]
  split
  · exact hi
  · rw [decBarrier_inert hi]
    exact (memRead_storeN_out s (by omega) _).trans hi

/-- An arrival that does not complete the phase keeps INIT and PHASE. -/
theorem arriveBar_counts (h : memWf s.mem = true) (hi : objWord s.mem o 1 ≠ 0) (hn : n = 0 ∨ n < objWord s.mem o 0) :
    objWord (arriveBar s c t o n).1.mem o 1 = objWord s.mem o 1 ∧ objWord (arriveBar s c t o n).1.mem o 2 = objWord s.mem o 2 := by
  rw [arriveBar_mem]
  split
  · exact ⟨rfl, rfl⟩
  · next hn0 =>
    obtain ⟨-, h1, h2, -⟩ := decBarrier_words_counts h hi (hn.resolve_left hn0) false
    exact ⟨h1, h2⟩

/-- One that completes it keeps INIT, and the phase is another. -/
theorem arriveBar_completes (h : memWf s.mem = true) (hi : objWord s.mem o 1 ≠ 0) (h0 : 0 < n) (hn : objWord s.mem o 0 ≤ n) :
    objWord (arriveBar s c t o n).1.mem o 1 = objWord s.mem o 1 ∧ objWord (arriveBar s c t o n).1.mem o 2 ≠ objWord s.mem o 2 := by
  rw [arriveBar_mem, if_neg (by omega)]
  obtain ⟨-, h1, h2, -⟩ := decBarrier_words_completes h hi hn false
  refine ⟨h1, ?_⟩
  rw [h2]
  have hlt := objWord_lt s.mem o 2
  omega

end Arrives

/-! ### O41 -/

theorem taken_mem (s : State) (a : Access) : (taken s a).mem = s.mem := rfl

theorem tagAt_taken (s : State) (a : Access) (h n : Nat) : tagAt (taken s a) h n = tagAt s h n := tagAt_modThread ..

/-- The kinds that no other thread's access of the core comes before, filter rows apart (R80, R179, R184). -/
def actsAlone : AccKind → Bool
  | .store _ | .tblld _ | .cntf .. => false
  | _ => true

theorem earlierTable_of {k : Core} {a : Access} (h : ∀ l, a.kind ≠ .tblld l) : earlierTable k a = false := by
  unfold earlierTable
  split
  · exact absurd ‹_› (h _)
  · rfl

theorem earlierTwin_of {k : Core} {t : Thread} {a : Access} (h : ∀ v, a.kind ≠ .store v) : earlierTwin k t a = false := by
  unfold earlierTwin
  split
  · exact absurd ‹_› (h _)
  · rfl

theorem commits {s : State} {t : Thread} {a : Access} (h : Ripe s t a) (hk : actsAlone a.kind = true) {x : State}
    (hx : (taken s a).commitAcc s.cur t a = x) : exec .directAccessCommit s = .next (looked s.cur x) := by
  rw [← hx]
  refine exec_directAccessCommit h (earlierTwin_of fun v hv => ?_) (earlierTable_of fun l hl => ?_) ?_
  · simp [hv, actsAlone] at hk
  · simp [hl, actsAlone] at hk
  · unfold isCntf
    split
    · next hc => simp [hc, actsAlone] at hk
    · rfl

theorem commits_store {s : State} {t : Thread} {a : Access} {v : Quad} (h : Ripe s t a) (hk : a.kind = .store v)
    (hsize : a.size ≤ 8) (htwin : earlierTwin (s.core s.cur) t a = false) : exec .directAccessCommit s =
      .next (looked s.cur (((taken s a).store a.phys (leBytes a.size v.toNat)).inertWaits a.phys)) := by
  rw [← commitAcc_store (t := t) hk hsize s.cur]
  exact exec_directAccessCommit h htwin (earlierTable_of (by simp [hk])) (by simp [isCntf, hk])

theorem commits_row {s : State} {t : Thread} {a : Access} {add : Bool} {r key inc least d : Nat} (h : Ripe s t a)
    (hk : a.kind = .cntf add r key inc least d) (hrow : rowFree s a = true) {x : State}
    (hx : (taken s a).commitAcc s.cur t a = x) : exec .cntfRowServe s = .next (looked s.cur x) := by
  rw [← hx]
  exact exec_cntfRowServe h (earlierTwin_of (by simp [hk])) (earlierTable_of (by simp [hk])) (by simp [isCntf, hk]) hrow

section Commits
variable {s : State} {t : Thread} {a : Access} (h : Ripe s t a)
include h

theorem commits_load {d : Nat} {sext : Bool} (hk : a.kind = .load d sext) (hplain : t.spec = .plain) (hi : a.inv = false) :
    exec .directAccessCommit s = .next (looked s.cur ((taken s a).modThread s.cur s.sub
      (lands a (landsAt s a) (loadRegs d a.size sext (memRead s.mem a.phys a.size))))) := by
  rw [← State.thread_slot h.thread]
  exact commits h (by rw [hk]; rfl) (commitAcc_load hk hplain hi _)

theorem commits_atom {op : Nat} {ty : Ty} {b cmp : Quad} {d : Nat} (hk : a.kind = .atom op ty b cmp d) :
    let old := memRead s.mem a.phys a.size
    exec .directAccessCommit s = .next (looked s.cur
      ((((taken s a).store a.phys (leBytes a.size (atomNew op ty old b.toNat cmp.toNat))).inertWaits a.phys).modThread s.cur s.sub
        (lands a (landsAt s a) (oldRegs d ty old)))) := by
  rw [← State.thread_slot h.thread]
  exact commits h (by rw [hk]; rfl) (commitAcc_atom hk _)

theorem commits_lastRow {add : Bool} {key inc least d : Nat} (hk : a.kind = .cntf add 3 key inc least d)
    (hplain : t.spec = .plain) (hi : a.inv = false) (hrow : rowFree s a = true) :
    let old := memRead s.mem a.phys a.size
    let x := if add then min (old + inc) 0xFFFF else old
    let y := if add then ((taken s a).store a.phys (leBytes 2 x)).inertWaits a.phys else taken s a
    exec .cntfRowServe s = .next (looked s.cur (y.modThread s.cur s.sub
      (lands a (y.cycle + 6) [(d, BitVec.ofNat 32 (min least x))]))) := by
  rw [← State.thread_slot h.thread]
  exact commits_row h hk hrow (commitAcc_lastRow hk hplain hi _)

theorem commits_arrive {n d : Nat} (hk : a.kind = .barArrive n d) : exec .directAccessCommit s =
    .next (looked s.cur ((arriveBar (taken s a) s.cur t a.phys n).1.modThread s.cur t.id.slot (lands a (landsAt s a)
      [(d, BitVec.ofNat 32 (memRead s.mem (a.phys + 8) 4)), (d + 1, BitVec.ofNat 32
        (if n < memRead s.mem a.phys 4 ∧ ¬ memRead s.mem (a.phys + 4) 4 = 0 then n else 0))]))) :=
  commits h (by rw [hk]; rfl) (commitAcc_arrive hk _)

/-- BAR.WAIT: the object is inert, the phase has passed, the deadline has, or the wait goes on (R191, R430). -/
theorem commits_wait {p n : Nat} (hk : a.kind = .barWait p n false) :
    let does (x : State) : Prop := exec .directAccessCommit s = .next (looked s.cur x)
    let inert := memRead s.mem (a.phys + 4) 4 = 0
    let ph := memRead s.mem (a.phys + 8) 4
    (inert → does ((taken s a).endWaitAt s.cur t.id.slot .absent []))
    ∧ (¬ inert → ph ≠ p → does (((taken s a).modThread s.cur t.id.slot fun u => sawPhase (taken s a) u a.phys p).endWaitAt s.cur
        t.id.slot .done []))
    ∧ (¬ inert → ph = p → waitPassed (taken s a) t = true →
        does (((taken s a).withdraw s.cur t a.phys p n).endWaitAt s.cur t.id.slot .timeout []))
    ∧ (¬ inert → ph = p → ¬ waitPassed (taken s a) t = true →
        does ((taken s a).waitAs s.cur t.id.slot (.barrier a.phys p n false))) := by
  have hmeet : ∀ {x}, (taken s a).meetBarrier s.cur t a.phys p n false = x → exec .directAccessCommit s = .next (looked s.cur x) :=
    fun hx => commits h (by rw [hk]; rfl) ((commitAcc_wait hk _).trans hx)
  refine ⟨fun hi => hmeet ?_, fun hi hp => hmeet ?_, fun hi hp hlate => hmeet ?_, fun hi hp hlate => hmeet ?_⟩
  · exact meetBarrier_inert (s := taken s a) hi ..
  · exact meetBarrier_passed (s := taken s a) hi hp ..
  · exact meetBarrier_late (s := taken s a) hi hp hlate ..
  · exact meetBarrier_waits (s := taken s a) hi hp (Bool.eq_false_of_not_eq_true hlate) ..

/-- BAR.ARWT: its own arrival may complete the phase that it then waits for (R192). -/
theorem commits_arwt {n : Nat} (hk : a.kind = .barArwt n) :
    let does (x : State) : Prop := exec .directAccessCommit s = .next (looked s.cur x)
    let inert := memRead s.mem (a.phys + 4) 4 = 0
    let ph := memRead s.mem (a.phys + 8) 4
    let pend := memRead s.mem a.phys 4
    let x := (arriveBar (taken s a) s.cur t a.phys n).1
    let cnt := if n < pend ∧ ¬ inert then n else 0
    (inert → does (x.endWaitAt s.cur t.id.slot .absent []))
    ∧ (¬ inert → n = 0 ∨ n < pend → memWf s.mem = true → waitPassed x t = true →
        does ((x.withdraw s.cur t a.phys ph cnt).endWaitAt s.cur t.id.slot .timeout []))
    ∧ (¬ inert → 0 < n → pend ≤ n → memWf s.mem = true →
        does ((x.modThread s.cur t.id.slot fun u => sawPhase x u a.phys ph).endWaitAt s.cur t.id.slot .done []))
    ∧ (¬ inert → n = 0 ∨ n < pend → memWf s.mem = true → waitPassed x t = false →
        does (x.waitAs s.cur t.id.slot (.barrier a.phys ph cnt false))) := by
  intro does inert ph pend x cnt
  have hmeet : ∀ {y}, x.meetBarrier s.cur t a.phys ph cnt false = y → does y :=
    fun hy => commits h (by rw [hk]; rfl) ((commitAcc_arwt hk _).trans hy)
  refine ⟨fun hi => hmeet ?_, fun hi hn hwf hlate => hmeet ?_, fun hi h0 hn hwf => hmeet ?_, fun hi hn hwf hlate => hmeet ?_⟩
  · exact meetBarrier_inert (arriveBar_inert (s := taken s a) _ t hi) ..
  · obtain ⟨h1, h2⟩ := arriveBar_counts (s := taken s a) s.cur t hwf hi hn
    exact meetBarrier_late (fun h0 => hi (h1.symm.trans h0)) h2 hlate ..
  · obtain ⟨h1, h2⟩ := arriveBar_completes (s := taken s a) s.cur t hwf hi h0 hn
    exact meetBarrier_passed (fun h0 => hi (h1.symm.trans h0)) h2 ..
  · obtain ⟨h1, h2⟩ := arriveBar_counts (s := taken s a) s.cur t hwf hi hn
    exact meetBarrier_waits (fun h0 => hi (h1.symm.trans h0)) h2 hlate ..

theorem commits_claim {n m : Nat} (hk : a.kind = .slotClaim n m) {x : State}
    (hx : (taken s a).meetTag s.cur t (a.phys / 1024) n (some m) = x) : exec .directAccessCommit s = .next (looked s.cur x) :=
  commits h (by rw [hk]; rfl) ((commitAcc_claim hk _).trans hx)

theorem commits_take {n : Nat} (hk : a.kind = .slotTake n) {x : State}
    (hx : (taken s a).meetTag s.cur t (a.phys / 1024) n none = x) : exec .directAccessCommit s = .next (looked s.cur x) :=
  commits h (by rw [hk]; rfl) ((commitAcc_take hk _).trans hx)

theorem commits_free {n d : Nat} (hk : a.kind = .slotFree n d) : exec .directAccessCommit s = .next (looked s.cur
    (((taken s a).freeTag (a.phys / 1024) n).1.modThread s.cur t.id.slot
      (answers s a d ((taken s a).freeTag (a.phys / 1024) n).2))) :=
  commits h (by rw [hk]; rfl) (commitAcc_free hk _)

end Commits

/-- SLOT.CLAIM or SLOT.TAKE of a tag that is not ready for it (R193, R430). -/
theorem commits_tagWait {s : State} {t : Thread} {a : Access} {n : Nat} {claim : Option Nat}
    (hmeet : ∀ {x}, (taken s a).meetTag s.cur t (a.phys / 1024) n claim = x → exec .directAccessCommit s = .next (looked s.cur x))
    (hst : (tagAt s (a.phys / 1024) n).st ≠ if claim.isSome then 0 else 2) :
    let does (x : State) : Prop := exec .directAccessCommit s = .next (looked s.cur x)
    (waitPassed (taken s a) t = true → does ((taken s a).endWaitAt s.cur t.id.slot .timeout []))
    ∧ (¬ waitPassed (taken s a) t = true → does ((taken s a).waitAs s.cur t.id.slot (.tag (a.phys / 1024) n claim))) := by
  rw [← tagAt_taken s a] at hst
  exact ⟨fun hlate => hmeet (meetTag_late hst hlate _), fun hlate => hmeet (meetTag_waits hst hlate _)⟩

theorem taken_claims {s : State} {a : Access} {h n : Nat} (hfree : (tagAt s h n).st = 0) (m c : Nat) (t : Thread) :
    (taken s a).meetTag c t h n (some m) = (((taken s a).setTag h n ⟨if m = 0 then 2 else 1, false, false,
      if m = 0 then (tagAt s h n).count else m, ((tagAt s h n).gen + 1) % 2 ^ 32, []⟩).endWaitAt c t.id.slot .done []).settleTag h n 4 := by
  rw [← tagAt_taken s a] at hfree ⊢
  exact meetTag_claims hfree m c t

theorem taken_takes {s : State} {a : Access} {h n : Nat} (hfull : (tagAt s h n).st = 2) (c : Nat) (t : Thread) :
    (taken s a).meetTag c t h n none = (((((taken s a).modThread c t.id.slot fun u => sawOps (taken s a) u (tagAt s h n).ops).setTag h n
      { tagAt s h n with st := 3 }).endWaitAt c t.id.slot (if (tagAt s h n).short then .fault else .done) []).settleTag h n 4) := by
  rw [← tagAt_taken s a] at hfull ⊢
  exact meetTag_takes hfull c t

/-- Settles O41: the order, cycle and value of an access by the definitions, each kind's commit by its own lemma, the words of a
barrier by the stores of its decrement, and the end of a wait by the two cores that reach the object. -/
theorem accessesTakeEffectAtTheirCommit : Obligations.AccessesTakeEffectAtTheirCommit := by
  unfold Obligations.AccessesTakeEffectAtTheirCommit
  refine ⟨fun x y hx hy => mayPass_iff hx hy, loadRegs_pair, fun d v n hn hv => ⟨loadRegs_sign d v n hn hv, loadRegs_zero d v n hn hv⟩,
    fun s a hc ht => ⟨dueCycle_own hc ht, dueCycle_partner hc ht⟩, ?_, ?_, arriveBar_mem, ?_,
    fun s h n b short hh hq => tagAt_countTag hh hq b short⟩
  case refine_1 =>
    intro s t a ht ha hpass hplain _ hdue hrel
    have h : Ripe s t a := ⟨ht, ha, hpass, hdue, hrel⟩
    refine ⟨fun d sext hk hi => commits_load h hk hplain hi, fun v hk hsize htwin => commits_store h hk hsize htwin,
      fun op ty b x d hk => commits_atom h hk, fun add q inc least d hk hi hrow => commits_lastRow h hk hplain hi hrow,
      ⟨fun n hk => commits h (by rw [hk]; rfl) (commitAcc_init hk _), fun n d hk => commits_arrive h hk,
        fun p n hk => commits_wait h hk, fun n hk => commits_arwt h hk⟩, fun n m hk => ?_, fun n hk => ?_, fun n d hk => ?_⟩
    · exact ⟨fun hst => commits_claim h hk (taken_claims hst ..), fun hst => (commits_tagWait (commits_claim h hk) hst).1,
        fun hst => (commits_tagWait (commits_claim h hk) hst).2⟩
    · exact ⟨fun hst => commits_take h hk (taken_takes hst ..), fun hst => (commits_tagWait (commits_take h hk) hst).1,
        fun hst => (commits_tagWait (commits_take h hk) hst).2⟩
    · have hfree := commits_free h hk
      refine ⟨fun hst => ?_, fun hst => ?_⟩
      · rw [← tagAt_taken s a] at hst
        rw [freeTag_taken hst, tagAt_taken] at hfree
        exact hfree
      · rw [← tagAt_taken s a] at hst
        rw [freeTag_other hst] at hfree
        exact hfree
  case refine_2 =>
    intro s o n hwf hn P apart past rest
    obtain ⟨h0, h1, h2, h3⟩ := initBarrier_words hwf hn (o := o)
    exact ⟨⟨h0, h1, h2, h3, onlyObject_initBarrier s o n⟩, fun d short _ => ⟨onlyObject_decBarrier s o d short,
      fun hi => decBarrier_words_inert hwf hi d short, fun hi hd => decBarrier_words_counts hwf hi hd short,
      fun hi hd => decBarrier_words_completes hwf hi hd short⟩⟩
  case refine_3 =>
    intro s c o p n acq f st t w hreach hc ht _ hw hk hv hf hacq
    obtain ⟨u, hu, htold⟩ := endBarrier_tells hreach hc ht hw hk hv hf hacq
    exact ⟨u, hu, htold.id, htold.wait, htold.reg⟩

end Sys2Proof.MemorySeen
end

section
/-! Proofs for the family of the ordering machine: what a fence waits for, where a tiller's thread suspends, and the events of the
Granary and of the pager. -/

namespace Sys2Proof.Ordering

open Sys2Proof Sys2Proof.Machine Sys2Proof.Spec Sys2Proof.Laws Sys2Proof.Scope Sys2Proof.Sheaves

/-! ### FENCE (R88, R89, R195, R196) -/

/-- Without tillers on the core, a word of waits acts in each thread as its meaning says of a thread that runs none. -/
theorem runsOnIf_of_wordMap {i : Instr} {f g : Env → Thread → TRes} (hx : ∀ s, exec i s = .next (settleWord (wordMap i f s)))
    (hfg : ∀ e t, runsTiller t = false → f e t = g e t) : RunsOnIf noTillers i g := by
  intro s e h hn
  rw [hx, wordMap_spec h, after_congr fun t ht => hfg e t (hn t ht)]

/-- A thread that runs no tiller has nothing held for it. -/
theorem heldClear_of_not_runsTiller (s : State) {t : Thread} (h : runsTiller t = false) : heldClear s t = true := by
  have hnone : (specs t).filterMap runKey = [] :=
    List.filterMap_eq_nil_iff.mpr fun y hy => by simpa using List.any_eq_false.mp h y hy
  rw [heldClear, heldItems, hnone]
  rfl

/-- A fence at issue waits for every access of its thread: none is left just when the queues are empty. -/
theorem any_own_access_eq_false (l : List Access) : (l.any fun a => (l.map (·.id)).contains a.id) = false ↔ l = [] := by
  cases l <;> simp

/-- A fence at issue, of a thread that runs no tiller: its accesses have committed, every masked class is drained (R89). -/
theorem fenceDone_iff (s : State) (c : Nat) {t : Thread} (h : runsTiller t = false) (scope m : Nat) :
    fenceDone s c t scope (m % 32) (t.acc.map (·.id)) = true ↔ t.acc = [] ∧ ∀ k < 5, m.testBit k = true →
      (∀ o ∈ s.ops, o.core = c → o.cls = k → o.launch = t.id.launch → t.id.tid ∉ o.threads)
      ∧ (4 ≤ scope → ∀ p ∈ s.posted, p.core = c → p.tid = t.id.tid → p.launch = t.id.launch → p.cls ≠ k) := by
  simp only [fenceDone, heldClear_of_not_runsTiller s h, Bool.true_and, Bool.and_eq_true, Bool.not_eq_true', any_own_access_eq_false,
    List.all_eq_true, List.mem_range, Bool.or_eq_true, ← drained_iff]
  refine and_congr_right fun _ => forall₂_congr fun k hk => ?_
  rw [bitAt_eq_testBit, show 32 = 2 ^ 5 from rfl, Nat.testBit_mod_two_pow, decide_eq_true hk, Bool.true_and, ← Bool.not_eq_true,
    imp_iff_not_or]

theorem fenceWord_eq (f : Full) (e : Env) (t : Thread) : fenceWord f e t =
    if fenceDone e.s e.c t (f.opx.toNat % 8) (f.a.toNat % 32) (t.acc.map (·.id)) then
      .ok (status (writeV (sawClasses e.s e.c t (f.a.toNat % 32)) (f.d.toNat + 1) (BitVec.ofNat 32 (f.a.toNat % 32))) f.d.toNat .done)
    else .ok (waiting e t (.fence (f.opx.toNat % 8) (f.a.toNat % 32) (t.acc.map (·.id)) []) .future f.dsel.toNat f.d.toNat) := by
  simp only [fenceWord, opxN, waiting_eq, status_eq _ _ _ .done (by decide)]

/-- Settles O29: the word by its meaning, the condition by `fenceDone_iff`. -/
theorem fenceWaitsForItsScope : Obligations.FenceWaitsForItsScope := by
  unfold Obligations.FenceWaitsForItsScope
  intro f
  exact ⟨fun e t => fenceDone e.s e.c t (f.opx.toNat % 8) (f.a.toNat % 32) (t.acc.map (·.id)),
    runsOnIf_of_wordMap (fun _ => rfl) fun e t _ => fenceWord_eq f e t,
    fun e t ht => fenceDone_iff e.s e.c ht (f.opx.toNat % 8) f.a.toNat⟩

/-! ### O25: where a suspended thread stands (R261, R353) -/

/-- A word whose one taker runs a tiller acts as its tillers' meaning says of that thread. -/
theorem wordMix_alone {s : State} {e : Env} {i : Instr} {t : Thread} {f : Env → Thread → TRes} {g : Env → Thread → State → State}
    (he : s.env = some e) (ha : Alone e i t) (hrun : runsTiller t = true) : wordMix i f g s = g e t s := by
  obtain ⟨hs, hc, hk, -⟩ := env_spec he
  have ⟨hone, hat, _, hlegal⟩ := ha
  have hkeep : e.k.threads.map (fun u : Thread =>
      if (runsTiller u && takesWord e i u && legalHere e i u) = true then u else runThread e i f u) = e.k.threads := by
    refine (List.map_congr_left fun u hu => ?_).trans (List.map_id e.k.threads)
    by_cases hw : takesWord e i u = true
    · rw [if_pos]
      · rfl
      · rw [hw, hlegal u hu hw, eq_of_alone ha hu hw, hrun]
        rfl
    · rw [runThread, if_neg hw, ite_self, id]
  have hsame : s.withCore e.c { e.k with threads := e.k.threads } = s := by
    rw [hc, hk]
    exact State.withCore_core s s.cur
  have hthread : s.thread e.c t.id.slot = some t := by
    rw [hc]
    simpa only [State.thread, hk] using hat
  simp only [wordMix, he, hkeep, hsame, hone, List.filter_cons, List.filter_nil, hat, hrun, if_true, List.foldl_cons, List.foldl_nil,
    foldTurn, hthread, inSheaf_of_alone ha]

/-- At an atomic outside its output buffer the thread of a tiller suspends, at the word (R92, R261). -/
theorem exec_atom_suspends {s : State} {e : Env} {f : Full} {t : Thread} {p : Nat} {w : Path} (he : s.env = some e)
    (ha : Alone e (.atom f) t) (hrun : runsTiller t = true) (hdet : isDetached t = false)
    (hchk : checkAcc e t (a32 f t) (tyBits f.ty / 8) (tyBits f.ty / 8) true true = .at_ p w)
    (hheld : heldFor (outBy (a32 f t) (tyBits f.ty / 8)) t ≠ []) :
    exec (.atom f) s = .next (s.withThread e.c (suspend e t)) := by
  have hexec : exec (.atom f) s = .next (wordMix (.atom f) (atomWord f) (atomTiller f) s) := rfl
  have hchk' : checkAcc e t (readV t f.a.toNat) (tyBytes f.ty) (tyBytes f.ty) true true = .at_ p w := hchk
  have hheld' : heldFor (outBy (readV t f.a.toNat) (tyBytes f.ty)) t ≠ [] := hheld
  rw [hexec, wordMix_alone he ha hrun]
  simp [atomTiller, atomWord, hchk', hdet, hheld', suspendAt]

/-- An atomic ADD on the word at the local address in V0. -/
def lateAdd : Full :=
  { d := 1, a := 0, b := 0, g := 0, ng := false, fsel := false, dsel := 0, ty := .n32, rm := .rne, sat := false, ub := false, opx := 0 }

/-- A thread in its sheaf at word 1 of the clause at 0, which runs the tiller of entry 0 of die 0, without output buffer. -/
def tillerThread : Thread :=
  { newThread ⟨0, 1, false, 1, 0, 0, 1, 64⟩ with pos := ⟨.inSheaf, 0, 0, 1, none, 1, 0, none, 0⟩, spec := .running 0 0 1 0 0 }

/-- Word 1 of the clause at 0 at issue, for the thread in slot 0. -/
def wordOne : Issue :=
  { sup := false, hdr := 0, head := ⟨1, 0, 15, 15, false, 0, false⟩, widx := 1, slots := [0], first := 1, next := 0, wrote := [],
    stalled := none, half := none, stalls := 0, start := 0, mark := none, groups := [] }

/-- That thread alone on core 0, with the word at issue. -/
def atWordOne : State := State.reset.withCore 0 { Core.reset with threads := [tillerThread], issue := some wordOne }

/-- What the word reads there. -/
def envAtWordOne : Env := ⟨atWordOne, 0, atWordOne.core 0, wordOne, atWordOne.clock⟩

/-- The word index at which the thread in slot 0 of core 0 stands. -/
def wordIndex (s : State) : Option Nat := (s.thread 0 0).map (·.pos.widx)

/-- Refutes O25: its suspended thread stands at word 0 of its clause, where the model, as R261 says, keeps it at the word that it is
to execute again: here an atomic at word 1, the first that a clause can have. -/
theorem not_tillersHoldTheirStores : ¬ Obligations.TillersHoldTheirStores := by
  intro h
  have he : atWordOne.env = some envAtWordOne := rfl
  have halone : Alone envAtWordOne (.atom lateAdd) tillerThread := by unfold Alone; decide
  obtain ⟨-, hatom⟩ := h lateAdd atWordOne envAtWordOne tillerThread 0 0 1 0 0 0x040000000000 .own he rfl
  have hstop := hatom halone rfl (by decide)
  rw [exec_atom_suspends he halone rfl rfl rfl (by decide)] at hstop
  have hword := congrArg wordIndex (Host.Outcome.next.inj hstop)
  revert hword
  decide

/-! ### The commit of a tiller (R93, R260, R261, R263) -/

theorem entryAt_key {s : State} {die ix : Nat} {x : Entry} (h : entryAt s die ix = some x) : x.die = die ∧ x.ix = ix := by
  simpa using List.find?_some h

/-- A held store without a release, of a value of at most 8 bytes. -/
def heldPlain (h : Held) : Prop := ∃ a v, h = .store a ∧ a.kind = .store v ∧ a.rel = false ∧ a.size ≤ 8

/-- What the commit of a held store leaves: its bytes, and no wait on a barrier that they make inert (R74, R81). -/
def putHeld (s : State) (h : Held) : State := match h with
  | .store a => (match a.kind with | .store v => (s.store a.phys (leBytes a.size v.toNat)).inertWaits a.phys | _ => s)
  | _ => s

theorem releaseItem_eq_putHeld {h : Held} (hp : heldPlain h) (s : State) : s.releaseItem h = putHeld s h := by
  obtain ⟨a, v, rfl, hk, -, hsize⟩ := hp
  simp only [State.releaseItem, State.storeAcc, putHeld, hk, if_neg (not_lt.mpr hsize)]
  rfl

theorem foldl_releaseItem_eq {items : List Held} (h : ∀ y ∈ items, heldPlain y) (s : State) :
    items.foldl State.releaseItem s = items.foldl putHeld s := by
  induction items generalizing s with
  | nil => rfl
  | cons y r ih =>
    rw [List.foldl_cons, List.foldl_cons, releaseItem_eq_putHeld (h y List.mem_cons_self)]
    exact ih (fun z hz => h z (List.mem_cons_of_mem _ hz)) _

/-- Plain stores wait for no release. -/
theorem releasesHold_of_plain (s : State) (x : Entry) {items : List Held} (h : ∀ y ∈ items, heldPlain y) :
    releasesHold s x items = true := by
  refine List.all_eq_true.mpr fun y hy => ?_
  obtain ⟨a, v, rfl, -, hrel, -⟩ := h y hy
  simp [hrel]

/-- Plain stores set no further work of the Granary off. -/
theorem heldActs_of_plain (launch : Nat) {items : List Held} (h : ∀ y ∈ items, heldPlain y) : heldActs launch items = [] := by
  refine List.filterMap_eq_nil_iff.mpr fun y hy => ?_
  obtain ⟨a, v, rfl, -⟩ := h y hy
  rfl

/-- The commit step of a tiller whose released items are plain stores: they reach the slice, then it is committed. -/
theorem commitOne_plain {s : State} {x : Entry} (h : ∀ y ∈ releasedItems s x, heldPlain y) (hanc : ancestorsDone s x = true)
    (hres : residentOf s x = true) : s.commitOne x =
      (((releasedItems s x).foldl putHeld s).takeItems x (releasedItems s x)).committed x [] := by
  simp only [State.commitOne, releasesHold_of_plain s x h, hanc, hres, heldActs_of_plain x.launch h, foldl_releaseItem_eq h]
  rfl

/-- Nothing to take from the provisional stores leaves the machine as it is. -/
theorem takeItems_nil (s : State) (x : Entry) : s.takeItems x [] = s := by
  have hid : (fun z : Entry => if z.holders == x.holders then { z with prov := z.prov.filter fun h => !([] : List Held).contains h } else z)
      = id := by
    funext z
    simp
  simp only [State.takeItems, hid, List.map_id]

/-- A run of the Granary's work with nothing left to do. -/
theorem granRun_nil (fuel : Nat) (s : State) : granRun fuel [] s = s := by cases fuel <;> rfl

theorem granRun_commit {s : State} {die ix : Nat} {x : Entry} (h : entryAt s die ix = some x) (fuel : Nat) :
    granRun (fuel + 1) [.commit die ix] s = granRun fuel (s.commitOne x).2 (s.commitOne x).1 := by
  simp only [granRun, h, List.append_nil]

/-- What a commit sets off is carried out before all else that waits on the Granary looks. -/
theorem exec_tillerCommit {s : State} {x : Entry} (hx : entryAt s s.cur s.ix = some x) (hc : x.committing = true) :
    ∃ fuel, exec .tillerCommit s = .next (granRun (fuel + 1) (s.commitOne x).2 (s.commitOne x).1).settleGran := by
  obtain ⟨fuel, hf⟩ : ∃ fuel, granFuel s = fuel + 1 + 1 := ⟨_, by rw [granFuel, Nat.add_comm 8]⟩
  have hrun : exec .tillerCommit s = execTillerCommit s := rfl
  refine ⟨fuel, ?_⟩
  simp only [hrun, execTillerCommit, hx, hc, if_true, State.granWork, hf, granRun_commit hx]

/-- The entry of a tiller that has committed: no tiller any more, and nothing is held for it. -/
def settledEntry (y : Entry) : Entry := { y with prov := [], tiller := false, committing := false }

theorem exec_tillerCommit_running {s : State} {x : Entry} (hx : entryAt s s.cur s.ix = some x) (hc : x.committing = true)
    (hst : x.st = .running) (hanc : ancestorsDone s x = true) (hres : residentOf s x = true)
    (hitems : ∀ y ∈ releasedItems s x, heldPlain y) :
    let s1 := ((releasedItems s x).foldl putHeld s).takeItems x (releasedItems s x)
    exec .tillerCommit s = .next
      ((s1.modEntry s.cur s.ix settledEntry).modAll x.provCore (freeRunner s1 s.cur s.ix)).settleGran := by
  intro s1
  obtain ⟨fuel, hrun⟩ := exec_tillerCommit hx hc
  obtain ⟨hdie, hix⟩ := entryAt_key hx
  rw [hrun, commitOne_plain hitems hanc hres, State.committed, hst, hdie, hix]
  exact congrArg (fun y : State => Host.Outcome.next y.settleGran) (granRun_nil ..)

theorem exec_tillerCommit_finished {s : State} {x y : Entry} (hx : entryAt s s.cur s.ix = some x) (hc : x.committing = true)
    (hst : x.st = .finished) (hanc : ancestorsDone s x = true) (hres : residentOf s x = true) (hprov : x.prov = [])
    (hy : entryAt (s.modEntry s.cur s.ix settledEntry) s.cur s.ix = some y) :
    exec .tillerCommit s = .next ((s.modEntry s.cur s.ix settledEntry).completeTask y).1.settleGran := by
  obtain ⟨fuel, hrun⟩ := exec_tillerCommit hx hc
  obtain ⟨hdie, hix⟩ := entryAt_key hx
  have hnone : releasedItems s x = [] := by rw [releasedItems, hprov]; rfl
  have hone : s.commitOne x = (s.modEntry s.cur s.ix settledEntry, [.complete s.cur s.ix]) := by
    rw [commitOne_plain (by simp [hnone]) hanc hres, hnone, List.foldl_nil, takeItems_nil, State.committed, hst, hdie, hix]
    rfl
  rw [hrun, hone]
  simp only [granRun, hy, granRun_nil]

/-! ### Withdrawal (R261) -/

theorem exec_tillerWithdrawal {s : State} {t : Thread} {w : Wait} {x : Entry} {d n : Nat} (ht : s.thread s.cur s.sub = some t)
    (hw : t.wait = some w) (hk : w.kind = .suspended) (hd : dlPassed s.time w.dl = true) (hrun : tillerOf t = some (d, n))
    (hx : entryAt s d n = some x) (hc : x.committing = false) :
    exec .tillerWithdrawal s = .next ((((s.requeue x).modCore s.cur fun k =>
      { k with threads := k.threads.map (withdrawThread (s.requeue x) d n) }).settle s.cur).settleGran) := by
  have hover : overdueTiller s t = some (d, n) := by simp only [overdueTiller, hw, hk, hd, if_true, hrun]
  have hexec : exec .tillerWithdrawal s = execTillerWithdrawal s := rfl
  simp [hexec, execTillerWithdrawal, ht, hover, hx, hc]

/-! ### Wake records (R361) -/

theorem exec_wakeRecordFire {s : State} {w : Wake} {t : Thread} {n : Nat} {st : Status} {regs : List (Nat × Reg)}
    (hw : (s.gran.wakes.filter fun w => w.die == s.cur)[s.ix]? = some w) (hf : w.fired = some (st, regs))
    (ht : savedHere s w = some t) (hof : wakeOf s w.core t = some w) (hn : freeSlot (s.core w.core) = some n) :
    exec .wakeRecordFire s = .next ((((s.modCore w.core fun k =>
      seat { k with saved := k.saved.filter fun u => u.id.tid != t.id.tid } n t).dropWake w).endWaitAt w.core n st regs).settleGran) := by
  have hexec : exec .wakeRecordFire s = execWakeRecordFire s := rfl
  simp only [hexec, execWakeRecordFire, hw, ht, hf, Option.isSome_some, if_true, hof, State.recall, hn]

/-! ### The pager (R363, R364) -/

theorem busPut_cores (s : State) (a n v : Nat) : (busPut s a n v).cores = s.cores := by
  unfold busPut
  split <;> rfl

section PagerRequest
variable {s : State} {x : PSlot}

/-- The pager's ring of a die is full: 4096 requests have not been read (R363). -/
def pagerFull (s : State) (die : Nat) : Prop := (tblGet s.hub.prtail die 0 + 2 ^ 32 - tblGet s.hub.prhead die 0) % 2 ^ 32 = 4096

theorem exec_pagerRequestPost_waits (hx : (s.hub.pslots.find? fun x => x.die == s.cur && x.slot == s.ix) = some x)
    (h : tblGet s.hub.prbase s.cur 0 = 0 ∨ pagerFull s s.cur) : exec .pagerRequestPost s = .next s := by
  have hexec : exec .pagerRequestPost s = execPagerRequestPost s := rfl
  simp only [hexec, execPagerRequestPost, hx]
  rw [if_pos]
  simp only [Bool.or_eq_true, decide_eq_true_eq]
  exact h.elim (fun h => .inl (.inr h)) .inr

theorem exec_pagerRequestPost (hx : (s.hub.pslots.find? fun x => x.die == s.cur && x.slot == s.ix) = some x)
    (hp : x.posted = false) (he : x.ended = none) (hbase : tblGet s.hub.prbase s.cur 0 ≠ 0) (hroom : ¬ pagerFull s s.cur) :
    let tail := tblGet s.hub.prtail s.cur 0
    ∃ s', exec .pagerRequestPost s = .next s'
      ∧ s'.mem = (busPut s (tblGet s.hub.prbase s.cur 0 + 32 * (tail % 4096)) 32 (pagerRequest x)).mem
      ∧ s'.hub.prtail = tblPut s.hub.prtail s.cur ((tail + 1) % 2 ^ 32) ∧ s'.cores = s.cores := by
  have hexec : exec .pagerRequestPost s = execPagerRequestPost s := rfl
  simp only [hexec, execPagerRequestPost, hx]
  rw [if_neg (by simpa [hp, he, hbase, pagerFull] using hroom)]
  exact ⟨_, rfl, rfl, rfl, busPut_cores ..⟩

end PagerRequest

theorem exec_pagerCompletion (s : State) (die v : Nat) :
    let hit (x : PSlot) : Bool := x.die == die && x.slot == v % 2 ^ 11 && x.seq == v / 2 ^ 12 % 2 ^ 40 && x.ended.isNone
    let answer (x : PSlot) : PSlot :=
      if hit x then { x with ended := some (if v.testBit 11 then .fault else .done), endedAt := s.time } else x
    exec (.pagerCompletion die v) s = .next
      (if v / 2 ^ 52 % 2 ^ 12 = 0 ∧ s.hub.pslots.any hit = true then
        State.settleWaits { s with hub := { s.hub with pslots := s.hub.pslots.map answer } }
      else s) := by
  intro hit answer
  have hexec : exec (.pagerCompletion die v) s = .next (s.writePager die v) := rfl
  have hslot : field v 10 0 = v % 2 ^ 11 := by simp [field]
  have hnone : (field v 63 52 != 0 || !s.hub.pslots.any hit) = true ↔ ¬ (v / 2 ^ 52 % 2 ^ 12 = 0 ∧ s.hub.pslots.any hit = true) := by
    rw [Bool.or_eq_true, bne_iff_ne, Bool.not_eq_true', ← Bool.not_eq_true, not_and_or]
    rfl
  rw [hexec, State.writePager, hslot, bitAt_eq_testBit, ← ite_not]
  exact congrArg Host.Outcome.next (if_congr ((not_congr hnone).trans not_not) rfl rfl)

/-- Settles O46: the commit by `exec_tillerCommit`, each other event by the lemma about it. -/
theorem granaryAndPagerEventsAct : Obligations.GranaryAndPagerEventsAct := by
  unfold Obligations.GranaryAndPagerEventsAct
  intro s
  refine ⟨fun x hx hc hst hanc hres hitems => exec_tillerCommit_running hx hc hst hanc hres hitems,
    fun x y hx hc hst hanc hres hprov hy => exec_tillerCommit_finished hx hc hst hanc hres hprov hy,
    fun t w x d n ht hw hk hd hrun hx hc => exec_tillerWithdrawal ht hw hk hd hrun hx hc,
    fun w t n st regs hw hf ht hof hn => exec_wakeRecordFire hw hf ht hof hn,
    fun x hx hp he => ⟨fun hbase hroom => exec_pagerRequestPost hx hp he hbase hroom, fun h => ?_⟩,
    exec_pagerCompletion s⟩
  exact exec_pagerRequestPost_waits hx (h.imp_right not_not.mp)

end Sys2Proof.Ordering
end

section
/-! Proofs for the family of number formats: integer arithmetic, Round and StochRound, conversions, packed words and dot products,
reductions, special functions and the activation table. -/

namespace Sys2Proof.Numbers

open Sys2Proof Sys2Proof.Machine Sys2Proof.Spec Sys2Proof.Laws Sys2Proof.Sheaves

/-! ### Integer arithmetic (R98, R105, R134) -/

@[simp] theorem setFsr_zero (t : Thread) : setFsr t 0 = t := by simp [setFsr]

theorem ofNat_wrapN (w : Nat) (z : Int) : BitVec.ofNat w (wrapN w z) = BitVec.ofInt w z := by
  refine BitVec.eq_of_toNat_eq ?_
  rw [BitVec.toNat_ofNat, BitVec.toNat_ofInt, wrapN]
  have hpos : (0 : Int) < (2 ^ w : Nat) := by positivity
  have hlo := Int.emod_nonneg z hpos.ne'
  have hhi := Int.emod_lt_of_pos z hpos
  exact Nat.mod_eq_of_lt (by omega)

/-- A wrapped value that passes through 64 bits. -/
theorem setWidth_ofNat_wrapN (z : Int) : (BitVec.ofNat 64 (wrapN 32 z)).setWidth 32 = BitVec.ofInt 32 z := by
  rw [← ofNat_wrapN, BitVec.setWidth_ofNat_of_le (by decide)]

theorem tyMin_le_tyMax (ty : Ty) : tyMin ty ≤ tyMax ty := by cases ty <;> decide

/-- SatN is a clamp, and its mark says that the clamp changed the value (R98). -/
theorem satTo_eq (ty : Ty) (z : Int) :
    satTo ty z = (max (tyMin ty) (min (tyMax ty) z), decide (max (tyMin ty) (min (tyMax ty) z) ≠ z)) := by
  have h := tyMin_le_tyMax ty
  unfold satTo
  split
  · next hlo =>
    rw [min_eq_right (by omega), max_eq_left (by omega), decide_eq_true (by omega)]
  · split
    · next hhi => rw [min_eq_left (by omega), max_eq_right h, decide_eq_true (by omega)]
    · rw [min_eq_right (by omega), max_eq_right (by omega), decide_eq_false (by omega)]

theorem narrow_sat (ty : Ty) (z : Int) : narrow ty true z = (wrapN (tyBits ty) (max (tyMin ty) (min (tyMax ty) z)),
    if max (tyMin ty) (min (tyMax ty) z) = z then 0 else 0x20) := by
  simp only [narrow, if_true, satTo_eq, decide_eq_true_eq, ite_not]
  rfl

theorem intOf_n32 (x : Reg) : intOf .n32 x.toNat = x.toNat := by
  have := x.isLt
  simp [intOf, isSigned, tyBits]
  omega

section IntTy
variable {f : Full} (hf : IntTy f)
include hf

theorem tyBits_of_intTy : tyBits f.ty = 32 := by rcases hf with h | h <;> rw [h] <;> rfl

/-- The value that an integer type gives a register. -/
theorem intOf_eq_val (x : Reg) : intOf f.ty x.toNat = val f x := by
  rcases hf with h | h
  · rw [h, intOf_s32, val, if_pos h]
  · rw [h, intOf_n32, val, if_neg (by rw [h]; decide)]

theorem ofInt_val (x : Reg) : BitVec.ofInt 32 (val f x) = x := by
  rcases hf with h | h
  · rw [val, if_pos h, BitVec.ofInt_toInt]
  · rw [val, if_neg (by rw [h]; decide), BitVec.ofInt_natCast, BitVec.ofNat_toNat, BitVec.setWidth_eq]

/-- The bounds of the type are those of its values (R97). -/
theorem tyMin_eq : tyMin f.ty = if f.ty = .s32 then -2 ^ 31 else 0 := by rcases hf with h | h <;> rw [h] <;> rfl

theorem tyMax_eq : tyMax f.ty = if f.ty = .s32 then 2 ^ 31 - 1 else 2 ^ 32 - 1 := by rcases hf with h | h <;> rw [h] <;> rfl

/-- The words of integer arithmetic read their operands as values of the type and write 32 bits (R134). -/
theorem intWord_eq (g : Int → Int → Int → Int) (e : Env) (t : Thread) : intWord f g e t =
    let z := narrow f.ty f.sat (g (val f (a32 f t)) (val f (b32 f e t)) (val f (d32 f t)))
    .ok (setFsr (writeV t f.d.toNat ((BitVec.ofNat 64 z.1).setWidth 32)) z.2) := by
  have hw := tyBits_of_intTy hf
  have hne : ¬ (32 = 64) := by decide
  have hb : (readB e t f).toNat = (b32 f e t).toNat := by
    unfold readB b32 readB32
    split
    · simp only [hw, hne, if_false, BitVec.toNat_setWidth_of_le (show 32 ≤ 64 by decide)]
    · simp only [readT, hw, hne, if_false, BitVec.toNat_setWidth_of_le (show 32 ≤ 64 by decide)]
  unfold intWord
  simp only [hb, readA, readT, writeT, hw, hne, if_false, BitVec.toNat_setWidth_of_le (show 32 ≤ 64 by decide), intOf_eq_val hf]
  rfl

/-- R134: without SAT the exact result wraps. -/
theorem intWord_wraps (hs : f.sat = false) (g : Int → Int → Int → Int) (e : Env) (t : Thread) : intWord f g e t =
    .ok (writeV t f.d.toNat (BitVec.ofInt 32 (g (val f (a32 f t)) (val f (b32 f e t)) (val f (d32 f t))))) := by
  simp only [intWord_eq hf, hs, narrow, Bool.false_eq_true, if_false, tyBits_of_intTy hf, setWidth_ofNat_wrapN, setFsr_zero]

/-- R134: with SAT the exact result is clamped. -/
theorem intWord_clamps (hs : f.sat = true) (g : Int → Int → Int → Int) (e : Env) (t : Thread) : intWord f g e t =
    let z := g (val f (a32 f t)) (val f (b32 f e t)) (val f (d32 f t))
    let c := max (tyMin f.ty) (min (tyMax f.ty) z)
    .ok (setFsr (writeV t f.d.toNat (BitVec.ofInt 32 c)) (if c = z then 0 else 0x20)) := by
  simp only [intWord_eq hf, hs, narrow_sat, tyBits_of_intTy hf, setWidth_ofNat_wrapN]

end IntTy

/-- Settles O2: each word by `intWord_wraps`, since reading a register as a value and wrapping commute. -/
theorem integerArithmeticWraps : Obligations.IntegerArithmeticWraps := by
  unfold Obligations.IntegerArithmeticWraps
  intro f hf hs
  have hrun {i : Instr} {g : Int → Int → Int → Int} {r : Env → Thread → Reg} (hx : ∀ s, exec i s = .next (wordMap i (intWord f g) s))
      (hr : ∀ e t, BitVec.ofInt 32 (g (val f (a32 f t)) (val f (b32 f e t)) (val f (d32 f t))) = r e t) :
      Runs i fun e t => .ok (writeV t f.d.toNat (r e t)) :=
    runs_of_wordMap hx fun e t => by rw [intWord_wraps hf hs, hr]
  refine ⟨hrun (fun _ => rfl) fun e t => ?_, hrun (fun _ => rfl) fun e t => ?_, hrun (fun _ => rfl) fun e t => ?_,
    hrun (fun _ => rfl) fun e t => ?_, hrun (fun _ => rfl) fun e t => ?_, hrun (fun _ => rfl) fun e t => ?_,
    hrun (fun _ => rfl) fun e t => ?_, fun hty => hrun (fun _ => rfl) fun e t => ?_⟩
  · rw [BitVec.ofInt_add, ofInt_val hf, ofInt_val hf]
  · rw [Int.sub_eq_add_neg, BitVec.ofInt_add, BitVec.ofInt_neg, ofInt_val hf, ofInt_val hf, BitVec.sub_eq_add_neg]
  · rw [BitVec.ofInt_mul, ofInt_val hf, ofInt_val hf]
  · rw [BitVec.ofInt_add, BitVec.ofInt_mul, ofInt_val hf, ofInt_val hf, ofInt_val hf]
  · rw [min_def, apply_ite (BitVec.ofInt 32), ofInt_val hf, ofInt_val hf]
  · rw [max_def, apply_ite (BitVec.ofInt 32), ofInt_val hf, ofInt_val hf]
  · rw [BitVec.ofInt_neg, ofInt_val hf]
  · have hv : val f (a32 f t) = (a32 f t).toInt := if_pos hty
    rw [← hv]
    split
    next hneg => rw [show ((val f (a32 f t)).natAbs : Int) = -val f (a32 f t) by omega, BitVec.ofInt_neg, ofInt_val hf]
    next hneg => rw [show ((val f (a32 f t)).natAbs : Int) = val f (a32 f t) by omega, ofInt_val hf]

/-- Settles O3: each word by `intWord_clamps`. -/
theorem saturationClampsAndSetsIS : Obligations.SaturationClampsAndSetsIS := by
  unfold Obligations.SaturationClampsAndSetsIS
  intro f hf hs lo hi clamped x y
  have hrun {i : Instr} {g : Int → Int → Int → Int} {z : Env → Thread → Int} (hx : ∀ s, exec i s = .next (wordMap i (intWord f g) s))
      (hz : ∀ e t, g (x t) (y e t) (val f (d32 f t)) = z e t) : Runs i fun e t => clamped (z e t) t :=
    runs_of_wordMap hx fun e t => by
      rw [intWord_clamps hf hs, ← hz e t]
      simp only [clamped, lo, hi, ← tyMin_eq hf, ← tyMax_eq hf, x, y]
  refine ⟨hrun (fun _ => rfl) fun e t => rfl, hrun (fun _ => rfl) fun e t => rfl, hrun (fun _ => rfl) fun e t => rfl,
    hrun (fun _ => rfl) fun e t => rfl, fun _ => ⟨hrun (fun _ => rfl) fun e t => rfl, hrun (fun _ => rfl) fun e t => rfl,
      hrun (fun _ => rfl) fun e t => ?_⟩⟩
  omega

/-! ### Round and StochRound (R102, R104) -/

/-- Settles O9. -/
theorem roundFollowsItsRule : Obligations.RoundFollowsItsRule := by
  unfold Obligations.RoundFollowsItsRule
  intro ty rm sat neg m e hty hm
  rw [roundTo_of_pos hm]
  exact isRound_roundMag hty rm sat neg hm e

/-! ### Special operands of scalar arithmetic (R96, R163, R164) -/

/-- The product of two finite values. -/
theorem mulFV_finite {a b : FV} {x y : Rat} (hx : ratOf a = some x) (hy : ratOf b = some y) :
    ∃ v, mulFV a b = (v, false) ∧ ratOf v = some (x * y) ∧ fvNeg v = (fvNeg a != fvNeg b) := by
  obtain ⟨n, m, e, rfl, rfl⟩ := exists_fin hx
  obtain ⟨n', m', e', rfl, rfl⟩ := exists_fin hy
  exact ⟨_, rfl, by rw [signed_mul, ratOf_fin], rfl⟩

/-- Without a zero by an infinity, a product is NaN just when a factor is. -/
theorem mulFV_of_not_clash {a b : FV} (h : ¬ zeroByInf a b) : (mulFV a b).2 = false := by
  match a, b with
  | .nan, .nan | .nan, .inf _ | .nan, .fin _ _ _ | .inf _, .nan | .fin _ _ _, .nan | .inf _, .inf _ | .fin _ _ _, .fin _ _ _ => rfl
  | .inf n, .fin n' m e =>
    have hm : m ≠ 0 := fun hm => h (.inr ⟨ratOf_zero_iff.mpr hm, n, rfl⟩)
    simp [mulFV, hm]
  | .fin n' m e, .inf n =>
    have hm : m ≠ 0 := fun hm => h (.inl ⟨ratOf_zero_iff.mpr hm, n, rfl⟩)
    simp [mulFV, hm]

/-- A product and an addend before they are rounded, with the flag of a zero by an infinity (R164). -/
def fmaFV (rm : Rm) (a b d : FV) : FV × Reg := if (mulFV a b).2 then (.nan, flagIV) else sumFV rm [(mulFV a b).1, d]

theorem fmaFV_of_product {rm : Rm} {a b v : FV} (h : mulFV a b = (v, false)) (d : FV) : fmaFV rm a b d = sumFV rm [v, d] := by
  simp [fmaFV, h]

section Fma
variable {ty : Ty} (hty : plainTy ty = true) (rm : Rm)
include hty

theorem fmaRound_eq (a b d : FV) : fmaRound ty rm a b d = roundWith ty rm false (fmaFV rm a b d) := by
  simp only [fmaRound, fmaFV]
  split
  next h =>
    rw [roundWith_nan hty]
    revert hty
    cases ty <;> decide
  next => rfl

/-- R164: the special results of a product and an addend are those of their sum, but for the clash in the product. -/
theorem fmaCases_fmaRound (a b d : FV) : FmaCases ty rm a b d (fmaRound ty rm a b d) := by
  have hsum {v : FV} (hv : mulFV a b = (v, false)) : SumCases ty rm v d (fmaRound ty rm a b d) := by
    rw [fmaRound_eq hty, fmaFV_of_product hv]
    exact sumCases_addRound hty rm v d
  refine ⟨?clash, ?nan, ?opposite, ?product, ?addend, ?zero⟩
  case clash =>
    intro h
    rw [fmaRound_eq hty, fmaFV, mulFV_clash h]
    exact roundWith_nan hty rm 1
  case nan =>
    intro hz h
    obtain ⟨v, hv⟩ : ∃ v, mulFV a b = (v, false) := ⟨_, Prod.ext rfl (mulFV_of_not_clash hz)⟩
    refine (hsum hv).1 ?_
    rcases h with h | h | h
    · exact .inl (congrArg Prod.fst (hv.symm.trans (mulFV_nan (.inl h))))
    · exact .inl (congrArg Prod.fst (hv.symm.trans (mulFV_nan (.inr h))))
    · exact .inr h
  case opposite =>
    intro x hx hd
    obtain ⟨-, h, -⟩ := hsum (mulFV_inf hx)
    exact h x rfl hd
  case product =>
    intro x hx hd hd'
    obtain ⟨-, -, h, -⟩ := hsum (mulFV_inf hx)
    exact h x rfl hd hd'
  case addend =>
    intro x y z hy hz hd
    obtain ⟨v, hv, hr, -⟩ := mulFV_finite hy hz
    obtain ⟨n, m, e, rfl, -⟩ := exists_fin hr
    obtain ⟨-, -, -, h, -⟩ := hsum hv
    exact h x hd FV.noConfusion FV.noConfusion
  case zero =>
    intro x y z hx hy hz h0
    obtain ⟨v, hv, hr, hneg⟩ := mulFV_finite hx hy
    obtain ⟨-, -, -, -, h⟩ := hsum hv
    rw [← hneg]
    exact h _ z hr hz h0

end Fma

/-- Settles O11: the special cases of a sum, of a product and of a product with an addend. -/
theorem specialOperandsGiveTheirResults : Obligations.SpecialOperandsGiveTheirResults := by
  unfold Obligations.SpecialOperandsGiveTheirResults
  intro f gives
  have hgives {i : Instr} {g : FV → FV → FV → Rounded} {P : FV → FV → FV → Rounded → Prop}
      (hx : ∀ s, exec i s = .next (wordMap i (fpWord f g) s)) (hP : ∀ a b d, P a b d (g a b d)) : gives i P :=
    ⟨fun e t => g (fA f t) (fB f e t) (fD f t), runs_of_wordMap hx fun _ _ => rfl, fun _ _ => hP _ _ _⟩
  exact ⟨hgives (fun _ => rfl) fun a b _ => sumCases_addRound rfl f.rm a b,
    hgives (fun _ => rfl) fun a b _ => sumCases_addRound rfl f.rm a (fvMinus b),
    hgives (fun _ => rfl) fun a b _ => productCases_mulRound rfl f.rm a b,
    hgives (fun _ => rfl) fun a b d => fmaCases_fmaRound rfl f.rm a b d⟩

end Sys2Proof.Numbers
end

section
/-! Proofs for the family of number formats: StochRound and the conversions. -/

namespace Sys2Proof.Numbers

open Sys2Proof Sys2Proof.Machine Sys2Proof.Spec Sys2Proof.Laws Sys2Proof.Sheaves

/-! ### StochRound (R104) -/

/-- The part of a unit that lies above the whole units of a magnitude, exactly. -/
theorem splitGrid_part (m : Nat) (e u : Int) : (m : Rat) * 2 ^ e / 2 ^ u - (splitGrid m e u false).1 =
    if u ≤ e then 0 else ((m % 2 ^ (u - e).toNat : Nat) : Rat) / (2 ^ (u - e).toNat : Nat) := by
  rw [mul_div_assoc, ← zpow_sub₀ two_ne_zero]
  unfold splitGrid
  split
  next h =>
    obtain ⟨k, hk⟩ := Int.eq_ofNat_of_zero_le (sub_nonneg.mpr h)
    simp [hk]
  next h =>
    obtain ⟨k, hk⟩ := Int.eq_ofNat_of_zero_le (show 0 ≤ u - e by omega)
    have hdm : (2 ^ k : Rat) * (m / 2 ^ k : Nat) + (m % 2 ^ k : Nat) = m := by exact_mod_cast Nat.div_add_mod m (2 ^ k)
    rw [show e - u = -(k : Int) by omega, hk, Int.toNat_natCast, zpow_neg, zpow_natCast, ← div_eq_mul_inv, sub_eq_iff_eq_add,
      div_eq_iff (by positivity), add_mul, Nat.cast_pow, Nat.cast_ofNat, div_mul_cancel₀ _ (by positivity)]
    linarith

/-- The whole units of R102 are the floor of the magnitude in units. -/
theorem floor_units (m : Nat) (e u : Int) : ⌊(m : Rat) * 2 ^ e / 2 ^ u⌋ = ((splitGrid m e u false).1 : Int) := by
  obtain ⟨h0, h1⟩ := partIs_range (splitGrid_spec m e u)
  rw [Int.floor_eq_iff]
  push_cast
  constructor <;> linarith

/-- The random numbers of 2^32 that take the next unit (R104). -/
def stochChance (m : Nat) (e u : Int) : Nat := if u ≤ e then 0 else m % 2 ^ (u - e).toNat * 2 ^ 32 / 2 ^ (u - e).toNat

/-- They are the part of a unit that remains, in units of 2^-32, rounded down. -/
theorem floor_part (m : Nat) (e u : Int) :
    ⌊((m : Rat) * 2 ^ e - (splitGrid m e u false).1 * 2 ^ u) / 2 ^ u * 2 ^ 32⌋ = (stochChance m e u : Int) := by
  have hu : (2 : Rat) ^ u ≠ 0 := by positivity
  rw [sub_div, mul_div_cancel_right₀ _ hu, splitGrid_part, stochChance]
  split
  · simp
  · rw [div_mul_eq_mul_div, show (2 : Rat) ^ 32 = (2 ^ 32 : Nat) by norm_num, ← Nat.cast_mul, Rat.floor_natCast_div_natCast]
    rfl

/-- The units of the grid that R104 takes under random bits `r`. -/
def stochUnits (ty : Ty) (m : Nat) (e : Int) (r : Nat) : Nat :=
  let u := gridExp ty m e
  let lo := (splitGrid m e u false).1
  if r < stochChance m e u then lo + 1 else lo

theorem stochUnits_range (ty : Ty) (m : Nat) (e : Int) (r : Nat) : (splitGrid m e (gridExp ty m e) false).1 ≤ stochUnits ty m e r
    ∧ stochUnits ty m e r ≤ (splitGrid m e (gridExp ty m e) false).1 + 1 := by
  unfold stochUnits
  dsimp only
  split <;> omega

theorem stochMag_eq (ty : Ty) (sat neg : Bool) (m : Nat) (e : Int) (r : Nat) : stochMag ty sat neg m e r =
    if maxCode ty < gridCode ty (stochUnits ty m e r) (gridExp ty m e) then
      ⟨(overflow ty .rne sat neg).code, (overflow ty .rne sat neg).flags ||| gridFlags ty m e⟩
    else ⟨signBit ty neg + gridCode ty (stochUnits ty m e r) (gridExp ty m e), gridFlags ty m e⟩ := rfl

theorem stochTo_of_pos {m : Nat} (hm : 0 < m) (ty : Ty) (sat neg : Bool) (e : Int) (r : Nat) :
    stochTo ty sat r (.fin neg m e) = stochMag ty sat neg m e r := by
  obtain ⟨n, rfl⟩ := Nat.exists_eq_add_of_lt hm
  rw [Nat.zero_add]
  rfl

/-- Settles O14: the units taken are R104's, and their code is the greatest finite one at most. -/
theorem stochRoundFollowsItsRule : Obligations.StochRoundFollowsItsRule := by
  unfold Obligations.StochRoundFollowsItsRule
  intro ty sat neg m r e hty _ hm a u lo y x hy
  have hunits : y = stochUnits ty m e r * 2 ^ gridExp ty m e := by
    simp only [y, lo, u, a, ulpAt_eq hty hm, floor_units, Int.cast_natCast, floor_part, stochUnits, Nat.cast_lt]
    split
    · rw [Nat.cast_add_one, add_mul, one_mul]
    · rfl
  obtain ⟨hlo, hhi⟩ := stochUnits_range ty m e r
  have hcode := magVal_gridCode (ty := ty) hm e hlo hhi
  have hfits : ¬ maxCode ty < gridCode ty (stochUnits ty m e r) (gridExp ty m e) := by
    rw [← (magVal_strictMono ty).lt_iff_lt, magVal_maxCode hty, hcode, ← hunits]
    exact not_lt.mpr hy
  have hx : x = ⟨signBit ty neg + gridCode ty (stochUnits ty m e r) (gridExp ty m e), gridFlags ty m e⟩ := by
    simp only [x, stochTo_of_pos hm, stochMag_eq, if_neg hfits]
  rw [hx]
  exact ⟨(roundedFlags_eq hty hm e).symm, by rw [ratOf_code hty neg (not_lt.mp hfits), hcode, hunits]⟩

/-! ### Conversions (R103, R168) -/

theorem roundedInt_intCast (rm : Rm) (z : Int) : roundedInt rm z = z := by
  cases rm <;> simp [roundedInt]

theorem roundsUp_of_ne {b : Below} (hb : b ≠ .exact) (rm : Rm) (neg : Bool) (lo : Nat) : roundsUp rm neg lo b =
    match rm with
    | .rne => b == .more || (b == .half && lo % 2 == 1)
    | .rz => false
    | .rup => !neg
    | .rdn => neg := by
  cases b with
  | exact => exact absurd rfl hb
  | less => cases rm <;> rfl
  | half => cases rm <;> rfl
  | more => cases rm <;> rfl

theorem partIs_lt_half {b : Below} {d : Rat} (h : partIs b d) : d < 1 / 2 ↔ b = .exact ∨ b = .less := by
  cases b <;> simp only [partIs] at h <;> simp <;> linarith

theorem half_lt_partIs {b : Below} {d : Rat} (h : partIs b d) : 1 / 2 < d ↔ b = .more := by
  cases b <;> simp only [partIs] at h <;> simp <;> linarith

/-- R103's nearest integer of a magnitude under a sign, by the part that lies above its whole units. -/
theorem roundedInt_of_part {a : Rat} {lo : Nat} {b : Below} (h : partIs b (a - lo)) (rm : Rm) (neg : Bool) :
    let y : Int := if roundsUp rm neg lo b then (lo : Int) + 1 else lo
    roundedInt rm (signOf neg * a) = if neg then -y else y := by
  dsimp only
  by_cases hb : b = .exact
  · subst hb
    obtain rfl : a = lo := sub_eq_zero.mp h
    have hint : signOf neg * (lo : Rat) = ((if neg then -(lo : Int) else lo : Int) : Rat) := by cases neg <;> simp [signOf]
    rw [hint, roundedInt_intCast]
    cases rm <;> rfl
  obtain ⟨h0, h1⟩ := partIs_range h
  have hpos : 0 < a - lo := lt_of_le_of_ne h0 fun h0 => hb ((partIs_zero_iff h).mpr h0.symm)
  have ha : 0 < a := by
    have : (0 : Rat) ≤ lo := by positivity
    linarith
  have hfloor : ⌊a⌋ = (lo : Int) := by
    rw [Int.floor_eq_iff]
    push_cast
    constructor <;> linarith
  have hceil : ⌈a⌉ = (lo : Int) + 1 := by
    rw [Int.ceil_eq_iff]
    push_cast
    constructor <;> linarith
  rw [roundsUp_of_ne hb]
  cases neg
  · simp only [signOf, Bool.false_eq_true, if_false, one_mul, roundedInt, hfloor, hceil, Int.cast_natCast, ha.le, if_true]
    cases rm with
    | rne =>
      have hpar : (lo : Int) % 2 = 0 ↔ ¬ lo % 2 = 1 := by omega
      simp only [partIs_lt_half h, half_lt_partIs h, hpar]
      cases b <;> simp at hb ⊢
      split_ifs <;> omega
    | rz => rfl
    | rdn => rfl
    | rup => rfl
  · simp only [signOf, if_true, neg_one_mul, roundedInt, Int.floor_neg, Int.ceil_neg, hfloor, hceil, not_le.mpr (neg_lt_zero.mpr ha), if_false]
    cases rm with
    | rne =>
      have hpar : (-((lo : Int) + 1)) % 2 = 0 ↔ lo % 2 = 1 := by omega
      have hsub : -a - ((-((lo : Int) + 1) : Int) : Rat) = 1 - (a - lo) := by
        push_cast
        ring
      have hless : 1 - (a - lo) < 1 / 2 ↔ 1 / 2 < a - lo := by constructor <;> intro <;> linarith
      have hmore : 1 / 2 < 1 - (a - lo) ↔ a - lo < 1 / 2 := by constructor <;> intro <;> linarith
      simp only [hsub, hless, hmore, partIs_lt_half h, half_lt_partIs h, hpar]
      cases b <;> simp at hb ⊢
      split <;> simp
    | rz => rfl
    | rdn => rfl
    | rup => rfl

/-- The integer that R103 rounds a finite value to, and whether it is inexact. -/
theorem roundInt_eq (rm : Rm) (neg : Bool) (m : Nat) (e : Int) {x : Rat} (hx : signOf neg * m * 2 ^ e = x) :
    roundInt rm neg m e = (roundedInt rm x, decide ((roundedInt rm x : Rat) ≠ x)) := by
  have hspec := splitGrid_spec m e 0
  rw [zpow_zero, div_one] at hspec
  have hval := roundedInt_of_part hspec rm neg
  rw [← mul_assoc, hx] at hval
  have hround : roundInt rm neg m e = (roundedInt rm x, (splitGrid m e 0 false).2 != .exact) := by
    rw [hval]
    rfl
  have hexact : (splitGrid m e 0 false).2 = .exact ↔ (roundedInt rm x : Rat) = x := by
    obtain ⟨h0, h1⟩ := partIs_range hspec
    rw [partIs_zero_iff hspec]
    constructor
    · intro h
      have hint : x = ((if neg then -((splitGrid m e 0 false).1 : Int) else ((splitGrid m e 0 false).1 : Int) : Int) : Rat) := by
        rw [← hx, mul_assoc, sub_eq_zero.mp h]
        cases neg <;> simp [signOf]
      rw [hint, roundedInt_intCast]
    · intro h
      have hint : (m : Rat) * 2 ^ e = ((if neg then -roundedInt rm x else roundedInt rm x : Int) : Rat) := by
        have hx := hx.trans h.symm
        cases neg <;> simp [signOf] at hx ⊢ <;> linarith
      rw [hint] at h0 h1 ⊢
      norm_cast at h0 h1 ⊢
      omega
  rw [hround, bne, Bool.beq_eq_decide_eq, ← decide_not, decide_eq_decide.mpr (not_congr hexact)]

/-- R103: what an integer type makes of a finite value. -/
theorem toIntTy_of_finite (ty : Ty) (rm : Rm) {v : FV} {x : Rat} (hv : ratOf v = some x) :
    let z := (toIntTy ty rm v).1
    z = max (tyMin ty) (min (tyMax ty) (roundedInt rm x))
      ∧ (toIntTy ty rm v).2 = if z ≠ roundedInt rm x then 1 else if (z : Rat) ≠ x then 0x10 else 0 := by
  obtain ⟨neg, m, e, rfl, hx⟩ := exists_fin hv
  dsimp only
  simp only [toIntTy, roundInt_eq rm neg m e hx.symm, satTo_eq, decide_eq_true_eq]
  by_cases hz : max (tyMin ty) (min (tyMax ty) (roundedInt rm x)) = roundedInt rm x
  · simp only [hz, Ne, not_true_eq_false, if_false, true_and]
    rfl
  · simp only [hz, Ne, not_false_eq_true, if_true, true_and]
    rfl

theorem tyMin_eq_pow (ty : Ty) : tyMin ty = if isSigned ty then -2 ^ (tyBits ty - 1) else 0 := by simp [tyMin]

theorem tyMax_eq_pow (ty : Ty) : tyMax ty = if isSigned ty then 2 ^ (tyBits ty - 1) - 1 else 2 ^ tyBits ty - 1 := by simp [tyMax]

theorem srcTy_eq {f : Full} {src : Ty} (hs : tyOf f.opx.toNat = some src) (ho : f.opx.toNat < 32) : srcTy f = src := by
  simp [srcTy, ty2, opxN, hs, ho]

/-- An integer result in its register or pair (R168). -/
theorem writeT_extInt (f : Full) (z : Int) (t : Thread) :
    writeT t f.ty f.d.toNat (extInt f.ty z) = put f (BitVec.ofInt 32 z) (BitVec.ofInt 64 z) t := by
  unfold writeT put extInt
  split
  next h => rw [h, show max 32 64 = 64 from rfl, ofNat_wrapN]
  next h =>
    have hw : max 32 (tyBits f.ty) = 32 := by
      revert h
      cases f.ty <;> decide
    rw [hw, setWidth_ofNat_wrapN]

/-- The values of a float type have one form, whatever lies above its bits (R94). -/
theorem elemVal_of_isF {ty : Ty} (h : isF ty = true) (x : Nat) : elemVal ty x = fvOf ty x := by
  have h8 : (ty == .e8m0) = false := by
    revert h
    cases ty <;> decide
  rw [elemVal, h8, h]
  rfl

/-- Settles O13: a float result is a rounding by definition, an integer one `toIntTy` case by case. -/
theorem cvtConverts : Obligations.CvtConverts := by
  unfold Obligations.CvtConverts
  intro f src hsrc hopx
  have hread (t : Thread) : (readT t src f.a.toNat).toNat = if tyBits src = 64 then (a64 f t).toNat else (a32 f t).toNat := by
    unfold readT
    split
    · rfl
    · exact BitVec.toNat_setWidth_of_le (by decide)
  refine ⟨fun hf => runs_of_wordMap (fun _ => rfl) fun e t => ?_, fun hf hs => ?_⟩
  · simp only [cvtWord, srcTy_eq hsrc hopx, hread, hf, if_true]
    rfl
  · have hw : tyBits src ≠ 64 := by
      revert hs
      cases src <;> decide
    refine ⟨fun t => (toIntTy f.ty f.rm (fvOf src (a32 f t).toNat)).1, fun t => (toIntTy f.ty f.rm (fvOf src (a32 f t).toNat)).2,
      runs_of_wordMap (fun _ => rfl) fun e t => ?_, fun t => ?_⟩
    · simp only [cvtWord, srcTy_eq hsrc hopx, hread, hw, hf, if_false, Bool.false_eq_true, elemVal_of_isF hs, writeT_extInt]
    · dsimp only
      rw [← tyMin_eq_pow, ← tyMax_eq_pow]
      refine ⟨fun h => by rw [h]; exact ⟨rfl, rfl⟩, fun h => by rw [h]; exact ⟨rfl, rfl⟩, fun h => by rw [h]; exact ⟨rfl, rfl⟩,
        fun x hx => ?_⟩
      exact toIntTy_of_finite f.ty f.rm hx

end Sys2Proof.Numbers
end

section
/-! Proofs for the family of number formats: exact sums of several values, packed words, dot products and FMULE. -/

namespace Sys2Proof.Numbers

open Sys2Proof Sys2Proof.Machine Sys2Proof.Spec Sys2Proof.Laws Sys2Proof.Sheaves

/-! ### Sums of a list of values (R96, R108) -/

@[simp] theorem fvIsNaN_iff {v : FV} : fvIsNaN v = true ↔ v = .nan := by cases v <;> simp [fvIsNaN]

@[simp] theorem fvIsInf_iff {v : FV} : fvIsInf v = true ↔ ∃ x, v = .inf x := by cases v <;> simp [fvIsInf]

theorem any_eq_true_iff_mem {l : List FV} {p : FV → Bool} {v : FV} (hp : ∀ w, p w = true ↔ w = v) : l.any p = true ↔ v ∈ l := by
  simp [List.any_eq_true, hp]

theorem leastExp_eq_none {l : List FV} (h : ∀ n m e, FV.fin n m e ∈ l → m = 0) : leastExp l = none := by
  induction l with
  | nil => rfl
  | cons v r ih =>
    have ih := ih fun n m e hv => h n m e (List.mem_cons_of_mem v hv)
    match v with
    | .fin n (m + 1) e => exact absurd (h n (m + 1) e List.mem_cons_self) m.succ_ne_zero
    | .fin n 0 e => exact ih
    | .nan => exact ih
    | .inf n => exact ih

section Sum
variable (rm : Rm) {l : List FV}

theorem sumFV_nan (h : FV.nan ∈ l) : sumFV rm l = (.nan, 0) := by
  rw [sumFV, if_pos (List.any_eq_true.mpr ⟨_, h, rfl⟩)]

/-- Without a NaN, infinities alone decide a sum that holds one. -/
theorem sumFV_of_inf (hn : FV.nan ∉ l) {x : Bool} (hx : FV.inf x ∈ l) :
    sumFV rm l = if FV.inf (!x) ∈ l then (.nan, flagIV) else (.inf x, 0) := by
  have hnan : l.any fvIsNaN = false := by
    rw [← Bool.not_eq_true, any_eq_true_iff_mem fun _ => fvIsNaN_iff]
    exact hn
  have hany (y : Bool) : (l.any fun v => v == .inf y) = decide (FV.inf y ∈ l) := by
    rw [Bool.eq_iff_iff, any_eq_true_iff_mem fun _ => beq_iff_eq, decide_eq_true_iff]
  simp only [sumFV, hnan, hany, Bool.false_eq_true, if_false]
  cases x
  · by_cases h : FV.inf true ∈ l <;> simp [hx, h]
  · by_cases h : FV.inf false ∈ l <;> simp [hx, h]

variable {qs : List Rat} (hq : l.map ratOf = qs.map some)
include hq

theorem exists_ratOf_of_mem {q : Rat} (h : q ∈ qs) : ∃ v ∈ l, ratOf v = some q := by
  have hmem : some q ∈ l.map ratOf := hq ▸ List.mem_map_of_mem h
  exact List.mem_map.mp hmem

/-- Where no value has a magnitude the sum is zero. -/
theorem sum_eq_zero_of_leastExp (hl : leastExp l = none) : qs.sum = 0 := by
  refine List.sum_eq_zero fun q hmem => ?_
  obtain ⟨v, hv, hr⟩ := exists_ratOf_of_mem hq hmem
  obtain ⟨n, m, e, rfl, rfl⟩ := exists_fin hr
  rw [signed_eq_zero_iff]
  exact leastExp_none hl hv

theorem sumFV_nonzero (h : qs.sum ≠ 0) :
    ∃ m e, sumFV rm l = (.fin (decide (qs.sum < 0)) m e, 0) ∧ 0 < m ∧ (m : Rat) * 2 ^ e = |qs.sum| := by
  rcases hl : leastExp l with _ | u
  · exact absurd (sum_eq_zero_of_leastExp hq hl) h
  · exact (sumFV_exact hq hl).2 h

/-- The sum of finite values is exact and raises no flag. -/
theorem sumFV_finite : ratOf (sumFV rm l).1 = some qs.sum ∧ (sumFV rm l).2 = 0 := by
  by_cases h : qs.sum = 0
  · rw [h]
    rcases hl : leastExp l with _ | u
    · rw [sumFV_zeros hq hl]
      exact ⟨ratOf_zero_iff.mpr rfl, rfl⟩
    · rw [(sumFV_exact hq hl).1 h]
      exact ⟨ratOf_zero_iff.mpr rfl, rfl⟩
  · obtain ⟨m, e, hs, hm, hval⟩ := sumFV_nonzero rm hq h
    rw [hs]
    refine ⟨?_, rfl⟩
    rw [ratOf_fin, mul_assoc, hval]
    by_cases hneg : qs.sum < 0
    · simp [signOf, hneg, abs_of_neg]
    · simp [signOf, hneg, abs_of_nonneg (not_lt.mp hneg)]

/-- Values that are all negative, and not all zero, do not cancel. -/
theorem all_fvNeg_eq_false {u : Int} (hl : leastExp l = some u) (h : qs.sum = 0) : l.all fvNeg = false := by
  rw [← Bool.not_eq_true, List.all_eq_true]
  intro hall
  have hle : ∀ q ∈ qs.map (-·), 0 ≤ q := by
    intro q hmem
    obtain ⟨r, hr, rfl⟩ := List.mem_map.mp hmem
    obtain ⟨v, hv, hr⟩ := exists_ratOf_of_mem hq hr
    obtain ⟨n, m, e, rfl, rfl⟩ := exists_fin hr
    obtain rfl : n = true := hall _ hv
    rw [signOf, if_pos rfl, neg_one_mul, neg_mul, neg_neg]
    positivity
  have hzero {q : Rat} (hmem : q ∈ qs) : q = 0 := neg_eq_zero.mp
    (List.all_zero_of_le_zero_le_of_sum_eq_zero hle (by rw [← List.sum_neg, h, neg_zero]) (List.mem_map_of_mem hmem))
  refine Option.some_ne_none u (hl.symm.trans (leastExp_eq_none fun n m e hv => ?_))
  obtain ⟨q, hmem, hr⟩ : ∃ q ∈ qs, ratOf (.fin n m e) = some q := by
    have hmem : ratOf (.fin n m e) ∈ qs.map some := hq ▸ List.mem_map_of_mem hv
    obtain ⟨q, hmem, hr⟩ := List.mem_map.mp hmem
    exact ⟨q, hmem, hr.symm⟩
  rw [hzero hmem] at hr
  exact ratOf_zero_iff.mp hr

/-- A zero sum under RNE is negative where every addend is (R96). -/
theorem sumFV_zero (h : qs.sum = 0) : sumFV .rne l = (.fin (!l.isEmpty && l.all fvNeg) 0 0, 0) := by
  rcases hl : leastExp l with _ | u
  · rw [sumFV_zeros hq hl]
    cases l.all fvNeg <;> simp
  · rw [(sumFV_exact hq hl).1 h, all_fvNeg_eq_false hq hl h]
    simp

end Sum

/-- R108: the exact sum rounded once, with the special cases. -/
theorem sumOver_roundWith (vs : List FV) : SumOver .f32 1 vs (roundWith .f32 .rne false (sumFV .rne vs)) := by
  refine ⟨fun h => ?_, fun hn ht hf => ?_, fun x hn hx hx' => ?_, fun qs hq => ⟨fun h => ?_, fun h => ?_⟩⟩
  · rw [sumFV_nan _ h]
    exact roundWith_nan rfl _ _
  · rw [sumFV_of_inf _ hn ht, if_pos (show FV.inf (!true) ∈ vs from hf)]
    exact roundWith_nan rfl _ _
  · rw [sumFV_of_inf _ hn hx, if_neg hx']
    exact roundWith_inf rfl _ _
  · obtain ⟨m, e, hs, hm, hval⟩ := sumFV_nonzero .rne hq h
    rw [hs, Nat.cast_one, div_one, ← hval]
    exact isRound_roundWith rfl .rne _ hm e
  · rw [sumFV_zero hq h]
    exact roundWith_zero rfl _ _ _

/-! ### Packed words (R100, R172) -/

theorem ratOf_sumFV_pair (rm : Rm) {a b : FV} {x y : Rat} (hx : ratOf a = some x) (hy : ratOf b = some y) :
    ratOf (sumFV rm [a, b]).1 = some (x + y) ∧ (sumFV rm [a, b]).2 = 0 := by
  have h := sumFV_finite rm (l := [a, b]) (qs := [x, y]) (by simp [hx, hy])
  simpa using h

/-- A product before it is rounded, with the flag of a zero by an infinity (R164). -/
def productFV (a b : FV) : FV × Reg := ((mulFV a b).1, if (mulFV a b).2 then flagIV else 0)

theorem productFV_finite {a b : FV} {x y : Rat} (hx : ratOf a = some x) (hy : ratOf b = some y) :
    ratOf (productFV a b).1 = some (x * y) ∧ (productFV a b).2 = 0 := by
  obtain ⟨v, hv, hr, -⟩ := mulFV_finite hx hy
  simp [productFV, hv, hr]

theorem fmaFV_finite (rm : Rm) {a b d : FV} {x y z : Rat} (hx : ratOf a = some x) (hy : ratOf b = some y) (hz : ratOf d = some z) :
    ratOf (fmaFV rm a b d).1 = some (x * y + z) ∧ (fmaFV rm a b d).2 = 0 := by
  obtain ⟨v, hv, hr, -⟩ := mulFV_finite hx hy
  rw [fmaFV_of_product hv]
  exact ratOf_sumFV_pair rm hr hz

/-- A packed word rounds each of its two elements by itself (R172). -/
theorem packedWord_eq {f : Full} (hw : tyBits f.ty = 16) (g : FV → FV → FV → Rounded) (e : Env) (t : Thread) : packedWord f g e t =
    let r (j : Nat) : Rounded :=
      g (fvOf f.ty (elem f.ty (a32 f t) j)) (fvOf f.ty (elem f.ty (b32 f e t) j)) (fvOf f.ty (elem f.ty (d32 f t) j))
    .ok (withFlags t f.d.toNat ((r 0).code + 2 ^ 16 * (r 1).code) ((r 0).flags ||| (r 1).flags)) := by
  have hor (x : Reg) : x ||| 0 = x := BitVec.or_zero
  simp only [packedWord, packedPair, List.range_succ, List.range_zero, List.nil_append, List.cons_append, List.map_cons, List.map_nil,
    packAll, Nat.mul_zero, Nat.add_zero, hor, elem, hw]
  rfl

/-! ### Dot products (R108, R109, R173) -/

/-- The four kinds of a product. -/
theorem product_kind (a b : FV) : zeroByInf a b ∨ (a = .nan ∨ b = .nan) ∨ (∃ x, infProduct a b x)
    ∨ ∃ x y, ratOf a = some x ∧ ratOf b = some y := by
  by_cases hz : zeroByInf a b
  · exact .inl hz
  by_cases hn : a = .nan ∨ b = .nan
  · exact .inr (.inl hn)
  obtain ⟨ha, hb⟩ := not_or.mp hn
  by_cases hi : ∃ y, a = .inf y ∨ b = .inf y
  · exact .inr (.inr (.inl ⟨_, hi, ha, hb, hz, rfl⟩))
  match a, b with
  | .fin n m e, .fin n' m' e' => exact .inr (.inr (.inr ⟨_, _, rfl, rfl⟩))
  | .nan, _ => exact absurd rfl ha
  | .fin _ _ _, .nan => exact absurd rfl hb
  | .inf y, _ => exact absurd ⟨y, .inl rfl⟩ hi
  | .fin _ _ _, .inf y => exact absurd ⟨y, .inr rfl⟩ hi

theorem mulFV_inf_iff {a b : FV} {x : Bool} : (mulFV a b).1 = .inf x ↔ infProduct a b x := by
  refine ⟨fun h => ?_, fun h => by rw [mulFV_inf h]⟩
  rcases product_kind a b with hk | hk | ⟨y, hk⟩ | ⟨y, z, hy, hz⟩
  · rw [mulFV_clash hk] at h
    exact FV.noConfusion h
  · rw [mulFV_nan hk] at h
    exact FV.noConfusion h
  · rw [mulFV_inf hk] at h
    exact FV.inf.inj h ▸ hk
  · obtain ⟨v, hv, hr, -⟩ := mulFV_finite hy hz
    rw [hv] at h
    rw [show v = .inf x from h] at hr
    cases hr

theorem mulFV_nan_iff {a b : FV} (hc : ¬ zeroByInf a b) : (mulFV a b).1 = .nan ↔ a = .nan ∨ b = .nan := by
  refine ⟨fun h => ?_, fun h => by rw [mulFV_nan h]⟩
  rcases product_kind a b with hk | hk | ⟨y, hk⟩ | ⟨y, z, hy, hz⟩
  · exact absurd hk hc
  · exact hk
  · rw [mulFV_inf hk] at h
    exact FV.noConfusion h
  · obtain ⟨v, hv, hr, -⟩ := mulFV_finite hy hz
    rw [hv] at h
    rw [show v = .nan from h] at hr
    cases hr

theorem mulFV_clash_iff {a b : FV} : (mulFV a b).2 = true ↔ zeroByInf a b :=
  ⟨fun h => by_contra fun hz => by simp [mulFV_of_not_clash hz] at h, fun h => by rw [mulFV_clash h]⟩

theorem not_zeroByInf_of_finite {a b : FV} {x y : Rat} (hx : ratOf a = some x) (hy : ratOf b = some y) : ¬ zeroByInf a b := by
  rintro (⟨-, z, rfl⟩ | ⟨-, z, rfl⟩)
  · cases hy
  · cases hx

/-- The exact products of `m` pairs. -/
def products (m : Nat) (a b : Nat → FV) : List FV := (List.range m).map fun k => (mulFV (a k) (b k)).1

theorem mem_products {m : Nat} {a b : Nat → FV} {v : FV} : v ∈ products m a b ↔ ∃ k < m, (mulFV (a k) (b k)).1 = v := by
  simp [products]

section Dot
variable (m : Nat) (a b : Nat → FV) (d : FV)

/-- The value of a dot product before it is rounded (R108). -/
def dotValue : FV × Reg := dotFV ((List.range m).map fun k => (a k, b k)) d

theorem dotValue_nan (h : d = .nan ∨ ∃ k < m, a k = .nan ∨ b k = .nan) : dotValue m a b d = (.nan, 0) := by
  refine if_pos ?_
  rw [Bool.or_eq_true, fvIsNaN_iff, or_comm, List.any_eq_true]
  simpa using h

variable {m a b d} (hn : ¬ (d = .nan ∨ ∃ k < m, a k = .nan ∨ b k = .nan))
include hn

theorem dotValue_of_not_nan : dotValue m a b d =
    if ((List.range m).map fun k => (a k, b k)).any fun p => (mulFV p.1 p.2).2 then (.nan, flagIV)
    else sumFV .rne (products m a b ++ [d]) := by
  rw [dotValue, dotFV, if_neg, List.map_map]
  · rfl
  rw [Bool.or_eq_true, fvIsNaN_iff, or_comm, List.any_eq_true]
  simpa using hn

theorem dotValue_clash (h : ∃ k < m, zeroByInf (a k) (b k)) : dotValue m a b d = (.nan, flagIV) := by
  rw [dotValue_of_not_nan hn, if_pos]
  simpa [List.any_eq_true, mulFV_clash_iff] using h

theorem dotValue_sum (h : ¬ ∃ k < m, zeroByInf (a k) (b k)) : dotValue m a b d = sumFV .rne (products m a b ++ [d]) := by
  rw [dotValue_of_not_nan hn, if_neg]
  simpa [List.any_eq_true, mulFV_clash_iff] using h

end Dot

section Finite
variable {m : Nat} {a b : Nat → FV} {d : FV} {x y : Nat → Rat} {z : Rat} (hz : ratOf d = some z)
  (hx : ∀ k < m, ratOf (a k) = some (x k)) (hy : ∀ k < m, ratOf (b k) = some (y k))
include hz hx hy

/-- Finite factors and a finite addend make an exact sum of finite values. -/
theorem dotValue_finite : dotValue m a b d = sumFV .rne (products m a b ++ [d])
    ∧ (products m a b ++ [d]).map ratOf = ((List.range m).map (fun k => x k * y k) ++ [z]).map some := by
  have hd : d ≠ .nan := by
    rintro rfl
    cases hz
  refine ⟨dotValue_sum (not_or.mpr ⟨hd, ?_⟩) ?_, ?_⟩
  · rintro ⟨k, hk, h | h⟩
    · exact absurd (hx k hk) (by rw [h]; exact nofun)
    · exact absurd (hy k hk) (by rw [h]; exact nofun)
  · rintro ⟨k, hk, h⟩
    exact not_zeroByInf_of_finite (hx k hk) (hy k hk) h
  · simp only [products, List.map_append, List.map_map, List.map_cons, List.map_nil, hz]
    congr 1
    refine List.map_congr_left fun k hk => ?_
    obtain ⟨v, hv, hr, -⟩ := mulFV_finite (hx k (List.mem_range.mp hk)) (hy k (List.mem_range.mp hk))
    simp [hv, hr]

theorem ratOf_dotValue : ratOf (dotValue m a b d).1 = some (((List.range m).map fun k => x k * y k).sum + z)
    ∧ (dotValue m a b d).2 = 0 := by
  obtain ⟨hs, hq⟩ := dotValue_finite hz hx hy
  have h := sumFV_finite .rne hq
  rwa [← hs, List.sum_append, List.sum_singleton] at h

omit hz in
/-- The products and the addend are all negative. -/
theorem all_fvNeg_products : (products m a b ++ [d]).all fvNeg = true ↔ (∀ k < m, fvNeg (a k) ≠ fvNeg (b k)) ∧ fvNeg d = true := by
  simp only [List.all_append, Bool.and_eq_true, List.all_eq_true, mem_products, List.all_cons, List.all_nil, Bool.and_true]
  refine and_congr_left fun _ => ⟨fun h k hk => ?_, ?_⟩
  · obtain ⟨v, hv, -, hneg⟩ := mulFV_finite (hx k hk) (hy k hk)
    have h := h _ ⟨k, hk, rfl⟩
    rw [hv] at h
    simpa [hneg] using h
  · rintro h _ ⟨k, hk, rfl⟩
    obtain ⟨v, hv, -, hneg⟩ := mulFV_finite (hx k hk) (hy k hk)
    rw [hv]
    simpa [hneg] using h k hk

end Finite

/-- R108: the special results of a dot product. -/
theorem dotCases_roundWith (m : Nat) (a b : Nat → FV) (d : FV) :
    DotCases m a b d (roundWith .f32 .rne false (dotValue m a b d)) := by
  unfold DotCases
  intro hasNan clash hasInf
  have hmem {x : Bool} : FV.inf x ∈ products m a b ++ [d] ↔ hasInf x := by
    simp only [List.mem_append, mem_products, mulFV_inf_iff, List.mem_singleton, hasInf]
    rw [or_comm, eq_comm]
  have hnan (hn : ¬ hasNan) (hc : ¬ clash) : FV.nan ∉ products m a b ++ [d] := by
    rw [List.mem_append, mem_products, List.mem_singleton]
    rintro (⟨k, hk, h⟩ | rfl)
    · exact hn (.inr ⟨k, hk, (mulFV_nan_iff fun hz => hc ⟨k, hk, hz⟩).mp h⟩)
    · exact hn (.inl rfl)
  refine ⟨fun hn => ?nan, fun hn h => ?bad, fun x hn hc hx hx' => ?inf, fun y z c hyz hc h0 => ?zero⟩
  case nan =>
    rw [dotValue_nan m a b d hn]
    exact roundWith_nan rfl _ _
  case bad =>
    by_cases hc : clash
    · rw [dotValue_clash hn hc]
      exact roundWith_nan rfl _ _
    · obtain ⟨ht, hf⟩ := h.resolve_left hc
      rw [dotValue_sum hn hc]
      exact (sumOver_roundWith _).2.1 (hnan hn hc) (hmem.mpr ht) (hmem.mpr hf)
  case inf =>
    rw [dotValue_sum hn hc]
    exact (sumOver_roundWith _).2.2.1 x (hnan hn hc) (hmem.mpr hx) (mt hmem.mp hx')
  case zero =>
    have hy (k) (hk : k < m) := (hyz k hk).1
    have hz (k) (hk : k < m) := (hyz k hk).2
    obtain ⟨hs, hq⟩ := dotValue_finite hc hy hz
    have hall := all_fvNeg_products (d := d) hy hz
    have hr := (sumOver_roundWith _).2.2.2 _ hq |>.2 (by rw [List.sum_append, List.sum_singleton, h0])
    have hne : (products m a b ++ [d]).isEmpty = false := by simp
    rw [hne, Bool.not_false, Bool.true_and] at hr
    rw [hs, hr]
    refine ⟨fun h => by rw [hall.mpr h], fun h => ?_⟩
    have hnot : (products m a b ++ [d]).all fvNeg = false := by
      refine eq_false_of_ne_true fun ht => ?_
      obtain ⟨h1, h2⟩ := hall.mp ht
      rcases h with ⟨k, hk, h⟩ | h
      · exact h1 k hk h
      · simp [h2] at h
    rw [hnot]

theorem foldl_add_eq (l : List Int) (z : Int) : l.foldl (· + ·) z = l.sum + z := by
  induction l generalizing z with
  | nil => simp
  | cons x l ih => simp [ih, add_comm, add_left_comm, add_assoc]

/-- The integer dot products: the exact sum narrowed to the accumulator's type (R109, R173). -/
theorem dotInt_eq (tyA tyB : Ty) (sat : Bool) (m : Nat) (a b d : Reg) : dotInt tyA tyB sat m a.toNat b.toNat d.toNat =
    let signed := isSigned tyA || isSigned tyB
    let z := ((List.range m).map fun k => intOf tyA (elem tyA a k) * intOf tyB (elem tyB b k)).sum
      + if signed then d.toInt else (d.toNat : Int)
    let r := narrow (if signed then .s32 else .n32) sat z
    ⟨r.1, r.2⟩ := by
  have hacc : intOf (if isSigned tyA || isSigned tyB then .s32 else .n32) d.toNat
      = if isSigned tyA || isSigned tyB then d.toInt else (d.toNat : Int) := by
    split
    · exact intOf_s32 d
    · exact intOf_n32 d
  simp only [dotInt, hacc, foldl_add_eq]
  rfl

/-- The range of the accumulator's type (R97). -/
theorem accumulator_range (signed : Bool) : tyMin (if signed then .s32 else .n32) = (if signed then -2 ^ 31 else 0)
    ∧ tyMax (if signed then .s32 else .n32) = (if signed then 2 ^ 31 - 1 else 2 ^ 32 - 1)
    ∧ tyBits (if signed then .s32 else .n32) = 32 := by cases signed <;> decide

/-! ### Scaling (R174) -/

theorem fvIsZero_eq {v : FV} : fvIsZero v = true ↔ ratOf v = some 0 := by
  match v with
  | .nan => simp [fvIsZero, ratOf]
  | .inf n => simp [fvIsZero, ratOf]
  | .fin n m e =>
    rw [ratOf_zero_iff]
    cases m <;> simp [fvIsZero]

/-- FMULE by the kind of its operand (R174). -/
theorem fmuleRound_cases (rm : Rm) (x s : Nat) :
    (s = 255 ∨ fvOf .f32 x = .nan → fmuleRound rm x s = ⟨0x7FC00000, 0⟩)
    ∧ (s ≠ 255 → (∃ y, fvOf .f32 x = .inf y) ∨ ratOf (fvOf .f32 x) = some 0 → fmuleRound rm x s = ⟨x, 0⟩)
    ∧ ∀ neg m k, fvOf .f32 x = .fin neg m k → 0 < m → s ≠ 255 →
      fmuleRound rm x s = roundTo .f32 rm false (.fin neg m (k + (s - 127))) := by
  simp only [fmuleRound, Bool.or_eq_true, decide_eq_true_eq, fvIsNaN_iff, fvIsInf_iff, fvIsZero_eq]
  refine ⟨fun h => ?_, fun hs h => ?_, fun neg m k hv hm hs => ?_⟩
  · rw [if_pos h]
    rfl
  · have hn : fvOf .f32 x ≠ .nan := by
      intro hn
      simp [hn, ratOf] at h
    rw [if_neg (not_or.mpr ⟨hs, hn⟩), if_pos h]
  · rw [hv, if_neg (by simp [hs]), if_neg (by simpa [ratOf_zero_iff] using hm.ne')]
    rfl

/-- Settles O16: packed words element by element, dot products by `dotCases_roundWith` and `dotInt_eq`, FMULE by the kind of its
operand. -/
theorem packedDotsAndScalingRoundOnce : Obligations.PackedDotsAndScalingRoundOnce := by
  unfold Obligations.PackedDotsAndScalingRoundOnce
  intro f packed dot
  have hpacked (hw : tyBits f.ty = 16) {i : Instr} {g : Rat → Rat → Rat → Rat} {P : FV → FV → FV → Rounded → Prop}
      (V : FV → FV → FV → FV × Reg) {G : FV → FV → FV → Rounded} (hG : ∀ a b d, G a b d = roundWith f.ty f.rm false (V a b d))
      (hx : ∀ s, exec i s = .next (wordMap i (packedWord f G) s))
      (hV : ∀ {a b d x y z}, ratOf a = some x → ratOf b = some y → ratOf d = some z →
        ratOf (V a b d).1 = some (g x y z) ∧ (V a b d).2 = 0)
      (hP : ∀ a b d, P a b d (G a b d)) : packed i g P := by
    refine ⟨fun j e t => V (fvOf f.ty (elem f.ty (a32 f t) j)) (fvOf f.ty (elem f.ty (b32 f e t) j))
      (fvOf f.ty (elem f.ty (d32 f t) j)), runs_of_wordMap hx fun e t => ?_, fun j e t _ => ⟨fun x y z => hV, ?_⟩⟩
    · simp only [packedWord_eq hw, hG]
      rfl
    · have h := hP (fvOf f.ty (elem f.ty (a32 f t) j)) (fvOf f.ty (elem f.ty (b32 f e t) j)) (fvOf f.ty (elem f.ty (d32 f t) j))
      rwa [hG] at h
  have hdot {i : Instr} {m : Nat} (hx : ∀ s, exec i s = .next (wordMap i (dotWord f m) s)) : dot i m := by
    intro tb htb hopx
    have hsrc := srcTy_eq htb hopx
    refine ⟨fun hf _ => ?float, fun hi => ?int⟩
    case float =>
      refine ⟨fun e t => dotValue m (fun k => fvOf f.ty (elem f.ty (a32 f t) k)) (fun k => fvOf tb (elem tb (b32 f e t) k)) (fD f t),
        runs_of_wordMap hx fun e t => ?_, fun e t => ⟨fun z x y hz hx hy => ratOf_dotValue hz hx hy, dotCases_roundWith ..⟩⟩
      simp only [dotWord, hf, if_true, hsrc]
      rfl
    case int =>
      have hf : isF f.ty = false := by
        revert hi
        cases f.ty <;> decide
      intro signed lo hi z
      obtain ⟨hmin, hmax, hbits⟩ := accumulator_range signed
      have hword (e : Env) (t : Thread) : dotWord f m e t = .ok (setFsr (writeV t f.d.toNat
          (BitVec.ofNat 32 (narrow (if signed then .s32 else .n32) f.sat (z e t)).1))
            (narrow (if signed then .s32 else .n32) f.sat (z e t)).2) := by
        simp only [dotWord, hf, hsrc, Bool.false_eq_true, if_false]
        exact congrArg (fun r => TRes.ok (putRounded t f.d.toNat r)) (dotInt_eq f.ty tb f.sat m (a32 f t) (b32 f e t) (d32 f t))
      refine ⟨fun hs => runs_of_wordMap hx fun e t => ?_, fun hs => runs_of_wordMap hx fun e t => ?_⟩
      · simp only [hword, hs, narrow, hbits, ofNat_wrapN, Bool.false_eq_true, if_false, setFsr_zero]
      · simp only [hword, hs, narrow_sat, hbits, ofNat_wrapN, hmin, hmax]
        rfl
  refine ⟨fun hty => ?packedWords, hdot fun _ => rfl, hdot fun _ => rfl, hdot fun _ => rfl, ?fmule⟩
  case packedWords =>
    have hw : tyBits f.ty = 16 := by rcases hty with h | h <;> rw [h] <;> rfl
    have hp : plainTy f.ty = true := by rcases hty with h | h <;> rw [h] <;> rfl
    exact ⟨hpacked hw (fun a b _ => sumFV f.rm [a, b]) (fun _ _ _ => rfl) (fun _ => rfl) (fun hx hy _ => ratOf_sumFV_pair f.rm hx hy)
        fun a b _ => sumCases_addRound hp f.rm a b,
      hpacked hw (fun a b _ => productFV a b) (fun _ _ _ => rfl) (fun _ => rfl) (fun hx hy _ => productFV_finite hx hy)
        fun a b _ => productCases_mulRound hp f.rm a b,
      hpacked hw (fun a b d => fmaFV f.rm a b d) (fun a b d => fmaRound_eq hp f.rm a b d) (fun _ => rfl)
        (fun hx hy hz => fmaFV_finite f.rm hx hy hz) fun a b d => fmaCases_fmaRound hp f.rm a b d⟩
  case fmule =>
    refine ⟨fun e t => fmuleRound f.rm (a32 f t).toNat ((b32 f e t).toNat / 2 ^ (8 * (f.opx.toNat % 4)) % 256),
      runs_of_wordMap (fun _ => rfl) fun _ _ => rfl, fun e t => ?_⟩
    exact fmuleRound_cases f.rm _ _

end Sys2Proof.Numbers
end

section
/-! Proofs for the family of number formats: REDUX and SCAN. -/

namespace Sys2Proof.Numbers

open Sys2Proof Sys2Proof.Machine Sys2Proof.Spec Sys2Proof.Laws Sys2Proof.Sheaves

/-! ### Sums across and along lanes (R164, R204) -/

theorem sumAcross_reduxAddF (xs : List Nat) : SumAcross xs (reduxAddF xs) := by
  have h : reduxAddF xs = roundWith .f32 .rne false (sumFV .rne (xs.map f32)) := by
    cases xs with
    | nil => decide
    | cons x xs => rfl
  rw [h]
  exact sumOver_roundWith _

/-- One step of a running sum. -/
def scanStep (p : Rounded) (v : Nat) : Rounded :=
  ⟨(addRound .f32 .rne (f32 p.code) (f32 v)).code, (addRound .f32 .rne (f32 p.code) (f32 v)).flags ||| p.flags⟩

theorem sumAlong_foldl (p : Rounded) (l : List Nat) : SumAlong p l (l.foldl scanStep p) := by
  induction l generalizing p with
  | nil => rfl
  | cons v l ih => exact ⟨_, isSum_addRound rfl .rne _ _, ih _⟩

theorem canonNaN_spec (x : Nat) : (f32 x = .nan → canonNaN x = 0x7FC00000) ∧ (f32 x ≠ .nan → canonNaN x = x) := by
  unfold canonNaN f32
  exact ⟨fun h => by rw [if_pos (by simp [h])]; rfl, fun h => if_neg (by simpa using h)⟩

theorem runningSum_scanAddF (xs : List Nat) : RunningSum xs (scanAddF xs) := by
  cases xs with
  | nil => rfl
  | cons x l => exact ⟨canonNaN x, (canonNaN_spec x).1, (canonNaN_spec x).2, sumAlong_foldl ⟨canonNaN x, 0⟩ l⟩

/-! ### The order of values (R165) -/

/-- A value that is not NaN in a linear order: infinities outside the finite values. -/
def place : FV → Int ×ₗ Rat
  | .nan => toLex (0, 0)
  | .inf n => toLex (if n then -1 else 1, 0)
  | .fin n m e => toLex (0, signOf n * m * 2 ^ e)

theorem below_iff_place {a b : FV} (ha : a ≠ .nan) (hb : b ≠ .nan) : below a b ↔ place a < place b := by
  match a, b with
  | .nan, _ => exact absurd rfl ha
  | .inf _, .nan => exact absurd rfl hb
  | .fin _ _ _, .nan => exact absurd rfl hb
  | .inf x, .inf y => cases x <;> cases y <;> simp [below, ratOf, place, Prod.Lex.toLex_lt_toLex]
  | .inf x, .fin n m e => cases x <;> simp [below, ratOf, place, Prod.Lex.toLex_lt_toLex]
  | .fin n m e, .inf y => cases y <;> simp [below, ratOf, place, Prod.Lex.toLex_lt_toLex]
  | .fin n m e, .fin n' m' e' => simp [below, ratOf_fin, place, Prod.Lex.toLex_lt_toLex]

theorem same_iff_place {a b : FV} (ha : a ≠ .nan) (hb : b ≠ .nan) : same a b ↔ place a = place b := by
  match a, b with
  | .nan, _ => exact absurd rfl ha
  | .inf _, .nan => exact absurd rfl hb
  | .fin _ _ _, .nan => exact absurd rfl hb
  | .inf x, .inf y => cases x <;> cases y <;> simp [same, ratOf, place]
  | .inf x, .fin n m e => cases x <;> simp [same, ratOf, place]
  | .fin n m e, .inf y => cases y <;> simp [same, ratOf, place]
  | .fin n m e, .fin n' m' e' => simp [same, ratOf_fin, place, eq_comm]

/-- Code `x` stands no higher than code `y`, the zeros in the order -0, +0. -/
def Under (x y : Nat) : Prop :=
  place (f32 x) ≤ place (f32 y) ∧ (place (f32 x) = place (f32 y) → fvNeg (f32 y) = true → fvNeg (f32 x) = true)

theorem Under.refl (x : Nat) : Under x x := ⟨le_rfl, fun _ h => h⟩

theorem Under.trans {x y z : Nat} (h : Under x y) (h' : Under y z) : Under x z := by
  refine ⟨h.1.trans h'.1, fun he hz => ?_⟩
  have hxy : place (f32 x) = place (f32 y) := le_antisymm h.1 (he ▸ h'.1)
  exact h.2 hxy (h'.2 (hxy ▸ he) hz)

theorem Under.of_lt {x y : Nat} (h : place (f32 x) < place (f32 y)) : Under x y := ⟨h.le, fun he => absurd he h.ne⟩

/-- `x` comes before `y` where the least (`low`) or the greatest code is looked for. -/
def Before (low : Bool) (x y : Nat) : Prop := if low then Under x y else Under y x

theorem Before.refl (low : Bool) (x : Nat) : Before low x x := by cases low <;> exact Under.refl x

theorem Before.trans {low : Bool} {x y z : Nat} (h : Before low x y) (h' : Before low y z) : Before low x z := by
  cases low
  · exact Under.trans h' h
  · exact Under.trans h h'

/-- FMIN (`low`) or FMAX of two codes. -/
def pick (low : Bool) : Nat → Nat → Nat := if low then minCode .f32 else maxCodeOf .f32

theorem pick_nan {low : Bool} {x y : Nat} (h : f32 x = .nan) : pick low x y = if f32 y = .nan then 0x7FC00000 else y := by
  have hx : fvIsNaN (fvOf .f32 x) = true := fvIsNaN_iff.mpr h
  have hy : fvIsNaN (fvOf .f32 y) = true ↔ f32 y = .nan := fvIsNaN_iff
  cases low <;> simp only [pick, if_true, Bool.false_eq_true, if_false, minCode, maxCodeOf, hx, hy] <;> rfl

theorem pick_nan_right {low : Bool} {x y : Nat} (hx : f32 x ≠ .nan) (hy : f32 y = .nan) : pick low x y = x := by
  have hx : ¬ fvIsNaN (fvOf .f32 x) = true := mt fvIsNaN_iff.mp hx
  have hy : fvIsNaN (fvOf .f32 y) = true := fvIsNaN_iff.mpr hy
  cases low <;> simp only [pick, if_true, Bool.false_eq_true, if_false, minCode, maxCodeOf, hx, hy]

/-- FMIN and FMAX take the one of two codes that comes before the other (R165). -/
theorem pick_spec {low : Bool} {x y : Nat} (hx : f32 x ≠ .nan) (hy : f32 y ≠ .nan) :
    (pick low x y = x ∨ pick low x y = y) ∧ Before low (pick low x y) x ∧ Before low (pick low x y) y := by
  have hnx : ¬ fvIsNaN (fvOf .f32 x) = true := mt fvIsNaN_iff.mp hx
  have hny : ¬ fvIsNaN (fvOf .f32 y) = true := mt fvIsNaN_iff.mp hy
  have hlt : cmpFV (fvOf .f32 x) (fvOf .f32 y) < 0 ↔ place (f32 x) < place (f32 y) := (cmpFV_neg_iff hx hy).trans (below_iff_place hx hy)
  have hgt : 0 < cmpFV (fvOf .f32 x) (fvOf .f32 y) ↔ place (f32 y) < place (f32 x) := (cmpFV_pos_iff hx hy).trans (below_iff_place hy hx)
  have hneg : fvNeg (fvOf .f32 x) = fvNeg (f32 x) := rfl
  have hpick : pick low x y = if place (f32 x) < place (f32 y) then (if low then x else y)
      else if place (f32 y) < place (f32 x) then (if low then y else x)
      else if fvNeg (f32 x) = low then x else y := by
    cases low <;> simp only [pick, if_true, Bool.false_eq_true, if_false, minCode, maxCodeOf, hnx, hny, hlt, hgt, hneg]
    cases fvNeg (f32 x) <;> rfl
  rw [hpick]
  rcases lt_trichotomy (place (f32 x)) (place (f32 y)) with h | h | h
  · rw [if_pos h]
    cases low
    · exact ⟨.inr rfl, Under.of_lt h, Under.refl y⟩
    · exact ⟨.inl rfl, Under.refl x, Under.of_lt h⟩
  · rw [if_neg h.not_lt, if_neg h.not_gt]
    split
    next hs =>
      subst hs
      refine ⟨.inl rfl, Before.refl _ x, ?_⟩
      cases hx : fvNeg (f32 x)
      · exact ⟨h.ge, fun _ hn => by rw [hx] at hn; cases hn⟩
      · exact ⟨h.le, fun _ _ => hx⟩
    next hs =>
      refine ⟨.inr rfl, ?_, Before.refl _ y⟩
      cases low
      · exact ⟨h.le, fun _ _ => by simpa using hs⟩
      · exact ⟨h.ge, fun _ hn => absurd hn hs⟩
  · rw [if_neg h.not_gt, if_pos h]
    cases low
    · exact ⟨.inl rfl, Under.refl x, Under.of_lt h⟩
    · exact ⟨.inr rfl, Under.of_lt h, Under.refl y⟩

/-- `r` comes before every code of the list that is not NaN, and is one of them unless all are NaN. -/
def Best (low : Bool) (l : List Nat) (r : Nat) : Prop :=
  ((∀ x ∈ l, f32 x = .nan) → f32 r = .nan) ∧ ((∃ x ∈ l, f32 x ≠ .nan) → r ∈ l ∧ f32 r ≠ .nan)
    ∧ ∀ x ∈ l, f32 x ≠ .nan → Before low r x

theorem best_pick (low : Bool) (x y : Nat) : Best low [x, y] (pick low x y) := by
  simp only [Best, List.mem_cons, List.not_mem_nil, or_false, forall_eq_or_imp, forall_eq, exists_eq_or_imp, exists_eq_left]
  by_cases hx : f32 x = .nan
  · rw [pick_nan hx]
    by_cases hy : f32 y = .nan
    · simp only [hx, hy, if_true, not_true_eq_false, or_self, false_imp_iff, Ne, and_self, and_true]
      exact fun _ => by decide
    · simp [hx, hy, Before.refl]
  by_cases hy : f32 y = .nan
  · rw [pick_nan_right hx hy]
    simp [hx, hy, Before.refl]
  · obtain ⟨hmem, hbx, hby⟩ := pick_spec (low := low) hx hy
    refine ⟨fun h => absurd h.1 hx, fun _ => ⟨hmem, ?_⟩, fun _ => hbx, fun _ => hby⟩
    rcases hmem with h | h <;> rw [h] <;> assumption

/-- The better of two codes stands for both. -/
theorem best_cons_cons {low : Bool} {x y r : Nat} {l : List Nat} (h : Best low (pick low x y :: l) r) : Best low (x :: y :: l) r := by
  obtain ⟨hnan, hmem, hbefore⟩ := best_pick low x y
  obtain ⟨hnan', hmem', hbefore'⟩ := h
  have hl {z : Nat} (hz : z ∈ x :: y :: l) : z ∈ [x, y] ∨ z ∈ l := by simpa [or_assoc] using hz
  have hl' {z : Nat} (hz : z ∈ [x, y]) : z ∈ x :: y :: l := by
    simp only [List.mem_cons, List.not_mem_nil, or_false] at hz ⊢
    exact hz.elim .inl fun hz => .inr (.inl hz)
  refine ⟨fun hall => hnan' ?_, fun hex => ?_, fun z hz hzn => ?_⟩
  · rintro z (_ | ⟨_, hz⟩)
    · exact hnan fun w hw => hall w (hl' hw)
    · exact hall z (List.mem_cons_of_mem x (List.mem_cons_of_mem y hz))
  · obtain ⟨z, hz, hzn⟩ := hex
    have hin : ∃ w ∈ pick low x y :: l, f32 w ≠ .nan := (hl hz).elim (fun hz => ⟨_, List.mem_cons_self, (hmem ⟨z, hz, hzn⟩).2⟩)
      fun hz => ⟨z, List.mem_cons_of_mem _ hz, hzn⟩
    obtain ⟨hr, hrn⟩ := hmem' hin
    refine ⟨?_, hrn⟩
    rcases List.mem_cons.mp hr with rfl | hr
    · exact hl' (hmem (by_contra fun hno => hrn (hnan (by simpa using hno)))).1
    · exact List.mem_cons_of_mem x (List.mem_cons_of_mem y hr)
  · rcases hl hz with hz | hz
    · exact (hbefore' _ List.mem_cons_self (hmem ⟨z, hz, hzn⟩).2).trans (hbefore z hz hzn)
    · exact hbefore' z (List.mem_cons_of_mem _ hz) hzn

theorem best_foldl (low : Bool) (x : Nat) (l : List Nat) : Best low (x :: l) (l.foldl (pick low) x) := by
  induction l generalizing x with
  | nil => simp [Best, Before.refl]
  | cons y l ih => exact best_cons_cons (ih (pick low x y))

theorem before_iff {low : Bool} {r x : Nat} (hr : f32 r ≠ .nan) (hx : f32 x ≠ .nan) : Before low r x ↔
    if low then ¬ below (f32 x) (f32 r) ∧ (same (f32 x) (f32 r) → fvNeg (f32 x) = true → fvNeg (f32 r) = true)
    else ¬ below (f32 r) (f32 x) ∧ (same (f32 x) (f32 r) → fvNeg (f32 r) = true → fvNeg (f32 x) = true) := by
  unfold Before Under
  simp only [below_iff_place hx hr, below_iff_place hr hx, same_iff_place hx hr, not_lt, eq_comm (a := place (f32 x))]

/-- A fold of FMIN or FMAX from an infinity when there is no code, with a canonical NaN (R165, R204). -/
theorem isExtreme_foldFloat (low : Bool) (xs : List Nat) : IsExtreme low xs (foldFloat (pick low) (infCode .f32 (!low)) xs) := by
  cases xs with
  | nil =>
    refine ⟨fun _ => ?_, fun h => absurd rfl h, fun h => absurd rfl h⟩
    cases low <;> rfl
  | cons x l =>
    obtain ⟨hnan, hmem, hbefore⟩ := best_foldl low x l
    obtain ⟨hc, hk⟩ := canonNaN_spec (l.foldl (pick low) x)
    have hfilter {z : Nat} : (z ∈ (x :: l).filter fun x => decide (f32 x ≠ .nan)) ↔ z ∈ x :: l ∧ f32 z ≠ .nan := by simp
    refine ⟨fun h => (List.cons_ne_nil x l h).elim, fun _ hv => ?_, fun hv => ?_⟩
    · refine hc (hnan fun z hz => by_contra fun hzn => ?_)
      exact List.not_mem_nil (hv ▸ hfilter.mpr ⟨hz, hzn⟩)
    · obtain ⟨z, hz⟩ := List.exists_mem_of_ne_nil _ hv
      obtain ⟨hr, hrn⟩ := hmem ⟨z, hfilter.mp hz⟩
      rw [foldFloat, hk hrn]
      refine ⟨hfilter.mpr ⟨hr, hrn⟩, fun w hw => ?_⟩
      obtain ⟨hw, hwn⟩ := hfilter.mp hw
      exact (before_iff hrn hwn).mp (hbefore w hw hwn)

/-! ### REDUX and SCAN (R204) -/

theorem laneOp_eq (f : Full) : field (opxN f) 5 3 = f.opx.toNat / 8 := by
  simp only [field, opxN]
  omega

/-- The arithmetic reductions of floats: a sum, the least, the greatest. -/
theorem laneArith_floats {scan : Bool} {o : Nat} (ho : o ≤ 2) (sat : Bool) (l : List Reg) :
    let xs := l.map (·.toNat)
    let r := laneArith scan .f32 sat o l
    (o = 0 → if scan then RunningSum xs r else SumAcross xs r)
      ∧ (o ≠ 0 → IsExtreme (decide (o = 1)) xs r.code ∧ r.flags = 0) := by
  intro xs
  obtain rfl | rfl | rfl : o = 0 ∨ o = 1 ∨ o = 2 := by omega
  · refine ⟨fun _ => ?_, fun h => absurd rfl h⟩
    cases scan
    · exact sumAcross_reduxAddF xs
    · exact runningSum_scanAddF xs
  · exact ⟨fun h => absurd h (by decide), fun _ => ⟨isExtreme_foldFloat true xs, rfl⟩⟩
  · exact ⟨fun h => absurd h (by decide), fun _ => ⟨isExtreme_foldFloat false xs, rfl⟩⟩

/-- The arithmetic reductions of integers: an exact sum narrowed once, the least, the greatest. -/
def intsOf (f : Full) (o : Nat) (l : List Reg) : Int :=
  let zs := l.map (val f)
  match o with
  | 0 => zs.sum
  | 1 => zs.min?.getD (tyMax f.ty)
  | _ => zs.max?.getD (tyMin f.ty)

theorem foldInt_min (u : Int) (zs : List Int) : foldInt min u zs = zs.min?.getD u := by cases zs <;> rfl

theorem foldInt_max (u : Int) (zs : List Int) : foldInt max u zs = zs.max?.getD u := by cases zs <;> rfl

theorem laneArith_ints {f : Full} (hf : IntTy f) (scan : Bool) {o : Nat} (ho : o ≤ 2) (l : List Reg) :
    let y := if o = 0 ∧ f.sat = true then max (tyMin f.ty) (min (tyMax f.ty) (intsOf f o l)) else intsOf f o l
    let r := laneArith scan f.ty f.sat o l
    BitVec.ofNat 32 r.code = BitVec.ofInt 32 y ∧ r.flags = if y = intsOf f o l then 0 else 0x20 := by
  have hty : isF f.ty = false := by rcases hf with h | h <;> rw [h] <;> rfl
  have hzs : (l.map (·.toNat)).map (intOf f.ty) = l.map (val f) := by simp [intOf_eq_val hf]
  simp only [laneArith, hty, Bool.false_eq_true, if_false, hzs]
  obtain rfl | rfl | rfl : o = 0 ∨ o = 1 ∨ o = 2 := by omega
  · simp only [foldl_add_eq, Int.add_zero, true_and]
    cases hs : f.sat
    · simp [narrow, tyBits_of_intTy hf, ofNat_wrapN, intsOf]
    · simp only [narrow_sat, tyBits_of_intTy hf, ofNat_wrapN, if_true]
      exact ⟨rfl, rfl⟩
  · simp only [foldInt_min, ofNat_wrapN, one_ne_zero, false_and, if_false, if_true, and_true]
    rfl
  · simp only [foldInt_max, ofNat_wrapN, two_ne_zero, false_and, if_false, if_true, and_true]
    rfl

theorem reduxVal_arith {f : Full} (ho : f.opx.toNat / 8 ≤ 2) (l : List Reg) :
    reduxVal f l = laneArith false f.ty f.sat (f.opx.toNat / 8) l := by
  unfold reduxVal
  rw [laneOp_eq]
  generalize f.opx.toNat / 8 = o at ho
  match o, ho with
  | 0, _ => rfl
  | 1, _ => rfl
  | 2, _ => rfl

/-- The bitwise reductions start from their identity (R204; that of .xor is log entry 101's). -/
def bitsOf (o : Nat) (l : List Reg) : Reg :=
  match o with
  | 3 => l.foldl (· &&& ·) (BitVec.allOnes 32)
  | 4 => l.foldl (· ||| ·) 0
  | _ => l.foldl (· ^^^ ·) 0

theorem reduxVal_bits {f : Full} (h3 : 3 ≤ f.opx.toNat / 8) (h5 : f.opx.toNat / 8 ≤ 5) (l : List Reg) :
    reduxVal f l = ⟨(bitsOf (f.opx.toNat / 8) l).toNat, 0⟩ := by
  unfold reduxVal
  rw [laneOp_eq]
  generalize f.opx.toNat / 8 = o at h3 h5
  match o, h3, h5 with
  | 3, _, _ => rfl
  | 4, _, _ => rfl
  | 5, _, _ => rfl

/-- Settles O31: REDUX and SCAN by what `laneArith` makes of the operands of the active set. -/
theorem reductionsAndScans : Obligations.ReductionsAndScans := by
  unfold Obligations.ReductionsAndScans
  intro f op vals part lo hi ints floats
  have hints (hf : IntTy f) (scan : Bool) {o : Nat} (ho : o ≤ 2) (l : List Reg) (t : Thread) :
      TRes.ok (putRounded t f.d.toNat (laneArith scan f.ty f.sat o l)) = ints o l t := by
    obtain ⟨hcode, hflags⟩ := laneArith_ints hf scan ho l
    rw [putRounded, hcode, hflags]
    simp only [ints, lo, hi, ← tyMin_eq hf, ← tyMax_eq hf]
    rfl
  have hredux (ho : op ≤ 2) (e : Env) (t : Thread) : reduxWord f e t =
      .ok (putRounded t f.d.toNat (laneArith false f.ty f.sat op (vals e (.redux f) t))) := by
    rw [reduxWord, reduxVal_arith ho]
    rfl
  have hscan (e : Env) (t : Thread) : scanWord f e t =
      .ok (putRounded t f.d.toNat (laneArith true f.ty f.sat (op % 4) (part e t))) := by
    have htakes : scanTakes f t = fun u => if 4 ≤ op then decide (lanePos u < lanePos t) else decide (lanePos u ≤ lanePos t) := by
      funext u
      rw [scanTakes, laneOp_eq]
    rw [scanWord, laneOp_eq, htakes]
    rfl
  have hfloats (hty : f.ty = .f32) {i : Instr} {w : Env → Thread → TRes} {o : Nat} (ho : o ≤ 2) {scan : Bool}
      (l : Env → Thread → List Reg) (hx : ∀ s, exec i s = .next (wordMap i w s))
      (hw : ∀ e t, w e t = .ok (putRounded t f.d.toNat (laneArith scan f.ty f.sat o (l e t)))) :
      floats i o l (if scan then RunningSum else SumAcross) := by
    refine ⟨fun e t => laneArith scan f.ty f.sat o (l e t), runs_of_wordMap hx hw, fun e t => ?_⟩
    have h := laneArith_floats (scan := scan) ho f.sat (l e t)
    rw [hty]
    cases scan <;> exact h
  refine ⟨fun hf ho => runs_of_wordMap (fun _ => rfl) fun e t => ?_, fun hty ho => ?_, fun h3 h5 => runs_of_wordMap (fun _ => rfl) fun e t => ?_,
    fun hf h6 h3 => runs_of_wordMap (fun _ => rfl) fun e t => ?_, fun hty h6 h3 => ?_⟩
  · rw [hredux ho, hints hf false ho]
  · exact hfloats (scan := false) hty ho _ (fun _ => rfl) (hredux ho)
  · rw [reduxWord, reduxVal_bits h3 h5, setFsr_zero, BitVec.ofNat_toNat, BitVec.setWidth_eq]
    rfl
  · rw [hscan, hints hf true (by omega)]
  · exact hfloats (scan := true) hty (by omega) _ (fun _ => rfl) hscan

end Sys2Proof.Numbers
end

section
/-! Proofs for the family of number formats: roundings of values that are known between two units. -/

namespace Sys2Proof.Numbers

open Sys2Proof Sys2Proof.Machine Sys2Proof.Spec Sys2Proof.Laws Sys2Proof.Sheaves

/-! ### Values that round alike (R102) -/

section Alike
variable {K F : Type} [Field K] [LinearOrder K] [Field F] [LinearOrder F]

/-- Two values, of two fields, stand alike to the multiples of 2^v. -/
def Alike (v : Int) (a : K) (b : F) : Prop := ∀ n : Int, ((n : K) * 2 ^ v ≤ a ↔ (n : F) * 2 ^ v ≤ b) ∧ (a ≤ n * 2 ^ v ↔ b ≤ n * 2 ^ v)

section Order
variable {v : Int} {a : K} {b : F} (h : Alike v a b)
include h

theorem Alike.lt_iff (n : Int) : (a < n * 2 ^ v ↔ b < n * 2 ^ v) ∧ ((n : K) * 2 ^ v < a ↔ (n : F) * 2 ^ v < b) := by
  simp only [← not_le]
  exact ⟨not_congr (h n).1, not_congr (h n).2⟩

theorem Alike.eq_iff (n : Int) : a = n * 2 ^ v ↔ b = n * 2 ^ v := by
  rw [le_antisymm_iff, le_antisymm_iff, (h n).1, (h n).2]

theorem Alike.pos (hb : 0 < b) : 0 < a := by
  have h0 := (h.lt_iff 0).2
  simp only [Int.cast_zero, zero_mul] at h0
  exact h0.mpr hb

end Order

variable [IsStrictOrderedRing K] [IsStrictOrderedRing F]

/-- Multiples of a unit are multiples of a smaller one. -/
theorem Alike.mono {v w : Int} {a : K} {b : F} (h : Alike v a b) (hvw : v ≤ w) : Alike w a b := by
  obtain ⟨k, hk⟩ := Int.eq_ofNat_of_zero_le (sub_nonneg.mpr hvw)
  intro n
  have h := h (n * 2 ^ k)
  have hw : w = k + v := by omega
  rw [hw, zpow_add₀ two_ne_zero, zpow_add₀ two_ne_zero, zpow_natCast, zpow_natCast, ← mul_assoc, ← mul_assoc]
  push_cast at h
  exact h

variable [FloorRing K] [FloorRing F]

section Log
variable {v : Int} {a : K} {b : F} (h : Alike v a b)
include h

theorem Alike.floor_eq : ⌊a / 2 ^ v⌋ = ⌊b / 2 ^ v⌋ := by
  refine eq_of_forall_le_iff fun n => ?_
  rw [Int.le_floor, Int.le_floor, le_div_iff₀ (by positivity), le_div_iff₀ (by positivity)]
  exact (h n).1

omit [FloorRing K] [FloorRing F] in
theorem Alike.two_zpow_le_iff {j : Int} (hj : v ≤ j) : 2 ^ j ≤ a ↔ 2 ^ j ≤ b := by
  simpa using (h.mono hj 1).1

theorem Alike.le_log_iff (hb : 0 < b) {j : Int} (hj : v ≤ j) : j ≤ Int.log 2 a ↔ j ≤ Int.log 2 b := by
  rw [← Int.zpow_le_iff_le_log one_lt_two (h.pos hb), ← Int.zpow_le_iff_le_log one_lt_two hb, Nat.cast_ofNat, Nat.cast_ofNat]
  exact h.two_zpow_le_iff hj

end Log

/-- The exponent of the unit of R102's grid at a magnitude. -/
def ulpExp (ty : Ty) (b : F) : Int := max (Int.log 2 b) (1 - (fmtTable ty).1) - ((fmtTable ty).2.1 : Int)

section Grid
variable {ty : Ty} {a : K} {b : F} (hb : 0 < b) (h : Alike (ulpExp ty b - 1) a b)
include hb h

theorem ulpExp_alike : ulpExp ty a = ulpExp ty b := by
  have hlog {j : Int} (hj : ulpExp ty b - 1 ≤ j) := h.le_log_iff hb hj
  have h1 := hlog (j := max (Int.log 2 b) (1 - (fmtTable ty).1)) (by unfold ulpExp; omega)
  have h2 := hlog (j := max (Int.log 2 b) (1 - (fmtTable ty).1) + 1) (by unfold ulpExp; omega)
  unfold ulpExp
  omega

theorem ulpAt_alike : ulpAt ty a = 2 ^ ulpExp ty b := by
  rw [← ulpExp_alike hb h]
  rfl

theorem roundedMag_alike (rm : Rm) (neg : Bool) :
    ∃ n : Int, roundedMag ty rm neg a = n * 2 ^ ulpExp ty b ∧ roundedMag ty rm neg b = n * 2 ^ ulpExp ty b := by
  have hgrid := h.mono (show ulpExp ty b - 1 ≤ ulpExp ty b by omega)
  have hulp : ulpAt ty b = 2 ^ ulpExp ty b := rfl
  have hexact := hgrid.eq_iff ⌊b / 2 ^ ulpExp ty b⌋
  have hmid := h.lt_iff (2 * ⌊b / 2 ^ ulpExp ty b⌋ + 1)
  have hlow {L : Type} [Field L] [LinearOrder L] [IsStrictOrderedRing L] (x : L) (n : Int) :
      x - n * 2 ^ ulpExp ty b < (n + 1 : Int) * 2 ^ ulpExp ty b - x ↔ x < (2 * n + 1 : Int) * 2 ^ (ulpExp ty b - 1) := by
    have hu : (2 : L) ^ ulpExp ty b = 2 ^ (ulpExp ty b - 1) * 2 := by rw [← zpow_add_one₀ two_ne_zero, sub_add_cancel]
    rw [hu]
    push_cast
    constructor <;> intro <;> linarith
  have hhigh {L : Type} [Field L] [LinearOrder L] [IsStrictOrderedRing L] (x : L) (n : Int) :
      (n + 1 : Int) * 2 ^ ulpExp ty b - x < x - n * 2 ^ ulpExp ty b ↔ (2 * n + 1 : Int) * 2 ^ (ulpExp ty b - 1) < x := by
    have hu : (2 : L) ^ ulpExp ty b = 2 ^ (ulpExp ty b - 1) * 2 := by rw [← zpow_add_one₀ two_ne_zero, sub_add_cancel]
    rw [hu]
    push_cast
    constructor <;> intro <;> linarith
  have hnext {L : Type} [Field L] (n : Int) : (n : L) * 2 ^ ulpExp ty b + 2 ^ ulpExp ty b = (n + 1 : Int) * 2 ^ ulpExp ty b := by
    push_cast
    ring
  unfold roundedMag
  simp only [ulpAt_alike hb h, hulp, hgrid.floor_eq, hlow, hhigh, hexact, hmid.1, hmid.2, hnext]
  cases rm <;> dsimp only <;> split_ifs <;> exact ⟨_, rfl, rfl⟩

theorem roundedFlags_alike : roundedFlags ty a = roundedFlags ty b := by
  have hgrid := h.mono (show ulpExp ty b - 1 ≤ ulpExp ty b by omega)
  have hulp : ulpAt ty b = 2 ^ ulpExp ty b := rfl
  have hexact := hgrid.eq_iff ⌊b / 2 ^ ulpExp ty b⌋
  have htiny : a < 2 ^ (1 - (fmtTable ty).1) ↔ b < 2 ^ (1 - (fmtTable ty).1) := by
    rw [← not_le, ← not_le, not_iff_not]
    by_cases hv : ulpExp ty b - 1 ≤ 1 - (fmtTable ty).1
    · exact h.two_zpow_le_iff hv
    · have hlog : 1 - (fmtTable ty).1 ≤ Int.log 2 b ∧ ulpExp ty b - 1 ≤ Int.log 2 b := by
        unfold ulpExp at hv ⊢
        omega
      have hlog' := (h.le_log_iff hb le_rfl).mpr hlog.2
      have hK := (Int.zpow_le_iff_le_log one_lt_two (h.pos hb)).mpr (show 1 - (fmtTable ty).1 ≤ Int.log 2 a by omega)
      have hF := (Int.zpow_le_iff_le_log one_lt_two hb).mpr hlog.1
      rw [Nat.cast_ofNat] at hK hF
      exact iff_of_true hK hF
  unfold roundedFlags
  simp only [ulpAt_alike hb h, hulp, hgrid.floor_eq, hexact, htiny]

end Grid

/-- A value rounds to what a rational rounds to that stands alike to the grid and to the points between. -/
theorem isRound_alike {ty : Ty} {a : K} {q : Rat} (hq : 0 < q) (h : Alike (ulpExp ty q - 1) a q) {rm : Rm} {sat neg : Bool} {r : Rounded}
    (hr : IsRound ty rm sat neg q r) : IsRound ty rm sat neg a r := by
  obtain ⟨n, ha, hb⟩ := roundedMag_alike hq h rm neg
  have hy : roundedMag ty rm neg a = ((roundedMag ty rm neg q : Rat) : K) := by
    rw [ha, hb]
    push_cast
    rfl
  have hgives (x : Rat) : (∃ p : Rat, ratOf (fvOf ty r.code) = some p ∧ (p : K) = (if neg then -1 else 1) * (x : K)) ↔
      ∃ p : Rat, ratOf (fvOf ty r.code) = some p ∧ p = (if neg then -1 else 1) * x := by
    refine exists_congr fun p => and_congr_right fun _ => ?_
    rw [← Rat.cast_inj (α := K), Rat.cast_mul]
    cases neg
    · simp
    · simp
  unfold IsRound at hr ⊢
  simp only [hy, roundedFlags_alike hq h, Rat.cast_lt, Rat.cast_id, hgives] at hr ⊢
  exact hr

/-! ### Values known between two units (log entry 9) -/

/-- A value is `m` units, or where `sticky` is true lies between `m` units and the next. -/
def Within (sticky : Bool) (m : Nat) (x : K) : Prop := if sticky then (m : K) < x ∧ x < m + 1 else x = m

omit [FloorRing K] [FloorRing F] in
/-- Between two units no multiple of a unit lies. -/
theorem between_iff {m : Nat} {e : Int} {x : K} (h1 : (m : K) < x) (h2 : x < m + 1) (n : Int) :
    ((n : K) * 2 ^ e ≤ x * 2 ^ e ↔ n ≤ m) ∧ (x * 2 ^ e ≤ n * 2 ^ e ↔ (m : Int) + 1 ≤ n) := by
  have hu : (0 : K) < 2 ^ e := by positivity
  rw [mul_le_mul_iff_left₀ hu, mul_le_mul_iff_left₀ hu]
  constructor
  · constructor
    · intro h
      have : (n : K) < ((m + 1 : Int) : K) := by push_cast; linarith
      exact Int.lt_add_one_iff.mp (Int.cast_lt.mp this)
    · intro h
      have : (n : K) ≤ ((m : Int) : K) := Int.cast_le.mpr h
      push_cast at this
      linarith
  · constructor
    · intro h
      have : ((m : Int) : K) < n := by push_cast; linarith
      exact Int.cast_lt.mp this
    · intro h
      have : ((m + 1 : Int) : K) ≤ n := Int.cast_le.mpr h
      push_cast at this
      linarith

omit [FloorRing K] [FloorRing F] in
theorem alike_between {m : Nat} {e : Int} {x : K} {y : F} (h1 : (m : K) < x) (h2 : x < m + 1) (h1' : (m : F) < y) (h2' : y < m + 1) :
    Alike e (x * 2 ^ e) (y * 2 ^ e) := fun n =>
  ⟨(between_iff h1 h2 n).1.trans (between_iff h1' h2' n).1.symm, (between_iff h1 h2 n).2.trans (between_iff h1' h2' n).2.symm⟩

theorem log2_two_mul_add_one {m : Nat} (hm : 0 < m) : Nat.log2 (2 * m + 1) = Nat.log2 m + 1 := by
  rw [Nat.log2_eq_iff (by omega)]
  have h1 := Nat.log2_self_le hm.ne'
  have h2 : m < 2 ^ (Nat.log2 m + 1) := Nat.lt_log2_self
  rw [pow_succ] at h2 ⊢
  rw [pow_succ, pow_succ]
  omega

/-- A magnitude of which a little more is meant splits as the one half a unit of its own above. -/
theorem splitGrid_sticky {m : Nat} {e u : Int} (h : e < u) : splitGrid m e u true = splitGrid (2 * m + 1) (e - 1) u false := by
  obtain ⟨k, hk⟩ : ∃ k : Nat, u - e = k + 1 := ⟨(u - e - 1).toNat, by omega⟩
  have hk' : (u - (e - 1)).toNat = k + 2 := by omega
  have hk : (u - e).toNat = k + 1 := by omega
  have hdiv : (2 * m + 1) / 2 ^ (k + 2) = m / 2 ^ (k + 1) := by
    rw [pow_succ', ← Nat.div_div_eq_div_mul]
    congr 1
    omega
  have hmod : (2 * m + 1) % 2 ^ (k + 2) = 2 * (m % 2 ^ (k + 1)) + 1 := by
    rw [pow_succ', Nat.mod_mul, show (2 * m + 1) / 2 = m by omega]
    omega
  unfold splitGrid
  rw [if_neg (by omega), if_neg (by omega)]
  simp only [hk, hk', hdiv, hmod, Nat.add_sub_cancel, show k + 2 - 1 = k + 1 from rfl, Bool.not_true, Bool.and_false, Bool.not_false,
    Bool.and_true, decide_eq_true_eq, Bool.false_eq_true, if_false]
  have hpow : 2 ^ (k + 1) = 2 * 2 ^ k := pow_succ' 2 k
  generalize m % 2 ^ (k + 1) = r
  by_cases hr : r < 2 ^ k
  · rw [if_pos hr, if_neg (by omega), if_pos (by omega)]
  · rw [if_neg hr, if_neg (by omega), if_neg (by omega), if_neg (by omega)]

omit [IsStrictOrderedRing F] [FloorRing K] [FloorRing F] in
theorem alike_cast (v : Int) (q : Rat) : Alike v (q : K) q := by
  intro n
  rw [← Rat.cast_le (K := K), ← Rat.cast_le (K := K)]
  push_cast
  exact ⟨Iff.rfl, Iff.rfl⟩

theorem ulpExp_eq {ty : Ty} (hty : isF ty = true) {m : Nat} (hm : 0 < m) (e : Int) : ulpExp ty ((m : Rat) * 2 ^ e) = gridExp ty m e := by
  rw [ulpExp, fmtTable_bias hty, fmtTable_frac hty, log_mag hm, gridExp]

section Sticky
variable {ty : Ty} {m : Nat} (hm : 2 ^ (fracBits ty + 1) ≤ m) (e : Int)
include hm

/-- The grid of a long magnitude is coarser than its own units. -/
theorem lt_gridExp : e < gridExp ty m e := by
  have hpos : 0 < 2 ^ (fracBits ty + 1) := by positivity
  have hlog := (Nat.le_log2 (by omega)).mpr hm
  unfold gridExp
  omega

theorem gridExp_half : gridExp ty (2 * m + 1) (e - 1) = gridExp ty m e := by
  have hpos : 0 < 2 ^ (fracBits ty + 1) := by positivity
  unfold gridExp
  rw [log2_two_mul_add_one (by omega)]
  push_cast
  congr 2
  omega

/-- A magnitude of which a little more is meant rounds as the one half a unit of its own above. -/
theorem roundMag_sticky (rm : Rm) (sat neg : Bool) :
    roundMag ty rm sat neg m e true = roundMag ty rm sat neg (2 * m + 1) (e - 1) false := by
  have hpos : 0 < 2 ^ (fracBits ty + 1) := by positivity
  have htiny : isTiny ty (2 * m + 1) (e - 1) = isTiny ty m e := by
    unfold isTiny
    rw [log2_two_mul_add_one (by omega)]
    push_cast
    congr 2
    omega
  unfold roundMag
  simp only [gridExp_half hm, htiny, splitGrid_sticky (lt_gridExp hm e)]

/-- R102: Round of a value that is known to within a unit far below its grid. -/
theorem isRound_within (hty : isF ty = true) (rm : Rm) (sat neg : Bool) {sticky : Bool} {x : K} (hx : Within sticky m x) :
    IsRound ty rm sat neg (x * 2 ^ e) (roundMag ty rm sat neg m e sticky) := by
  have hm0 : 0 < m := lt_of_lt_of_le (by positivity) hm
  cases sticky
  · obtain rfl : x = m := hx
    have hcast : (m : K) * 2 ^ e = ((m * 2 ^ e : Rat) : K) := by
      push_cast
      rfl
    rw [hcast]
    exact isRound_alike (by positivity) (alike_cast _ _) (isRound_roundMag hty rm sat neg hm0 e)
  · obtain ⟨h1, h2⟩ := hx
    have hhalf : ((m : Rat) + 1 / 2) * 2 ^ e = (2 * m + 1 : Nat) * 2 ^ (e - 1) := by
      rw [show e = e - 1 + 1 by omega, zpow_add_one₀ two_ne_zero, add_sub_cancel_right]
      push_cast
      ring
    have halike : Alike e (x * 2 ^ e) (((m : Rat) + 1 / 2) * 2 ^ e) := alike_between h1 h2 (by linarith) (by linarith)
    rw [hhalf] at halike
    rw [roundMag_sticky hm]
    have hgrid := lt_gridExp hm e
    refine isRound_alike (by positivity) (halike.mono ?_) (isRound_roundMag hty rm sat neg (2 * m).succ_pos (e - 1))
    rw [ulpExp_eq hty (2 * m).succ_pos, gridExp_half hm]
    omega

end Sticky

end Alike

end Sys2Proof.Numbers
end

section
/-! Proofs for the family of number formats: the special functions. -/

namespace Sys2Proof.Numbers

open Sys2Proof Sys2Proof.Machine Sys2Proof.Spec Sys2Proof.Laws Sys2Proof.Sheaves

/-! ### Operands (R94) -/

/-- A finite value's magnitude fits the fraction with its leading bit, and its exponent is no less than the lowest. -/
theorem fin_bounds {ty : Ty} {x : Nat} {n : Bool} {m : Nat} {e : Int} (h : fvOf ty x = .fin n m e) :
    m < 2 ^ (fracBits ty + 1) ∧ 1 - (biasOf ty : Int) - fracBits ty ≤ e ∧ e < (2 ^ expBits ty : Nat) - biasOf ty - fracBits ty := by
  have hfr : x % 2 ^ fracBits ty < 2 ^ fracBits ty := Nat.mod_lt _ (by positivity)
  have hex : x / 2 ^ fracBits ty % 2 ^ expBits ty < 2 ^ expBits ty := Nat.mod_lt _ (by positivity)
  have hone : 1 < 2 ^ expBits ty := Nat.one_lt_two_pow (by cases ty <;> decide)
  simp only [fvOf] at h
  rw [pow_succ]
  split at h
  · split at h <;> cases h
  · split at h
    · cases h
    · split at h
      all_goals
        obtain ⟨-, rfl, rfl⟩ := FV.fin.inj h
        omega

/-- The magnitude of a quotient of naturals is known to within a unit by its whole part. -/
theorem within_div {K : Type} [Field K] [LinearOrder K] [IsStrictOrderedRing K] (n : Nat) {d : Nat} (hd : 0 < d) :
    Within (n % d != 0) (n / d) ((n : K) / d) := by
  have hd' : (0 : K) < d := by exact_mod_cast hd
  have hdm : (d : K) * (n / d : Nat) + (n % d : Nat) = n := by exact_mod_cast Nat.div_add_mod n d
  unfold Within
  rw [lt_div_iff₀ hd', div_lt_iff₀ hd', div_eq_iff hd'.ne']
  split
  next h =>
    have hr : (0 : K) < (n % d : Nat) := by exact_mod_cast Nat.pos_of_ne_zero (by simpa using h)
    have hr' : ((n % d : Nat) : K) < d := by exact_mod_cast Nat.mod_lt n hd
    constructor <;> nlinarith
  next h =>
    rw [show n % d = 0 by simpa using h] at hdm
    rw [← hdm]
    push_cast
    ring

/-! ### Square roots -/

theorem isqrtGo_spec (n k : Nat) {y : Nat} (h1 : y * y ≤ n) (h2 : n < (y + 2 ^ (k + 1)) * (y + 2 ^ (k + 1))) :
    isqrt.go n k y * isqrt.go n k y ≤ n ∧ n < (isqrt.go n k y + 1) * (isqrt.go n k y + 1) := by
  induction k generalizing y with
  | zero =>
    rw [isqrt.go]
    split
    · exact ⟨‹_›, h2⟩
    · exact ⟨h1, not_le.mp ‹_›⟩
  | succ k ih =>
    rw [isqrt.go]
    split
    · refine ih ‹_› ?_
      rwa [Nat.add_assoc, ← Nat.two_mul, ← pow_succ']
    · exact ih h1 (not_le.mp ‹_›)

/-- `isqrt` gives the whole part of a square root. -/
theorem isqrt_spec (n : Nat) : isqrt n * isqrt n ≤ n ∧ n < (isqrt n + 1) * (isqrt n + 1) := by
  refine isqrtGo_spec n _ (Nat.zero_le n) ?_
  have hlog : n < 2 ^ (Nat.log2 n + 1) := Nat.lt_log2_self
  refine hlog.trans_le ?_
  rw [Nat.zero_add, ← pow_add]
  exact Nat.pow_le_pow_right two_pos (by omega)

theorem le_isqrt {k n : Nat} (h : k * k ≤ n) : k ≤ isqrt n :=
  Nat.lt_add_one_iff.mp (Nat.mul_self_lt_mul_self_iff.mp (h.trans_lt (isqrt_spec n).2))

theorem sqrt_mul_sq (x : ℝ) (k : Int) : √(x * (2 ^ k * 2 ^ k)) = √x * 2 ^ k := by
  rw [Real.sqrt_mul' x (by positivity), Real.sqrt_mul_self (by positivity)]

/-- A square root is known to within a unit by its whole part. -/
theorem within_sqrt {y : Nat} {x : ℝ} (h1 : (y : ℝ) * y ≤ x) (h2 : x < ((y : ℝ) + 1) * (y + 1)) {b : Bool}
    (hb : b = true ↔ (y : ℝ) * y ≠ x) : Within b y √x := by
  have hy : (0 : ℝ) ≤ y := Nat.cast_nonneg y
  unfold Within
  split
  next h =>
    refine ⟨?_, ?_⟩
    · rw [Real.lt_sqrt hy, sq]
      exact lt_of_le_of_ne h1 (hb.mp h)
    · rw [Real.sqrt_lt' (by linarith), sq]
      exact h2
  next h =>
    have hx : (y : ℝ) * y = x := not_not.mp (mt hb.mpr h)
    rw [← hx, Real.sqrt_mul_self hy]

/-- The root of a natural is known to within a unit by `isqrt`. -/
theorem within_isqrt (n : Nat) : Within (isqrt n * isqrt n != n) (isqrt n) √(n : ℝ) := by
  obtain ⟨h1, h2⟩ := isqrt_spec n
  refine within_sqrt (by exact_mod_cast h1) (by exact_mod_cast h2) ?_
  rw [bne_iff_ne]
  exact_mod_cast Iff.rfl

/-- The root of a quotient is known to within a unit by the root of its whole part. -/
theorem within_isqrt_div (n : Nat) {d : Nat} (hd : 0 < d) :
    Within (d * (isqrt (n / d) * isqrt (n / d)) != n) (isqrt (n / d)) √((n : ℝ) / d) := by
  have hd' : (0 : ℝ) < d := by exact_mod_cast hd
  obtain ⟨h1, h2⟩ := isqrt_spec (n / d)
  rw [Nat.le_div_iff_mul_le hd] at h1
  rw [Nat.div_lt_iff_lt_mul hd] at h2
  refine within_sqrt ?_ ?_ ?_
  · rw [le_div_iff₀ hd']
    exact_mod_cast h1
  · rw [div_lt_iff₀ hd']
    exact_mod_cast h2
  · rw [bne_iff_ne, Ne, Ne, not_iff_not, eq_div_iff hd'.ne', Nat.mul_comm]
    exact_mod_cast Iff.rfl

theorem evenExp_spec {m : Nat} (hm : 0 < m) (hm' : m < 2 ^ 24) (e : Int) : ∃ k : Int, (evenExp m e).2 = 2 * k
    ∧ 0 < (evenExp m e).1 ∧ (evenExp m e).1 < 2 ^ 25 ∧ ((evenExp m e).1 : ℝ) * 2 ^ (evenExp m e).2 = m * 2 ^ e := by
  unfold evenExp
  split
  · exact ⟨e / 2, by dsimp only; omega, hm, by dsimp only; omega, rfl⟩
  · refine ⟨(e - 1) / 2, by dsimp only; omega, by dsimp only; omega, by dsimp only; omega, ?_⟩
    dsimp only
    rw [zpow_sub_one₀ two_ne_zero]
    push_cast
    ring

section Roots
variable (rm : Rm) {m : Nat} (hm : 0 < m) (hm' : m < 2 ^ 24) (e : Int)
include hm hm'

omit hm' in
theorem rcpFn_of_pos (neg : Bool) :
    rcpFn rm (.fin neg m e) = roundMag .f32 rm false neg (2 ^ 100 / m) (-100 - e) (2 ^ 100 % m != 0) := by
  obtain ⟨k, rfl⟩ := Nat.exists_eq_add_of_lt hm
  simp only [Nat.zero_add, rcpFn]

omit hm' in
theorem sqrtFn_of_pos : sqrtFn rm (.fin false m e) =
    roundMag .f32 rm false false (isqrt ((evenExp m e).1 * 2 ^ 120)) ((evenExp m e).2 / 2 - 60)
      (isqrt ((evenExp m e).1 * 2 ^ 120) * isqrt ((evenExp m e).1 * 2 ^ 120) != (evenExp m e).1 * 2 ^ 120) := by
  obtain ⟨k, rfl⟩ := Nat.exists_eq_add_of_lt hm
  simp only [Nat.zero_add, sqrtFn]

omit hm' in
theorem rsqrtFn_of_pos : rsqrtFn rm (.fin false m e) =
    roundMag .f32 rm false false (isqrt (2 ^ 200 / (evenExp m e).1)) (-100 - (evenExp m e).2 / 2)
      ((evenExp m e).1 * (isqrt (2 ^ 200 / (evenExp m e).1) * isqrt (2 ^ 200 / (evenExp m e).1)) != 2 ^ 200) := by
  obtain ⟨k, rfl⟩ := Nat.exists_eq_add_of_lt hm
  simp only [Nat.zero_add, rsqrtFn]

theorem isRound_rcp (neg : Bool) : IsRound .f32 rm false neg (1 / ((m : Rat) * 2 ^ e)) (rcpFn rm (.fin neg m e)) := by
  have hbig : 2 ^ (fracBits .f32 + 1) ≤ 2 ^ 100 / m := by
    rw [Nat.le_div_iff_mul_le hm, fracBits]
    omega
  have hval : 1 / ((m : Rat) * 2 ^ e) = ((2 ^ 100 : Nat) : Rat) / m * 2 ^ (-100 - e) := by
    have hm0 : (m : Rat) ≠ 0 := by positivity
    rw [zpow_sub₀ two_ne_zero]
    push_cast
    field_simp
    norm_num
  rw [hval, rcpFn_of_pos rm hm]
  exact isRound_within hbig _ rfl rm false neg (within_div (2 ^ 100) hm)

theorem isRound_sqrt : IsRound .f32 rm false false √((m : ℝ) * 2 ^ e) (sqrtFn rm (.fin false m e)) := by
  obtain ⟨k, hk, hpos, hlt, hval⟩ := evenExp_spec hm hm' e
  have hbig : 2 ^ (fracBits .f32 + 1) ≤ isqrt ((evenExp m e).1 * 2 ^ 120) := le_isqrt (by rw [fracBits]; omega)
  have hroot : √((m : ℝ) * 2 ^ e) = √((((evenExp m e).1 * 2 ^ 120 : Nat)) : ℝ) * 2 ^ ((evenExp m e).2 / 2 - 60) := by
    rw [← sqrt_mul_sq, ← hval, hk, show 2 * k / 2 = k by omega, two_mul, zpow_add₀ two_ne_zero, zpow_sub₀ two_ne_zero]
    push_cast
    congr 1
    field_simp
    norm_num
  rw [hroot, sqrtFn_of_pos rm hm]
  exact isRound_within hbig _ rfl rm false false (within_isqrt _)

theorem isRound_rsqrt : IsRound .f32 rm false false (1 / √((m : ℝ) * 2 ^ e)) (rsqrtFn rm (.fin false m e)) := by
  obtain ⟨k, hk, hpos, hlt, hval⟩ := evenExp_spec hm hm' e
  have hbig : 2 ^ (fracBits .f32 + 1) ≤ isqrt (2 ^ 200 / (evenExp m e).1) := by
    refine le_isqrt ?_
    rw [Nat.le_div_iff_mul_le hpos, fracBits]
    omega
  have hroot : 1 / √((m : ℝ) * 2 ^ e) = √(((2 ^ 200 : Nat) : ℝ) / (evenExp m e).1) * 2 ^ (-100 - (evenExp m e).2 / 2) := by
    have hpos' : (0 : ℝ) < (evenExp m e).1 := by exact_mod_cast hpos
    rw [← sqrt_mul_sq, one_div, ← Real.sqrt_inv, ← hval, hk, show 2 * k / 2 = k by omega, two_mul, zpow_add₀ two_ne_zero,
      zpow_sub₀ two_ne_zero]
    push_cast
    congr 1
    field_simp
    norm_num
  rw [hroot, rsqrtFn_of_pos rm hm]
  exact isRound_within hbig _ rfl rm false false (within_isqrt_div _ hpos)

end Roots

/-! ### Exact results (R176) -/

section Exact
variable {m : Nat} (hm : 0 < m) (hm' : m < 2 ^ 24) {e : Int} (he : -149 ≤ e)
include hm hm' he

/-- A magnitude of FP32's precision is a whole number of its units. -/
theorem gridExp_le : gridExp .f32 m e ≤ e := by
  have hlog : Nat.log2 m < 24 := (Nat.log2_lt hm.ne').mpr hm'
  have hbias : biasOf .f32 = 127 := rfl
  have hfrac : fracBits .f32 = 23 := rfl
  unfold gridExp
  omega

theorem splitGrid_exact : splitGrid m e (gridExp .f32 m e) false = (m * 2 ^ (e - gridExp .f32 m e).toNat, .exact) := by
  rw [splitGrid, if_pos (gridExp_le hm hm' he)]
  rfl

/-- Round leaves what FP32 can hold as it is (R102). -/
theorem isRound_representable (htop : (m : Rat) * 2 ^ e ≤ (fmtTable .f32).2.2) {rm : Rm} {neg : Bool} {r : Rounded}
    (h : IsRound .f32 rm false neg ((m : Rat) * 2 ^ e) r) :
    ratOf (fvOf .f32 r.code) = some (signOf neg * (m * 2 ^ e)) ∧ r.flags = 0 := by
  have hval : (splitGrid m e (gridExp .f32 m e) false).1 * (2 : Rat) ^ gridExp .f32 m e = m * 2 ^ e := by
    have hspec := splitGrid_spec m e (gridExp .f32 m e)
    rw [splitGrid_exact hm hm' he] at hspec ⊢
    rw [← sub_eq_zero.mp hspec, div_mul_cancel₀ _ (by positivity)]
  have hmag : roundedMag .f32 rm neg ((m : Rat) * 2 ^ e) = m * 2 ^ e := by
    have hunits : unitsOf .f32 rm neg m e = (splitGrid m e (gridExp .f32 m e) false).1 := by
      have hup (lo : Nat) : roundsUp rm neg lo .exact = false := by cases rm <;> rfl
      simp only [unitsOf, splitGrid_exact hm hm' he, hup, Bool.false_eq_true, if_false]
    rw [roundedMag_eq rfl hm, hunits, hval]
  have hflags : roundedFlags .f32 ((m : Rat) * 2 ^ e) = 0 := by
    rw [roundedFlags_eq rfl hm, gridFlags, splitGrid_exact hm hm' he]
    rfl
  unfold IsRound at h
  simp only [hmag, hflags, Rat.cast_id, not_lt.mpr htop, if_false, exists_eq_right] at h
  exact ⟨h.2.1, h.1⟩

end Exact

theorem le_log_mag_iff {m : Nat} (hm : 0 < m) (e j : Int) : j ≤ (Nat.log2 m : Int) + e ↔ (2 : Rat) ^ j ≤ m * 2 ^ e := by
  rw [← log_mag hm, ← Int.zpow_le_iff_le_log one_lt_two (by positivity), Nat.cast_ofNat]

theorem expSum_zero (x k n : Nat) : expSum x k n 0 = 0 := by
  induction k generalizing n with
  | zero => rfl
  | succ k ih => rw [expSum, Nat.zero_mul, Nat.zero_div, Nat.zero_div, ih]

/-- 2^0 is exact in fixed point. -/
theorem exp2Fix_zero : exp2Fix 0 = fixOne := by
  rw [exp2Fix, Nat.zero_mul, Nat.zero_div, expFix, expSum, Nat.mul_zero, Nat.zero_div, Nat.zero_div, expSum_zero, Nat.add_zero]

theorem exp2Parts_int (neg : Bool) (k : Nat) : exp2Parts neg (k * fixOne) = (fixOne, if neg then -(k : Int) else k) := by
  have hpos : 0 < fixOne := by rw [fixOne]; positivity
  cases neg <;> simp [exp2Parts, Nat.mul_div_cancel _ hpos, exp2Fix_zero]

theorem isSmall_eq_false {m : Nat} {e : Int} (h : 0 ≤ (Nat.log2 m : Int) + e) : isSmall m e = false := by
  rw [isSmall, decide_eq_false_iff_not]
  omega

theorem toFix_int {m k : Nat} {e : Int} (he : -149 ≤ e) (h : (m : Rat) * 2 ^ e = k) : toFix m e = k * fixOne := by
  obtain ⟨j, hj⟩ := Int.eq_ofNat_of_zero_le (show 0 ≤ e + fixP by rw [fixP]; omega)
  rw [toFix, if_pos (by omega), hj, Int.toNat_natCast, fixOne]
  have hcast : (m : Rat) * 2 ^ j = k * 2 ^ fixP := by
    rw [← zpow_natCast, ← zpow_natCast, ← h, ← hj, zpow_add₀ two_ne_zero, mul_assoc]
  exact_mod_cast hcast

section Operand
variable (rm : Rm) {neg : Bool} {m : Nat} (hm : 0 < m) {e : Int}
include hm

/-- EXP2 of an integer rounds the power of two itself. -/
theorem exp2Fn_int (he : -149 ≤ e) {n : Int} (hn : signOf neg * m * 2 ^ e = n) (hlo : -149 ≤ n) (hhi : n ≤ 127) :
    exp2Fn rm (.fin neg m e) = roundMag .f32 rm false false fixOne (n - fixP) false := by
  have hk : (m : Rat) * 2 ^ e = n.natAbs := by
    rw [← abs_signed (n := neg), hn, Nat.cast_natAbs, Int.cast_abs]
  have hk0 : 0 < n.natAbs := by
    have : (0 : Rat) < n.natAbs := by rw [← hk]; positivity
    exact_mod_cast this
  have hsign : (if neg then -(n.natAbs : Int) else n.natAbs) = n := by
    rw [mul_assoc, hk] at hn
    cases neg <;> simp [signOf] at hn ⊢ <;> exact_mod_cast hn
  have hlog : 0 ≤ (Nat.log2 m : Int) + e := by
    rw [le_log_mag_iff hm, hk, zpow_zero]
    exact_mod_cast hk0
  have hlog' : ¬ 10 ≤ (Nat.log2 m : Int) + e := by
    rw [le_log_mag_iff hm, hk]
    have : (n.natAbs : Rat) ≤ 149 := by exact_mod_cast (by omega : n.natAbs ≤ 149)
    rw [show (2 : Rat) ^ (10 : Int) = 1024 by norm_num]
    linarith
  obtain ⟨j, rfl⟩ := Nat.exists_eq_add_of_lt hm
  rw [Nat.zero_add] at hk hlog hlog' ⊢
  simp only [exp2Fn, isSmall_eq_false hlog, hlog', toFix_int he hk, exp2Parts_int, hsign, Nat.mul_mod_left, Bool.false_eq_true, if_false,
    bne_self_eq_false]

/-- LOG2 of a power of two rounds its exponent. -/
theorem log2Fn_pow {n : Int} (hn : (m : Rat) * 2 ^ e = 2 ^ n) :
    log2Fn rm (.fin false m e) = roundTo .f32 rm false (ofInt n) ∧ n = Nat.log2 m + e := by
  have hlog : n = Nat.log2 m + e := by
    rw [← log_mag hm, hn]
    exact (Int.log_zpow (R := Rat) one_lt_two n).symm
  have hpow : m = 2 ^ Nat.log2 m := by
    have hcast : (m : Rat) = 2 ^ Nat.log2 m := by
      rw [hlog, zpow_add₀ two_ne_zero] at hn
      exact_mod_cast mul_right_cancel₀ (by positivity) hn
    exact_mod_cast hcast
  refine ⟨?_, hlog⟩
  obtain ⟨j, rfl⟩ := Nat.exists_eq_add_of_lt hm
  rw [Nat.zero_add] at hpow hlog ⊢
  simp only [log2Fn, if_pos hpow, hlog]

/-- TANH from 64 on rounds a value just below one. -/
theorem tanhFn_large (h : (64 : Rat) ≤ m * 2 ^ e) : tanhFn rm (.fin neg m e) = roundBelow rm neg 1 0 := by
  have hlog : 6 ≤ (Nat.log2 m : Int) + e := by
    rw [le_log_mag_iff hm]
    norm_num
    exact h
  obtain ⟨j, rfl⟩ := Nat.exists_eq_add_of_lt hm
  rw [Nat.zero_add] at hlog ⊢
  simp only [tanhFn, isSmall_eq_false (show 0 ≤ (Nat.log2 (j + 1) : Int) + e by omega), hlog, if_true, Bool.false_eq_true, if_false]

end Operand

/-- Round of a small integer is exact. -/
theorem roundTo_ofInt (rm : Rm) {n : Int} (hn : n.natAbs < 2 ^ 24) :
    ratOf (fvOf .f32 (roundTo .f32 rm false (ofInt n)).code) = some (n : Rat) ∧ (roundTo .f32 rm false (ofInt n)).flags = 0 := by
  by_cases h0 : n = 0
  · subst h0
    exact ⟨by rw [Int.cast_zero]; exact ratOf_f32_zero, rfl⟩
  · have hpos : 0 < n.natAbs := Int.natAbs_pos.mpr h0
    have htop : (n.natAbs : Rat) * 2 ^ (0 : Int) ≤ (fmtTable .f32).2.2 := by
      have hle : (n.natAbs : Rat) ≤ (2 ^ 24 : Nat) := by exact_mod_cast hn.le
      rw [zpow_zero, mul_one]
      refine hle.trans ?_
      norm_num [fmtTable]
    have habs : signOf (decide (n < 0)) * (n.natAbs * 2 ^ (0 : Int)) = n := by
      rw [zpow_zero, mul_one, Nat.cast_natAbs, Int.cast_abs]
      by_cases hneg : n < 0
      · have : (n : Rat) < 0 := by exact_mod_cast hneg
        simp [signOf, hneg, abs_of_neg this]
      · have : (0 : Rat) ≤ n := by exact_mod_cast not_lt.mp hneg
        simp [signOf, hneg, abs_of_nonneg this]
    have h := isRound_representable hpos hn (by decide) htop (isRound_roundMag rfl rm false (decide (n < 0)) hpos 0)
    rwa [habs, ← roundTo_of_pos hpos] at h

theorem roundBelow_one (rm : Rm) : roundBelow rm false 1 0 = ⟨if rm = .rne ∨ rm = .rup then 0x3F800000 else 0x3F7FFFFF, 0x10⟩ := by
  cases rm <;> decide

/-- NaN gives the canonical NaN without a flag (R176). -/
theorem sfu_nan (rm : Rm) : ∀ g ∈ [rcpFn, rsqrtFn, sqrtFn, exp2Fn, log2Fn, tanhFn, sinFn, cosFn], g rm .nan = ⟨0x7FC00000, 0⟩ := by
  intro g hg
  simp only [List.mem_cons, List.not_mem_nil, or_false] at hg
  rcases hg with rfl | rfl | rfl | rfl | rfl | rfl | rfl | rfl <;> rfl

/-- The correctly rounded functions and the exact results of finite operands that are not zero (R102, R175, R176). -/
theorem sfu_finite (rm : Rm) {x : Nat} {q : Rat} (hx : ratOf (fvOf .f32 x) = some q) (hq : q ≠ 0) :
    let v := fvOf .f32 x
    IsRound .f32 rm false (fvNeg v) |1 / q| (rcpFn rm v)
    ∧ (0 < q → IsRound .f32 rm false false (Real.sqrt (q : ℝ)) (sqrtFn rm v)
        ∧ IsRound .f32 rm false false (1 / Real.sqrt (q : ℝ)) (rsqrtFn rm v))
    ∧ (∀ n : Int, q = n → -149 ≤ n → n ≤ 127 → ratOf (fvOf .f32 (exp2Fn rm v).code) = some ((2 : Rat) ^ n) ∧ (exp2Fn rm v).flags = 0)
    ∧ (∀ n : Int, q = (2 : Rat) ^ n → ratOf (fvOf .f32 (log2Fn rm v).code) = some (n : Rat) ∧ (log2Fn rm v).flags = 0)
    ∧ (q = 1 → log2Fn rm v = ⟨0, 0⟩)
    ∧ (64 ≤ q → tanhFn rm v = ⟨if rm = .rne ∨ rm = .rup then 0x3F800000 else 0x3F7FFFFF, 0x10⟩) := by
  obtain ⟨neg, m, e, hv, rfl⟩ := exists_fin hx
  obtain ⟨hm', he, he'⟩ := fin_bounds hv
  have hm : 0 < m := Nat.pos_of_ne_zero (mt signed_eq_zero_iff.mpr hq)
  have hneg (h : 0 < signOf neg * (m : Rat) * 2 ^ e) : neg = false := by
    rw [← Bool.not_eq_true, ← signed_neg_iff hm]
    exact h.le.not_gt
  intro v
  rw [show v = .fin neg m e from hv]
  refine ⟨?rcp, fun h => ?roots, fun n hn hlo hhi => ?exp2, fun n hn => ?log2, fun h1 => ?one, fun h64 => ?tanh⟩
  case rcp =>
    rw [abs_div, abs_one, abs_signed]
    exact isRound_rcp rm hm hm' e neg
  case roots =>
    obtain rfl := hneg h
    have hcast : ((signOf false * (m : Rat) * 2 ^ e : Rat) : ℝ) = m * 2 ^ e := by
      rw [signOf, if_neg Bool.false_ne_true, one_mul]
      push_cast
      rfl
    rw [hcast]
    exact ⟨isRound_sqrt rm hm hm' e, isRound_rsqrt rm hm hm' e⟩
  case exp2 =>
    have hone : (fixOne : Rat) * 2 ^ (n - fixP) = ((1 : Nat) : Rat) * 2 ^ n := by
      rw [fixOne, Nat.cast_pow, Nat.cast_ofNat, ← zpow_natCast, ← zpow_add₀ two_ne_zero, Nat.cast_one, one_mul, add_sub_cancel]
    have htop : ((1 : Nat) : Rat) * 2 ^ n ≤ (fmtTable .f32).2.2 := by
      rw [Nat.cast_one, one_mul]
      refine (zpow_le_zpow_right₀ one_le_two hhi).trans ?_
      norm_num [fmtTable]
    have hround := isRound_roundMag (ty := .f32) rfl rm false false (show 0 < fixOne by rw [fixOne]; positivity) (n - fixP)
    rw [hone] at hround
    rw [exp2Fn_int rm hm he hn hlo hhi]
    have h := isRound_representable one_pos (by decide) hlo htop hround
    rwa [signOf, if_neg Bool.false_ne_true, one_mul, Nat.cast_one, one_mul] at h
  case log2 =>
    obtain rfl := hneg (by rw [hn]; positivity)
    rw [signOf, if_neg Bool.false_ne_true, one_mul] at hn
    obtain ⟨hfn, hlog⟩ := log2Fn_pow rm hm hn
    have hlog2 : Nat.log2 m < 24 := (Nat.log2_lt hm.ne').mpr hm'
    rw [hfn]
    have he : -149 ≤ e := he
    have he' : e < 106 := he'
    exact roundTo_ofInt rm (by omega)
  case one =>
    obtain rfl := hneg (by rw [h1]; exact one_pos)
    rw [signOf, if_neg Bool.false_ne_true, one_mul] at h1
    obtain ⟨hfn, -⟩ := log2Fn_pow rm hm (n := 0) (by rw [h1, zpow_zero])
    rw [hfn]
    rfl
  case tanh =>
    obtain rfl := hneg (by linarith)
    rw [signOf, if_neg Bool.false_ne_true, one_mul] at h64
    rw [tanhFn_large rm hm h64, roundBelow_one]

end Sys2Proof.Numbers
end

section
/-! Proofs for the family of number formats: the activation table, and the special functions as words. -/

namespace Sys2Proof.Numbers

open Sys2Proof Sys2Proof.Machine Sys2Proof.Spec Sys2Proof.Laws Sys2Proof.Sheaves

/-! ### Values -/

theorem ratOf_fvMinus {v : FV} {x : Rat} (h : ratOf v = some x) : ratOf (fvMinus v) = some (-x) := by
  obtain ⟨n, m, e, rfl, rfl⟩ := exists_fin h
  rw [fvMinus, ratOf_fin]
  cases n <;> simp [signOf]

theorem ratOf_shiftFV {v : FV} {x : Rat} (h : ratOf v = some x) (k : Int) : ratOf (shiftFV k v) = some (x * 2 ^ k) := by
  obtain ⟨n, m, e, rfl, rfl⟩ := exists_fin h
  rw [shiftFV, ratOf_fin, zpow_add₀ two_ne_zero, ← mul_assoc]

theorem ratOf_ofInt (z : Int) : ratOf (ofInt z) = some (z : Rat) := by
  rw [ofInt, ratOf_fin, zpow_zero, mul_one, Nat.cast_natAbs, Int.cast_abs]
  by_cases h : z < 0
  · have : (z : Rat) < 0 := by exact_mod_cast h
    simp [signOf, h, abs_of_neg this]
  · have : (0 : Rat) ≤ z := by exact_mod_cast not_lt.mp h
    simp [signOf, h, abs_of_nonneg this]

theorem ne_nan_of_ratOf {v : FV} {x : Rat} (h : ratOf v = some x) : v ≠ .nan := by
  rintro rfl
  cases h

theorem fvNeg_eq {v : FV} {x : Rat} (h : ratOf v = some x) (hx : x ≠ 0) : fvNeg v = decide (x < 0) := by
  obtain ⟨n, m, e, rfl, rfl⟩ := exists_fin h
  have hm : 0 < m := Nat.pos_of_ne_zero (mt signed_eq_zero_iff.mpr hx)
  simp only [signed_neg_iff hm, fvNeg, Bool.decide_eq_true]

theorem cmpFV_neg_iff_lt {a b : FV} {x y : Rat} (hx : ratOf a = some x) (hy : ratOf b = some y) : cmpFV a b < 0 ↔ x < y := by
  rw [cmpFV_neg_iff (ne_nan_of_ratOf hx) (ne_nan_of_ratOf hy)]
  obtain ⟨n, m, e, rfl, rfl⟩ := exists_fin hx
  obtain ⟨n', m', e', rfl, rfl⟩ := exists_fin hy
  simp [below, ratOf_fin]

/-- The whole part of a value that is not negative. -/
theorem floorFV_eq {v : FV} {x : Rat} (h : ratOf v = some x) (hx : 0 ≤ x) : floorFV v = ⌊x⌋.toNat := by
  obtain ⟨n, m, e, rfl, rfl⟩ := exists_fin h
  have hval : signOf n * (m : Rat) * 2 ^ e = m * 2 ^ e := by rw [← abs_of_nonneg hx, abs_signed]
  rw [hval, floorFV]
  split
  next he =>
    obtain ⟨k, rfl⟩ := Int.eq_ofNat_of_zero_le he
    have hcast : (m : Rat) * 2 ^ (k : Int) = ((m * 2 ^ k : Nat) : Rat) := by
      push_cast
      rw [zpow_natCast]
    rw [hcast, Int.floor_natCast]
    rfl
  next he =>
    obtain ⟨k, hk⟩ := Int.eq_ofNat_of_zero_le (neg_nonneg.mpr (not_le.mp he).le)
    obtain rfl : e = -k := by omega
    have hcast : (m : Rat) * 2 ^ (-(k : Int)) = (m : Rat) / ((2 ^ k : Nat) : Rat) := by
      push_cast
      rw [zpow_neg, zpow_natCast, div_eq_mul_inv]
    rw [hcast, Rat.floor_natCast_div_natCast, neg_neg]
    rfl

theorem ratOf_fracFV {u : FV} {x : Rat} (h : ratOf u = some x) (k : Nat) : ratOf (fracFV u k) = some (x - k) := by
  have := (ratOf_sumFV_pair .rne h (ratOf_ofInt (-k))).1
  rwa [Int.cast_neg, Int.cast_natCast, ← sub_eq_add_neg] at this

/-! ### Interpolation (R181) -/

section Between
variable {e0 e1 : FV}

theorem tableBetween_nan (f : FV) (h : e0 = .nan ∨ e1 = .nan) : tableBetween f e0 e1 = plainNan .f32 := by
  rw [tableBetween, if_pos]
  · rfl
  · simpa using h

theorem tableBetween_infEntry (f : FV) (h0 : e0 ≠ .nan) (h1 : e1 ≠ .nan) (h : ∃ y, e0 = .inf y ∨ e1 = .inf y) :
    tableBetween f e0 e1 = badNan .f32 := by
  rw [tableBetween, if_neg, if_pos]
  · rfl
  · obtain ⟨y, rfl | rfl⟩ := h <;> simp
  · simp [h0, h1]

/-- The entry above less the entry below. -/
def rise (e0 e1 : FV) : FV := (sumFV .rne [e1, fvMinus e0]).1

variable {a c : Rat} (ha : ratOf e0 = some a) (hc : ratOf e1 = some c)
include ha hc

theorem ratOf_rise : ratOf (rise e0 e1) = some (c - a) := by
  rw [sub_eq_add_neg]
  exact (ratOf_sumFV_pair .rne hc (ratOf_fvMinus ha)).1

theorem tableBetween_inf (y : Bool) : (a = c → tableBetween (.inf y) e0 e1 = badNan .f32)
    ∧ (a ≠ c → tableBetween (.inf y) e0 e1 = infinity .f32 (y != decide (c < a))) := by
  have hrise := ratOf_rise ha hc
  have heq : tableBetween (.inf y) e0 e1 =
      if fvIsZero (rise e0 e1) then nanIV else ⟨infCode .f32 (y != fvNeg (rise e0 e1)), 0⟩ := by
    obtain ⟨_, _, _, rfl, -⟩ := exists_fin ha
    obtain ⟨_, _, _, rfl, -⟩ := exists_fin hc
    rfl
  simp only [heq, fvIsZero_eq, hrise, Option.some.injEq, sub_eq_zero]
  refine ⟨fun h => if_pos h.symm, fun h => ?_⟩
  rw [if_neg (Ne.symm h), fvNeg_eq hrise (sub_ne_zero.mpr (Ne.symm h))]
  simp only [sub_neg]
  cases (y != decide (c < a)) <;> rfl

theorem tableBetween_finite {f : FV} {q : Rat} (hf : ratOf f = some q) :
    (a + q * (c - a) = 0 → ratOf (f32 (tableBetween f e0 e1).code) = some 0 ∧ (tableBetween f e0 e1).flags = 0)
    ∧ (a + q * (c - a) ≠ 0 → IsRound .f32 .rne false (decide (a + q * (c - a) < 0)) |a + q * (c - a)| (tableBetween f e0 e1)) := by
  obtain ⟨p, hp, hval, -⟩ := mulFV_finite hf (ratOf_rise ha hc)
  have heq : tableBetween f e0 e1 = addRound .f32 .rne e0 p := by
    obtain ⟨_, _, _, rfl, -⟩ := exists_fin ha
    obtain ⟨_, _, _, rfl, -⟩ := exists_fin hc
    obtain ⟨_, _, _, rfl, -⟩ := exists_fin hf
    rw [← show (mulFV _ _).1 = p from congrArg Prod.fst hp]
    rfl
  rw [heq]
  refine ⟨fun hz => ?_, fun hz => (isSum_addRound rfl .rne e0 p).2 _ _ ha hval hz⟩
  obtain ⟨e, hs⟩ := sumFV_pair_zero .rne ha hval hz
  rw [addRound, hs, roundWith_zero rfl, f32_zero]
  exact ⟨ratOf_zero_iff.mpr rfl, rfl⟩

end Between

theorem isBetween_inf (e0 e1 : FV) (y : Bool) : IsBetween e0 e1 (.inl y) (tableBetween (.inf y) e0 e1) := by
  refine ⟨tableBetween_nan _, tableBetween_infEntry _, fun a c ha hc => ?_⟩
  obtain ⟨heq, hne⟩ := tableBetween_inf ha hc y
  simp only
  split
  next h => exact heq h
  next h => exact hne h

theorem isBetween_finite (e0 e1 : FV) {f : FV} {q : Rat} (hf : ratOf f = some q) :
    IsBetween e0 e1 (.inr q) (tableBetween f e0 e1) := by
  refine ⟨tableBetween_nan _, tableBetween_infEntry _, fun a c ha hc => ?_⟩
  obtain ⟨hz, hn⟩ := tableBetween_finite ha hc hf
  simp only
  split
  next h => exact hz h
  next h => exact hn h

/-! ### Segments (R181) -/

section Segment
variable (clamp : Bool)

/-- The segment of a finite distance, and the place within it. -/
theorem tableSeg_finite {u : FV} {x : Rat} (hu : ratOf u = some x) :
    tableSeg clamp u = if x < 0 then (0, if clamp then .fin false 0 0 else u)
      else if 1023 ≤ x then (if clamp then (1023, .fin false 0 0) else (1022, fracFV u 1022))
      else (⌊x⌋.toNat, fracFV u ⌊x⌋.toNat) := by
  have h0 : cmpFV u (.fin false 0 0) < 0 ↔ x < 0 := cmpFV_neg_iff_lt hu (ratOf_zero_iff.mpr rfl)
  have h1 : 0 ≤ cmpFV u (ofInt 1023) ↔ 1023 ≤ x := by
    rw [← not_lt, ← not_lt, cmpFV_neg_iff_lt hu (ratOf_ofInt 1023), Int.cast_ofNat]
  simp only [tableSeg, h0, h1]
  split
  · rfl
  next hx => rw [floorFV_eq hu (not_lt.mp hx)]

end Segment

/-! ### The whole table (R178, R181) -/

/-- The result within a segment, at a place in it. -/
def tableAt (b : ActBank) (s : Nat × FV) : Rounded :=
  let ent (j : Nat) : Nat := (tblGet b.ent j 0).toNat
  if fvIsZero s.2 then (if fvIsNaN (fvOf .f32 (ent s.1)) then plainNaN else ⟨ent s.1, 0⟩)
  else tableBetween s.2 (fvOf .f32 (ent s.1)) (fvOf .f32 (ent (s.1 + 1)))

/-- The distance of a value from the start of the table, in steps. -/
def tableDistance (d : Nat) (v : FV) : FV := shiftFV (-(intOf .s8 (field d 39 32))) (sumFV .rne [v, fvMinus (fvOf .f32 (field d 31 0))]).1

theorem tableVal_of_valid {b : ActBank} {x : Nat} (hd : descInvalid b.desc = false) (hx : f32 x ≠ .nan) :
    tableVal b x = tableAt b (tableSeg (bitAt b.desc.toNat 40) (tableDistance b.desc.toNat (f32 x))) := by
  have hx' : fvIsNaN (fvOf .f32 x) = false := by rwa [← Bool.not_eq_true, fvIsNaN_iff]
  rw [tableVal]
  simp only [hd, hx', Bool.false_eq_true, if_false]
  rfl

/-- `r` is an entry of the table as it stands. -/
def IsEntry (b : ActBank) (k : Nat) (r : Rounded) : Prop :=
  (f32 (tblGet b.ent k 0).toNat = .nan → r = plainNan .f32) ∧ (f32 (tblGet b.ent k 0).toNat ≠ .nan → r = ⟨(tblGet b.ent k 0).toNat, 0⟩)

section At
variable (b : ActBank) (k : Nat)

theorem isEntry_tableAt {f : FV} (hf : ratOf f = some 0) : IsEntry b k (tableAt b (k, f)) := by
  simp only [IsEntry, tableAt, fvIsZero_eq.mpr hf, if_true, fvIsNaN_iff]
  exact ⟨fun h => if_pos h, fun h => if_neg h⟩

theorem isBetween_tableAt_inf (y : Bool) :
    IsBetween (f32 (tblGet b.ent k 0).toNat) (f32 (tblGet b.ent (k + 1) 0).toNat) (.inl y) (tableAt b (k, .inf y)) :=
  isBetween_inf _ _ y

theorem isBetween_tableAt_finite {f : FV} {q : Rat} (hf : ratOf f = some q) (hq : q ≠ 0) :
    IsBetween (f32 (tblGet b.ent k 0).toNat) (f32 (tblGet b.ent (k + 1) 0).toNat) (.inr q) (tableAt b (k, f)) := by
  have hz : ¬ fvIsZero f = true := by
    rw [fvIsZero_eq, hf, Option.some.injEq]
    exact hq
  rw [tableAt, if_neg hz]
  exact isBetween_finite _ _ hf

end At

/-! ### The fields of a descriptor (R178) -/

section Descriptor
variable (d : BitVec 128)

theorem field_x0 : field d.toNat 31 0 = d.toNat % 2 ^ 32 := by simp [field]

theorem intOf_s8 (x : Nat) : intOf .s8 x = if 128 ≤ x % 256 then (x % 256 : Int) - 256 else x % 256 := by
  by_cases h : 128 ≤ x % 256 <;> simp [intOf, tyBits, isSigned, h]

theorem intOf_shift : intOf .s8 (field d.toNat 39 32) = (d.extractLsb' 32 8).toInt := by
  have hb : (d.extractLsb' 32 8).toNat = d.toNat / 2 ^ 32 % 2 ^ 8 := by
    rw [BitVec.extractLsb'_toNat, Nat.shiftRight_eq_div_pow]
  have hf : field d.toNat 39 32 = d.toNat / 2 ^ 32 % 2 ^ 8 := rfl
  rw [BitVec.toInt_eq_toNat_cond, hb, hf, intOf_s8]
  omega

theorem bitAt_clamp : bitAt d.toNat 40 = d.getLsbD 40 := bitAt_eq_testBit _ _

/-- A descriptor that R178 calls invalid. -/
def BadDescriptor : Prop :=
  f32 (d.toNat % 2 ^ 32) = .nan ∨ (∃ y, f32 (d.toNat % 2 ^ 32) = .inf y) ∨ d.toNat / 2 ^ 41 ≠ 0

theorem descInvalid_iff : descInvalid d = true ↔ BadDescriptor d := by
  have hres : field d.toNat 127 41 = d.toNat / 2 ^ 41 := by
    rw [field]
    have := d.isLt
    omega
  simp [descInvalid, BadDescriptor, field_x0, hres, or_assoc, f32]

end Descriptor

section Distance
variable {d : Nat}

theorem tableDistance_inf {p : Rat} (hp : ratOf (fvOf .f32 (field d 31 0)) = some p) (y : Bool) : tableDistance d (.inf y) = .inf y := by
  obtain ⟨_, _, _, h, -⟩ := exists_fin hp
  rw [tableDistance, h, fvMinus, sumFV_inf_left]
  · rfl
  · nofun
  · nofun

theorem ratOf_tableDistance {v : FV} {p q : Rat} (hp : ratOf (fvOf .f32 (field d 31 0)) = some p) (hq : ratOf v = some q) :
    ratOf (tableDistance d v) = some ((q - p) * 2 ^ (-(intOf .s8 (field d 39 32)))) := by
  rw [sub_eq_add_neg]
  exact ratOf_shiftFV (ratOf_sumFV_pair .rne hq (ratOf_fvMinus hp)).1 _

end Distance

theorem tableAt_inf (b : ActBank) (clamp y : Bool) :
    if clamp = true then IsEntry b (if y then 0 else 1023) (tableAt b (tableSeg clamp (.inf y)))
    else IsBetween (f32 (tblGet b.ent (if y then 0 else 1022) 0).toNat) (f32 (tblGet b.ent (if y then 1 else 1023) 0).toNat) (.inl y)
      (tableAt b (tableSeg clamp (.inf y))) := by
  have hzero : ratOf (.fin false 0 0) = some 0 := ratOf_zero_iff.mpr rfl
  cases y <;> cases clamp
  · exact isBetween_tableAt_inf b 1022 false
  · exact isEntry_tableAt b 1023 hzero
  · exact isBetween_tableAt_inf b 0 true
  · exact isEntry_tableAt b 0 hzero

theorem tableAt_finite (b : ActBank) (clamp : Bool) {v : FV} {u : Rat} (hv : ratOf v = some u) :
    let r := tableAt b (tableSeg clamp v)
    let ent (k : Nat) : FV := f32 (tblGet b.ent k 0).toNat
    if u < 0 then (if clamp = true then IsEntry b 0 r else IsBetween (ent 0) (ent 1) (.inr u) r)
    else if 1023 ≤ u then (if clamp = true then IsEntry b 1023 r else IsBetween (ent 1022) (ent 1023) (.inr (u - 1022)) r)
    else if u = ⌊u⌋ then IsEntry b ⌊u⌋.toNat r
    else IsBetween (ent ⌊u⌋.toNat) (ent (⌊u⌋.toNat + 1)) (.inr (u - ⌊u⌋)) r := by
  have hzero : ratOf (.fin false 0 0) = some 0 := ratOf_zero_iff.mpr rfl
  intro r ent
  simp only [r, tableSeg_finite clamp hv]
  split
  next hneg =>
    cases clamp
    · exact isBetween_tableAt_finite b 0 hv hneg.ne
    · exact isEntry_tableAt b 0 hzero
  next hneg =>
    split
    next htop =>
      cases clamp
      · refine isBetween_tableAt_finite b 1022 (ratOf_fracFV hv 1022) ?_
        linarith
      · exact isEntry_tableAt b 1023 hzero
    next htop =>
      have hcast : ((⌊u⌋.toNat : Nat) : Rat) = ⌊u⌋ := by
        exact_mod_cast Int.toNat_of_nonneg (Int.floor_nonneg.mpr (not_lt.mp hneg))
      have hfrac := ratOf_fracFV hv ⌊u⌋.toNat
      rw [hcast] at hfrac
      split
      next hint => exact isEntry_tableAt b _ (by rw [hfrac, sub_eq_zero.mpr hint])
      next hint => exact isBetween_tableAt_finite b _ hfrac (sub_ne_zero.mpr hint)

theorem isTable_tableVal (b : ActBank) (x : Nat) : IsTable b x (tableVal b x) := by
  have hbad := descInvalid_iff b.desc
  have hvalid (h : ¬ BadDescriptor b.desc) : descInvalid b.desc = false := by rwa [← Bool.not_eq_true, hbad]
  refine ⟨?bad, ?nan, ?inf, ?finite⟩
  case bad =>
    intro h
    rw [tableVal, if_pos (hbad.mpr h)]
    rfl
  case nan =>
    intro h hx
    simp only [tableVal, hvalid h, Bool.false_eq_true, if_false, fvIsNaN_iff]
    exact if_pos hx
  case inf =>
    intro h y hy
    obtain ⟨p, hp⟩ : ∃ p, ratOf (fvOf .f32 (field b.desc.toNat 31 0)) = some p := by
      rw [field_x0]
      match hv : fvOf .f32 (b.desc.toNat % 2 ^ 32) with
      | .nan => exact absurd (.inl hv) h
      | .inf z => exact absurd (.inr (.inl ⟨z, hv⟩)) h
      | .fin _ _ _ => exact ⟨_, rfl⟩
    rw [tableVal_of_valid (hvalid h) (by rw [hy]; nofun), hy, tableDistance_inf hp, bitAt_clamp]
    exact tableAt_inf b _ y
  case finite =>
    intro h q p hq hp
    rw [tableVal_of_valid (hvalid h) (ne_nan_of_ratOf hq), bitAt_clamp]
    rw [← intOf_shift]
    exact tableAt_finite b _ (ratOf_tableDistance (by rw [field_x0]; exact hp) hq)

/-! ### The words (R175, R176, R314) -/

/-- Settles O17: each special operand by R176's table, the other operands of RCP, RSQRT and SQRT by a bound on the exact
value within a unit of the grid, and TBL by the segment that its operand falls in. -/
theorem specialFunctionsLandLater : Obligations.SpecialFunctionsLandLater := by
  unfold Obligations.SpecialFunctionsLandLater
  refine ⟨fun f i g h => ?words, fun f => ⟨fun e t => tableVal (actBank e.k) (a32 f t).toNat, ?tbl, fun e t => isTable_tableVal _ _⟩,
    fun rm neg m k hm => ?special, fun rm x q hx hq => sfu_finite rm hx hq⟩
  case words =>
    simp only [List.mem_cons, Prod.mk.injEq, List.not_mem_nil, or_false] at h
    rcases h with ⟨rfl, rfl⟩ | ⟨rfl, rfl⟩ | ⟨rfl, rfl⟩ | ⟨rfl, rfl⟩ | ⟨rfl, rfl⟩ | ⟨rfl, rfl⟩ | ⟨rfl, rfl⟩ | ⟨rfl, rfl⟩ <;>
      exact runs_of_wordMap (fun _ => rfl) fun _ _ => rfl
  case tbl => exact runs_of_wordMap (fun _ => rfl) fun _ _ => rfl
  case special =>
    obtain ⟨j, rfl⟩ := Nat.exists_eq_add_of_lt hm
    cases neg <;>
      exact ⟨rfl, rfl, rfl, rfl, rfl, rfl, rfl, rfl, rfl, rfl, rfl, rfl, rfl, rfl, rfl, rfl, rfl, rfl, rfl, rfl, rfl, rfl, sfu_nan rm⟩

end Sys2Proof.Numbers
end

section
/-! Proofs for the family of the instruction word: the opcode lemma of every constructor, gathered into one. -/

namespace Sys2Proof.Laws.Opcode

open Sys2Proof Sys2Proof.Machine

/-- The opcode of every instruction leads back to it: the lemma of each constructor, in the order of the table. -/
theorem statement_all (i : Instr) : Statement i :=
  @Instr.rec Statement
    mov sel add sub mul mulh mad div rem min max abs neg and or xor andn not shl shrl shra rotl bfx bfi perm clz popc brev lea
    addD setp pand por pxor pnot movi addi bra brc call calli ret loop lend exit nop gfetch dispatchOp dispatchPc gnext gjmp
    gjmpRel gbrc gset gget fadd fsub fmul ffma fmin fmax fsetp fclass cvt cvtpk cvtup cvtSr cvtpkSr padd2 pmul2 pfma2 dot2
    dot4 dot8 fmule rcp rsqrt sqrt exp2 log2 tanh sin cos tbl tblld tblsw ld ldI st stRel atom barInit barArrive barWait
    barWaitAcq barArwt slotClaim slotTake slotFree fence sleepu dlset dladd dlget shfl vote redux scan sample cntfAdd cntfGet
    cntfClr copyIn copyOut copyRel ckick wload mma mmaR mmap gather coll ratom fwait fwaitAcq ftest fcancel ftime fsleep waitn
    qrd taskTake taskPut taskDone taskDep taskCoord taskWaitf spawn condNew condSet likeSite likeTask likeSeed trap bkpt phint
    yield sysr sysw supPwait supPrd supPwr supResume supKill supSave supLoad pairedMovB32 pairedAddS32 pairedSubS32
    pairedMulS32 pairedMinS32 pairedMaxS32 pairedMinN32 pairedMaxN32 pairedAndB32 pairedOrB32 pairedXorB32 pairedAndnB32
    pairedNotB32 pairedShlB32 pairedShrlB32 pairedShraS32 pairedRotlB32 pairedPermB32 pairedClzB32 pairedPopcB32 pairedBrevB32
    pairedNegS32 pairedAbsS32 pairedFaddF32 pairedFsubF32 pairedFmulF32 pairedFminF32 pairedFmaxF32 pairedPadd2Bf16
    pairedPmul2Bf16 pairedPadd2F16 pairedPmul2F16 pairedPand pairedPor pairedPxor pairedPnot pairedSetpEq pairedSetpNe
    pairedSetpLt pairedSetpLe pairedSetpGt pairedSetpGe pairedFsetpLt pairedFsetpLe pairedFsetpEq pagerCompletion
    coreRetirement singleBitError doubleBitError ifetchParityError ifetchRefetchComplete hbmRowSpare hbmChannelSpare
    laneFailure laneRestore telemInterval thermalShutdown fwLoad attreqGo ptpFirstLock notifyWrite qtailWrite mailboxWrite
    featureGo kickWrite kstatRead shootdownGo haltrGo trdropRead svfaultCtlRead registerWrite plinthParameterWrite
    collPeerArrival systemCoreMemoryAccess winnowerChoice traceIntervalEnd gatherWindowExpiry collectiveDeadlineExpiry
    waitDeadlineExpiry yieldHoldExpiry directAccessCommit resultLands delayedTransferArrival cntfRowServe engineAccept
    translationWalk pagerRequestPost enginePartPerformed postedWritePerformed operationCompletion counterReport
    promiseTimeReached engineReplyLimit subarrayGate subarrayWakeComplete affinityWindowExpiry tillerCommit tillerWithdrawal
    wakeRecordFire phintSave graceDeadlineExpiry teamDrainComplete teamRestore timeSliceBoundary parkComplete
    faultRecordEnqueue teamPlacement teamEnd launchEnd portRetrainComplete clockHoldoverExpiry fwVerify fwShadowStart fwCommit
    fwAbort powerOnReset ptpLockLoss timept nlatchRead plinthWake packetStart consumeDeadlineExpiry packetProduce
    produceDeadlineExpiry nopPacket launch mqload mqunload mqkick preempt restore supplace kickDepart shootdownDone
    ptpLockRegained supSaveLoadComplete
    i

end Sys2Proof.Laws.Opcode
end

section
/-! Proofs for the family of the instruction word: decoding after encoding, predicates, and the words that the spec writes
out. -/

namespace Sys2Proof.Words

open Sys2Proof Sys2Proof.Machine Sys2Proof.Spec Sys2Proof.Laws Sys2Proof.Sheaves Sys2Proof.Numbers

/-! ### Codes and bits (R101, R115) -/

theorem tyOf_tyCode (t : Ty) : tyOf (tyCode t) = some t := by cases t <;> rfl

theorem tyCode_lt (t : Ty) : tyCode t < 2 ^ 5 := by cases t <;> decide

theorem rmOf_rmCode (r : Rm) : fullFields.rmOf (rmCode r) = r := by cases r <;> rfl

theorem rmCode_lt (r : Rm) : rmCode r < 2 ^ 2 := by cases r <;> decide

/-- A bit is read where its value stands. -/
theorem bitAt_of_toNat {w n : Nat} {b : Bool} (h : field w n n = b.toNat) : bitAt w n = b := by
  rw [field, Nat.add_sub_cancel_left, pow_one] at h
  rw [bitAt, h]
  cases b <;> rfl

/-! ### The fields of an encoded word (R112 to R114, R120, R123) -/

theorem fields_fullWord {w op : Nat} {f : Full} (hop : op < 2 ^ 10) (hw : fullWord op f = w) :
    w < 2 ^ 64 ∧ formOf w = 0 ∧ field w 61 52 = op ∧ field w 51 42 = f.d.toNat ∧ field w 41 32 = f.a.toNat
    ∧ field w 31 22 = f.b.toNat ∧ field w 21 19 = f.g.toNat ∧ field w 18 18 = f.ng.toNat ∧ field w 17 17 = f.fsel.toNat
    ∧ field w 16 15 = f.dsel.toNat ∧ field w 14 10 = tyCode f.ty ∧ field w 9 8 = rmCode f.rm ∧ field w 7 7 = f.sat.toNat
    ∧ field w 6 6 = f.ub.toNat ∧ field w 5 0 = f.opx.toNat := by
  have := f.d.isLt
  have := f.a.isLt
  have := f.b.isLt
  have := f.g.isLt
  have := f.ng.toNat_lt
  have := f.fsel.toNat_lt
  have := f.dsel.isLt
  have := tyCode_lt f.ty
  have := rmCode_lt f.rm
  have := f.sat.toNat_lt
  have := f.ub.toNat_lt
  have := f.opx.isLt
  simp only [fullWord] at hw
  simp only [formOf, field]
  omega

theorem fullFields_fullWord {w op : Nat} {f : Full} (hop : op < 2 ^ 10) (hw : fullWord op f = w) : fullFields w = some f := by
  obtain ⟨-, -, -, hd, ha, hb, hg, hng, hfsel, hdsel, hty, hrm, hsat, hub, hopx⟩ := fields_fullWord hop hw
  simp only [fullFields, hd, ha, hb, hg, bitAt_of_toNat hng, bitAt_of_toNat hfsel, hdsel, hty, tyOf_tyCode, hrm, rmOf_rmCode,
    bitAt_of_toNat hsat, bitAt_of_toNat hub, hopx, BitVec.ofNat_toNat, BitVec.setWidth_eq]

theorem fields_immWord {w iop : Nat} {x : Imm} (hop : iop < 2 ^ 8) (hw : immWord iop x = w) :
    w < 2 ^ 64 ∧ formOf w = 2 ∧ field w 61 54 = iop ∧ field w 53 44 = x.d.toNat ∧ field w 43 34 = x.a.toNat
    ∧ field w 33 32 = x.g.toNat ∧ field w 31 0 = x.imm.toNat := by
  have := x.d.isLt
  have := x.a.isLt
  have := x.g.isLt
  have := x.imm.isLt
  simp only [immWord] at hw
  simp only [formOf, field]
  omega

theorem immFields_immWord {w iop : Nat} {x : Imm} (hop : iop < 2 ^ 8) (hw : immWord iop x = w) : immFields w = x := by
  obtain ⟨-, -, -, hd, ha, hg, himm⟩ := fields_immWord hop hw
  simp only [immFields, hd, ha, hg, himm, BitVec.ofNat_toNat, BitVec.setWidth_eq]

theorem fields_halfCode {w hop : Nat} {h : Half} (hhop : hop < 2 ^ 7) (hw : halfCode hop h = w) :
    w < 2 ^ 31 ∧ field w 30 24 = hop ∧ field w 23 14 = h.d.toNat ∧ field w 13 4 = h.s.toNat ∧ field w 3 2 = h.g.toNat
    ∧ field w 1 1 = h.ng.toNat ∧ field w 0 0 = h.us.toNat := by
  have := h.d.isLt
  have := h.s.isLt
  have := h.g.isLt
  have := h.ng.toNat_lt
  have := h.us.toNat_lt
  simp only [halfCode] at hw
  simp only [field]
  omega

theorem halfFields_halfCode {w hop : Nat} {h : Half} (hhop : hop < 2 ^ 7) (hw : halfCode hop h = w) : halfFields h.side w = h := by
  obtain ⟨-, -, hd, hs, hg, hng, hus⟩ := fields_halfCode hhop hw
  simp only [halfFields, hd, hs, hg, bitAt_of_toNat hng, bitAt_of_toNat hus, BitVec.ofNat_toNat, BitVec.setWidth_eq]

/-- The two halves of a paired word stand apart. -/
theorem fields_pairWord {w x y : Nat} (hx : x < 2 ^ 31) (hy : y < 2 ^ 31) (hw : 2 ^ 62 + x * 2 ^ 31 + y = w) :
    w < 2 ^ 64 ∧ formOf w = 1 ∧ halfABits w = x ∧ halfBBits w = y := by
  simp only [formOf, halfABits, halfBBits, field]
  omega

/-! ### Decoding undoes encoding (R126 to R128) -/

theorem staticOk_of_wellFormed {i : Instr} (h : i.WellFormed) : staticOk i = true := h

theorem decode_fullWord {w : Nat} {i : Instr} {f : Full} (hf : fullOf i = some f) (hi : i.WellFormed)
    (hw : fullWord (opFull i) f = w) : w < 2 ^ 64 ∧ decodeNat w = .one i := by
  obtain ⟨hinstr, hop⟩ := (Opcode.statement_all i).1 f hf hi
  obtain ⟨hlt, hform, hopc, -⟩ := fields_fullWord hop hw
  refine ⟨hlt, ?_⟩
  simp only [decodeNat, hform, decodeFull, fullFields_fullWord hop hw, hopc, hinstr, staticOk_of_wellFormed hi, if_true]

theorem decode_immWord {w : Nat} {i : Instr} {x : Imm} (hx : immOf i = some x) (hi : i.WellFormed)
    (hw : immWord (opImm i) x = w) : w < 2 ^ 64 ∧ decodeNat w = .one i := by
  obtain ⟨hinstr, hop⟩ := (Opcode.statement_all i).2.1 x hx
  obtain ⟨hlt, hform, hopc, -⟩ := fields_immWord hop hw
  refine ⟨hlt, ?_⟩
  simp only [decodeNat, hform, decodeImm, immFields_immWord hop hw, hopc, hinstr, staticOk_of_wellFormed hi, if_true]

/-- A half decodes on its own side. -/
theorem decodeHalf_halfCode {w : Nat} {i : Instr} {c : HClass} {h : Half} (hi : halfOf i = some (c, h))
    (hw : halfCode (opHalf i) h = w) : w < 2 ^ 31 ∧ decodeHalf h.side w = some i := by
  obtain ⟨hinstr, hop⟩ := (Opcode.statement_all i).2.2 c h hi
  obtain ⟨hlt, hopc, -⟩ := fields_halfCode hop hw
  refine ⟨hlt, ?_⟩
  rw [decodeHalf, hopc, halfFields_halfCode hop hw, hinstr]

theorem decode_pairWord {w : Nat} {a b : Instr} {ca cb : HClass} {ha hb : Half} (hoa : halfOf a = some (ca, ha))
    (hob : halfOf b = some (cb, hb)) (hsa : ha.side = .a) (hsb : hb.side = .b) (hp : pairWellFormed a b)
    (hw : 2 ^ 62 + halfCode (opHalf a) ha * 2 ^ 31 + halfCode (opHalf b) hb = w) : w < 2 ^ 64 ∧ decodeNat w = .pair a b := by
  obtain ⟨hlta, hdeca⟩ := decodeHalf_halfCode hoa rfl
  obtain ⟨hltb, hdecb⟩ := decodeHalf_halfCode hob rfl
  obtain ⟨hlt, hform, hbitsa, hbitsb⟩ := fields_pairWord hlta hltb hw
  rw [hsa, ← hbitsa] at hdeca
  rw [hsb, ← hbitsb] at hdecb
  have hok : pairOk ca ha cb hb = true := by simpa only [pairWellFormed, hoa, hob] using hp
  refine ⟨hlt, ?_⟩
  simp only [decodeNat, hform, decodePaired, hdeca, hdecb, hoa, hob, hok, if_true]

/-- Settles O56: each form by the lemma about its word. -/
theorem decodingUndoesEncoding : Obligations.DecodingUndoesEncoding := by
  unfold Obligations.DecodingUndoesEncoding
  refine ⟨fun i w hi hw => ?single, fun a b w ca ha cb hb hoa hob hsa hsb hp hw => ?pair⟩
  case single =>
    rw [encode] at hw
    cases hf : fullOf i with
    | some f =>
      rw [hf] at hw
      exact decode_fullWord hf hi (Option.some.inj hw)
    | none =>
      cases hx : immOf i with
      | some x =>
        rw [hf, hx] at hw
        exact decode_immWord hx hi (Option.some.inj hw)
      | none =>
        rw [hf, hx] at hw
        nomatch hw
  case pair =>
    rw [encodePair, hoa, hob] at hw
    exact decode_pairWord hoa hob hsa hsb hp (Option.some.inj hw)

/-! ### Predicates (R119, R142 to R144) -/

/-- The integer that a type gives the bits of its width: signed or unsigned (R97). -/
theorem intOf_bits {ty : Ty} {n : Nat} (hn : tyBits ty = n) (x : BitVec n) :
    intOf ty x.toNat = if isSigned ty = true then x.toInt else x.toNat := by
  subst hn
  have hlt := x.isLt
  have hhalf : 2 * 2 ^ (tyBits ty - 1) = 2 ^ tyBits ty := by cases ty <;> rfl
  rw [BitVec.toInt_eq_toNat_cond]
  simp only [intOf, Nat.mod_eq_of_lt hlt, Bool.and_eq_true, decide_eq_true_eq]
  generalize 2 ^ (tyBits ty - 1) = half at *
  generalize 2 ^ tyBits ty = all at *
  by_cases hs : isSigned ty = true
  · simp only [hs, true_and, if_true]
    split <;> split <;> omega
  · simp only [hs, Bool.false_eq_true, false_and, if_false]

theorem readA_toNat (f : Full) (t : Thread) :
    (readA t f).toNat = if tyBits f.ty = 64 then (a64 f t).toNat else (a32 f t).toNat := by
  rw [readA, readT]
  split <;> rfl

theorem readB_toNat (f : Full) (e : Env) (t : Thread) :
    (readB e t f).toNat = if tyBits f.ty = 64 then (b64 f e t).toNat else (b32 f e t).toNat := by
  unfold readB readT b64 readB64 b32 readB32
  split <;> split <;> rfl

/-- The operands of SETP are values under its type. -/
theorem intOf_eq_cmpVal {f : Full} (hw : tyBits f.ty = 32 ∨ tyBits f.ty = 64) (x : Reg) (y : Quad) :
    intOf f.ty (if tyBits f.ty = 64 then y.toNat else x.toNat) = cmpVal f x y := by
  rw [cmpVal]
  split
  next h => exact intOf_bits h y
  next h => exact intOf_bits (hw.resolve_right h) x

theorem getLsbD_one_shiftLeft {m : Nat} (hm : m < 8) (n : Nat) : (1#8 <<< n).getLsbD m = decide (m = n) := by
  have hiff : m = n ↔ n ≤ m ∧ m - n = 0 := by omega
  rw [BitVec.getLsbD_shiftLeft, BitVec.getLsbD_one, Bool.eq_iff_iff]
  simp [hm, hiff]

theorem getLsbD_writeP {n m : Nat} (hm : m < 8) (h0 : n ≠ 0) (t : Thread) (b : Bool) :
    (writeP t n b).p.getLsbD m = if m = n then b else t.p.getLsbD m := by
  have hbit := getLsbD_one_shiftLeft hm n
  rw [writeP, if_neg h0]
  cases b
  case false =>
    simp only [Bool.false_eq_true, if_false, BitVec.getLsbD_and, BitVec.getLsbD_not, hm, hbit]
    by_cases h : m = n <;> simp [h]
  case true =>
    simp only [if_true, BitVec.getLsbD_or, hbit]
    by_cases h : m = n <;> simp [h]

/-- R119: a write to P0 is discarded, and P0 reads true. -/
theorem readP_writeP {m : Nat} (hm : m < 8) (t : Thread) (n : Nat) (b : Bool) :
    readP (writeP t n b) m = if m = 0 then true else if m = n then b else readP t m := by
  by_cases h0 : m = 0
  · simp [readP, h0]
  by_cases hn : n = 0
  · subst hn
    simp [writeP, h0]
  · have hb : (m == 0) = false := beq_eq_false_iff_ne.mpr h0
    simp only [readP, hb, Bool.false_or, h0, if_false, getLsbD_writeP hm hn]

/-- Settles O8: SETP by the values of its operands, the predicate words by their meanings, P0 by `readP_writeP`. -/
theorem predicatesGiveTheirResults : Obligations.PredicatesGiveTheirResults := by
  unfold Obligations.PredicatesGiveTheirResults
  refine ⟨fun f hw hcc => ?setp, fun f => ?logic, fun t b n m _ hm => readP_writeP hm t n b⟩
  case setp =>
    refine ⟨fun e t => condHolds f.opx.toNat (cmpVal f (a32 f t) (a64 f t)) (cmpVal f (b32 f e t) (b64 f e t)),
      runs_of_wordMap (fun _ => rfl) fun e t => ?_, fun e t => condHolds_iff _ hcc _ _⟩
    have hop : opxN f % 8 = f.opx.toNat := Nat.mod_eq_of_lt (hcc.trans (by decide))
    rw [setpWord, hop, readA_toNat, readB_toNat, intOf_eq_cmpVal hw, intOf_eq_cmpVal hw]
  case logic =>
    have hrun {i : Instr} {g g' : Bool → Bool → Bool} (hx : ∀ s, exec i s = .next (wordMap i (predWord f g) s))
        (hg : ∀ a b, g a b = g' a b) : Runs i fun _ t =>
          .ok (writeP t f.d.toNat (g' (readP t f.a.toNat ^^ f.opx.getLsbD 0) (readP t f.b.toNat ^^ f.opx.getLsbD 1))) :=
      runs_of_wordMap hx fun _ t => by simp only [predWord, Bool.bne_eq_xor, hg, opxB]
    exact ⟨hrun (fun _ => rfl) fun _ _ => rfl, hrun (fun _ => rfl) fun _ _ => rfl, hrun (fun _ => rfl) fun _ _ => Bool.bne_eq_xor ▸ rfl,
      hrun (g' := fun a _ => !a) (fun _ => rfl) fun _ _ => rfl⟩

/-! ### The words that the spec writes out -/

/-- Settles O55: each word by its decoding. -/
theorem wordsStandForTheirInstructions : Obligations.WordsStandForTheirInstructions := by
  unfold Obligations.WordsStandForTheirInstructions
  intro f
  refine ⟨?addi, ?taskTake, ?fwait, ?dispatch, ?copy, ?wload, ?resume, ?pair, ?header⟩ <;> decide

end Sys2Proof.Words
end

section
/-! Proofs for the family of the instruction word: the halves of a paired word. -/

namespace Sys2Proof.Words

open Sys2Proof Sys2Proof.Machine Sys2Proof.Spec Sys2Proof.Laws Sys2Proof.Sheaves Sys2Proof.Numbers

/-! ### Bits of 32-bit words (R137, R139, R140) -/

theorem field_eq_extractLsb' {w : Nat} (x : BitVec w) (hi lo : Nat) : field x.toNat hi lo = (x.extractLsb' lo (hi + 1 - lo)).toNat := by
  rw [field, BitVec.extractLsb'_toNat, Nat.shiftRight_eq_div_pow]

theorem field_count (y : Reg) : field y.toNat 7 0 = (y.setWidth 8).toNat := by
  simp [field]

theorem ofNat_shlN (x : Reg) (c : Nat) : BitVec.ofNat 32 (shlN 32 x.toNat c) = x <<< c := by
  rw [shlN]
  split
  · refine BitVec.eq_of_toNat_eq ?_
    rw [BitVec.toNat_ofNat, BitVec.toNat_shiftLeft, Nat.shiftLeft_eq, Nat.mod_mod]
  · rw [BitVec.shiftLeft_eq_zero (by omega)]

theorem ofNat_shrlN (x : Reg) (c : Nat) : BitVec.ofNat 32 (shrlN 32 x.toNat c) = x >>> c := by
  rw [shrlN, Nat.mod_eq_of_lt x.isLt]
  split
  · refine BitVec.eq_of_toNat_eq ?_
    rw [BitVec.toNat_ofNat, BitVec.toNat_ushiftRight, Nat.shiftRight_eq_div_pow]
    exact Nat.mod_eq_of_lt (lt_of_le_of_lt (Nat.div_le_self _ _) x.isLt)
  · rw [BitVec.ushiftRight_eq_zero (by omega)]

/-- A shift at or above the width leaves the sign alone. -/
theorem toInt_ediv_two_pow (x : Reg) {c : Nat} (hc : 32 ≤ c) : x.toInt / (2 ^ c : Nat) = if x.toInt < 0 then -1 else 0 := by
  have hlo := BitVec.le_toInt x
  have hhi := BitVec.toInt_lt (x := x)
  have hpow : (2 ^ 32 : Nat) ≤ 2 ^ c := Nat.pow_le_pow_right (by decide) hc
  generalize 2 ^ c = p at hpow
  split
  · rw [Int.ediv_eq_neg_one_of_neg_of_le] <;> omega
  · rw [Int.ediv_eq_zero_of_lt] <;> omega

theorem ofNat_shraN (x : Reg) (c : Nat) : BitVec.ofNat 32 (shraN 32 x.toInt c) = x.sshiftRight c := by
  have hshift : x.sshiftRight c = BitVec.ofInt 32 (x.toInt / (2 ^ c : Nat)) := by
    rw [← Int.shiftRight_eq_div_pow, ← BitVec.toInt_sshiftRight, BitVec.ofInt_toInt]
  rw [shraN, hshift]
  split
  next => exact ofNat_wrapN 32 _
  next hc =>
    rw [toInt_ediv_two_pow x (by omega)]
    split <;> rfl

theorem ofNat_rotlN (x : Reg) (c : Nat) : BitVec.ofNat 32 (rotlN 32 x.toNat c) = x.rotateLeft c := by
  have hr : c % 32 < 32 := Nat.mod_lt _ (by decide)
  refine BitVec.eq_of_toNat_eq ?_
  rw [BitVec.toNat_ofNat, BitVec.toNat_rotateLeft, rotlN, Nat.mod_eq_of_lt x.isLt, Nat.mod_mod, Nat.shiftRight_eq_div_pow]
  generalize c % 32 = r at hr
  have hx : x.toNat < 2 ^ r * 2 ^ (32 - r) := by
    rw [← pow_add, Nat.add_sub_cancel' hr.le]
    exact x.isLt
  have hhigh : x.toNat / 2 ^ (32 - r) < 2 ^ r := Nat.div_lt_of_lt_mul (by rwa [mul_comm])
  have hlow : x.toNat <<< r % 2 ^ 32 = (x.toNat % 2 ^ (32 - r)) <<< r := by
    rw [Nat.shiftLeft_eq, Nat.shiftLeft_eq, ← Nat.mul_mod_mul_right, ← pow_add, Nat.sub_add_cancel hr.le]
  rw [Nat.add_mod, ← Nat.shiftLeft_eq, hlow, Nat.mod_eq_of_lt (a := x.toNat / _) (hhigh.trans (Nat.pow_lt_pow_right (by decide) hr)),
    Nat.shiftLeft_add_eq_or_of_lt hhigh]
  refine Nat.mod_eq_of_lt (Nat.or_lt_two_pow ?_ (hhigh.trans (Nat.pow_lt_pow_right (by decide) hr)))
  rw [← hlow]
  exact Nat.mod_lt _ (by decide)

theorem clzN_succ (n x : Nat) : clzN (n + 1) x = if x.testBit n then 0 else clzN n x + 1 := by rw [clzN, bitAt_eq_testBit]

theorem clzAuxRec_eq (x : Reg) {n : Nat} (hn : n < 32) : x.clzAuxRec n = BitVec.ofNat 32 (31 - n + clzN (n + 1) x.toNat) := by
  induction n with
  | zero =>
    rw [BitVec.clzAuxRec_zero, clzN_succ, ← BitVec.getLsbD]
    split <;> rfl
  | succ n ih =>
    rw [BitVec.clzAuxRec_succ, ih (by omega), clzN_succ (n + 1), ← BitVec.getLsbD]
    split
    · rfl
    · rw [show 31 - n = 31 - (n + 1) + 1 by omega, add_right_comm, add_assoc]

theorem ofNat_clzN (x : Reg) : BitVec.ofNat 32 (clzN 32 x.toNat) = x.clz := by
  rw [BitVec.clz, clzAuxRec_eq x (by decide), Nat.sub_self, Nat.zero_add]

theorem popcN_eq (n x : Nat) : popcN n x = (List.range n).countP x.testBit := by
  induction n with
  | zero => rfl
  | succ n ih => rw [popcN, ih, List.range_succ, List.countP_append, List.countP_singleton, bitAt_eq_testBit, add_comm]

theorem brevN_lt (n x : Nat) : brevN n x < 2 ^ n := by
  induction n generalizing x with
  | zero => exact Nat.one_pos
  | succ n ih =>
    have := ih (x / 2)
    rw [brevN, pow_succ]
    rcases Nat.mod_two_eq_zero_or_one x with h | h <;> rw [h] <;> omega

/-- Bit k of the reversal is bit n - 1 - k. -/
theorem testBit_brevN {n k : Nat} (hk : k < n) (x : Nat) : (brevN n x).testBit k = x.testBit (n - 1 - k) := by
  induction n generalizing x with
  | zero => omega
  | succ n ih =>
    rw [brevN, mul_comm, Nat.testBit_two_pow_mul_add _ (brevN_lt n _)]
    split
    next h => rw [ih h, Nat.testBit_div_two, show n - 1 - k + 1 = n + 1 - 1 - k by omega]
    next h =>
      obtain rfl : k = n := by omega
      simp only [Nat.sub_self, Nat.add_sub_cancel, Nat.testBit_zero, Nat.mod_mod]

theorem ofNat_brevN (x : Reg) : BitVec.ofNat 32 (brevN 32 x.toNat) = x.reverse := by
  refine BitVec.eq_of_getLsbD_eq fun k hk => ?_
  rw [BitVec.getLsbD_ofNat, BitVec.getLsbD_reverse, BitVec.getMsbD, testBit_brevN hk]
  rfl

theorem toNat_signExtend_nibble (x : BitVec 4) : (x.signExtend 8).toNat = if 8 ≤ x.toNat then x.toNat + 240 else x.toNat := by
  revert x
  decide

theorem permByte_eq (x : Reg) (code : Nat) : permByte x.toNat code = (permByteOf x code).toNat := by
  simp only [permByte, permByteOf, toNat_signExtend_nibble, apply_ite BitVec.toNat, BitVec.extractLsb'_toNat,
    BitVec.toNat_setWidth_of_le (show 4 ≤ 8 by decide), Nat.shiftRight_eq_div_pow]
  rfl

theorem toNat_append_byte {n : Nat} (x : BitVec n) (y : Byte) : (x ++ y).toNat = x.toNat * 256 + y.toNat := by
  rw [BitVec.toNat_append, ← Nat.shiftLeft_add_eq_or_of_lt y.isLt, Nat.shiftLeft_eq]

theorem ofNat_permVal (x y : Reg) : BitVec.ofNat 32 (permVal x.toNat y.toNat) =
    permByteOf x (y.extractLsb' 15 5).toNat ++ permByteOf x (y.extractLsb' 10 5).toNat
      ++ permByteOf x (y.extractLsb' 5 5).toNat ++ permByteOf x (y.extractLsb' 0 5).toNat := by
  refine BitVec.eq_of_toNat_eq ?_
  simp only [BitVec.toNat_ofNat, toNat_append_byte, permVal, permByte_eq, field_eq_extractLsb', Nat.reduceAdd, Nat.reduceSub]
  have h0 := (permByteOf x (y.extractLsb' 0 5).toNat).isLt
  have h1 := (permByteOf x (y.extractLsb' 5 5).toNat).isLt
  have h2 := (permByteOf x (y.extractLsb' 10 5).toNat).isLt
  have h3 := (permByteOf x (y.extractLsb' 15 5).toNat).isLt
  omega

/-! ### The sign of a float (R94, R163) -/

/-- Flipping bit 31 of a float's code changes the sign of its value. -/
theorem fvOf_flip (y : Reg) : fvOf .f32 (y ^^^ 0x80000000).toNat = fvMinus (fvOf .f32 y.toNat) := by
  have hlow : (y ^^^ 0x80000000).toNat % 2 ^ 31 = y.toNat % 2 ^ 31 := by
    rw [BitVec.toNat_xor, Nat.xor_mod_two_pow]
    exact Nat.xor_zero _
  have hsign : bitAt (y ^^^ 0x80000000).toNat 31 = !bitAt y.toNat 31 := by
    rw [bitAt_eq_testBit, bitAt_eq_testBit, BitVec.toNat_xor, Nat.testBit_xor]
    exact Bool.xor_true _
  generalize (y ^^^ 0x80000000).toNat = z at hlow hsign
  have hneg : bitAt z (tyBits .f32 - 1) = !bitAt y.toNat (tyBits .f32 - 1) := hsign
  have hex : z / 2 ^ fracBits .f32 % 2 ^ expBits .f32 = y.toNat / 2 ^ fracBits .f32 % 2 ^ expBits .f32 := by
    simp only [fracBits, expBits]
    omega
  have hfr : z % 2 ^ fracBits .f32 = y.toNat % 2 ^ fracBits .f32 := by
    simp only [fracBits]
    omega
  simp only [fvOf, hneg, hex, hfr, apply_ite fvMinus]
  rfl

/-! ### What the halves give (R127) -/

/-- What a half writes, from the kind of its row. -/
def outOf (h : Half) (x : HalfKind) (e : Env) (t : Thread) : HalfOut :=
  let d := h.d.toNat
  let y : Reg := if h.us then (readUniform e t h.s.toNat).setWidth 32 else readV t h.s.toNat
  match x with
  | .reg g => ⟨some (d, g (readV t d) y), none, 0⟩
  | .float g => ⟨some (d, BitVec.ofNat 32 (g (readV t d) y).code), none, (g (readV t d) y).flags⟩
  | .pred g => ⟨none, some (d, g (readP t d) (readP t h.s.toNat)), 0⟩
  | .test g => ⟨none, some (d, (g y).1), (g y).2⟩

/-- The write of a half in a thread. -/
def writeOf (h : Half) (x : HalfKind) (e : Env) (t : Thread) : HalfWrite :=
  ⟨t.id.slot, (outOf h x e t).reg, (outOf h x e t).pred, (outOf h x e t).fsr⟩

theorem putHalf_writeOf (h : Half) (x : HalfKind) (e : Env) (t u : Thread) : putHalf u (writeOf h x e t) = takeHalf e h x t u := by
  cases x with
  | reg g => exact setFsr_zero _
  | float g => rfl
  | pred g => exact setFsr_zero _
  | test g => rfl

/-- The instructions `mk` make of a half give what a row of the table says. -/
def Gives (mk : Half → Instr) (x : HalfKind) : Prop := ∀ h s, exec (mk h) s = .next (halfWord (mk h) h (outOf h x) s)

section Gives
variable {mk : Half → Instr}

theorem gives_halfX {g : Nat → Nat → Nat} {G : Reg → Reg → Reg}
    (hx : ∀ h s, exec (mk h) s = .next (halfWord (mk h) h (halfX h g) s))
    (hg : ∀ x y : Reg, BitVec.ofNat 32 (g x.toNat y.toNat) = G x y) : Gives mk (.reg G) := by
  intro h s
  rw [hx]
  congr 2
  funext e t
  simp only [halfX, regOut, halfS, hg, outOf]

theorem gives_halfInt {ty : Ty} {v : Reg → Int} {g : Int → Int → Int} {G : Reg → Reg → Reg}
    (hx : ∀ h s, exec (mk h) s = .next (halfWord (mk h) h (halfInt h ty g) s)) (hv : ∀ x : Reg, intOf ty x.toNat = v x)
    (hg : ∀ x y : Reg, BitVec.ofInt 32 (g (v x) (v y)) = G x y) : Gives mk (.reg G) := by
  intro h s
  rw [hx]
  congr 2
  funext e t
  simp only [halfInt, regOut, halfS, hv, ofNat_wrapN, hg, outOf]

theorem gives_halfF {g : Nat → Nat → Rounded} {G : Reg → Reg → Rounded}
    (hx : ∀ h s, exec (mk h) s = .next (halfWord (mk h) h (halfF h g) s))
    (hg : ∀ x y : Reg, g x.toNat y.toNat = G x y) : Gives mk (.float G) := by
  intro h s
  rw [hx]
  congr 2
  funext e t
  simp only [halfF, regOut, halfS, hg, outOf]

theorem gives_halfP {g G : Bool → Bool → Bool} (hx : ∀ h s, exec (mk h) s = .next (halfWord (mk h) h (halfP h g) s))
    (hg : ∀ a b, g a b = G a b) : Gives mk (.pred G) := by
  intro h s
  rw [hx]
  congr 2
  funext e t
  simp only [halfP, hg, outOf]

theorem gives_halfCmp {cc : Nat} {p : Reg → Prop} {dec : DecidablePred p}
    (hx : ∀ h s, exec (mk h) s = .next (halfWord (mk h) h (halfCmp h cc) s)) (hcc : cc < 6)
    (hp : ∀ y : Reg, holds cc y.toInt 0 ↔ p y) : Gives mk (.test fun y => (decide (p y), 0)) := by
  intro h s
  rw [hx]
  congr 2
  funext e t
  have hcond (y : Reg) : condHolds cc y.toInt 0 = decide (p y) := by
    rw [Bool.eq_iff_iff, decide_eq_true_iff, ← hp, condHolds_iff cc hcc]
  simp only [halfCmp, halfS, intOf_s32, hcond, outOf]

theorem gives_halfFcmp {cc : Nat} (hx : ∀ h s, exec (mk h) s = .next (halfWord (mk h) h (halfFcmp h cc) s)) :
    Gives mk (.test fun y => fcompare cc false (fvOf .f32 y.toNat) (fvOf .f32 (0 : Reg).toNat)) := by
  intro h s
  rw [hx]
  rfl

end Gives

/-- A packed half rounds each of its two elements by itself (R172). -/
theorem packedPair_eq {ty : Ty} (hw : tyBits ty = 16) (g : FV → FV → Rounded) (x y : Reg) :
    packedPair ty (fun a b _ => g a b) x.toNat y.toNat 0 =
      let r (j : Nat) : Rounded := g (fvOf ty (elem ty x j)) (fvOf ty (elem ty y j))
      ⟨(r 0).code + 2 ^ 16 * (r 1).code, (r 0).flags ||| (r 1).flags⟩ := by
  have hor (x : Reg) : x ||| 0 = x := BitVec.or_zero
  simp only [packedPair, List.range_succ, List.range_zero, List.nil_append, List.cons_append, List.map_cons, List.map_nil,
    packAll, Nat.mul_zero, Nat.add_zero, hor, elem, hw]
  rfl

theorem ofInt_toNat (x : Reg) : BitVec.ofInt 32 (x.toNat : Int) = x := by
  rw [BitVec.ofInt_natCast, BitVec.ofNat_toNat, BitVec.setWidth_eq]

theorem ofNat_toNat (x : Reg) : BitVec.ofNat 32 x.toNat = x := by rw [BitVec.ofNat_toNat, BitVec.setWidth_eq]

theorem ofNat_not (x : Reg) : BitVec.ofNat 32 (2 ^ 32 - 1 - x.toNat) = ~~~x := by rw [← BitVec.toNat_not, ofNat_toNat]

theorem ofInt_natAbs (x : Reg) : BitVec.ofInt 32 (x.toInt.natAbs : Int) = if x.toInt < 0 then -x else x := by
  split
  next h => rw [show (x.toInt.natAbs : Int) = -x.toInt by omega, BitVec.ofInt_neg, BitVec.ofInt_toInt]
  next h => rw [show (x.toInt.natAbs : Int) = x.toInt by omega, BitVec.ofInt_toInt]

/-- Every row of R127's table. -/
theorem gives_halfTable : ∀ r ∈ halfTable, Gives r.1 r.2 := by
  simp only [halfTable, List.forall_mem_cons]
  exact ⟨
    -- MOV and integer arithmetic
    gives_halfX (fun _ _ => rfl) fun _ y => ofNat_toNat y,
    gives_halfInt (fun _ _ => rfl) intOf_s32 fun x y => by rw [BitVec.ofInt_add, BitVec.ofInt_toInt, BitVec.ofInt_toInt],
    gives_halfInt (fun _ _ => rfl) intOf_s32 fun x y => by
      rw [Int.sub_eq_add_neg, BitVec.ofInt_add, BitVec.ofInt_neg, BitVec.ofInt_toInt, BitVec.ofInt_toInt, BitVec.sub_eq_add_neg],
    gives_halfInt (fun _ _ => rfl) intOf_s32 fun x y => by rw [BitVec.ofInt_mul, BitVec.ofInt_toInt, BitVec.ofInt_toInt],
    gives_halfInt (fun _ _ => rfl) intOf_s32 fun x y => by
      rw [min_def, apply_ite (BitVec.ofInt 32), BitVec.ofInt_toInt, BitVec.ofInt_toInt],
    gives_halfInt (fun _ _ => rfl) intOf_s32 fun x y => by
      rw [max_def, apply_ite (BitVec.ofInt 32), BitVec.ofInt_toInt, BitVec.ofInt_toInt],
    gives_halfInt (fun _ _ => rfl) intOf_n32 fun x y => by
      simp only [min_def, apply_ite (BitVec.ofInt 32), ofInt_toNat, Int.ofNat_le, BitVec.le_def],
    gives_halfInt (fun _ _ => rfl) intOf_n32 fun x y => by
      simp only [max_def, apply_ite (BitVec.ofInt 32), ofInt_toNat, Int.ofNat_le, BitVec.le_def],
    -- logic, shifts and counts
    gives_halfX (fun _ _ => rfl) fun x y => by rw [← BitVec.toNat_and, ofNat_toNat],
    gives_halfX (fun _ _ => rfl) fun x y => by rw [← BitVec.toNat_or, ofNat_toNat],
    gives_halfX (fun _ _ => rfl) fun x y => by rw [← BitVec.toNat_xor, ofNat_toNat],
    gives_halfX (fun _ _ => rfl) fun x y => by rw [← BitVec.toNat_not, ← BitVec.toNat_and, ofNat_toNat],
    gives_halfX (fun _ _ => rfl) fun _ y => by rw [← BitVec.toNat_not, ofNat_toNat],
    gives_halfX (fun _ _ => rfl) fun x y => by rw [field_count, ofNat_shlN],
    gives_halfX (fun _ _ => rfl) fun x y => by rw [field_count, ofNat_shrlN],
    gives_halfX (fun _ _ => rfl) fun x y => by rw [field_count, intOf_s32, ofNat_shraN],
    gives_halfX (fun _ _ => rfl) fun x y => by rw [field_count, ofNat_rotlN],
    gives_halfX (fun _ _ => rfl) ofNat_permVal,
    gives_halfX (fun _ _ => rfl) fun _ y => ofNat_clzN y,
    gives_halfX (fun _ _ => rfl) fun _ y => congrArg (BitVec.ofNat 32) (popcN_eq 32 y.toNat),
    gives_halfX (fun _ _ => rfl) fun _ y => ofNat_brevN y,
    -- NEG and ABS
    gives_halfInt (fun _ _ => rfl) intOf_s32 fun _ y => by rw [BitVec.ofInt_neg, BitVec.ofInt_toInt],
    gives_halfInt (fun _ _ => rfl) intOf_s32 fun _ y => ofInt_natAbs y,
    -- floats and packed pairs
    gives_halfF (fun _ _ => rfl) fun _ _ => rfl,
    gives_halfF (fun _ _ => rfl) fun x y => by rw [fvOf_flip],
    gives_halfF (fun _ _ => rfl) fun _ _ => rfl,
    gives_halfX (fun _ _ => rfl) fun _ _ => rfl,
    gives_halfX (fun _ _ => rfl) fun _ _ => rfl,
    gives_halfF (fun _ _ => rfl) (packedPair_eq rfl (addRound .bf16 .rne)),
    gives_halfF (fun _ _ => rfl) (packedPair_eq rfl (mulRound .bf16 .rne)),
    gives_halfF (fun _ _ => rfl) (packedPair_eq rfl (addRound .f16 .rne)),
    gives_halfF (fun _ _ => rfl) (packedPair_eq rfl (mulRound .f16 .rne)),
    -- predicates and tests
    gives_halfP (fun _ _ => rfl) fun _ _ => rfl,
    gives_halfP (fun _ _ => rfl) fun _ _ => rfl,
    gives_halfP (fun _ _ => rfl) fun _ _ => by rw [Bool.bne_eq_xor],
    gives_halfP (fun _ _ => rfl) fun _ _ => rfl,
    gives_halfCmp (cc := 0) (fun _ _ => rfl) (by decide) fun y => by simp [holds, ← BitVec.toInt_inj],
    gives_halfCmp (cc := 1) (fun _ _ => rfl) (by decide) fun y => by simp [holds, ← BitVec.toInt_inj],
    gives_halfCmp (cc := 2) (fun _ _ => rfl) (by decide) fun y => by simp [holds],
    gives_halfCmp (cc := 3) (fun _ _ => rfl) (by decide) fun y => by simp [holds],
    gives_halfCmp (cc := 4) (fun _ _ => rfl) (by decide) fun y => by simp [holds],
    gives_halfCmp (cc := 5) (fun _ _ => rfl) (by decide) fun y => by simp [holds],
    gives_halfFcmp fun _ _ => rfl, gives_halfFcmp fun _ _ => rfl, gives_halfFcmp fun _ _ => rfl, List.forall_mem_nil _⟩

/-! ### How a half runs (R120 to R122) -/

/-- The core that a word issues on is one of the module's, and the word stands in its issue slot. -/
theorem env_issue {s : State} {e : Env} (he : s.env = some e) : e.k.issue = some e.is ∧ e.c < s.cores.length := by
  simp only [State.env, Option.map_eq_some_iff] at he
  obtain ⟨is, his, rfl⟩ := he
  refine ⟨his, not_le.mp fun hle => ?_⟩
  have hreset : s.core s.cur = Core.reset := by
    rw [State.core, List.getD_eq_getElem?_getD, List.getElem?_eq_none hle]
    rfl
  rw [hreset] at his
  cases his

/-- Where keys differ, the key of an element finds that element alone. -/
theorem filter_key_eq {α : Type} {f : α → Nat} {l : List α} (hnd : (l.map f).Nodup) {x : α} (hx : x ∈ l) :
    l.filter (fun y => f y == f x) = [x] := by
  induction l with
  | nil => cases hx
  | cons y l ih =>
    obtain ⟨hy, hnd⟩ := List.nodup_cons.mp hnd
    rcases List.mem_cons.mp hx with rfl | hmem
    · have hnone : l.filter (fun y => f y == f x) = [] :=
        List.filter_eq_nil_iff.mpr fun z hz heq => hy (eq_of_beq heq ▸ List.mem_map_of_mem hz)
      simp only [List.filter_cons, beq_self_eq_true, if_true, hnone]
    · have hne : ¬ (f y == f x) = true := fun heq => hy ((eq_of_beq heq).symm ▸ List.mem_map_of_mem hmem)
      rw [List.filter_cons, if_neg hne, ih hnd hmem]

section Word
variable {s : State} {e : Env} (he : s.env = some e) (hnd : (e.k.threads.map (·.id.slot)).Nodup)

include hnd in
/-- Of the writes of a half, the one for the slot of a thread. -/
theorem halfWrites_slot {t : Thread} (ht : t ∈ e.k.threads) (i : Instr) (h : Half) (x : HalfKind) :
    (halfWrites e i (outOf h x)).filter (fun w => w.slot == t.id.slot) =
      if takesWord e i t = true ∧ legalHere e i t = true then [writeOf h x e t] else [] := by
  have hmap : (halfWrites e i (outOf h x)).filter (fun w => w.slot == t.id.slot) = ((e.k.threads.filter fun u =>
      takesWord e i u && legalHere e i u).filter fun u => u.id.slot == t.id.slot).map (writeOf h x e) := List.filter_map ..
  rw [hmap, List.filter_comm, filter_key_eq hnd ht, List.filter_singleton]
  cases takesWord e i t <;> cases legalHere e i t <;> rfl

theorem putHalves_eq {is : Issue} {ws mine : List HalfWrite} {t : Thread} (h : ws.filter (fun w => w.slot == t.id.slot) = mine) :
    putHalves is ws t = if mine = [] then t else wordDone is (mine.foldl putHalf t) := by
  subst h
  simp only [putHalves, List.isEmpty_iff]

/-! ### A half alone -/

/-- A thread that meets an illegal word parks. -/
def parkedIn (e : Env) (i : Instr) (t : Thread) : Thread :=
  if (takesWord e i t && !legalHere e i t) = true then park e.ck t .illegal e.is.widx 0 0 else t

theorem parkedIn_id (i : Instr) (t : Thread) : (parkedIn e i t).id = t.id := by
  rw [parkedIn]
  split <;> rfl

include hnd in
theorem putHalves_alone {t : Thread} (ht : t ∈ e.k.threads) (i : Instr) (h : Half) (x : HalfKind) :
    putHalves e.is (halfWrites e i (outOf h x)) (parkedIn e i t) = meets e i (fun e t => .ok (takeHalf e h x t t)) t := by
  have hmine := halfWrites_slot hnd ht i h x
  rw [← parkedIn_id i t] at hmine
  rw [putHalves_eq hmine, meets, parkedIn]
  cases hw : takesWord e i t with
  | false => simp
  | true =>
    cases hl : legalHere e i t with
    | false => simp
    | true => simp [putHalf_writeOf]

include he in
/-- With no pair open a half writes at once. -/
theorem halfWord_alone {i : Instr} {f : Env → Thread → HalfOut} (hk : e.is.half = none) (h : Half) : halfWord i h f s =
    s.withCore e.c { e.k with threads := (e.k.threads.map (parkedIn e i)).map (putHalves e.is (halfWrites e i f)) } := by
  obtain ⟨hs, -⟩ := env_spec he
  obtain ⟨hissue, hlt⟩ := env_issue he
  have hpark : parkIllegal e i = s.withCore e.c { e.k with threads := e.k.threads.map (parkedIn e i) } := by rw [← hs]; rfl
  have hclosed : ({ e.is with half := none } : Issue) = e.is := by rw [← hk]
  have hrun : halfWord i h f s = (parkIllegal e i).modCore e.c fun k =>
      { k with threads := k.threads.map (putHalves e.is (halfWrites e i f)), issue := some { e.is with half := none } } := by
    simp only [halfWord, he, hk]
    cases h.side <;> rfl
  rw [hrun, hpark, State.modCore, State.core_withCore _ _ _ hlt, State.withCore_withCore, hclosed, ← hissue]

include he hnd in
theorem exec_half_alone {mk : Half → Instr} {x : HalfKind} (hg : Gives mk x) (hk : e.is.half = none) (h : Half) :
    exec (mk h) s = .next (after e (mk h) (fun e t => .ok (takeHalf e h x t t)) s) := by
  have hmap : (e.k.threads.map (parkedIn e (mk h))).map (putHalves e.is (halfWrites e (mk h) (outOf h x)))
      = e.k.threads.map (meets e (mk h) fun e t => .ok (takeHalf e h x t t)) := by
    rw [List.map_map]
    exact List.map_congr_left fun t ht => putHalves_alone hnd ht (mk h) h x
  rw [hg h s, halfWord_alone he hk, hmap, after]

/-! ### Two halves of one word -/

/-- The issue slot, the core and what half B reads, once half A has left its writes `ws` in the slot. -/
def keptIssue (e : Env) (ws : List HalfWrite) : Issue := { e.is with half := some ws }
def keptCore (e : Env) (ws : List HalfWrite) : Core := { e.k with issue := some (keptIssue e ws) }
def keptEnv (e : Env) (ws : List HalfWrite) : Env := ⟨e.s.withCore e.c (keptCore e ws), e.c, keptCore e ws, keptIssue e ws, e.ck⟩

include hnd in
/-- The thread takes both halves, each from the sources before either. -/
theorem putHalves_both {t : Thread} (ht : t ∈ e.k.threads) {i j : Instr} (hi : takesWord e i t = true → legalHere e i t = true)
    (hj : takesWord e j t = true → legalHere e j t = true) (a b : Half) (x y : HalfKind) :
    putHalves (keptIssue e (halfWrites e i (outOf a x))) (halfWrites e i (outOf a x) ++ halfWrites e j (outOf b y)) t =
      let u := if takesWord e i t = true then takeHalf e a x t t else t
      let v := if takesWord e j t = true then takeHalf e b y t u else u
      if takesWord e i t = true ∨ takesWord e j t = true then wordDone e.is v else t := by
  have hmine : (halfWrites e i (outOf a x) ++ halfWrites e j (outOf b y)).filter (fun w => w.slot == t.id.slot) =
      (if takesWord e i t = true then [writeOf a x e t] else []) ++ if takesWord e j t = true then [writeOf b y e t] else [] := by
    simp only [List.filter_append, halfWrites_slot hnd ht, and_iff_left_of_imp hi, and_iff_left_of_imp hj]
  rw [putHalves_eq hmine]
  by_cases h1 : takesWord e i t = true <;> by_cases h2 : takesWord e j t = true <;> simp [h1, h2, putHalf_writeOf] <;> rfl

include he

theorem env_kept (ws : List HalfWrite) : (s.withCore e.c (keptCore e ws)).env = some (keptEnv e ws) := by
  obtain ⟨hs, hc, -⟩ := env_spec he
  obtain ⟨hck, -⟩ := env_clock_core he
  obtain ⟨-, hlt⟩ := env_issue he
  have hcore := State.core_withCore s e.c (keptCore e ws) hlt
  rw [State.env, State.withCore_cur, ← hc, hcore, keptEnv, hs, ← hck]
  rfl

/-- What half A leaves in the issue slot is nothing that half B reads. -/
theorem readUniform_kept (ws : List HalfWrite) (t : Thread) (n : Nat) : readUniform (keptEnv e ws) t n = readUniform e t n := by
  obtain ⟨hs, -⟩ := env_spec he
  obtain ⟨-, hk⟩ := env_clock_core he
  obtain ⟨-, hlt⟩ := env_issue he
  have hspecial : readSpecial (s.withCore e.c (keptCore e ws)) e.c t n = readSpecial s e.c t n := by
    simp only [readSpecial, State.core_withCore s e.c _ hlt, hk]
    rfl
  simp only [readUniform, keptEnv, hs, hspecial]
  rfl

theorem outOf_kept (ws : List HalfWrite) (h : Half) (x : HalfKind) (t : Thread) : outOf h x (keptEnv e ws) t = outOf h x e t := by
  simp only [outOf, readUniform_kept he]

theorem halfWrites_kept (ws : List HalfWrite) (i : Instr) (h : Half) (x : HalfKind) :
    halfWrites (keptEnv e ws) i (outOf h x) = halfWrites e i (outOf h x) := by
  simp only [halfWrites, outOf_kept he]
  rfl

/-- Half A of an open pair leaves its writes in the issue slot, and nothing else changes. -/
theorem halfWord_first {i : Instr} {f : Env → Thread → HalfOut} {a : Half} {ws : List HalfWrite} (hside : a.side = .a)
    (hopen : e.is.half = some ws) (hl : ∀ t ∈ e.k.threads, takesWord e i t = true → legalHere e i t = true) :
    halfWord i a f s = s.withCore e.c (keptCore e (halfWrites e i f)) := by
  obtain ⟨-, hk⟩ := env_clock_core he
  simp only [halfWord, he, hside, hopen, parkIllegal_none he hl, State.modCore, hk]
  rfl

/-- Half B writes what the slot keeps with its own, and closes the pair. -/
theorem halfWord_second {i : Instr} {f : Env → Thread → HalfOut} {b : Half} {ws : List HalfWrite} (hside : b.side = .b)
    (hopen : e.is.half = some ws) (hl : ∀ t ∈ e.k.threads, takesWord e i t = true → legalHere e i t = true) :
    halfWord i b f s = s.withCore e.c { e.k with
      threads := e.k.threads.map (putHalves e.is (ws ++ halfWrites e i f)), issue := some { e.is with half := none } } := by
  obtain ⟨-, hk⟩ := env_clock_core he
  simp only [halfWord, he, hside, hopen, parkIllegal_none he hl, State.modCore, hk, Option.getD_some]

end Word

/-- Settles O40: the rows of the table by `gives_halfTable`, a half alone by `exec_half_alone`, a pair by what half A leaves in the
issue slot. -/
theorem pairedHalvesReadBeforeEitherWrites : Obligations.PairedHalvesReadBeforeEitherWrites := by
  unfold Obligations.PairedHalvesReadBeforeEitherWrites
  intro s e he hnd
  refine ⟨fun r hr h hk => exec_half_alone he hnd (gives_halfTable r hr) hk h, ?pair⟩
  intro ra hra rb hrb a b hsa hsb hopen hla hlb both
  obtain ⟨hs, -⟩ := env_spec he
  obtain ⟨-, hlt⟩ := env_issue he
  let ws := halfWrites e (ra.1 a) (outOf a ra.2)
  refine ⟨s.withCore e.c (keptCore e ws), ?first, ?threads, ?second⟩
  case first => rw [gives_halfTable ra hra a s, halfWord_first he hsa hopen hla]
  case threads =>
    rw [State.core_withCore _ _ _ hlt]
    rfl
  case second =>
    have hmap : e.k.threads.map (putHalves (keptIssue e ws) (ws ++ halfWrites e (rb.1 b) (outOf b rb.2))) = e.k.threads.map both :=
      List.map_congr_left fun t ht => putHalves_both hnd ht (hla t ht) (hlb t ht) a b ra.2 rb.2
    rw [gives_halfTable rb hrb b, halfWord_second (env_kept he ws) hsb rfl hlb, halfWrites_kept he]
    simp only [keptEnv, keptCore, State.withCore_withCore, hmap]
    rfl

end Sys2Proof.Words
end

section
/-! Proofs for the family of integer and control instructions: moves and logic, products and quotients, addresses and
immediates. -/

namespace Sys2Proof.Integers

open Sys2Proof Sys2Proof.Machine Sys2Proof.Spec Sys2Proof.Laws Sys2Proof.Sheaves Sys2Proof.Numbers Sys2Proof.Words

/-! ### Operands and results at the type's width (R117, R132) -/

theorem readA_eq (f : Full) (t : Thread) : readA t f = if tyBits f.ty = 64 then a64 f t else (a32 f t).setWidth 64 := rfl

theorem readB_eq (f : Full) (e : Env) (t : Thread) :
    readB e t f = if tyBits f.ty = 64 then b64 f e t else (b32 f e t).setWidth 64 := by
  unfold readB readT b64 readB64 b32 readB32
  cases f.ub <;> rfl

theorem writeT_eq_put (f : Full) (x : Quad) (t : Thread) : writeT t f.ty f.d.toNat x = put f (x.setWidth 32) x t := rfl

/-- The destination takes one register or the pair, whichever the type's width asks for. -/
theorem put_congr {f : Full} {x x' : Reg} {y y' : Quad} (hx : tyBits f.ty ≠ 64 → x = x') (hy : tyBits f.ty = 64 → y = y')
    (t : Thread) : put f x y t = put f x' y' t := by
  unfold put
  split
  next h => rw [hy h]
  next h => rw [hx h]

/-- A number written at the type's width. -/
theorem writeT_ofNat (f : Full) (n : Nat) (t : Thread) :
    writeT t f.ty f.d.toNat (BitVec.ofNat 64 n) = put f (BitVec.ofNat 32 n) (BitVec.ofNat 64 n) t := by
  rw [writeT_eq_put, BitVec.setWidth_ofNat_of_le (by decide)]

theorem setWidth_setWidth_reg (x : Reg) : (x.setWidth 64).setWidth 32 = x := by
  rw [BitVec.setWidth_setWidth_of_le _ (by decide), BitVec.setWidth_eq]

theorem setWidth_ite (c : Prop) [Decidable c] (x y : Reg) :
    (if c then x.setWidth 64 else y.setWidth 64).setWidth 32 = if c then x else y := by
  split <;> exact setWidth_setWidth_reg _

/-- Where `g` gives of the operands at 64 bits what `g'` gives of their low halves, the destination takes
either by the type's width. -/
theorem writeT_operands (f : Full) {g : Quad → Quad → Quad} {g' : Reg → Reg → Reg}
    (hg : ∀ x y : Reg, (g (x.setWidth 64) (y.setWidth 64)).setWidth 32 = g' x y) (e : Env) (t : Thread) :
    writeT t f.ty f.d.toNat (g (readA t f) (readB e t f)) = put f (g' (a32 f t) (b32 f e t)) (g (a64 f t) (b64 f e t)) t := by
  rw [writeT_eq_put, readA_eq, readB_eq]
  refine put_congr (fun h => ?_) (fun h => ?_) t
  · rw [if_neg h, if_neg h, hg]
  · rw [if_pos h, if_pos h]

theorem bitWord_eq (f : Full) {g : Quad → Quad → Quad} {g' : Reg → Reg → Reg}
    (hg : ∀ x y : Reg, (g (x.setWidth 64) (y.setWidth 64)).setWidth 32 = g' x y) (e : Env) (t : Thread) :
    bitWord f g e t = .ok (put f (g' (a32 f t) (b32 f e t)) (g (a64 f t) (b64 f e t)) t) :=
  congrArg TRes.ok (writeT_operands f hg e t)

/-- Settles O1: each word by `writeT_operands`, the moves too, since a choice between operands acts alike on their low halves. -/
theorem movesAndLogicGiveTheirResults : Obligations.MovesAndLogicGiveTheirResults := by
  unfold Obligations.MovesAndLogicGiveTheirResults
  intro f
  refine ⟨runs_of_wordMap (fun _ => rfl) fun e t => congrArg TRes.ok ?mov,
    runs_of_wordMap (fun _ => rfl) fun e t => congrArg TRes.ok ?sel,
    runs_of_wordMap (fun _ => rfl) (bitWord_eq f (g' := fun x y => x &&& y) fun x y => ?and),
    runs_of_wordMap (fun _ => rfl) (bitWord_eq f (g' := fun x y => x ||| y) fun x y => ?or),
    runs_of_wordMap (fun _ => rfl) (bitWord_eq f (g' := fun x y => x ^^^ y) fun x y => ?xor),
    runs_of_wordMap (fun _ => rfl) (bitWord_eq f (g' := fun x y => x &&& ~~~y) fun x y => ?andn),
    runs_of_wordMap (fun _ => rfl) (bitWord_eq f (g' := fun x _ => ~~~x) fun x _ => ?not)⟩
  case mov =>
    exact writeT_operands f (g := fun x y => if f.ub = true then y else x) (g' := fun x y => if f.ub = true then y else x)
      (fun x y => setWidth_ite _ y x) e t
  case sel =>
    exact writeT_operands f (g := fun x y => if selPred t f = true then x else y)
      (g' := fun x y => if selPred t f = true then x else y) (setWidth_ite _) e t
  case and => rw [BitVec.setWidth_and, setWidth_setWidth_reg, setWidth_setWidth_reg]
  case or => rw [BitVec.setWidth_or, setWidth_setWidth_reg, setWidth_setWidth_reg]
  case xor => rw [BitVec.setWidth_xor, setWidth_setWidth_reg, setWidth_setWidth_reg]
  case andn => rw [BitVec.setWidth_and, BitVec.setWidth_not (by decide), setWidth_setWidth_reg, setWidth_setWidth_reg]
  case not => rw [BitVec.setWidth_not (by decide), setWidth_setWidth_reg]

/-! ### Products and quotients (R134, R135) -/

/-- The high half of a 64-bit number. -/
theorem ofInt_high (z : Int) : BitVec.ofInt 32 (z / (2 ^ 32 : Nat)) = (BitVec.ofInt 64 z >>> 32).setWidth 32 := by
  refine BitVec.eq_of_toNat_eq ?_
  rw [BitVec.toNat_setWidth, BitVec.toNat_ushiftRight, BitVec.toNat_ofInt, BitVec.toNat_ofInt, Nat.shiftRight_eq_div_pow]
  omega

theorem ofInt_toInt_wide (x : Reg) : BitVec.ofInt 64 x.toInt = x.signExtend 64 := rfl

theorem ofInt_toNat_wide (x : Reg) : BitVec.ofInt 64 (x.toNat : Int) = x.setWidth 64 := by
  rw [BitVec.ofInt_natCast, BitVec.ofNat_toNat]

theorem ofInt_tdiv (x y : Reg) : BitVec.ofInt 32 (x.toInt.tdiv y.toInt) = x.sdiv y := by
  refine BitVec.eq_of_toInt_eq ?_
  rw [BitVec.toInt_ofInt, BitVec.toInt_sdiv]

theorem ofInt_tmod (x y : Reg) : BitVec.ofInt 32 (x.toInt.tmod y.toInt) = x.srem y := by
  rw [← BitVec.toInt_srem, BitVec.ofInt_toInt]

theorem ofInt_tdiv_toNat (x y : Reg) : BitVec.ofInt 32 ((x.toNat : Int).tdiv y.toNat) = x / y := by
  rw [← Int.ofNat_tdiv, ← BitVec.toNat_udiv]
  exact ofInt_toNat _

theorem ofInt_tmod_toNat (x y : Reg) : BitVec.ofInt 32 ((x.toNat : Int).tmod y.toNat) = x % y := by
  rw [← Int.ofNat_tmod, ← BitVec.toNat_umod]
  exact ofInt_toNat _

section IntTy
variable {f : Full} (hf : IntTy f)
include hf

theorem val_eq_zero (x : Reg) : val f x = 0 ↔ x = 0 := by
  rcases hf with h | h
  · rw [val, if_pos h]
    exact BitVec.toInt_inj (y := 0)
  · rw [val, if_neg (by rw [h]; decide), Int.natCast_eq_zero]
    exact BitVec.toNat_inj (y := 0)

theorem ofInt_mulhInt (x y : Reg) : BitVec.ofInt 32 (mulhInt (val f x) (val f y)) =
    if f.ty = .s32 then ((x.signExtend 64 * y.signExtend 64) >>> 32).setWidth 32
      else ((x.setWidth 64 * y.setWidth 64) >>> 32).setWidth 32 := by
  rw [mulhInt, ofInt_high, BitVec.ofInt_mul]
  rcases hf with h | h
  · simp only [val, h, if_true, ofInt_toInt_wide]
  · simp only [val, h, reduceCtorEq, if_false, ofInt_toNat_wide]

theorem ofInt_divInt (x y : Reg) : BitVec.ofInt 32 (divInt (val f x) (val f y)) =
    if y = 0 then BitVec.allOnes 32 else if f.ty = .s32 then x.sdiv y else x / y := by
  rw [divInt, apply_ite (BitVec.ofInt 32)]
  simp only [val_eq_zero hf]
  refine if_congr Iff.rfl rfl ?_
  rcases hf with h | h
  · simp only [val, h, if_true, ofInt_tdiv]
  · simp only [val, h, reduceCtorEq, if_false, ofInt_tdiv_toNat]

theorem ofInt_remInt (x y : Reg) : BitVec.ofInt 32 (remInt (val f x) (val f y)) =
    if y = 0 then x else if f.ty = .s32 then x.srem y else x % y := by
  rw [remInt, apply_ite (BitVec.ofInt 32)]
  simp only [val_eq_zero hf]
  refine if_congr Iff.rfl (ofInt_val hf x) ?_
  rcases hf with h | h
  · simp only [val, h, if_true, ofInt_tmod]
  · simp only [val, h, reduceCtorEq, if_false, ofInt_tmod_toNat]

end IntTy

/-- Settles O4: each word wraps the exact result of its operation (`intWord_wraps`). -/
theorem mulhDivRemGiveTheirResults : Obligations.MulhDivRemGiveTheirResults := by
  unfold Obligations.MulhDivRemGiveTheirResults
  intro f hf hs
  refine ⟨runs_of_wordMap (fun _ => rfl) fun e t => ?mulh, runs_of_wordMap (fun _ => rfl) fun e t => ?div,
    runs_of_wordMap (fun _ => rfl) fun e t => ?rem⟩
  case mulh => rw [intWord_wraps hf hs, ofInt_mulhInt hf]
  case div => rw [intWord_wraps hf hs, ofInt_divInt hf]
  case rem => rw [intWord_wraps hf hs, ofInt_remInt hf]

/-! ### Addresses and immediates (R133, R141) -/

theorem shiftLeft_eq_mul (x : Reg) (n : Nat) : x <<< n = x * BitVec.ofNat 32 (2 ^ n) := by
  have hpow : BitVec.twoPow 32 n = BitVec.ofNat 32 (2 ^ n) :=
    BitVec.eq_of_toNat_eq (by rw [BitVec.toNat_twoPow, BitVec.toNat_ofNat])
  rw [BitVec.shiftLeft_eq_mul_twoPow, hpow]

/-- Settles O7: LEA's shift is a product with a power of two, the other words are their meanings. -/
theorem addressesAndImmediatesGiveTheirResults : Obligations.AddressesAndImmediatesGiveTheirResults := by
  unfold Obligations.AddressesAndImmediatesGiveTheirResults
  refine ⟨fun f => ⟨runs_of_wordMap (fun _ => rfl) fun e t => ?lea, runs_of_wordMap (fun _ => rfl) fun _ _ => rfl⟩,
    fun x => ⟨runs_of_wordMap (fun _ => rfl) fun _ _ => rfl, runs_of_wordMap (fun _ => rfl) fun _ _ => rfl⟩⟩
  case lea =>
    rw [leaWord, shiftLeft_eq_mul]
    rfl

end Sys2Proof.Integers
end

section
/-! Proofs for the family of integer and control instructions: shifts, bit fields, permutations and counts. -/

namespace Sys2Proof.Integers

open Sys2Proof Sys2Proof.Machine Sys2Proof.Spec Sys2Proof.Laws Sys2Proof.Sheaves Sys2Proof.Numbers Sys2Proof.Words

/-! ### Shifts and rotates at any width (R137) -/

theorem ofNat_shlN_bits {w : Nat} (x : BitVec w) (c : Nat) : BitVec.ofNat w (shlN w x.toNat c) = x <<< c := by
  rw [shlN]
  split
  · refine BitVec.eq_of_toNat_eq ?_
    rw [BitVec.toNat_ofNat, BitVec.toNat_shiftLeft, Nat.shiftLeft_eq, Nat.mod_mod]
  · rw [BitVec.shiftLeft_eq_zero (by omega)]

theorem ofNat_shrlN_bits {w : Nat} (x : BitVec w) (c : Nat) : BitVec.ofNat w (shrlN w x.toNat c) = x >>> c := by
  rw [shrlN, Nat.mod_eq_of_lt x.isLt]
  split
  · rw [← Nat.shiftRight_eq_div_pow, ← BitVec.toNat_ushiftRight, BitVec.ofNat_toNat, BitVec.setWidth_eq]
  · rw [BitVec.ushiftRight_eq_zero (by omega)]

/-- A shift at or above the width leaves the sign alone. -/
theorem toInt_ediv_two_pow_bits {w : Nat} (x : BitVec w) {c : Nat} (hc : w ≤ c) :
    x.toInt / (2 ^ c : Nat) = if x.toInt < 0 then -1 else 0 := by
  have hlo := BitVec.le_two_mul_toInt (x := x)
  have hhi := BitVec.two_mul_toInt_lt (x := x)
  have hpow : 2 ^ w ≤ 2 ^ c := Nat.pow_le_pow_right (by decide) hc
  have hpos : 0 < 2 ^ w := Nat.two_pow_pos w
  rw [← Nat.cast_ofNat (R := Int), ← Nat.cast_pow] at hlo hhi
  generalize 2 ^ c = p at hpow
  generalize 2 ^ w = q at hpow hlo hhi hpos
  split
  · rw [Int.ediv_eq_neg_one_of_neg_of_le] <;> omega
  · rw [Int.ediv_eq_zero_of_lt] <;> omega

theorem ofNat_two_pow_sub_one (w : Nat) : BitVec.ofNat w (2 ^ w - 1) = BitVec.ofInt w (-1) := by
  have hones : BitVec.ofInt w (-1) = BitVec.allOnes w := by
    rw [BitVec.ofInt_neg, ← BitVec.neg_one_eq_allOnes, ← BitVec.ofInt_natCast]
    rfl
  rw [hones, ← BitVec.toNat_allOnes, BitVec.ofNat_toNat, BitVec.setWidth_eq]

theorem ofNat_shraN_bits {w : Nat} (x : BitVec w) (c : Nat) : BitVec.ofNat w (shraN w x.toInt c) = x.sshiftRight c := by
  have hshift : x.sshiftRight c = BitVec.ofInt w (x.toInt / (2 ^ c : Nat)) := by
    rw [← Int.shiftRight_eq_div_pow, ← BitVec.toInt_sshiftRight, BitVec.ofInt_toInt]
  rw [shraN, hshift]
  split
  next => exact ofNat_wrapN w _
  next hc =>
    rw [toInt_ediv_two_pow_bits x (by omega)]
    split
    · exact ofNat_two_pow_sub_one w
    · exact (BitVec.ofInt_natCast w 0).symm

theorem ofNat_rotlN_bits {w : Nat} (hw : 0 < w) (x : BitVec w) (c : Nat) : BitVec.ofNat w (rotlN w x.toNat c) = x.rotateLeft c := by
  have hr : c % w < w := Nat.mod_lt _ hw
  have hhigh : x.toNat / 2 ^ (w - c % w) < 2 ^ (c % w) := by
    refine Nat.div_lt_of_lt_mul ?_
    rw [← pow_add, Nat.sub_add_cancel hr.le]
    exact x.isLt
  refine BitVec.eq_of_toNat_eq ?_
  rw [BitVec.toNat_ofNat, BitVec.toNat_rotateLeft, rotlN, Nat.mod_eq_of_lt x.isLt, Nat.mod_mod, Nat.shiftRight_eq_div_pow,
    ← Nat.shiftLeft_eq, Nat.shiftLeft_add_eq_or_of_lt hhigh, Nat.or_mod_two_pow,
    Nat.mod_eq_of_lt (hhigh.trans (Nat.pow_lt_pow_right (by decide) hr))]

/-- The count of a shift (R137). -/
theorem shiftCount_eq (e : Env) (t : Thread) (f : Full) : shiftCount e t f = count f e t := field_count _

/-- A word of R137: what `g` gives at every width `G` gives. -/
theorem shiftWord_eq {f : Full} (hw : tyBits f.ty = 32 ∨ tyBits f.ty = 64) {g : Nat → Nat → Nat → Nat}
    {G : (w : Nat) → BitVec w → Nat → BitVec w}
    (hg : ∀ w (x : BitVec w) c, 0 < w → tyBits f.ty = w → BitVec.ofNat w (g w x.toNat c) = G w x c) (e : Env) (t : Thread) :
    shiftWord f g e t = .ok (put f (G 32 (a32 f t) (count f e t)) (G 64 (a64 f t) (count f e t)) t) := by
  rw [shiftWord, writeT_ofNat, shiftCount_eq, readA_toNat]
  refine congrArg TRes.ok (put_congr (fun h => ?_) (fun h => ?_) t)
  · rw [if_neg h, hw.resolve_right h, hg 32 _ _ (by decide) (hw.resolve_right h)]
  · rw [if_pos h, h, hg 64 _ _ (by decide) h]

/-- Settles O5: each word by what its shift gives at the type's width. -/
theorem shiftsGiveTheirResults : Obligations.ShiftsGiveTheirResults := by
  unfold Obligations.ShiftsGiveTheirResults
  intro f hw
  have hrun {i : Instr} {g : Nat → Nat → Nat → Nat} (G : (w : Nat) → BitVec w → Nat → BitVec w)
      (hx : ∀ s, exec i s = .next (wordMap i (shiftWord f g) s))
      (hg : ∀ w (x : BitVec w) c, 0 < w → tyBits f.ty = w → BitVec.ofNat w (g w x.toNat c) = G w x c) :
      Runs i fun e t => .ok (put f (G 32 (a32 f t) (count f e t)) (G 64 (a64 f t) (count f e t)) t) :=
    runs_of_wordMap hx (shiftWord_eq hw hg)
  refine ⟨hrun (fun _ x c => x <<< c) (fun _ => rfl) fun _ x c _ _ => ofNat_shlN_bits x c,
    hrun (fun _ x c => x >>> c) (fun _ => rfl) fun _ x c _ _ => ofNat_shrlN_bits x c,
    fun hs => hrun (fun _ x c => x.sshiftRight c) (fun _ => rfl) fun _ x c _ hty => ?shra,
    hrun (fun _ x c => x.rotateLeft c) (fun _ => rfl) fun _ x c hpos _ => ofNat_rotlN_bits hpos x c⟩
  case shra => rw [intOf_bits hty, if_pos hs, ofNat_shraN_bits]

/-! ### Fields of a word (R138, R155) -/

/-- A field's value as the model extends it to 32 bits: with copies of its top bit where it is signed, with zeros else. -/
theorem ofNat_extend {w : Nat} (x : BitVec w) (signed : Bool) (hw : signed = true → w ≤ 32) :
    BitVec.ofNat 32 (if w = 0 then 0 else if signed && 2 ^ (w - 1) ≤ x.toNat then x.toNat + (2 ^ 32 - 2 ^ w) else x.toNat)
      = if signed = true then x.signExtend 32 else x.setWidth 32 := by
  rcases Nat.eq_zero_or_pos w with rfl | hpos
  · rw [if_pos rfl, BitVec.of_length_zero (x := x)]
    cases signed <;> rfl
  · have hmsb : x.msb = decide (2 ^ (w - 1) ≤ x.toNat) := BitVec.msb_eq_decide x
    rw [if_neg hpos.ne']
    cases signed with
    | false => exact BitVec.ofNat_toNat 32 x
    | true =>
      have hext : (x.signExtend 32).toNat = if x.msb = true then x.toNat + (2 ^ 32 - 2 ^ w) else x.toNat := by
        rw [BitVec.toNat_signExtend, BitVec.toNat_setWidth_of_le (hw rfl)]
        split <;> rfl
      rw [if_pos rfl, Bool.true_and, ← hmsb, ← hext, ofNat_toNat]

/-- The position and the length of a bit field (R138). -/
theorem fieldPos_eq (b : Reg) : fieldPos b.toNat = (b.setWidth 5).toNat := by
  simp [fieldPos, field]

theorem fieldLen_eq (b : Reg) : fieldLen b.toNat = min ((b >>> 8).setWidth 6).toNat (32 - (b.setWidth 5).toNat) := by
  have hlen : field b.toNat 13 8 = ((b >>> 8).setWidth 6).toNat := by simp [field, Nat.shiftRight_eq_div_pow]
  rw [fieldLen, fieldPos_eq, hlen, min_assoc, min_eq_right (Nat.sub_le 32 _)]

theorem ofNat_bfxVal (signed : Bool) (x b : Reg) : BitVec.ofNat 32 (bfxVal signed x.toNat b.toNat) =
    let y := x.extractLsb' (fieldPos b.toNat) (fieldLen b.toNat)
    if signed = true then y.signExtend 32 else y.setWidth 32 := by
  have hlen : fieldLen b.toNat ≤ 32 := (min_le_right _ _).trans (Nat.sub_le 32 _)
  rw [bfxVal, ← Nat.shiftRight_eq_div_pow, ← BitVec.extractLsb'_toNat]
  exact ofNat_extend _ signed fun _ => hlen

/-- BFI bit by bit: the field from the low bits of `x`, the other bits from `d`. -/
theorem getLsbD_bfiVal (d x : Reg) (b : Nat) {j : Nat} (hj : j < 32) : (bfiVal d x b).getLsbD j =
    if fieldPos b ≤ j ∧ j < fieldPos b + fieldLen b then x.getLsbD (j - fieldPos b) else d.getLsbD j := by
  have hmask : (BitVec.ofNat 32 ((2 ^ fieldLen b - 1) * 2 ^ fieldPos b)).getLsbD j
      = decide (fieldPos b ≤ j ∧ j < fieldPos b + fieldLen b) := by
    rw [BitVec.getLsbD_ofNat, Nat.testBit_mul_two_pow, Nat.testBit_two_pow_sub_one, Bool.eq_iff_iff]
    simp only [Bool.and_eq_true, decide_eq_true_eq]
    omega
  simp only [bfiVal, BitVec.getLsbD_or, BitVec.getLsbD_and, BitVec.getLsbD_not, BitVec.getLsbD_shiftLeft, hmask, hj]
  split
  next hin => simp [hin, Nat.not_lt.mpr hin.1]
  next hout => simp [hout]

/-! ### Permutations and counts (R139, R140) -/

/-- Byte `j` of PERM's result is the one that its code names. -/
theorem extractLsb'_permVal (x b : Reg) {j : Nat} (hj : j < 4) :
    (BitVec.ofNat 32 (permVal x.toNat b.toNat)).extractLsb' (8 * j) 8 = permByteOf x (b.extractLsb' (5 * j) 5).toNat := by
  rw [ofNat_permVal]
  refine BitVec.eq_of_toNat_eq ?_
  rw [BitVec.extractLsb'_toNat, Nat.shiftRight_eq_div_pow, toNat_append_byte, toNat_append_byte, toNat_append_byte]
  have h0 := (permByteOf x (b.extractLsb' 0 5).toNat).isLt
  have h1 := (permByteOf x (b.extractLsb' 5 5).toNat).isLt
  have h2 := (permByteOf x (b.extractLsb' 10 5).toNat).isLt
  have h3 := (permByteOf x (b.extractLsb' 15 5).toNat).isLt
  interval_cases j <;> simp only [Nat.reduceMul, Nat.reducePow] <;> omega

theorem clzAuxRec_eq_bits {w : Nat} (x : BitVec w) {n : Nat} (hn : n < w) :
    x.clzAuxRec n = BitVec.ofNat w (w - 1 - n + clzN (n + 1) x.toNat) := by
  induction n with
  | zero =>
    rw [BitVec.clzAuxRec_zero, clzN_succ, ← BitVec.getLsbD]
    split
    · rfl
    · rw [clzN, Nat.sub_zero, Nat.zero_add, Nat.sub_add_cancel hn]
  | succ n ih =>
    rw [BitVec.clzAuxRec_succ, ih (by omega), clzN_succ (n + 1), ← BitVec.getLsbD]
    split
    · rfl
    · rw [show w - 1 - n = w - 1 - (n + 1) + 1 by omega, add_right_comm, add_assoc]

theorem ofNat_clzN_bits {w : Nat} (hw : 0 < w) (x : BitVec w) : BitVec.ofNat w (clzN w x.toNat) = x.clz := by
  rw [BitVec.clz, clzAuxRec_eq_bits x (Nat.sub_one_lt hw.ne'), Nat.sub_self, Nat.zero_add, Nat.sub_add_cancel hw]

theorem ofNat_brevN_bits {w : Nat} (x : BitVec w) : BitVec.ofNat w (brevN w x.toNat) = x.reverse := by
  refine BitVec.eq_of_getLsbD_eq fun k hk => ?_
  rw [BitVec.getLsbD_ofNat, BitVec.getLsbD_reverse, BitVec.getMsbD, testBit_brevN hk]
  rfl

/-- A count is taken at the type's width and written as 32 bits. -/
theorem countWord_eq {f : Full} (hw : tyBits f.ty = 32 ∨ tyBits f.ty = 64) (g : Nat → Nat → Nat) (e : Env) (t : Thread) :
    countWord f g e t = .ok (writeV t f.d.toNat
      (if tyBits f.ty = 64 then BitVec.ofNat 32 (g 64 (a64 f t).toNat) else BitVec.ofNat 32 (g 32 (a32 f t).toNat))) := by
  rw [countWord, readA_toNat]
  split
  next h => rw [h]
  next h => rw [hw.resolve_right h]

/-- Settles O6: BFX and BFI by the position and the length of their field, PERM byte by byte, the others at the type's width. -/
theorem bitFieldsAndPermutationsGiveTheirResults : Obligations.BitFieldsAndPermutationsGiveTheirResults := by
  unfold Obligations.BitFieldsAndPermutationsGiveTheirResults
  refine ⟨fun f => ⟨?bfx, ?bfi⟩, fun f => ⟨?perm, fun hw => ⟨?clz, ?popc, ?brev⟩⟩⟩
  case bfx =>
    refine runs_of_wordMap (fun _ => rfl) fun e t => congrArg (fun x => TRes.ok (writeV t f.d.toNat x)) ?_
    rw [ofNat_bfxVal, fieldPos_eq, fieldLen_eq]
    rfl
  case bfi =>
    refine ⟨fun e t => bfiVal (d32 f t) (a32 f t) (b32 f e t).toNat, runs_of_wordMap (fun _ => rfl) fun _ _ => rfl,
      fun e t j hj => ?_⟩
    rw [getLsbD_bfiVal _ _ _ hj, fieldPos_eq, fieldLen_eq]
  case perm =>
    exact ⟨fun e t => BitVec.ofNat 32 (permVal (a32 f t).toNat (b32 f e t).toNat), runs_of_wordMap (fun _ => rfl) fun _ _ => rfl,
      fun e t j hj => extractLsb'_permVal _ _ hj⟩
  case clz =>
    refine runs_of_wordMap (fun _ => rfl) fun e t => ?_
    rw [countWord_eq hw, ofNat_clzN, ← ofNat_clzN_bits (by decide) (a64 f t), BitVec.setWidth_ofNat_of_le (by decide)]
  case popc =>
    refine runs_of_wordMap (fun _ => rfl) fun e t => ?_
    rw [countWord_eq hw, popcN_eq, popcN_eq]
    rfl
  case brev =>
    refine runs_of_wordMap (fun _ => rfl) fun e t => ?_
    rw [brevWord, writeT_ofNat, readA_toNat]
    refine congrArg TRes.ok (put_congr (fun h => ?_) (fun h => ?_) t)
    · rw [if_neg h, hw.resolve_right h, ofNat_brevN]
    · rw [if_pos h, h, ofNat_brevN_bits]

end Sys2Proof.Integers
end

section
/-! Proofs for the family of integer and control instructions: the guest's fetch and its dispatch. -/

namespace Sys2Proof.Integers

open Sys2Proof Sys2Proof.Machine Sys2Proof.Spec Sys2Proof.Laws Sys2Proof.Sheaves Sys2Proof.Numbers Sys2Proof.Words

/-! ### GFETCH (R154, R155) -/

theorem gddLen_eq (g : Reg) : gddLen g = 2 ^ (g.toNat % 4) := by
  simp [gddLen, field]

/-- A field of GIR is the bits of the value fetched, extended as GDD says. -/
theorem guestField_eq (v lo w : Nat) (signed : Bool) (hv : v < 2 ^ 64) (hw : signed = true → w ≤ 32) : guestField v lo w signed =
    let x := (BitVec.ofNat 64 v).extractLsb' lo w
    if w = 0 then 0 else if signed = true then x.signExtend 32 else x.setWidth 32 := by
  rcases Nat.eq_zero_or_pos w with rfl | hpos
  · rw [guestField, if_pos rfl]
    rfl
  · have hx : ((BitVec.ofNat 64 v).extractLsb' lo w).toNat = v / 2 ^ lo % 2 ^ w := by
      rw [BitVec.extractLsb'_toNat, Nat.shiftRight_eq_div_pow, BitVec.toNat_ofNat, Nat.mod_eq_of_lt hv]
    rw [guestField, ← hx, ofNat_extend _ signed hw]
    simp only [hpos.ne', if_false]

/-- Settles O21: the word is its meaning with the length of R153, the fields by `guestField_eq`. -/
theorem gfetchReadsAndExtracts : Obligations.GfetchReadsAndExtracts := by
  unfold Obligations.GfetchReadsAndExtracts
  refine ⟨fun f => runs_of_wordMap (fun _ => rfl) fun e t => ?word, fun gdd v hv _ => ?fields⟩
  case word =>
    rw [gfetchWord, gddLen_eq]
  case fields =>
    have hw0 : field gdd.toNat 22 18 < 32 := Nat.mod_lt _ (by decide)
    have hw1 : field gdd.toNat 28 24 < 32 := Nat.mod_lt _ (by decide)
    simp only [guestDecode, bitAt_eq_testBit]
    rw [guestField_eq v _ _ false hv (fun h => nomatch h), guestField_eq v _ _ _ hv fun _ => hw0.le,
      guestField_eq v _ _ _ hv fun _ => hw1.le]
    rfl

/-! ### DISPATCH (R156, R157) -/

/-- Settles O22: both forms are one meaning, which leaves its thread in transit. -/
theorem dispatchReadsTheTable : Obligations.DispatchReadsTheTable := by
  unfold Obligations.DispatchReadsTheTable
  intro f pc
  refine runs_of_wordMap (f := dispatchWord pc) (fun s => ?exec) fun e t => ?word
  case exec => cases pc <;> rfl
  case word =>
    -- The statement writes out `entryAddr`, `entryInSlice`, `entryWatch` and `inTransit`; check and watchpoint fall alike.
    rfl

end Sys2Proof.Integers
end

section
/-! Proofs for the family of arithmetic and functions: sums and products rounded once, choices and comparisons of floats. -/

namespace Sys2Proof.Arithmetic

open Sys2Proof Sys2Proof.Machine Sys2Proof.Spec Sys2Proof.Laws Sys2Proof.Sheaves Sys2Proof.Numbers

/-! ### Exact results rounded once (R163) -/

/-- Settles O10: each word rounds a value that is exact for finite operands. -/
theorem floatArithmeticRoundsTheExactResult : Obligations.FloatArithmeticRoundsTheExactResult := by
  unfold Obligations.FloatArithmeticRoundsTheExactResult
  intro f ok
  have hok {i : Instr} {g : Rat → Rat → Rat → Rat} (V : FV → FV → FV → FV × Reg) {G : FV → FV → FV → Rounded}
      (hx : ∀ s, exec i s = .next (wordMap i (fpWord f G) s)) (hG : ∀ a b d, G a b d = roundWith .f32 f.rm false (V a b d))
      (hV : ∀ {a b d x y z}, ratOf a = some x → ratOf b = some y → ratOf d = some z →
        ratOf (V a b d).1 = some (g x y z) ∧ (V a b d).2 = 0) : ok i g := by
    refine ⟨fun e t => V (fA f t) (fB f e t) (fD f t), runs_of_wordMap hx fun e t => ?_, fun e t x y z => hV⟩
    simp only [fpWord, hG]
    rfl
  exact ⟨hok (fun a b _ => sumFV f.rm [a, b]) (fun _ => rfl) (fun _ _ _ => rfl) fun hx hy _ => ratOf_sumFV_pair f.rm hx hy,
    hok (fun a b _ => sumFV f.rm [a, fvMinus b]) (fun _ => rfl) (fun _ _ _ => rfl) fun hx hy _ => by
      rw [sub_eq_add_neg]
      exact ratOf_sumFV_pair f.rm hx (ratOf_fvMinus hy),
    hok (fun a b _ => productFV a b) (fun _ => rfl) (fun _ _ _ => rfl) fun hx hy _ => productFV_finite hx hy,
    hok (fun a b d => fmaFV f.rm a b d) (fun _ => rfl) (fmaRound_eq rfl f.rm) (fmaFV_finite f.rm)⟩

/-! ### FMIN and FMAX (R165) -/

section Pick
variable (low : Bool) {x y : Nat}

theorem pick_of_below (h : below (f32 x) (f32 y)) : pick low x y = if low then x else y := by
  obtain ⟨hx, hy, -⟩ := id h
  have hlt := (below_iff_place hx hy).mp h
  obtain ⟨hmem, hbx, hby⟩ := pick_spec (low := low) hx hy
  cases low
  · exact hmem.resolve_left fun hp => (hp ▸ hby).1.not_gt hlt
  · exact hmem.resolve_right fun hp => (hp ▸ hbx).1.not_gt hlt

theorem pick_of_above (h : below (f32 y) (f32 x)) : pick low x y = if low then y else x := by
  obtain ⟨hy, hx, -⟩ := id h
  have hlt := (below_iff_place hy hx).mp h
  obtain ⟨hmem, hbx, hby⟩ := pick_spec (low := low) hx hy
  cases low
  · exact hmem.resolve_right fun hp => (hp ▸ hbx).1.not_gt hlt
  · exact hmem.resolve_left fun hp => (hp ▸ hby).1.not_gt hlt

theorem pick_self (h : f32 x ≠ .nan) : pick low x x = x := or_self_iff.mp (pick_spec h h).1

/-- What FMIN (`low`) or FMAX writes. -/
def chosen (x y : Reg) : Reg := BitVec.ofNat 32 (pick low x.toNat y.toNat)

theorem chosen_of_pick {x y r : Reg} (h : pick low x.toNat y.toNat = r.toNat) : chosen low x y = r := by
  rw [chosen, h, Words.ofNat_toNat]

/-- The clauses of R165. -/
theorem chosen_cases (x y : Reg) :
    (below (f32 x.toNat) (f32 y.toNat) → chosen low x y = if low then x else y)
    ∧ (below (f32 y.toNat) (f32 x.toNat) → chosen low x y = if low then y else x)
    ∧ (f32 x.toNat = .nan → f32 y.toNat ≠ .nan → chosen low x y = y)
    ∧ (f32 x.toNat ≠ .nan → f32 y.toNat = .nan → chosen low x y = x)
    ∧ (f32 x.toNat = .nan → f32 y.toNat = .nan → chosen low x y = 0x7FC00000)
    ∧ (x = 0x80000000 ∧ y = 0 ∨ x = 0 ∧ y = 0x80000000 → chosen low x y = if low then 0x80000000 else 0)
    ∧ (x = y → f32 x.toNat ≠ .nan → chosen low x y = x) := by
  refine ⟨fun h => ?_, fun h => ?_, fun hx hy => ?_, fun hx hy => ?_, fun hx hy => ?_, ?_, ?_⟩
  · exact chosen_of_pick low ((pick_of_below low h).trans (apply_ite BitVec.toNat _ _ _).symm)
  · exact chosen_of_pick low ((pick_of_above low h).trans (apply_ite BitVec.toNat _ _ _).symm)
  · exact chosen_of_pick low ((pick_nan hx).trans (if_neg hy))
  · exact chosen_of_pick low (pick_nan_right hx hy)
  · exact chosen_of_pick low ((pick_nan hx).trans (if_pos hy))
  · rintro (⟨rfl, rfl⟩ | ⟨rfl, rfl⟩) <;> revert low <;> decide
  · rintro rfl hx
    exact chosen_of_pick low (pick_self low hx)

end Pick

/-! ### FSETP (R166) -/

section Compare
variable {a b : FV} (ha : a ≠ .nan) (hb : b ≠ .nan)
include ha hb

theorem cmpFV_zero_iff : cmpFV a b = 0 ↔ same a b := by
  have hneg := (cmpFV_neg_iff ha hb).trans (below_iff_place ha hb)
  have hpos := (cmpFV_pos_iff ha hb).trans (below_iff_place hb ha)
  have hzero : cmpFV a b = 0 ↔ ¬ cmpFV a b < 0 ∧ ¬ 0 < cmpFV a b := by omega
  rw [hzero, hneg, hpos, same_iff_place ha hb, not_lt, not_lt, ← le_antisymm_iff, eq_comm]

/-- The six conditions on two values that are not NaN, as conditions on their order. -/
theorem fcompare_of_not_nan {cc : Nat} (hcc : cc < 6) (u : Bool) : (fcompare cc u a b).2 = 0 ∧ ((fcompare cc u a b).1 = true ↔
    (cc = 0 ∧ same a b) ∨ (cc = 1 ∧ ¬ same a b) ∨ (cc = 2 ∧ below a b) ∨ (cc = 3 ∧ ¬ below b a) ∨ (cc = 4 ∧ below b a)
      ∨ (cc = 5 ∧ ¬ below a b)) := by
  have hnan : ¬ (fvIsNaN a || fvIsNaN b) = true := by simp [ha, hb]
  rw [fcompare, if_neg hnan]
  refine ⟨rfl, ?_⟩
  rw [condHolds_iff cc hcc, holds, ← cmpFV_zero_iff ha hb, ← cmpFV_neg_iff ha hb, ← cmpFV_pos_iff ha hb]
  omega

end Compare

theorem fcompare_of_nan {a b : FV} (h : a = .nan ∨ b = .nan) (cc : Nat) (u : Bool) :
    fcompare cc u a b = (u || decide (cc = 1), if 2 ≤ cc then 1 else 0) :=
  if_pos (by simpa using h)

/-! ### FCLASS (R167) -/

/-- The finite magnitudes without the leading bit are those below the least normal one. -/
theorem fraction_lt_iff {ty : Ty} {x : Nat} {n : Bool} {m : Nat} {e : Int} (h : fvOf ty x = .fin n m e) :
    m < 2 ^ fracBits ty ↔ (m : Rat) * 2 ^ e < 2 ^ (1 - (biasOf ty : Int)) := by
  have hlow : (2 : Rat) ^ (1 - (biasOf ty : Int)) = 2 ^ fracBits ty * 2 ^ (1 - (biasOf ty : Int) - fracBits ty) := by
    rw [← zpow_natCast, ← zpow_add₀ two_ne_zero, add_sub_cancel]
  have hpos : (0 : Rat) < 2 ^ (1 - (biasOf ty : Int) - fracBits ty) := by positivity
  obtain ⟨-, he, -⟩ := fin_bounds h
  rw [hlow]
  constructor
  · intro hm
    have hexp : e = 1 - (biasOf ty : Int) - fracBits ty := by
      simp only [fvOf] at h
      split_ifs at h
      · exact (FV.fin.inj h).2.2.symm
      · have := (FV.fin.inj h).2.1
        omega
    rw [hexp, mul_lt_mul_iff_left₀ hpos]
    exact_mod_cast hm
  · contrapose!
    intro hm
    have hm : (2 : Rat) ^ fracBits ty ≤ m := by exact_mod_cast hm
    exact mul_le_mul hm (zpow_le_zpow_right₀ one_le_two he) hpos.le (by positivity)

theorem classBit_fin {ty : Ty} (hty : isF ty = true) {x : Nat} {q : Rat} (h : ratOf (fvOf ty x) = some q) :
    let low := (2 : Rat) ^ (1 - (fmtTable ty).1)
    (q = 0 → classBit ty x = if fvNeg (fvOf ty x) then 3 else 4)
    ∧ (0 < q → classBit ty x = if q < low then 5 else 6) ∧ (q < 0 → classBit ty x = if -q < low then 2 else 1) := by
  obtain ⟨n, m, e, hv, rfl⟩ := exists_fin h
  have hsub := fraction_lt_iff hv
  rw [← fmtTable_bias hty, ← abs_signed (n := n)] at hsub
  dsimp only
  simp only [classBit, hv, fvNeg, hsub]
  refine ⟨fun h0 => if_pos (signed_eq_zero_iff.mp h0), fun hq => ?_, fun hq => ?_⟩
  · have hm : m ≠ 0 := mt signed_eq_zero_iff.mpr hq.ne'
    have hn : ¬ n = true := mt (signed_neg_iff (Nat.pos_of_ne_zero hm)).mpr hq.not_gt
    rw [abs_of_pos hq, if_neg hm, if_neg hn, if_neg hn]
  · have hm : m ≠ 0 := mt signed_eq_zero_iff.mpr hq.ne
    have hn : n = true := (signed_neg_iff (Nat.pos_of_ne_zero hm)).mp hq
    rw [abs_of_neg hq, if_neg hm, if_pos hn, if_pos hn]

/-- Settles O12: `pick`, `fcompare` and `classBit` by the kind of their operands. -/
theorem floatChoicesAndComparisons : Obligations.FloatChoicesAndComparisons := by
  unfold Obligations.FloatChoicesAndComparisons
  intro f
  refine ⟨?choices, fun hcc => ?comparison, ?classes⟩
  case choices =>
    refine ⟨fun e t => chosen true (a32 f t) (b32 f e t), fun e t => chosen false (a32 f t) (b32 f e t),
      runs_of_wordMap (fun _ => rfl) fun _ _ => rfl, runs_of_wordMap (fun _ => rfl) fun _ _ => rfl, fun e t => ?_⟩
    obtain ⟨hlt, hgt, hnx, hny, hnn, hz, hs⟩ := chosen_cases true (a32 f t) (b32 f e t)
    obtain ⟨hlt', hgt', hnx', hny', hnn', hz', hs'⟩ := chosen_cases false (a32 f t) (b32 f e t)
    exact ⟨fun h => ⟨hlt h, hlt' h⟩, fun h => ⟨hgt h, hgt' h⟩, fun ha hb => ⟨hnx ha hb, hnx' ha hb⟩,
      fun ha hb => ⟨hny ha hb, hny' ha hb⟩, fun ha hb => ⟨hnn ha hb, hnn' ha hb⟩, fun h => ⟨hz h, hz' h⟩,
      fun h ha => ⟨hs h ha, hs' h ha⟩⟩
  case comparison =>
    refine ⟨fun e t => (fcompare (f.opx.toNat % 8) (f.opx.getLsbD 3) (fA f t) (fB f e t)).1,
      fun e t => (fcompare (f.opx.toNat % 8) (f.opx.getLsbD 3) (fA f t) (fB f e t)).2,
      runs_of_wordMap (fun _ => rfl) fun _ _ => rfl, fun e t => ⟨fun ha hb => fcompare_of_not_nan ha hb hcc _, fun h => ?_⟩⟩
    simp only [fcompare_of_nan h, and_self]
  case classes =>
    refine ⟨fun t => classBit f.ty (a32 f t).toNat, runs_of_wordMap (fun _ => rfl) fun _ _ => rfl, fun t hty => ?_⟩
    refine ⟨fun h => ?_, fun h => ?_, fun h => ?_, fun x hx => classBit_fin hty hx⟩
    all_goals simp [classBit, h]

end Sys2Proof.Arithmetic
end

section
/-! Proofs for the family of arithmetic and functions: conversions that pack and unpack elements. -/

namespace Sys2Proof.Arithmetic

open Sys2Proof Sys2Proof.Machine Sys2Proof.Spec Sys2Proof.Laws Sys2Proof.Sheaves Sys2Proof.Numbers

/-! ### Codes fit their width (R94, R101) -/

section Codes
variable {ty : Ty} (hty : isF ty = true)

theorem signBit_add_lt (ty : Ty) (neg : Bool) {x : Nat} (hx : x < 2 ^ (tyBits ty - 1)) : signBit ty neg + x < 2 ^ tyBits ty := by
  have hbits : 2 ^ tyBits ty = 2 ^ (tyBits ty - 1) + 2 ^ (tyBits ty - 1) := by cases ty <;> rfl
  cases neg <;> simp only [signBit, if_true, Bool.false_eq_true, if_false] <;> omega

include hty

theorem maxCode_lt : maxCode ty < 2 ^ (tyBits ty - 1) := by
  revert hty
  cases ty <;> decide

theorem infCode_lt (neg : Bool) : infCode ty neg < 2 ^ tyBits ty := by
  refine signBit_add_lt ty neg ?_
  revert hty
  cases ty <;> decide

theorem nanCode_lt : nanCode ty < 2 ^ tyBits ty := by
  revert hty
  cases ty <;> decide

theorem overflow_code_lt (rm : Rm) (sat neg : Bool) : (overflow ty rm sat neg).code < 2 ^ tyBits ty := by
  have hmax := signBit_add_lt ty neg (maxCode_lt hty)
  by_cases h4 : ty = .e4m3
  · subst h4
    rw [overflow_e4m3]
    split
    · exact hmax
    · decide
  by_cases h2 : ty = .e2m1
  · subst h2
    exact hmax
  rw [overflow_hasInf h4 h2]
  split
  · exact infCode_lt hty neg
  · exact hmax

theorem specialCode_lt (sat : Bool) (v : FV) : (specialCode ty sat v).code < 2 ^ tyBits ty := by
  match v with
  | .nan =>
    rw [specialCode]
    split
    · exact Nat.two_pow_pos _
    · exact nanCode_lt hty
  | .inf neg =>
    rw [specialCode]
    split
    · exact infCode_lt hty neg
    · split
      next h =>
        obtain ⟨h4, -⟩ := Bool.and_eq_true_iff.mp h
        rw [beq_iff_eq.mp h4]
        decide
      next => exact signBit_add_lt ty neg (maxCode_lt hty)
  | .fin neg m e => exact signBit_add_lt ty neg (Nat.two_pow_pos _)

/-- A rounding that gives the Overflow table's code above the greatest finite code, and a finite code else, fits. -/
theorem finite_or_overflow_lt (rm : Rm) (sat neg : Bool) (x : Nat) (fl fl' : Reg) :
    (if maxCode ty < x then (⟨(overflow ty rm sat neg).code, fl⟩ : Rounded) else ⟨signBit ty neg + x, fl'⟩).code
      < 2 ^ tyBits ty := by
  split
  · exact overflow_code_lt hty rm sat neg
  · exact signBit_add_lt ty neg (by have := maxCode_lt hty; omega)

theorem roundTo_code_lt (rm : Rm) (sat : Bool) (v : FV) : (roundTo ty rm sat v).code < 2 ^ tyBits ty := by
  match v with
  | .fin neg (m + 1) e =>
    rw [roundTo, roundMag_eq]
    exact finite_or_overflow_lt hty ..
  | .fin neg 0 e => exact specialCode_lt hty sat _
  | .nan => exact specialCode_lt hty sat _
  | .inf neg => exact specialCode_lt hty sat _

theorem stochTo_code_lt (sat : Bool) (r : Nat) (v : FV) : (stochTo ty sat r v).code < 2 ^ tyBits ty := by
  match v with
  | .fin neg (m + 1) e =>
    rw [stochTo, stochMag_eq]
    exact finite_or_overflow_lt hty ..
  | .fin neg 0 e => exact specialCode_lt hty sat _
  | .nan => exact specialCode_lt hty sat _
  | .inf neg => exact specialCode_lt hty sat _

end Codes

theorem wrapN_cast (w : Nat) (z : Int) : (wrapN w z : Int) = z % 2 ^ w := by
  rw [wrapN, Int.toNat_of_nonneg (Int.emod_nonneg z (by positivity))]
  push_cast
  rfl

theorem wrapN_lt (w : Nat) (z : Int) : wrapN w z < 2 ^ w := by
  have h := Int.emod_lt_of_pos z (show (0 : Int) < 2 ^ w by positivity)
  rw [← wrapN_cast] at h
  exact_mod_cast h

/-! ### Packing (R100, R170, R171) -/

theorem packAll_element {w : Nat} {l : List Rounded} (h : ∀ r ∈ l, r.code < 2 ^ w) {i : Nat} (hi : i < l.length) :
    (packAll w l).code / 2 ^ (w * i) % 2 ^ w = l[i].code := by
  induction l generalizing i with
  | nil => exact absurd hi (Nat.not_lt_zero i)
  | cons r l ih =>
    have hr : r.code < 2 ^ w := h r List.mem_cons_self
    cases i with
    | zero => simp [packAll, Nat.mod_eq_of_lt hr]
    | succ i =>
      have hrest : (r.code + 2 ^ w * (packAll w l).code) / 2 ^ w = (packAll w l).code := by
        rw [Nat.add_mul_div_left _ _ (Nat.two_pow_pos w), Nat.div_eq_of_lt hr, Nat.zero_add]
      rw [packAll, Nat.mul_succ, Nat.add_comm (w * i), Nat.pow_add, ← Nat.div_div_eq_div_mul, hrest]
      exact ih (fun r hr => h r (List.mem_cons_of_mem _ hr)) (Nat.lt_of_succ_lt_succ hi)

theorem packAll_flags (w : Nat) (l : List Rounded) : (packAll w l).flags = (l.map (·.flags)).foldl (· ||| ·) 0 := by
  rw [List.foldl_eq_foldr]
  induction l with
  | nil => rfl
  | cons r l ih => rw [packAll, ih, List.map_cons, List.foldr_cons]

/-- Codes of `w` bits packed from the low end stand each in its bits, with the union of their flags. -/
theorem packAll_range {w : Nat} {g : Nat → Rounded} (h : ∀ i, (g i).code < 2 ^ w) (n : Nat) :
    (∀ i, i < n → (packAll w ((List.range n).map g)).code / 2 ^ (w * i) % 2 ^ w = (g i).code)
      ∧ (packAll w ((List.range n).map g)).flags = ((List.range n).map fun i => (g i).flags).foldl (· ||| ·) 0 := by
  refine ⟨fun i hi => ?_, by rw [packAll_flags, List.map_map]; rfl⟩
  rw [packAll_element (fun r hr => ?_) (by simpa using hi)]
  · simp
  · obtain ⟨j, -, rfl⟩ := List.mem_map.mp hr
    exact h j

/-- A flag that some element of a list raises. -/
theorem foldl_or_ite {α : Type} (l : List α) (p : α → Prop) [DecidablePred p] (c : Reg) :
    (l.map fun x => if p x then 0 else c).foldl (· ||| ·) 0 = if ∀ x ∈ l, p x then 0 else c := by
  rw [List.foldl_eq_foldr]
  induction l with
  | nil => simp
  | cons x l ih =>
    rw [List.map_cons, List.foldr_cons, ih]
    by_cases hx : p x
    · simp [hx]
    · rw [if_neg hx, if_neg (show ¬ ∀ y ∈ x :: l, p y from fun h => hx (h x List.mem_cons_self))]
      split
      · exact BitVec.or_zero
      · exact BitVec.or_self

theorem clamp_eq_self_iff (ty : Ty) (z : Int) : max (tyMin ty) (min (tyMax ty) z) = z ↔ tyMin ty ≤ z ∧ z ≤ tyMax ty := by
  have h := tyMin_le_tyMax ty
  omega

theorem cvtpkElem_float {f : Full} (hf : isF f.ty = true) (t : Thread) (i : Nat) :
    cvtpkElem f t i = roundTo f.ty f.rm f.sat (fvOf .f32 (readV t (f.a.toNat + i)).toNat) := if_pos hf

theorem cvtpkElem_int {f : Full} (hf : isF f.ty = false) (t : Thread) (i : Nat) :
    let x : Int := (readV t (f.a.toNat + i)).toInt
    cvtpkElem f t i = ⟨wrapN (tyBits f.ty) (max (tyMin f.ty) (min (tyMax f.ty) x)),
      if tyMin f.ty ≤ x ∧ x ≤ tyMax f.ty then 0 else 0x20⟩ := by
  simp only [cvtpkElem, hf, Bool.false_eq_true, if_false, intOf_s32, narrow_sat, clamp_eq_self_iff]

theorem cvtpkElem_code_lt (f : Full) (t : Thread) (i : Nat) : (cvtpkElem f t i).code < 2 ^ tyBits f.ty := by
  cases hf : isF f.ty
  · rw [cvtpkElem_int hf]
    exact wrapN_lt _ _
  · rw [cvtpkElem_float hf]
    exact roundTo_code_lt hf ..

/-- What CVTPK writes. -/
def packed (f : Full) (t : Thread) : Rounded := packAll (tyBits f.ty) ((List.range (32 / tyBits f.ty)).map (cvtpkElem f t))

theorem runs_cvtpk (f : Full) : Runs (.cvtpk f) fun _ t => .ok (withFlags t f.d.toNat (packed f t).code (packed f t).flags) :=
  runs_of_wordMap (fun _ => rfl) fun _ _ => rfl

/-- Its elements and flags. -/
theorem packed_elements (f : Full) (t : Thread) :
    (∀ i, i < 32 / tyBits f.ty → (packed f t).code / 2 ^ (tyBits f.ty * i) % 2 ^ tyBits f.ty = (cvtpkElem f t i).code)
      ∧ (packed f t).flags = ((List.range (32 / tyBits f.ty)).map fun i => (cvtpkElem f t i).flags).foldl (· ||| ·) 0 :=
  packAll_range (cvtpkElem_code_lt f t) _

/-! ### Unpacking (R171) -/

/-- An integer element of a register fills its own by its sign. -/
theorem upElem_int {src : Ty} (x : Reg) (i : Nat) : upElem src .s32 (elemAt (tyBits src) x.toNat i) =
    let y := x.extractLsb' (tyBits src * i) (tyBits src)
    if isSigned src then y.signExtend 32 else y.setWidth 32 := by
  have hy : elemAt (tyBits src) x.toNat i = (x.extractLsb' (tyBits src * i) (tyBits src)).toNat := by
    rw [BitVec.extractLsb'_toNat, Nat.shiftRight_eq_div_pow, elemAt]
  rw [hy, upElem, if_neg (by decide), ofNat_wrapN, Words.intOf_bits rfl, apply_ite (BitVec.ofInt 32), BitVec.ofInt_natCast,
    BitVec.ofNat_toNat]
  rfl

theorem le_top_f32 {k m : Nat} {e : Int} (hk : k ≤ 23) (hm : m < 2 ^ (k + 1)) (he : e + k ≤ 127) :
    (m : Rat) * 2 ^ e ≤ (fmtTable .f32).2.2 := by
  have hfrac : m * 2 ^ (23 - k) ≤ 2 ^ 24 - 1 := by
    have hlt : m * 2 ^ (23 - k) < 2 ^ (k + 1) * 2 ^ (23 - k) := Nat.mul_lt_mul_of_pos_right hm (Nat.two_pow_pos _)
    rw [← Nat.pow_add, show k + 1 + (23 - k) = 24 by omega] at hlt
    omega
  calc (m : Rat) * 2 ^ e = (m * 2 ^ (23 - k) : Nat) * 2 ^ (e - (23 - k : Nat)) := by
        rw [Nat.cast_mul, Nat.cast_pow, Nat.cast_ofNat, ← zpow_natCast, mul_assoc, ← zpow_add₀ two_ne_zero, add_sub_cancel]
    _ ≤ ((2 ^ 24 - 1 : Nat) : Rat) * 2 ^ (104 : Int) :=
        mul_le_mul (by exact_mod_cast hfrac) (zpow_le_zpow_right₀ one_le_two (by omega)) (by positivity) (by positivity)
    _ = (fmtTable .f32).2.2 := by norm_num [fmtTable]

/-- FP32 holds what has its precision and its range. -/
theorem roundTo_f32_exact {k m : Nat} {e : Int} (hk : k ≤ 23) (hm : m < 2 ^ (k + 1)) (he : -149 ≤ e) (he' : e + k ≤ 127) (rm : Rm)
    (neg : Bool) : ratOf (fvOf .f32 (roundTo .f32 rm false (.fin neg m e)).code) = ratOf (.fin neg m e) := by
  rcases Nat.eq_zero_or_pos m with rfl | hpos
  · have hzero : magVal .f32 0 = 0 := by simp [magVal]
    have hcode := ratOf_code (ty := .f32) rfl neg (Nat.zero_le _)
    rw [hzero, mul_zero] at hcode
    exact hcode.trans (ratOf_zero_iff.mpr rfl).symm
  · have hm' : m < 2 ^ 24 := hm.trans_le (Nat.pow_le_pow_right two_pos (by omega))
    have h := isRound_representable hpos hm' he (le_top_f32 hk hm he') (isRound_roundMag rfl rm false neg hpos e)
    rw [roundTo_of_pos hpos, h.1, ratOf_fin, mul_assoc]

/-- The greatest exponent field of a format with infinities is theirs (R94). -/
theorem fin_exp_lt {ty : Ty} (hinf : hasInf ty = true) {x : Nat} {n : Bool} {m : Nat} {e : Int} (h : fvOf ty x = .fin n m e) :
    e + 1 < (2 ^ expBits ty : Nat) - biasOf ty - fracBits ty := by
  have hex : x / 2 ^ fracBits ty % 2 ^ expBits ty < 2 ^ expBits ty := Nat.mod_lt _ (by positivity)
  have htwo : 4 ≤ 2 ^ expBits ty := by cases ty <;> decide
  simp only [fvOf, hinf, Bool.true_and, beq_iff_eq] at h
  split at h
  · split at h <;> cases h
  · split at h
    · cases h
    · split at h
      all_goals
        obtain ⟨-, -, rfl⟩ := FV.fin.inj h
        omega

/-- The finite values of an element narrower than FP32 have its precision and its range. -/
theorem elemVal_bounds {src : Ty} (hw : tyBits src < 32) (hf : isF src = true ∨ src = .e8m0) {x : Nat} {neg : Bool} {m : Nat} {e : Int}
    (h : elemVal src x = .fin neg m e) : ∃ k : Nat, k ≤ 23 ∧ m < 2 ^ (k + 1) ∧ -149 ≤ e ∧ e + k ≤ 127 := by
  rcases hf with hf | rfl
  · rw [elemVal_of_isF hf] at h
    obtain ⟨hm, hlo, hhi⟩ := fin_bounds h
    have hfmt : fracBits src ≤ 23 ∧ -149 ≤ 1 - (biasOf src : Int) - fracBits src
        ∧ (2 ^ expBits src : Nat) - (biasOf src : Int) ≤ if hasInf src then 129 else 128 := by
      revert hw hf
      cases src <;> decide
    obtain ⟨hfrac, hbias, hexp⟩ := hfmt
    refine ⟨fracBits src, hfrac, hm, hbias.trans hlo, ?_⟩
    split at hexp
    next hinf =>
      have := fin_exp_lt hinf h
      omega
    next => omega
  · by_cases hx : x % 256 = 255
    · simp [elemVal, hx] at h
    · simp only [elemVal, beq_self_eq_true, if_true, hx, if_false] at h
      obtain ⟨-, rfl, rfl⟩ := FV.fin.inj h
      exact ⟨0, by omega, by omega, by omega, by omega⟩

/-- Unpacking a float element is exact. -/
theorem upElem_float {src : Ty} (hw : tyBits src < 32) (hf : isF src = true ∨ src = .e8m0) {x : Nat} {q : Rat}
    (h : ratOf (elemVal src x) = some q) : ratOf (fvOf .f32 (upElem src .f32 x).toNat) = some q := by
  obtain ⟨neg, m, e, hv, -⟩ := exists_fin h
  obtain ⟨k, hk, hm, he, he'⟩ := elemVal_bounds hw hf hv
  have hcode : (roundTo .f32 .rne false (elemVal src x)).code < 2 ^ 32 := roundTo_code_lt rfl ..
  rw [upElem, if_pos (beq_self_eq_true _), BitVec.toNat_ofNat, Nat.mod_eq_of_lt hcode, hv, roundTo_f32_exact hk hm he he', ← hv, h]

/-- Settles O15: the packing words by `packAll_range`, the unpacking one element by element. -/
theorem packingConversionsActByElement : Obligations.PackingConversionsActByElement := by
  unfold Obligations.PackingConversionsActByElement
  intro f w n
  refine ⟨runs_of_wordMap (fun _ => rfl) fun _ _ => rfl, fun hf _ => ?floats, fun hf _ => ?stochastic, fun hty _ => ?integers,
    fun src hsrc hopx hty hw hi => runs_of_wordMap (fun _ => rfl) fun e t => ?upInt, fun src hsrc hopx hty hw hf => ?upFloat⟩
  case floats =>
    refine ⟨fun t => (packed f t).code, fun t => (packed f t).flags, runs_cvtpk f, fun t => ?_⟩
    simp only [← cvtpkElem_float hf]
    exact packed_elements f t
  case stochastic =>
    exact ⟨_, _, runs_of_wordMap (fun _ => rfl) fun _ _ => rfl, fun t => packAll_range (fun i => stochTo_code_lt hf ..) n⟩
  case integers =>
    have hf : isF f.ty = false := by
      revert hty
      cases f.ty <;> decide
    refine ⟨fun t => (packed f t).code, fun t => (packed f t).flags, runs_cvtpk f, fun t => ?_⟩
    dsimp only
    obtain ⟨hcode, hflags⟩ := packed_elements f t
    rw [← tyMin_eq_pow, ← tyMax_eq_pow]
    refine ⟨fun i hi => ?_, ?_⟩
    · rw [hcode i hi, cvtpkElem_int hf]
      exact wrapN_cast _ _
    · simp only [hflags, cvtpkElem_int hf, foldl_or_ite, List.mem_range, n, w]
  case upInt =>
    simp only [cvtupWord, srcTy_eq hsrc hopx, hty, upElem_int]
    rfl
  case upFloat =>
    refine ⟨fun t i => upElem src .f32 (elem src (a32 f t) i), runs_of_wordMap (fun _ => rfl) fun e t => ?_,
      fun t i x _ hx => upElem_float hw hf hx⟩
    simp only [cvtupWord, srcTy_eq hsrc hopx, hty]
    rfl

end Sys2Proof.Arithmetic
end

section
/-! Proofs for the family of arithmetic and functions: the counting filter and the activation table at issue. -/

namespace Sys2Proof.Arithmetic

open Sys2Proof Sys2Proof.Machine Sys2Proof.Spec Sys2Proof.Laws Sys2Proof.Scope Sys2Proof.Sheaves

/-! ### A word with one taker (R32) -/

theorem addFlag_eq (t : Thread) (fl : Option Nat) : addFlag t fl = { t with flags := raised fl t.flags } := by cases fl <;> rfl

theorem wordDone_id (is : Issue) (t : Thread) : (wordDone is t).id = t.id := by
  unfold wordDone
  split <;> rfl

theorem taken_of_alone {e : Env} {i : Instr} {t : Thread} (ha : Alone e i t) : takesWord e i t = true ∧ legalHere e i t = true := by
  obtain ⟨hone, -, huniq, -⟩ := ha
  have hmem : t.id.slot ∈ takers e i := by rw [hone]; exact List.mem_singleton_self _
  obtain ⟨u, hu, hs⟩ := List.mem_map.mp (mem_sortBy.mp hmem)
  obtain ⟨hu, hw⟩ := List.mem_filter.mp hu
  rw [← huniq u hu hs]
  exact Bool.and_eq_true_iff.mp hw

/-- A word that acts in each thread alone puts its one taker's thread in its slot. -/
theorem wordMap_alone {s : State} {e : Env} {i : Instr} {t u : Thread} {f : Env → Thread → TRes} (he : s.env = some e)
    (ha : Alone e i t) (hf : f e t = .ok u) (hid : u.id = t.id) : wordMap i f s = s.withThread e.c (wordDone e.is u) := by
  obtain ⟨-, hc, hk, -⟩ := env_spec he
  obtain ⟨htakes, hlegal⟩ := taken_of_alone ha
  have hslot : (wordDone e.is u).id.slot = t.id.slot := by rw [wordDone_id, hid]
  have hmap : e.k.threads.map (runThread e i f) = putThread e.k.threads (wordDone e.is u) := by
    refine List.map_congr_left fun v hv => ?_
    by_cases hvt : v = t
    · rw [hvt, hslot, if_pos (beq_self_eq_true _), runThread, if_pos htakes, if_pos hlegal, hf]
      rfl
    · have hother : v.id.slot ≠ t.id.slot := fun h => hvt (ha.2.2.1 v hv h)
      rw [hslot, if_neg (by simpa using hother), runThread, if_neg fun hw => hvt (eq_of_alone ha hv hw)]
  have hput : s.withThread e.c (wordDone e.is u) = s.withCore e.c { e.k with threads := putThread e.k.threads (wordDone e.is u) } := by
    rw [hc, hk]
    rfl
  rw [hput, ← hmap]
  simp only [wordMap, he]

/-! ### The rows of a filter (R206, R207) -/

/-- The multipliers of the hashes are those of R206. -/
theorem hashMul_eq {r : Nat} (hr : r < 4) : hashMul r = [0x9E3779B1, 0x85EBCA77, 0xC2B2AE3D, 0x27D4EB2F].getD r 0 := by
  obtain rfl | rfl | rfl | rfl : r = 0 ∨ r = 1 ∨ r = 2 ∨ r = 3 := by omega
  all_goals rfl

theorem counterOff_eq {r : Nat} (hr : r < 4) (key : Nat) : counterOff r key =
    0x2000 * r + 2 * (key * [0x9E3779B1, 0x85EBCA77, 0xC2B2AE3D, 0x27D4EB2F].getD r 0 % 2 ^ 32 / 2 ^ 20) := by
  rw [counterOff, filterHash, hashMul_eq hr]

/-- What an access meets where its address alone decides (R345). -/
def checkedOf : Addr → Checked
  | .bad c => .trap c 0
  | .good p w => .at_ p w

/-- Without a watchpoint on a row the bounds and the alignment of the whole filter decide. -/
theorem checkFilter_of_unwatched {e : Env} {t : Thread} {a : Reg} {key : Nat} {store : Bool}
    (h : ∀ r < 4, watchAt e t (a + BitVec.ofNat 32 (counterOff r key)) 2 true store = none) :
    checkFilter e t a key store = checkedOf (checkLocal e.s e.c a 32768 256) := by
  have hnone : ((List.range 4).find? fun n => (List.range 4).any fun r =>
      watchAt e t (a + BitVec.ofNat 32 (counterOff r key)) 2 true store == some n) = none := by
    rw [List.find?_range_eq_none]
    intro n _
    rw [Bool.not_eq_true', List.any_eq_false]
    intro r hr
    rw [h r (List.mem_range.mp hr)]
    simp
  simp only [checkFilter, hnone, filterBytes]
  cases checkLocal e.s e.c a 32768 256 <;> rfl

/-! ### The clear of a filter (R207, log entry 70) -/

/-- Nothing that a thread without a tiller does is held. -/
theorem heldFor_of_no_tiller {t : Thread} (h : runsTiller t = false) (out : Thread → Bool) : heldFor out t = [] := by
  unfold heldFor
  split
  · rfl
  · rw [List.filterMap_eq_nil_iff]
    intro y hy
    have hy := List.any_eq_false.mp h y (List.mem_of_mem_filter hy)
    simpa using hy

/-- The thread takes the word, and its clear is not discarded. -/
def clears (f : Full) (e : Env) (u : Thread) : Bool :=
  takesWord e (.cntfClr f) u && legalHere e (.cntfClr f) u && (!isDetached u || inOutBuf u (a32 f u) 32768)

/-- A lower slot clears the base of `t`. -/
def clearedBelow (f : Full) (e : Env) (t : Thread) : Bool :=
  e.k.threads.any fun u => decide (u.id.slot < t.id.slot) && clears f e u && a32 f u == a32 f t

theorem cntfClrWord_bad {f : Full} {e : Env} {t : Thread} {c : Cause} (hchk : checkLocal e.s e.c (a32 f t) 32768 256 = .bad c) :
    cntfClrWord f e t = .trap c 0 ((a32 f t).setWidth 64) := by
  have hchk : checkLocal e.s e.c (readV t f.a.toNat) filterBytes 256 = .bad c := hchk
  simp only [cntfClrWord, hchk]
  rfl

section Clear
variable {f : Full} {e : Env} (hn : noTillers e) {t : Thread} (ht : t ∈ e.k.threads)
include hn ht

theorem clrActs_eq {p : Nat} {w : Path} (hchk : checkLocal e.s e.c (a32 f t) 32768 256 = .good p w) : clrActs f e t = clears f e t := by
  have hchk : checkLocal e.s e.c (readV t f.a.toNat) filterBytes 256 = .good p w := hchk
  simp only [clrActs, hchk, heldFor_of_no_tiller (hn t ht), List.isEmpty_nil, Bool.and_true]
  rfl

omit ht in
theorem clrDone_eq {p : Nat} {w : Path} (hchk : checkLocal e.s e.c (a32 f t) 32768 256 = .good p w) :
    clrDone f e t = clearedBelow f e t := by
  rw [Bool.eq_iff_iff, clrDone, clearedBelow, List.any_eq_true, List.any_eq_true]
  refine exists_congr fun u => and_congr_right fun hu => ?_
  by_cases hbase : a32 f u = a32 f t
  · rw [clrActs_eq hn hu (hbase ▸ hchk)]
    rfl
  · have hbase' : (readV u f.a.toNat == readV t f.a.toNat) = false := beq_eq_false_iff_ne.mpr hbase
    rw [hbase', beq_eq_false_iff_ne.mpr hbase, Bool.and_false, Bool.and_false]

theorem cntfClrWord_good {p : Nat} {w : Path} (hchk : checkLocal e.s e.c (a32 f t) 32768 256 = .good p w) : cntfClrWord f e t =
    if clears f e t then .ok (queued e t 0 (.store 0) p (if !clearedBelow f e t then 32768 else 0) w false false none) else .ok t := by
  have hchk' : checkLocal e.s e.c (readV t f.a.toNat) filterBytes 256 = .good p w := hchk
  simp only [cntfClrWord, hchk', clrActs_eq hn ht hchk, clrDone_eq hn hchk, clrAccess, accId, Nat.mul_comm e.ck.cyc]
  cases clearedBelow f e t <;> rfl

end Clear

/-! ### The activation table (R179, R180) -/

theorem tableLoads_iff (k : Core) : tableLoads k = true ↔
    ∃ u ∈ k.threads, (∃ a ∈ u.acc, ∃ l, a.kind = .tblld l) ∨ ∃ r ∈ u.res, r.table ≠ none := by
  simp only [tableLoads, List.any_eq_true, Bool.or_eq_true, Option.isSome_iff_ne_none]
  refine exists_congr fun u => and_congr_right fun _ => or_congr_left (exists_congr fun a => and_congr_right fun _ => ?_)
  cases a.kind <;> simp

/-- The one thread of a TBLLD is the one that loads. -/
theorem loadTakers_alone {f : Full} {e : Env} {t : Thread} (ha : Alone e (.tblld f) t) {p : Nat} {w : Path}
    (hchk : checkAccOwn e t (a32 f t) 4112 16 true false = .at_ p w) : loadTakers f e = [t.id.slot] := by
  rw [← ha.1, loadTakers, takers]
  congr 2
  refine List.filter_congr fun u hu => ?_
  cases hw : takesWord e (.tblld f) u
  · rfl
  · rw [eq_of_alone ha hu hw, imageBytes, show checkAccOwn e t (readV t f.a.toNat) 4112 16 true false = .at_ p w from hchk,
      Bool.and_true]

theorem exec_tblld_alone {f : Full} {s : State} {e : Env} {t : Thread} (he : s.env = some e) (ha : Alone e (.tblld f) t)
    {p : Nat} {w : Path} (hchk : checkAccOwn e t (a32 f t) 4112 16 true false = .at_ p w) : exec (.tblld f) s =
      .next ((s.withThread e.c (wordDone e.is (queued e t 0 (.tblld [t.id.slot]) p 4112 w false false (flagFor e f)))).modCore e.c
        fun k => { k with portBusy := e.ck.cyc + 6 }) := by
  obtain ⟨-, hc, -, -⟩ := env_spec he
  have hload := loadTakers_alone ha hchk
  have hword : tblldWord f e t = .ok (queued e t 0 (.tblld [t.id.slot]) p 4112 w false false (flagFor e f)) := by
    have hchk : checkAccOwn e t (readV t f.a.toNat) imageBytes 16 true false = .at_ p w := hchk
    simp only [tblldWord, hchk, hload, List.head?_cons, if_true, queued_eq, flagFor_eq]
    rfl
  have hexec : exec (.tblld f) s = execTblld f s := rfl
  simp only [hexec, execTblld, he, wordMap_alone he ha hword rfl, hload, hc]
  rfl

theorem exec_tblsw_held {f : Full} {s : State} {e : Env} (he : s.env = some e) (hloads : tableLoads e.k = true) {t : Thread}
    (ht : t ∈ e.k.threads) (htakes : takesWord e (.tblsw f) t = true) : exec (.tblsw f) s = .next s := by
  have hany : e.k.threads.any (takesWord e (.tblsw f)) = true := List.any_eq_true.mpr ⟨t, ht, htakes⟩
  have hexec : exec (.tblsw f) s = execTblsw f s := rfl
  simp only [hexec, execTblsw, he, tableHeld, hany, hloads, Bool.true_or, Bool.and_self, if_true]

theorem exec_tblsw_acts {f : Full} {s : State} {e : Env} (he : s.env = some e) (hloads : tableLoads e.k = false)
    (hcyc : e.ck.cyc ≠ e.k.portBusy + 5) {t : Thread} (ht : t ∈ e.k.threads) (htakes : takesWord e (.tblsw f) t = true)
    (hlegal : legalHere e (.tblsw f) t = true) :
    exec (.tblsw f) s = .next ((after e (.tblsw f) (fun _ u => .ok u) s).modCore e.c fun k => { k with act := !k.act }) := by
  obtain ⟨-, hc, -, -⟩ := env_spec he
  have hany : (e.k.threads.any fun u => takesWord e (.tblsw f) u && legalHere e (.tblsw f) u) = true :=
    List.any_eq_true.mpr ⟨t, ht, by rw [htakes, hlegal]; rfl⟩
  have hexec : exec (.tblsw f) s = execTblsw f s := rfl
  simp only [hexec, execTblsw, he, tableHeld, hloads, beq_eq_false_iff_ne.mpr hcyc, Bool.and_false, Bool.false_and, Bool.or_self,
    Bool.false_eq_true, if_false, hany, if_true, wordMap_spec he, hc]
  rfl

/-- Settles O26: the rows and the clear of a thread access by access, TBLLD by its one taker, TBLSW by `tableLoads`. -/
theorem filterAndTableWordsAct : Obligations.FilterAndTableWordsAct := by
  unfold Obligations.FilterAndTableWordsAct
  refine ⟨fun f => ?filter, fun f s e t p w he _ => ⟨fun ha hchk => exec_tblld_alone he ha hchk, fun htakes ht => ?switch⟩⟩
  case filter =>
    intro slot rows word clears
    have hrows (add : Bool) (e : Env) (t : Thread) (p : Nat) (w : Path) : rowAccesses f add e t p w = rows add e t p w := by
      refine List.map_congr_left fun r hr => ?_
      rw [counterOff_eq (List.mem_range.mp hr)]
      simp only [accId, field, flagFor_eq, Nat.mul_comm e.ck.cyc, pow_zero, Nat.div_one]
      rfl
    have hword (add : Bool) (e : Env) (t : Thread) : cntfWord f add e t = word add e t := by
      simp only [cntfWord, hrows, addFlag_eq, flagFor_eq]
      rfl
    refine ⟨runs_of_wordMap (fun _ => rfl) (hword false), runsIf_of_wordMix (fun _ => rfl) fun e t _ => hword true e t, ?clear,
      fun e t a key store h => checkFilter_of_unwatched fun r hr => ?_⟩
    case clear =>
      intro s e he hn
      have hexec : exec (.cntfClr f) s = execCntfClr f s := rfl
      rw [hexec, execCntfClr, wordMix_spec he hn]
      congr 1
      refine after_congr fun t ht => ?_
      cases hchk : checkLocal e.s e.c (a32 f t) 32768 256 with
      | bad c => exact cntfClrWord_bad hchk
      | good p w => exact cntfClrWord_good hn ht hchk
    · rw [counterOff_eq hr]
      exact h r hr
  case switch =>
    intro loading
    have hloads : tableLoads e.k = true ↔ loading := tableLoads_iff e.k
    refine ⟨fun h => exec_tblsw_held he (hloads.mpr h) ht htakes, fun h hcyc hlegal => exec_tblsw_acts he ?_ hcyc ht htakes hlegal⟩
    rw [← Bool.not_eq_true, hloads]
    exact h

end Sys2Proof.Arithmetic
end

section
/-! Proofs for the family of memory and waiting: loads, stores and atomics, barriers and tags, at issue. -/

namespace Sys2Proof.Waiting

open Sys2Proof Sys2Proof.Machine Sys2Proof.Spec Sys2Proof.Laws Sys2Proof.Integers

/-! ### Loads, stores and atomics (R184 to R186, R262) -/

theorem loadWord_eq (f : Full) (inv : Bool) (e : Env) (t : Thread) :
    loadWord f inv e t = accessAt e t (memAddr f e t) (tyBytes f.ty) (tyBytes f.ty) true false fun p w =>
      .ok (queued e t 0 (.load f.d.toNat (loadSext f.ty)) p (tyBytes f.ty) w inv false (flagFor e f)) := by
  simp only [← queued_eq]
  rfl

/-- A store joins its queue without a flag, a release with the posted writes that it waits for (R88). -/
theorem storeAcc_eq_queued (f : Full) (rel : Bool) (e : Env) (t : Thread) (p : Nat) (w : Path) :
    { t with acc := t.acc ++ [storeAcc f rel e t p w] } =
      queued e t 0 (.store (readT t f.ty f.d.toNat)) p (tyBytes f.ty) w false rel none := by
  simp only [storeAcc, queued, accId, Nat.mul_comm e.ck.cyc]
  rfl

theorem storeWord_eq (f : Full) (rel : Bool) (e : Env) (t : Thread) :
    storeWord f rel e t = accessAt e t (memAddr f e t) (tyBytes f.ty) (tyBytes f.ty) false true fun p w =>
      if isDetached t && !inOutBuf t (memAddr f e t) (tyBytes f.ty) then .ok t
      else .ok (queued e t 0 (.store (readT t f.ty f.d.toNat)) p (tyBytes f.ty) w false rel none) := by
  simp only [← storeAcc_eq_queued]
  rfl

theorem atomWord_eq (f : Full) (e : Env) (t : Thread) :
    atomWord f e t = accessAt e t (a32 f t) (tyBytes f.ty) (tyBytes f.ty) true true fun p w =>
      if isDetached t && !inOutBuf t (a32 f t) (tyBytes f.ty) then .ok t
      else .ok (queued e t 0 (.atom (opxN f % 8) f.ty (atomOperands f e t).1 (atomOperands f e t).2 f.d.toNat) p (tyBytes f.ty) w
        false false (flagFor e f)) := by
  simp only [← queued_eq]
  rfl

/-- The operand of an atomic: what CAS writes stands behind what it compares (R186). -/
theorem atomOperands_fst (f : Full) (e : Env) (t : Thread) : (atomOperands f e t).1 =
    if f.opx.toNat % 8 = 7 then
      (if tyBits f.ty = 64 then readPair t (f.b.toNat + 2) else (readV t (f.b.toNat + 1)).setWidth 64)
    else if tyBits f.ty = 64 then b64 f e t else (b32 f e t).setWidth 64 := by
  rw [atomOperands, opxN, readB_eq]
  split
  · split <;> rfl
  · rfl

/-- What CAS compares; the other atomics compare nothing. -/
theorem atomOperands_snd (f : Full) (e : Env) (t : Thread) : (atomOperands f e t).2 =
    if f.opx.toNat % 8 = 7 then
      (if tyBits f.ty = 64 then readPair t f.b.toNat else (readV t f.b.toNat).setWidth 64)
    else 0 := by
  rw [atomOperands, opxN]
  split
  · split <;> rfl
  · rfl

/-- Settles O24: each word by its meaning, the operands of an atomic by `atomOperands_fst` and `atomOperands_snd`. -/
theorem accessesJoinTheirQueue : Obligations.AccessesJoinTheirQueue := by
  unfold Obligations.AccessesJoinTheirQueue
  intro f
  refine ⟨?ld, ?ldI, ?st, ?stRel, ?atom⟩
  case ld => exact runs_of_wordMap (fun _ => rfl) (loadWord_eq f false)
  case ldI => exact runs_of_wordMap (fun _ => rfl) (loadWord_eq f true)
  case st => exact runsIf_of_wordMix (fun _ => rfl) fun e t _ => storeWord_eq f false e t
  case stRel => exact runsIf_of_wordMix (fun _ => rfl) fun e t _ => storeWord_eq f true e t
  case atom =>
    refine runsIf_of_wordMix (fun _ => rfl) fun e t _ => ?_
    rw [atomWord_eq, atomOperands_fst, atomOperands_snd]
    rfl

/-! ### Barrier words (R187 to R192, R262, R430) -/

/-- A barrier word queues its access once its object has been checked, and does nothing in a detached thread outside its
output buffer. -/
theorem barWord_eq (f : Full) (e : Env) (t : Thread) (push : Nat → Path → Thread) (out : Thread) :
    barWord f e t push out = accessAt e t (a32 f t) 16 16 true true fun p w =>
      if isDetached t && !inOutBuf t (a32 f t) 16 then .ok out else .ok (push p w) := rfl

/-- A waiting word queues its access and leaves its sheaf with it (R430). -/
theorem waitAccess_eq (e : Env) (t : Thread) (st : TState) (f : Full) (kind : AccKind) (p n : Nat) (w : Path) :
    waitAccess e t st f kind p n w = waiting e (queued e t 0 kind p n w false false none) .access st f.dsel.toNat f.d.toNat := by
  rw [waitAccess, waiting_eq, queued_eq]

theorem statusNow_withdrawn (e : Env) (t : Thread) (r : Nat) : statusNow e t r .withdrawn = status t r .withdrawn :=
  status_eq e t r .withdrawn (by decide)

/-- A token holds the phase in its lower half and the count of the arrival in its upper (R188). -/
theorem field_token (x : Quad) : field x.toNat 31 0 = x.toNat % 2 ^ 32 ∧ field x.toNat 63 32 = x.toNat / 2 ^ 32 := by
  simp only [field]
  omega

/-- A wait for a barrier names the phase and the count of its token (R188, R191). -/
theorem barWaitWord_eq (f : Full) (acq : Bool) (e : Env) (t : Thread) : barWaitWord f acq e t = barWord f e t (fun p w =>
    waiting e (queued e t 0 (.barWait ((readPair t f.b.toNat).toNat % 2 ^ 32) ((readPair t f.b.toNat).toNat / 2 ^ 32) acq) p 16 w
      false false none) .access .barrier f.dsel.toNat f.d.toNat) (status t f.d.toNat .withdrawn) := by
  obtain ⟨hlow, hhigh⟩ := field_token (readPair t f.b.toNat)
  simp only [barWaitWord, waitAccess_eq, statusNow_withdrawn, hlow, hhigh]

/-! ### SLOT words (R193, R194, R262, R430) -/

/-- A SLOT word meets BOUNDS before anything else, and does nothing in a detached thread. -/
theorem slotWord_eq (f : Full) (e : Env) (t : Thread) (bad : Bool) (push out : Thread) :
    slotWord f e t bad push out =
      if (a32 f t).toNat / 2 ^ 10 % 2 ^ 21 ≠ 0 ∨ ((a32 f t).getLsbD 31 && !partnerOpen e.s e.c) = true ∨ bad = true then
        .trap .bounds 0 ((a32 f t).setWidth 64)
      else if isDetached t then .ok out else .ok push := by
  have href : (tagRefBad e (a32 f t) || bad) = true ↔
      (a32 f t).toNat / 2 ^ 10 % 2 ^ 21 ≠ 0 ∨ ((a32 f t).getLsbD 31 && !partnerOpen e.s e.c) = true ∨ bad = true := by
    simp only [tagRefBad, field, Bool.or_eq_true, bne_iff_ne, or_assoc]
  simp only [← href]
  rfl

/-- A tag stands at its number among the 1,024 of its core. -/
theorem tagLoc_eq (e : Env) (a : Reg) : tagLoc e a =
    1024 * (if a.getLsbD 31 then (if e.c % 2 = 0 then e.c + 1 else e.c - 1) else e.c) + a.toNat % 2 ^ 10 := by
  simp only [tagLoc, partnerOf, field, pow_zero, Nat.div_one, Nat.mul_comm 1024]

theorem field_tag (a : Reg) : field a.toNat 9 0 = a.toNat % 2 ^ 10 := by simp only [field, pow_zero, Nat.div_one]

/-- Settles O28: the barrier words by `barWord_eq`, the SLOT words by `slotWord_eq`, their waits by `waitAccess_eq`. -/
theorem barrierAndSlotWordsQueueTheirAccess : Obligations.BarrierAndSlotWordsQueueTheirAccess := by
  unfold Obligations.BarrierAndSlotWordsQueueTheirAccess
  intro f
  refine ⟨?barInit, ?barArrive, ?barWait, ?barWaitAcq, ?barArwt, ?slotClaim, ?slotTake, ?slotFree⟩
  case barInit =>
    refine runsIf_of_wordMix (fun _ => rfl) fun e t _ => ?_
    simp only [barInitWord, queued_eq]
    exact barWord_eq ..
  case barArrive =>
    refine runsIf_of_wordMix (fun _ => rfl) fun e t _ => ?_
    simp only [barArriveWord, queued_eq, flagFor_eq]
    exact barWord_eq ..
  case barWait => exact runsOnIf_of_wordMix (fun _ => rfl) fun e t _ => (barWaitWord_eq f false e t).trans (barWord_eq ..)
  case barWaitAcq => exact runsOnIf_of_wordMix (fun _ => rfl) fun e t _ => (barWaitWord_eq f true e t).trans (barWord_eq ..)
  case barArwt =>
    refine runsOnIf_of_wordMix (fun _ => rfl) fun e t _ => ?_
    simp only [barArwtWord, waitAccess_eq, statusNow_withdrawn]
    exact barWord_eq ..
  case slotClaim =>
    refine runsOnIf_of_wordMix (fun _ => rfl) fun e t _ => ?_
    simp only [slotClaimWord, waitAccess_eq, statusNow_withdrawn, tagLoc_eq, field_tag]
    exact slotWord_eq ..
  case slotTake =>
    refine runsOnIf_of_wordMix (fun _ => rfl) fun e t _ => ?_
    simp only [slotTakeWord, waitAccess_eq, statusNow_withdrawn, tagLoc_eq, field_tag]
    exact slotWord_eq ..
  case slotFree =>
    refine runsIf_of_wordMix (fun _ => rfl) fun e t _ => ?_
    simp only [slotFreeWord, queued_eq, flagFor_eq, tagLoc_eq, field_tag]
    exact slotWord_eq ..

end Sys2Proof.Waiting
end

section
/-! Proofs for the family of memory and waiting: the words that issue an engine operation. -/

namespace Sys2Proof.Waiting

open Sys2Proof Sys2Proof.Machine Sys2Proof.Spec Sys2Proof.Laws Sys2Proof.Sheaves Sys2Proof.Words Sys2Proof.Arithmetic

/-! ### The thread in a slot -/

@[simp] theorem length_modCore (s : State) (c : Nat) (f : Core → Core) : (s.modCore c f).cores.length = s.cores.length := by
  rw [State.modCore, State.withCore, List.length_set]

/-- A slot that held a thread holds the one that has taken its place. -/
theorem threadAt_putThread {ts : List Thread} {t u : Thread} (h : threadAt ts u.id.slot = some t) :
    threadAt (putThread ts u) u.id.slot = some u := by
  have hslot : (fun v : Thread => (if v.id.slot == u.id.slot then u else v).id.slot == u.id.slot) = fun v => v.id.slot == u.id.slot := by
    funext v
    by_cases hv : v.id.slot = u.id.slot <;> simp [hv]
  have ht : t.id.slot = u.id.slot := by simpa using List.find?_some h
  rw [threadAt] at h
  rw [threadAt, putThread, List.find?_map, Function.comp_def, hslot, h, Option.map_some, if_pos (beq_iff_eq.mpr ht)]

theorem thread_withThread {s : State} {c : Nat} {t u : Thread} (hc : c < s.cores.length) (h : s.thread c u.id.slot = some t) :
    (s.withThread c u).thread c u.id.slot = some u := by
  rw [State.thread, State.withThread, core_modCore hc]
  exact threadAt_putThread h

/-! ### A new operation of a thread without a tiller (R68 to R72, R210) -/

/-- The slot that an operation takes: in use, and not ended. -/
def takenSlot (s : State) (t : Thread) (cls n q : Nat) : ESlot :=
  { cls := cls, slot := n, seq := q, used := true, launch := t.id.launch, op := s.nextOp, accepted := false, ended := none,
    endedAt := s.time, cause := .none, fva := 0, summary := 0, promise := none, pgf := 0, relOps := [], relPosts := [] }

@[simp] theorem takenSlot_seq (s : State) (t : Thread) (cls n q : Nat) : (takenSlot s t cls n q).seq = q := rfl
@[simp] theorem takenSlot_op (s : State) (t : Thread) (cls n q : Nat) : (takenSlot s t cls n q).op = s.nextOp := rfl
@[simp] theorem takenSlot_ended (s : State) (t : Thread) (cls n q : Nat) : (takenSlot s t cls n q).ended = none := rfl
@[simp] theorem takenSlot_launch (s : State) (t : Thread) (cls n q : Nat) : (takenSlot s t cls n q).launch = t.id.launch := rfl

/-- The core with that slot in the place of the one that had its number. -/
def takeSlot (x : ESlot) (k : Core) : Core := { k with es := x :: k.es.filter fun y => !(y.cls == x.cls && y.slot == x.slot) }

theorem eslotAt_takeSlot (x : ESlot) (k : Core) : eslotAt (takeSlot x k) x.cls x.slot = some x := by simp [eslotAt, takeSlot]

/-- The machine with the operation that asks `x`, in slot `n` at SEQ `q`. -/
def withOp (s : State) (c cyc : Nat) (t : Thread) (x : Ask) (n q : Nat) : State :=
  { s.modCore c (takeSlot (takenSlot s t x.cls n q)) with
    ops := s.ops ++ [freshOp s c cyc t x s.nextOp n q false], nextOp := s.nextOp + 1 }

@[simp] theorem withOp_ops (s : State) (c cyc : Nat) (t : Thread) (x : Ask) (n q : Nat) :
    (withOp s c cyc t x n q).ops = s.ops ++ [freshOp s c cyc t x s.nextOp n q false] := rfl
@[simp] theorem withOp_nextOp (s : State) (c cyc : Nat) (t : Thread) (x : Ask) (n q : Nat) :
    (withOp s c cyc t x n q).nextOp = s.nextOp + 1 := rfl
@[simp] theorem withOp_mem (s : State) (c cyc : Nat) (t : Thread) (x : Ask) (n q : Nat) : (withOp s c cyc t x n q).mem = s.mem := rfl
@[simp] theorem withOp_gran (s : State) (c cyc : Nat) (t : Thread) (x : Ask) (n q : Nat) : (withOp s c cyc t x n q).gran = s.gran := rfl
@[simp] theorem withOp_posted (s : State) (c cyc : Nat) (t : Thread) (x : Ask) (n q : Nat) :
    (withOp s c cyc t x n q).posted = s.posted := rfl

theorem newOp_of_free {s : State} {c n q : Nat} {x : Ask} (h : allocSlot (s.core c) x.cls = some (n, q)) (cyc : Nat) (t : Thread) :
    s.newOp c cyc t x false false = some (withOp s c cyc t x n q, s.nextOp, handleOf x.cls c n q) := by
  unfold State.newOp
  rw [h]
  rfl

theorem newOp_of_full {s : State} {c : Nat} {x : Ask} (h : allocSlot (s.core c) x.cls = none) (cyc : Nat) (t : Thread) :
    s.newOp c cyc t x false false = none := by
  unfold State.newOp
  rw [h]

/-- What the machine holds once a thread has issued an operation: the thread that the word leaves, and the slot taken. -/
theorem thread_withOp {s : State} {c : Nat} {t u : Thread} (x : Ask) (cyc n q : Nat) (hc : c < s.cores.length)
    (ht : s.thread c t.id.slot = some t) (hid : u.id = t.id) :
    ((withOp s c cyc t x n q).withThread c u).thread c t.id.slot = some u
      ∧ eslotAt (((withOp s c cyc t x n q).withThread c u).core c) x.cls n = some (takenSlot s t x.cls n q) := by
  have hlen : c < (withOp s c cyc t x n q).cores.length := by
    rw [withOp, length_modCore]
    exact hc
  have hcore : (withOp s c cyc t x n q).core c = takeSlot (takenSlot s t x.cls n q) (s.core c) := core_modCore hc
  have hthread : (withOp s c cyc t x n q).thread c t.id.slot = some t := by
    rw [State.thread, hcore]
    exact ht
  constructor
  · rw [← hid] at hthread ⊢
    exact thread_withThread hlen hthread
  · rw [State.withThread, core_modCore hlen, hcore]
    exact eslotAt_takeSlot (takenSlot s t x.cls n q) _

section Plain
variable {t : Thread} (hp : t.spec = .plain)
include hp

theorem isDetached_of_plain : isDetached t = false := by simp only [isDetached, hp]

theorem runsTiller_of_plain : runsTiller t = false := by simp [runsTiller, specs, hp]

theorem heldFor_of_plain (out : Thread → Bool) : heldFor out t = [] := heldFor_of_no_tiller (runsTiller_of_plain hp) out

variable {s : State} {e : Env} {d : Nat} {x : Ask} {out : Thread → Bool}

theorem issueOp_of_free {n q : Nat} (h : allocSlot (s.core e.c) x.cls = some (n, q)) : issueOp e t d x out s =
    (withOp s e.c e.ck.cyc t x n q).withThread e.c (wordDone e.is (issued t d x.cls s.nextOp (handleOf x.cls e.c n q) none)) := by
  simp only [issueOp, heldFor_of_plain hp, isDetached_of_plain hp, List.isEmpty_nil, Bool.not_true, Bool.false_and, newOp_of_free h]
  rfl

theorem issueOp_of_full (h : allocSlot (s.core e.c) x.cls = none) : issueOp e t d x out s =
    s.withThread e.c (park e.ck t .engineFull e.is.widx 0 (BitVec.ofNat 64 x.cls)) := by
  simp only [issueOp, heldFor_of_plain hp, isDetached_of_plain hp, List.isEmpty_nil, Bool.not_true, Bool.false_and, newOp_of_full h]
  rfl

/-- A word whose meaning asks for one operation of its thread issues it. -/
theorem issues_of_wordFold {i : Instr} {word : Env → Thread → State → State} {cls : Nat} {kind : OpKind} {rel : Bool}
    (he : s.env = some e) (hx : exec i s = .next (wordFold i word s))
    (hword : ∃ out, word e t s = issueOp e t d ⟨cls, kind, rel, [t.id.tid]⟩ out s) : Issues s e t i d cls kind rel := by
  intro ha
  obtain ⟨out, hword⟩ := hword
  obtain ⟨-, hk⟩ := env_clock_core he
  obtain ⟨-, hlen⟩ := env_issue he
  have ht : s.thread e.c t.id.slot = some t := by
    rw [State.thread, hk]
    exact ha.2.1
  rw [hx, wordFold_alone he ha, hword, ← hk]
  refine ⟨fun n q h => ?free, fun h => congrArg _ (issueOp_of_full hp h)⟩
  case free =>
    obtain ⟨hthread, hslot⟩ := thread_withOp ⟨cls, kind, rel, [t.id.tid]⟩ e.ck.cyc n q hlen ht
      (wordDone_id e.is (issued t d cls s.nextOp (handleOf cls e.c n q) none))
    refine ⟨_, freshOp s e.c e.ck.cyc t ⟨cls, kind, rel, [t.id.tid]⟩ s.nextOp n q false, takenSlot s t cls n q,
      congrArg _ (issueOp_of_free hp h), hthread, ?_⟩
    simpa [freshOp] using hslot

end Plain

/-! ### The engine words (R208 to R232) -/

/-- RATOM issues in a thread without a tiller: nothing is held that would suspend it (R92). -/
theorem ratomWord_of_plain {t : Thread} (hp : t.spec = .plain) (f : Full) (e : Env) (s : State) : ∃ out, ratomWord f e t s =
    issueOp e t f.d.toNat ⟨4, .ratom (opxN f % 8) f.ty (readPair t f.a.toNat).toNat (atomOperands f e t).1 (atomOperands f e t).2
      f.d.toNat, false, [t.id.tid]⟩ out s := by
  unfold ratomWord
  exact ⟨_, if_neg (by rw [heldFor_of_plain hp]; decide)⟩

/-- COUNT, ROWLEN and the reserved bits of the register V(b+1) of GATHER (R228). -/
theorem field_gather (c : Reg) : field c.toNat 15 0 = c.toNat % 2 ^ 16 ∧ field c.toNat 27 16 = c.toNat / 2 ^ 16 % 2 ^ 12
    ∧ (field c.toNat 31 28 != 0) = decide (c.toNat / 2 ^ 28 ≠ 0) := by
  have hhigh : field c.toNat 31 28 = c.toNat / 2 ^ 28 := by
    simp only [field]
    omega
  refine ⟨by simp [field], rfl, ?_⟩
  rw [hhigh, bne, beq_eq_decide, decide_not]

/-- Settles O32: each word asks for one operation of its thread, which `issues_of_wordFold` issues. -/
theorem engineWordsIssueOperations : Obligations.EngineWordsIssueOperations := by
  unfold Obligations.EngineWordsIssueOperations
  intro f s e t he hp
  refine ⟨?copyIn, ?copyOut, ?copyRel, ?ckick, ?wload, ?mma, ?gather, ?coll, ?ratom⟩
  -- Each meaning is unfolded first: what lies outside an output buffer is read off its text.
  case copyIn => exact issues_of_wordFold (word := copyWord f false) hp he rfl (by unfold copyWord; exact ⟨_, rfl⟩)
  case copyOut => exact issues_of_wordFold (word := copyWord f false) hp he rfl (by unfold copyWord; exact ⟨_, rfl⟩)
  case copyRel => exact issues_of_wordFold (word := copyWord f true) hp he rfl (by unfold copyWord; exact ⟨_, rfl⟩)
  case ckick => exact issues_of_wordFold (word := ckickWord f) hp he rfl (by unfold ckickWord; exact ⟨_, rfl⟩)
  case wload => exact issues_of_wordFold (word := wloadWord f) hp he rfl (by unfold wloadWord; exact ⟨_, rfl⟩)
  case mma => exact issues_of_wordFold (word := mmaWord f) hp he rfl (by unfold mmaWord; exact ⟨_, rfl⟩)
  case gather =>
    obtain ⟨hcount, hrowlen, hrsvd⟩ := field_gather (readV t (f.b.toNat + 1))
    simp only [← hcount, ← hrowlen, ← hrsvd]
    exact issues_of_wordFold (word := gatherWord f) hp he rfl (by unfold gatherWord; exact ⟨_, rfl⟩)
  case coll => exact issues_of_wordFold (word := collWord f) hp he rfl (by unfold collWord; exact ⟨_, rfl⟩)
  case ratom =>
    rw [← atomOperands_fst, ← atomOperands_snd]
    exact issues_of_wordFold (word := ratomWord f) hp he rfl (ratomWord_of_plain hp f e s)

end Sys2Proof.Waiting
end

section
/-! Proofs for the family of engine instructions: words that end in one thread after another. -/

namespace Sys2Proof.MatrixWords

open Sys2Proof Sys2Proof.Machine Sys2Proof.Spec Sys2Proof.Laws Sys2Proof.Sheaves Sys2Proof.Waiting

/-! ### A word ends in one thread after another -/

theorem threadAt_putThread_ne {u : Thread} {sl : Nat} (h : u.id.slot ≠ sl) (ts : List Thread) :
    threadAt (putThread ts u) sl = threadAt ts sl := by
  induction ts with
  | nil => rfl
  | cons v r ih =>
    by_cases hv : v.id.slot = u.id.slot
    · simpa [threadAt, putThread, hv, h] using ih
    · by_cases hs : v.id.slot = sl
      · simp [threadAt, putThread, hs, Ne.symm h]
      · simpa [threadAt, putThread, hv, hs] using ih

/-- The threads once those of a list have each been given their place. -/
def putAll (g : Thread → Thread) (l ts : List Thread) : List Thread := l.foldl (fun ts t => putThread ts (g t)) ts

section PutAll
variable {g : Thread → Thread} (hg : ∀ t, (g t).id = t.id)
include hg

theorem threadAt_putAll_other {sl : Nat} {l : List Thread} (h : ∀ t ∈ l, t.id.slot ≠ sl) (ts : List Thread) :
    threadAt (putAll g l ts) sl = threadAt ts sl := by
  induction l generalizing ts with
  | nil => rfl
  | cons t r ih =>
    obtain ⟨ht, hr⟩ := List.forall_mem_cons.mp h
    exact (ih hr _).trans (threadAt_putThread_ne (by rwa [hg]) ts)

theorem threadAt_putAll {l : List Thread} (hnd : (l.map (·.id.slot)).Nodup) {t : Thread} (ht : t ∈ l) {ts : List Thread}
    {u : Thread} (h : threadAt ts t.id.slot = some u) : threadAt (putAll g l ts) t.id.slot = some (g t) := by
  induction l generalizing ts with
  | nil => cases ht
  | cons v r ih =>
    rw [List.map_cons, List.nodup_cons] at hnd
    obtain ⟨hv, hr⟩ := hnd
    by_cases hs : v.id.slot = t.id.slot
    · have hother : ∀ w ∈ r, w.id.slot ≠ t.id.slot := fun w hw hws =>
        hv (List.mem_map.mpr ⟨w, hw, hws.trans hs.symm⟩)
      obtain rfl : t = v := (List.mem_cons.mp ht).resolve_right fun htr => hother t htr rfl
      refine (threadAt_putAll_other hg hother _).trans ?_
      rw [← hg t] at h ⊢
      exact threadAt_putThread h
    · refine ih hr ((List.mem_cons.mp ht).resolve_left fun htv => hs (by rw [htv])) ?_
      rwa [threadAt_putThread_ne (by rwa [hg])]

end PutAll

theorem allocSlot_congr {k l : Core} (h : k.es = l.es) (cls : Nat) : allocSlot k cls = allocSlot l cls := by
  unfold allocSlot
  rw [h]

/-- The machine with other threads on a core. -/
def withThreads (s : State) (c : Nat) (f : List Thread → List Thread) : State :=
  s.modCore c fun k => { k with threads := f k.threads }

section WithThreads
variable {s : State} {c : Nat} (f : List Thread → List Thread)

theorem core_withThreads (hc : c < s.cores.length) : (withThreads s c f).core c = { s.core c with threads := f (s.core c).threads } :=
  core_modCore hc

theorem length_withThreads : (withThreads s c f).cores.length = s.cores.length := length_modCore ..

theorem thread_withThreads (hc : c < s.cores.length) (sl : Nat) :
    (withThreads s c f).thread c sl = threadAt (f (s.core c).threads) sl := by
  rw [State.thread, core_withThreads f hc]

theorem allocSlot_withThreads (hc : c < s.cores.length) (cls : Nat) :
    allocSlot ((withThreads s c f).core c) cls = allocSlot (s.core c) cls :=
  allocSlot_congr (by rw [core_withThreads f hc]) cls

theorem team_withThreads (d : Nat) : ((withThreads s c f).core d).team = (s.core d).team := by
  by_cases hd : d = c
  · subst hd
    by_cases hc : d < s.cores.length
    · rw [core_withThreads f hc]
    · simp [withThreads, State.modCore, State.withCore, State.core, List.getD, hc]
  · rw [withThreads, State.modCore, State.core_withCore_ne _ _ _ _ hd]

theorem partnerOpen_withThreads : partnerOpen (withThreads s c f) c = partnerOpen s c := by
  simp only [partnerOpen, team_withThreads]

theorem withThreads_withThreads (g : List Thread → List Thread) (hc : c < s.cores.length) :
    withThreads (withThreads s c f) c g = withThreads s c (g ∘ f) := by
  conv => lhs; rw [withThreads, State.modCore, core_withThreads f hc]
  exact State.withCore_withCore ..

theorem foldl_endWordAt (e : Env) (r : Thread → TRes) (l : List Thread) (hc : e.c < s.cores.length) :
    l.foldl (fun s t => s.endWordAt e t (r t)) s = withThreads s e.c (putAll (fun t => endWord e t (r t)) l) := by
  induction l generalizing s with
  | nil => exact (State.withCore_core s e.c).symm
  | cons t q ih =>
    have hstep : s.endWordAt e t (r t) = withThreads s e.c (putThread · (endWord e t (r t))) := rfl
    rw [List.foldl_cons, hstep, ih (by rwa [withThreads, length_modCore]), withThreads_withThreads _ _ hc]
    rfl

end WithThreads

/-! ### The threads that take a word, in slot order -/

theorem perm_sortBy {α : Type} (le : α → α → Bool) (l : List α) : (sortBy le l).Perm l := by
  have hins (x : α) (l : List α) : (insertBy le x l).Perm (x :: l) := by
    induction l with
    | nil => exact .refl _
    | cons y r ih =>
      unfold insertBy
      split
      · exact .refl _
      · exact (ih.cons y).trans (.swap x y r)
  induction l with
  | nil => exact .refl _
  | cons x r ih => exact (hins x _).trans (ih.cons x)

/-- The threads in which the word is legal and acts, in slot order. -/
def takerThreads (e : Env) (i : Instr) : List Thread := (takers e i).filterMap (threadAt e.k.threads)

section Takers
variable {e : Env} {i : Instr}

theorem takerThreads_alone {t : Thread} (ha : Alone e i t) : takerThreads e i = [t] := by
  obtain ⟨hone, hat, -⟩ := ha
  simp [takerThreads, hone, hat]

variable (hnd : (e.k.threads.map (·.id.slot)).Nodup)
include hnd

theorem threadAt_of_mem {t : Thread} (ht : t ∈ e.k.threads) : threadAt e.k.threads t.id.slot = some t :=
  threadAt_of_unique ht fun _ hu hs => List.inj_on_of_nodup_map hnd hu ht hs

theorem mem_takerThreads {t : Thread} :
    t ∈ takerThreads e i ↔ t ∈ e.k.threads ∧ takesWord e i t = true ∧ legalHere e i t = true := by
  rw [takerThreads, List.mem_filterMap]
  constructor
  · rintro ⟨sl, hsl, hat⟩
    obtain ⟨u, hu, rfl⟩ := List.mem_map.mp (mem_sortBy.mp hsl)
    obtain ⟨hu, htakes⟩ := List.mem_filter.mp hu
    rw [threadAt_of_mem hnd hu] at hat
    obtain rfl := Option.some.inj hat
    exact ⟨hu, Bool.and_eq_true_iff.mp htakes⟩
  · rintro ⟨ht, htakes⟩
    exact ⟨_, mem_sortBy.mpr (List.mem_map_of_mem (List.mem_filter.mpr ⟨ht, Bool.and_eq_true_iff.mpr htakes⟩)),
      threadAt_of_mem hnd ht⟩

theorem nodup_takerThreads : ((takerThreads e i).map (·.id.slot)).Nodup := by
  have hslots (l : List Nat) : ((l.filterMap (threadAt e.k.threads)).map (·.id.slot)).Sublist l := by
    induction l with
    | nil => exact .slnil
    | cons sl r ih =>
      cases hat : threadAt e.k.threads sl with
      | none => rw [List.filterMap_cons_none hat]; exact ih.cons sl
      | some t =>
        have hs : t.id.slot = sl := by simpa using List.find?_some hat
        rw [List.filterMap_cons_some hat, List.map_cons, hs]
        exact ih.cons_cons sl
  exact (hslots _).nodup ((perm_sortBy _ _).nodup_iff.mpr ((List.filter_sublist.map _).nodup hnd))

end Takers

end Sys2Proof.MatrixWords
end

section
/-! Proofs for the family of engine instructions: MMA.r and MMAP, the matrix words of a sheaf. -/

namespace Sys2Proof.MatrixWords

open Sys2Proof Sys2Proof.Machine Sys2Proof.Spec Sys2Proof.Laws Sys2Proof.Sheaves Sys2Proof.Words Sys2Proof.Arithmetic Sys2Proof.Waiting

/-! ### The operation of a sheaf (R223 to R225) -/

/-- The rows that the issuer's operation takes, the latch after it, and whether the latched format differs (R225). -/
def rowsTaken (f : Full) (e : Env) (u : Thread) (rest : List Thread) : List (List Nat × List Nat) × Option Latch × Bool :=
  latchRows e.k.mx.latch f u (groupRows f ((readV u f.b.toNat).getLsbD 21) (u :: rest) u.id.width)

/-- What the word of a sheaf asks for: one operation for its active threads (R224). -/
def matrixAsk (f : Full) (paired : Bool) (s : State) (e : Env) (u : Thread) (rest : List Thread) : Ask :=
  ⟨1, .mma (mmaArgOf f true paired (paired && e.c % 2 == 0 && partnerOpen s e.c) u (rowsTaken f e u rest).1), false,
    (u :: rest).map (·.id.tid)⟩

/-- A latch of another format faults the operation: the cause goes to every operation of the number (R225). -/
def noteClash (bad : Bool) (id : Nat) (s : State) : State := if bad then s.modOp id fun o => { o with cause := .badFormat } else s

/-- The machine with the operation of the sheaf, in slot `n` at SEQ `q`, and the latch after it. -/
def withMatrixOp (f : Full) (paired : Bool) (s : State) (e : Env) (u : Thread) (rest : List Thread) (n q : Nat) : State :=
  noteClash (rowsTaken f e u rest).2.2 s.nextOp ((withOp s e.c e.ck.cyc u (matrixAsk f paired s e u rest) n q).modCore e.c fun k =>
    { k with mx := { k.mx with latch := (rowsTaken f e u rest).2.1 } })

@[simp] theorem hold_nil (s : State) (c : Nat) (items : List Held) : s.hold c [] items = s := rfl

section Issue
variable {f : Full} {paired : Bool} {s : State} {e : Env} {u : Thread} {rest : List Thread} (hp : u.spec = .plain)
include hp

theorem mmaIssue_of_free {n q : Nat} (h : allocSlot (s.core e.c) 1 = some (n, q)) :
    mmaIssue f paired e (u :: rest) s = (u :: rest).foldl
      (fun s' t => s'.endWordAt e t (.ok (issued t f.d.toNat 1 s.nextOp (handleOf 1 e.c n q) none)))
      (withMatrixOp f paired s e u rest n q) := by
  have hnew := newOp_of_free (x := matrixAsk f paired s e u rest) h e.ck.cyc u
  unfold matrixAsk rowsTaken at hnew
  unfold mmaIssue
  simp only [mmaSuspends, heldFor_of_plain hp, isDetached_of_plain hp, List.isEmpty_nil, Bool.not_true, Bool.false_and,
    Bool.false_eq_true, if_false, hnew, hold_nil, withMatrixOp, noteClash, rowsTaken, matrixAsk]
  rfl

theorem mmaIssue_of_full (h : allocSlot (s.core e.c) 1 = none) :
    mmaIssue f paired e (u :: rest) s = (u :: rest).foldl (fun s' t => s'.endWordAt e t (.trap .engineFull 0 1)) s := by
  have hnew := newOp_of_full (x := matrixAsk f paired s e u rest) h e.ck.cyc u
  unfold matrixAsk rowsTaken at hnew
  unfold mmaIssue
  simp only [mmaSuspends, heldFor_of_plain hp, isDetached_of_plain hp, List.isEmpty_nil, Bool.not_true, Bool.false_and,
    Bool.false_eq_true, if_false, hnew]

end Issue

/-! ### What the operation leaves (R224, R225) -/

/-- The operations once `o`, of number `id`, has issued: a latch of another format gives its cause to every operation of that
number (R225). -/
def opsAfter (bad : Bool) (id : Nat) (l : List Op) (o : Op) : List Op :=
  if bad then (l ++ [o]).map fun p => if p.id = id then { p with cause := .badFormat } else p else l ++ [o]

/-- Where no operation under way has the number yet, the cause is the new operation's alone. -/
theorem opsAfter_of_fresh {bad : Bool} {id : Nat} {l : List Op} {o : Op} (hl : ∀ p ∈ l, p.id ≠ id) (ho : o.id = id) :
    opsAfter bad id l o = l ++ [{ o with cause := if bad then .badFormat else o.cause }] := by
  have hkeep : (l.map fun p => if p.id = id then { p with cause := .badFormat } else p) = l :=
    (List.map_congr_left fun p hp => if_neg (hl p hp)).trans l.map_id
  cases bad with
  | false => rfl
  | true => simp [opsAfter, hkeep, ho]

section After
variable (f : Full) (paired : Bool) (s : State) (e : Env) (u : Thread) (rest : List Thread) (n q : Nat)

/-- The operation as it issues. -/
def matrixOp : Op := freshOp s e.c e.ck.cyc u (matrixAsk f paired s e u rest) s.nextOp n q false

@[simp] theorem noteClash_mem (bad : Bool) (id : Nat) : (noteClash bad id s).mem = s.mem := by cases bad <;> rfl
@[simp] theorem noteClash_cores (bad : Bool) (id : Nat) : (noteClash bad id s).cores = s.cores := by cases bad <;> rfl

theorem withMatrixOp_mem : (withMatrixOp f paired s e u rest n q).mem = s.mem := noteClash_mem ..

theorem withMatrixOp_ops : (withMatrixOp f paired s e u rest n q).ops =
    opsAfter (rowsTaken f e u rest).2.2 s.nextOp s.ops (matrixOp f paired s e u rest n q) := by
  cases hbad : (rowsTaken f e u rest).2.2 <;> rw [withMatrixOp, hbad] <;> rfl

theorem withMatrixOp_core (hc : e.c < s.cores.length) : (withMatrixOp f paired s e u rest n q).core e.c =
    { takeSlot (takenSlot s u 1 n q) (s.core e.c) with mx := { (s.core e.c).mx with latch := (rowsTaken f e u rest).2.1 } } := by
  have hlen : e.c < (withOp s e.c e.ck.cyc u (matrixAsk f paired s e u rest) n q).cores.length := by
    rw [withOp, length_modCore]
    exact hc
  have hcore : (withOp s e.c e.ck.cyc u (matrixAsk f paired s e u rest) n q).core e.c = takeSlot (takenSlot s u 1 n q) (s.core e.c) :=
    core_modCore hc
  rw [State.core, withMatrixOp, noteClash_cores, ← State.core, core_modCore hlen, hcore]
  rfl

theorem withMatrixOp_mx (hc : e.c < s.cores.length) : ((withMatrixOp f paired s e u rest n q).core e.c).mx =
    { (s.core e.c).mx with latch := (rowsTaken f e u rest).2.1 } := by
  rw [withMatrixOp_core f paired s e u rest n q hc]

theorem withMatrixOp_threads (hc : e.c < s.cores.length) :
    ((withMatrixOp f paired s e u rest n q).core e.c).threads = (s.core e.c).threads := by
  rw [withMatrixOp_core f paired s e u rest n q hc]
  rfl

theorem length_withMatrixOp : (withMatrixOp f paired s e u rest n q).cores.length = s.cores.length := by
  rw [withMatrixOp, noteClash_cores, length_modCore, withOp, length_modCore]

end After

/-! ### The words (R210, R224) -/

section Sheaf
variable {f : Full} {paired : Bool} {s : State} {e : Env}

/-- MMA.r, or MMAP. -/
def matrixWord (f : Full) (paired : Bool) : Instr := if paired then .mmap f else .mmaR f

theorem exec_matrixWord : exec (matrixWord f paired) s = .next (mmaSheaf (matrixWord f paired) f paired s) := by
  cases paired <;> rfl

/-- The thread with the null handle in Vd.d. -/
def nullHandle (f : Full) (e : Env) (t : Thread) : Thread := wordDone e.is (writePair t f.d.toNat 0)

theorem nullHandle_id (f : Full) (e : Env) (t : Thread) : (nullHandle f e t).id = t.id := wordDone_id ..

/-- The threads that take the word and are not active get the null handle (R224). -/
def nullHandles (f : Full) (e : Env) (i : Instr) : List Thread → List Thread :=
  putAll (nullHandle f e) ((takerThreads e i).filter fun t => !isActive e i t)

theorem mmaSheaf_eq {i : Instr} (he : s.env = some e) (hl : ∀ v ∈ e.k.threads, takesWord e i v = true → legalHere e i v = true) :
    mmaSheaf i f paired s =
      mmaIssue f paired e ((takerThreads e i).filter (isActive e i)) (withThreads s e.c (nullHandles f e i)) := by
  have hoff := foldl_endWordAt e (fun t => .ok (writePair t f.d.toNat 0)) ((takerThreads e i).filter fun t => !isActive e i t)
    (env_issue he).2
  simp only [mmaSheaf, he, parkIllegal_none he hl]
  rw [show ((takers e i).filterMap (threadAt e.k.threads)) = takerThreads e i from rfl, hoff]
  rfl

/-- A word of one thread that is not active issues nothing (R224). -/
theorem exec_matrixWord_inactive {t : Thread} (he : s.env = some e) (ha : Alone e (matrixWord f paired) t)
    (hoff : isActive e (matrixWord f paired) t = false) :
    exec (matrixWord f paired) s = .next (ends s e (writePair t f.d.toNat 0)) := by
  rw [exec_matrixWord, mmaSheaf_eq he ha.2.2.2, nullHandles, takerThreads_alone ha]
  simp only [List.filter_cons, List.filter_nil, hoff, Bool.not_false, Bool.false_eq_true, if_false, if_true]
  rfl

variable {u : Thread} {rest : List Thread} (hnd : (e.k.threads.map (·.id.slot)).Nodup)
  (hact : (takerThreads e (matrixWord f paired)).filter (isActive e (matrixWord f paired)) = u :: rest)
include hnd hact

theorem mem_active {v : Thread} (hv : v ∈ u :: rest) : v ∈ e.k.threads ∧ takesWord e (matrixWord f paired) v = true
    ∧ isActive e (matrixWord f paired) v = true := by
  rw [← hact] at hv
  obtain ⟨hv, hon⟩ := List.mem_filter.mp hv
  obtain ⟨hmem, htakes, -⟩ := (mem_takerThreads hnd).mp hv
  exact ⟨hmem, htakes, hon⟩

theorem slot_ne_of_inactive {v w : Thread} (hv : v ∈ u :: rest) (hw : w ∈ e.k.threads)
    (hoff : isActive e (matrixWord f paired) w = false) : v.id.slot ≠ w.id.slot := by
  intro hs
  obtain ⟨hmem, -, hon⟩ := mem_active hnd hact hv
  rw [List.inj_on_of_nodup_map hnd hmem hw hs, hoff] at hon
  cases hon

section Threads
variable {g : Thread → Thread} (hg : ∀ t, (g t).id = t.id)
include hg

/-- An active thread stands in its slot as the word leaves it. -/
theorem threadAt_active {v : Thread} (hv : v ∈ u :: rest) :
    threadAt (putAll g (u :: rest) (nullHandles f e (matrixWord f paired) e.k.threads)) v.id.slot = some (g v) := by
  have hnodup : ((u :: rest).map (·.id.slot)).Nodup := hact ▸ (List.filter_sublist.map _).nodup (nodup_takerThreads hnd)
  have hbefore : threadAt (nullHandles f e (matrixWord f paired) e.k.threads) v.id.slot = some v := by
    refine (threadAt_putAll_other (nullHandle_id f e) (fun w hw => ?_) _).trans (threadAt_of_mem hnd (mem_active hnd hact hv).1)
    obtain ⟨hw, hoff⟩ := List.mem_filter.mp hw
    exact (slot_ne_of_inactive hnd hact hv ((mem_takerThreads hnd).mp hw).1 (by simpa using hoff)).symm
  exact threadAt_putAll hg hnodup hv hbefore

/-- A thread that takes the word and is not active has the null handle. -/
theorem threadAt_inactive {v : Thread} (hv : v ∈ takerThreads e (matrixWord f paired))
    (hoff : isActive e (matrixWord f paired) v = false) :
    threadAt (putAll g (u :: rest) (nullHandles f e (matrixWord f paired) e.k.threads)) v.id.slot = some (nullHandle f e v) := by
  have hmem := ((mem_takerThreads hnd).mp hv).1
  have hmine : v ∈ (takerThreads e (matrixWord f paired)).filter fun t => !isActive e (matrixWord f paired) t :=
    List.mem_filter.mpr ⟨hv, by simpa using hoff⟩
  rw [threadAt_putAll_other hg fun w hw => slot_ne_of_inactive hnd hact hw hmem hoff]
  exact threadAt_putAll (nullHandle_id f e) ((List.filter_sublist.map _).nodup (nodup_takerThreads hnd)) hmine
    (threadAt_of_mem hnd hmem)

end Threads

variable (he : s.env = some e) (hfit : ∀ v ∈ e.k.threads, takesWord e (matrixWord f paired) v = true →
  legalHere e (matrixWord f paired) v = true ∧ v.spec = .plain)
include he hfit

/-- With no slot free the active threads trap, and nothing issues (R210). -/
theorem exec_matrixWord_of_full (h : allocSlot e.k 1 = none) : ∃ s', exec (matrixWord f paired) s = .next s' ∧ s'.ops = s.ops
    ∧ ∀ v ∈ u :: rest, s'.thread e.c v.id.slot = some (park e.ck v .engineFull e.is.widx 0 1) := by
  obtain ⟨-, hc⟩ := env_issue he
  obtain ⟨-, hk⟩ := env_clock_core he
  obtain ⟨hu, htakes, -⟩ := mem_active hnd hact List.mem_cons_self
  have hlen := hc.trans_eq (length_withThreads (c := e.c) (nullHandles f e (matrixWord f paired))).symm
  have hfull := (allocSlot_withThreads (nullHandles f e (matrixWord f paired)) hc 1).trans (hk ▸ h)
  refine ⟨_, exec_matrixWord, ?_⟩
  rw [mmaSheaf_eq he fun v hv hw => (hfit v hv hw).1, hact, mmaIssue_of_full (hfit u hu htakes).2 hfull, foldl_endWordAt e _ _ hlen]
  refine ⟨rfl, fun v hv => ?_⟩
  rw [thread_withThreads _ hlen, core_withThreads _ hc, hk]
  exact threadAt_active hnd hact (g := fun t => endWord e t (.trap .engineFull 0 1)) (fun _ => rfl) hv

/-- With a slot free the sheaf's operation issues, with the rows and the latch of R225: every active thread has the handle and
counts the operation, and the others that take the word have the null handle (R224). -/
theorem exec_matrixWord_of_free {n q : Nat} (h : allocSlot e.k 1 = some (n, q)) :
    ∃ s', exec (matrixWord f paired) s = .next s'
      ∧ s'.ops = opsAfter (rowsTaken f e u rest).2.2 s.nextOp s.ops (matrixOp f paired s e u rest n q)
      ∧ (s'.core e.c).mx = { e.k.mx with latch := (rowsTaken f e u rest).2.1 } ∧ s'.mem = s.mem
      ∧ (∀ v ∈ u :: rest, s'.thread e.c v.id.slot =
          some (wordDone e.is (issued v f.d.toNat 1 s.nextOp (handleOf 1 e.c n q) none)))
      ∧ ∀ v ∈ e.k.threads, takesWord e (matrixWord f paired) v = true → isActive e (matrixWord f paired) v = false →
          s'.thread e.c v.id.slot = some (nullHandle f e v) := by
  obtain ⟨-, hc⟩ := env_issue he
  obtain ⟨-, hk⟩ := env_clock_core he
  obtain ⟨hu, htakes, -⟩ := mem_active hnd hact List.mem_cons_self
  have hlen := hc.trans_eq (length_withThreads (c := e.c) (nullHandles f e (matrixWord f paired))).symm
  have hfree := (allocSlot_withThreads (nullHandles f e (matrixWord f paired)) hc 1).trans (hk ▸ h)
  have hop : matrixOp f paired (withThreads s e.c (nullHandles f e (matrixWord f paired))) e u rest n q =
      matrixOp f paired s e u rest n q := by
    simp only [matrixOp, matrixAsk, partnerOpen_withThreads]
    rfl
  have hid (t : Thread) : (endWord e t (.ok (issued t f.d.toNat 1 s.nextOp (handleOf 1 e.c n q) none))).id = t.id := wordDone_id ..
  have hlast := hlen.trans_eq (length_withMatrixOp f paired _ e u rest n q).symm
  refine ⟨_, exec_matrixWord, ?_⟩
  rw [mmaSheaf_eq he fun v hv hw => (hfit v hv hw).1, hact, mmaIssue_of_free (hfit u hu htakes).2 hfree, foldl_endWordAt e _ _ hlast]
  simp only [thread_withThreads _ hlast, core_withThreads _ hlast, withMatrixOp_mx _ _ _ _ _ _ _ _ hlen,
    withMatrixOp_threads _ _ _ _ _ _ _ _ hlen, core_withThreads _ hc, hk]
  refine ⟨?ops, trivial, withMatrixOp_mem .., fun v hv => ?active, fun v hv hw hoff => ?inactive⟩
  case ops => exact (withMatrixOp_ops f paired (withThreads s e.c _) e u rest n q).trans (congrArg (opsAfter _ s.nextOp s.ops) hop)
  case active => exact threadAt_active hnd hact hid hv
  case inactive => exact threadAt_inactive hnd hact hid ((mem_takerThreads hnd).mpr ⟨hv, hw, (hfit v hv hw).1⟩) hoff

end Sheaf

section Empty
variable {f : Full} {paired : Bool} {s : State} {e : Env} {t : Thread} (he : s.env = some e) (hlatch : e.k.mx.latch = none)
  (hreuse : opxB f 4 = false)
include he hlatch hreuse

/-- Without REUSE an empty latch stays so (R225). -/
theorem withMatrixOp_of_empty (n q : Nat) :
    withMatrixOp f paired s e t [] n q = withOp s e.c e.ck.cyc t (matrixAsk f paired s e t []) n q := by
  have hrows : (rowsTaken f e t []).2 = (none, false) := by simp [rowsTaken, latchRows, hlatch, hreuse]
  have hcore : (withOp s e.c e.ck.cyc t (matrixAsk f paired s e t []) n q).core e.c = takeSlot (takenSlot s t 1 n q) e.k :=
    (core_modCore (env_issue he).2).trans (by rw [(env_clock_core he).2]; rfl)
  rw [withMatrixOp, hrows, noteClash, if_neg Bool.false_ne_true, State.modCore, hcore]
  conv => rhs; rw [← State.withCore_core (withOp s e.c e.ck.cyc t (matrixAsk f paired s e t []) n q) e.c, hcore]
  rw [← hlatch]
  rfl

theorem mmaIssue_of_empty (hp : t.spec = .plain) : ∃ out, mmaIssue f paired e [t] s =
    issueOp e t f.d.toNat (matrixAsk f paired s e t []) out s := by
  refine ⟨fun _ => false, ?_⟩
  cases h : allocSlot (s.core e.c) 1 with
  | none => exact (mmaIssue_of_full hp h).trans (issueOp_of_full (x := matrixAsk f paired s e t []) hp h).symm
  | some x =>
    obtain ⟨n, q⟩ := x
    refine (mmaIssue_of_free hp h).trans (.trans ?_ (issueOp_of_free (x := matrixAsk f paired s e t []) hp h).symm)
    rw [withMatrixOp_of_empty he hlatch hreuse]
    rfl

/-- One active thread, without REUSE and with an empty latch, issues its operation. -/
theorem issues_matrixWord (hp : t.spec = .plain) (hon : isActive e (matrixWord f paired) t = true) :
    Issues s e t (matrixWord f paired) f.d.toNat 1 (matrixAsk f paired s e t []).kind false := by
  intro ha
  obtain ⟨out, hissue⟩ := mmaIssue_of_empty (paired := paired) he hlatch hreuse hp
  have hexec : exec (matrixWord f paired) s = .next (wordFold (matrixWord f paired)
      (fun e t s => issueOp e t f.d.toNat (matrixAsk f paired s e t []) out s) s) := by
    rw [exec_matrixWord, mmaSheaf_eq he ha.2.2.2, nullHandles, takerThreads_alone ha, wordFold_alone he ha, ← hissue]
    simp only [List.filter_cons, List.filter_nil, hon, Bool.not_true, Bool.false_eq_true, if_false, if_true]
    exact congrArg (fun s => Host.Outcome.next (mmaIssue f paired e [t] s)) (State.withCore_core s e.c)
  exact issues_of_wordFold hp he hexec ⟨out, rfl⟩ ha

end Empty

/-! ### O33: an operation under way that has the new one's number -/

/-- `MMAP.e2m1 V4.d, V0, V36` under the mask register G0, with REUSE 0. -/
def pairedWord : Full :=
  { d := 4, a := 0, b := 36, g := 0, ng := false, fsel := false, dsel := 0, ty := .e2m1, rm := .rne, sat := false,
    ub := false, opx := 0 }

/-- A thread alone in its group, at word 1 of the collective clause at 0, gathered. -/
def gathered : Thread := { newThread ⟨0, 1, false, 1, 0, 0, 1, 64⟩ with pos := ⟨.inSheaf, 0, 0, 1, none, 1, 0, none, 0⟩ }

/-- Word 1 of the collective clause at 0 at issue, for the thread in slot 0. -/
def leadAtIssue : Issue :=
  { sup := false, hdr := 0, head := ⟨1, 0, 15, 15, false, 0, true⟩, widx := 1, slots := [0], first := 1, next := 0, wrote := [],
    stalled := none, half := none, stalls := 0, start := 0, mark := none, groups := [] }

/-- An operation under way that has the number of the next one. -/
def sameNumber : Op :=
  { id := 1, core := 0, cls := 1, slot := 0, seq := 1, launch := 1, sup := false, threads := [0], kind := .wload .bf16 0 0 none,
    rel := false, cyc := 0, iss := 0, relOps := [], relPosts := [], held := false, accepted := false, order := 0, parts := [],
    pages := [], faults := [], rows := [], cause := .none, fva := 0, exc := 0, cancel := false, promise := none, pgf := 0,
    issued := 0 }

/-- That thread alone on core 0 with the word at issue, the reuse latch held by its group in another format, and that operation
under way. -/
def clashing : State :=
  { State.reset.withCore 0 { Core.reset with
      threads := [gathered], issue := some leadAtIssue, code := [0, BitVec.ofNat 64 ((encode (.mmap pairedWord)).getD 0)]
      mx := { Core.reset.mx with latch := some ⟨false, 0, .e4m3, []⟩ } } with
    ops := [sameNumber] }

/-- What the word reads there. -/
def envClashing : Env := ⟨clashing, 0, clashing.core 0, leadAtIssue, clashing.clock⟩

/-- Refutes O33: where the latch's format differs, its clause says that the operations under way stay as they are and the new one
has the cause BAD_FORMAT, and says so of every state. The model gives that cause to every operation of the new one's number
(`exec_matrixWord_of_free`), which is the same where none under way has that number (`opsAfter_of_fresh`); here one has it, and
faults with the new one. -/
theorem not_registerMatrixWordsTakeRows : ¬ Obligations.RegisterMatrixWordsTakeRows := by
  intro h
  have he : clashing.env = some envClashing := rfl
  have hact : (takerThreads envClashing (matrixWord pairedWord true)).filter (isActive envClashing (matrixWord pairedWord true)) =
      [gathered] := by decide +kernel
  have hfit : ∀ v ∈ envClashing.k.threads, takesWord envClashing (matrixWord pairedWord true) v = true →
      legalHere envClashing (matrixWord pairedWord true) v = true ∧ v.spec = .plain := by decide +kernel
  have hnd : (envClashing.k.threads.map (·.id.slot)).Nodup := by decide
  have hslot : allocSlot envClashing.k 1 = some (0, 1) := by decide +kernel
  have hbad : (rowsTaken pairedWord envClashing gathered []).2.2 = true := by decide +kernel
  obtain ⟨-, -, hissue⟩ := h pairedWord clashing envClashing gathered true he rfl
  obtain ⟨hfree, -⟩ := hissue gathered [] hact hfit hnd (env_issue he).2
  obtain ⟨s', o, hrun, hops, -⟩ := hfree 0 1 hslot
  obtain ⟨s'', hexec, hmodel, -⟩ := exec_matrixWord_of_free hnd hact he hfit hslot
  obtain rfl : s'' = s' := Host.Outcome.next.inj (hexec.symm.trans hrun)
  rw [hmodel, hbad] at hops
  have hfirst : ({ sameNumber with cause := .badFormat } : Op) = sameNumber := (List.cons.inj hops).1
  exact absurd (congrArg Op.cause hfirst) (by decide)

end Sys2Proof.MatrixWords
end

section
/-! Proofs for the family of tasks, tillers and the system: the Granary's words that reply at once, supervisor words, and kicks. -/

namespace Sys2Proof.Tasks

open Sys2Proof Sys2Proof.Machine Sys2Proof.Spec Sys2Proof.Laws Sys2Proof.Scope Sys2Proof.Sheaves Sys2Proof.Waiting

/-! ### Words that reply with a latency (R251, R264, R314) -/

section Word
variable {f : Full} {s : State} {e : Env} {t : Thread}

theorem replyStatus_eq (lat : Nat) (st : Status) (more : List (Nat × Reg)) :
    replyStatus f lat st more e t s = ends s e (laterStatus e t f lat st more) := by
  rw [replyStatus, laterStatus_eq, ends_eq]

theorem replyNow_eq (lat : Nat) (regs : List (Nat × Reg)) : replyNow f lat regs e t s = ends s e (later e t f lat regs) := by
  rw [replyNow, later_eq, ends_eq]

/-- A reply from an entry takes 48 cycles on its die and 96 from another (R314). -/
theorem granLat_done (c r d : Nat) : granLat c (.done r d) = if r / 2 ^ 14 % 4 = c / 64 then 48 else 96 := rfl

/-- A word whose meaning threads the machine acts in its only taker. -/
theorem exec_of_wordFold {i : Instr} {g : Env → Thread → State → State} (hx : exec i s = .next (wordFold i g s))
    (he : s.env = some e) (ha : Alone e i t) : exec i s = .next (g e t s) := by
  rw [hx, wordFold_alone he ha]

theorem exec_of_settledFold {i : Instr} {g : Env → Thread → State → State} (hx : exec i s = .next (settleWord (wordFold i g s)))
    (he : s.env = some e) (ha : Alone e i t) : exec i s = .next (settleWord (g e t s)) := by
  rw [hx, wordFold_alone he ha]

/-! ### TASK.COORD (R251) -/

section Coord
variable {x : Entry} (hx : viewRef s (a32 f t).toNat = .entry x) (hkind : x.desc.kind = 1)
  (hheld : (⟨e.c, t.id.launch, t.id.tmx, t.id.sup, t.id.tid⟩ : Holder) ∈ x.holders)
include hx hkind hheld

/-- The holder of a grid task gets DONE when no tuple is left, else the next tuple with PARTIAL. -/
theorem taskCoordWord_held : taskCoordWord f e t s =
    let lat := if (a32 f t).toNat / 2 ^ 14 % 4 = e.c / 64 then 48 else 96
    if exhausted x = true then ends s e (laterStatus e t f lat .done [])
    else ends (s.modEntry x.die x.ix dispense) e (laterStatus e t f lat .partialDone (coordRegs x.desc f.d.toNat x.next)) := by
  have hx' : viewRef s (readV t f.a.toNat).toNat = .entry x := hx
  have hcontains : x.holders.contains (holderOf e.c t) = true := List.contains_iff_mem.mpr hheld
  simp only [taskCoordWord, hx', hkind, hcontains, replyStatus_eq, granLat_done]
  rfl

end Coord

theorem dispense_eq (y : Entry) :
    dispense y = { y with next := y.next + 1, st := if spaceSize y.desc ≤ y.next + 1 then .running else y.st } := by
  simp only [dispense, exhausted, decide_eq_true_eq]
  split <;> rfl

/-! ### TASK.WAITF (R252) -/

theorem pollFuture_task_pending {k : Core} {ck : Clock} {u : Thread} {w : Wait} {h : Quad} {cls op : Nat} {acc : Bool} {p : Option Nat}
    (hv : viewFut s u.id.launch h = .pending cls op acc p) (acq task : Bool) : pollFuture s ck k u w h acq task = u := by
  simp only [pollFuture, hv]

/-- TASK.WAITF on an operation that has not ended waits, and lends its slot where a wake record of its die is free. -/
theorem taskWaitfWord_pending (he : s.env = some e) {cls op : Nat} {acc : Bool} {p : Option Nat}
    (hv : viewFut s t.id.launch (a64 f t) = .pending cls op acc p) :
    let u := ends s e (waiting e t (.future (a64 f t) false true) .task f.dsel.toNat f.d.toNat)
    taskWaitfWord f e t s = if t.id.sup = true ∨ wakeFree s (e.c / 64) = 0 then u
      else State.lend { u with gran := { s.gran with
        wakes := s.gran.wakes ++ [⟨e.c / 64, e.c, t.id.launch, t.id.tid, none⟩] } } e.c := by
  intro u
  have hw : beginWait e t (.future (a64 f t) false true) .task f.dsel f.d.toNat =
      .ok (waiting e t (.future (a64 f t) false true) .task f.dsel.toNat f.d.toNat) := by
    rw [beginWait_eq he, settleThread_future he rfl rfl, pollFuture_task_pending (u := waiting e t _ _ _ _) hv]
  have hsettle : settleThread { s with cycle := e.ck.cyc } e.c
      (waitWord e t (.future (readPair t f.a.toNat) false true) .task f.dsel f.d.toNat) =
      waiting e t (.future (a64 f t) false true) .task f.dsel.toNat f.d.toNat := by
    obtain ⟨hs, -⟩ := env_spec he
    rw [← hs]
    exact TRes.ok.inj hw
  simp only [taskWaitfWord, hsettle, ends_eq]
  refine if_congr ?_ rfl rfl
  simp only [waiting, Option.isNone_some, Bool.false_or, Bool.or_eq_true, decide_eq_true_eq]
  exact Iff.rfl

/-! ### LIKE (R264) -/

theorem field_site (r : Nat) : field r 11 0 = r % 2 ^ 12 := by simp only [field, pow_zero, Nat.div_one]

theorem likeSeedWord_plain (hp : t.spec = .plain) : likeSeedWord f e t s =
    ends { s with gran := { s.gran with pred := tblPut s.gran.pred ((a32 f t).toNat % 2 ^ 12) ((b32 f e t).toNat % 2 ^ 8) } } e
      (later e t f 96 [(f.d.toNat, BitVec.ofNat 32 (tblGet s.gran.pred ((a32 f t).toNat % 2 ^ 12) 128))]) := by
  simp only [likeSeedWord, heldWord, isDetached_of_plain hp, runsTiller_of_plain hp, Bool.false_eq_true, if_false, likeSeed,
    replyNow_eq, field_site, State.seedSite]
  have hv : field (readB32 e t f).toNat 7 0 % 256 = (b32 f e t).toNat % 2 ^ 8 := by
    simp only [field, pow_zero, Nat.div_one, b32]
    omega
  simp only [hv]
  rfl

end Word

/-- Settles O37: each word in its one thread, TASK.COORD by `taskCoordWord_held` and TASK.WAITF by `taskWaitfWord_pending`. -/
theorem taskWordsReply : Obligations.TaskWordsReply := by
  unfold Obligations.TaskWordsReply
  intro f s e t he hp d r site here n m w
  refine ⟨fun ha x hx hkind hheld => ?coord, fun ha cls op acc p hv => ?waitf, fun ha => ?site, fun ha => ?task, fun ha => ?seed⟩
  case coord =>
    have hexec := exec_of_wordFold (g := taskCoordWord f) rfl he ha
    rw [taskCoordWord_held hx hkind hheld] at hexec
    refine ⟨fun hover => ?_, fun hleft => ?_⟩
    · have hex : exhausted x = true := decide_eq_true hover
      rw [hexec, if_pos hex]
    · have hex : exhausted x = false := decide_eq_false (not_le.mpr hleft)
      rw [hexec, hex, if_neg Bool.false_ne_true, show dispense = _ from funext dispense_eq]
      rfl
  case waitf =>
    have hexec := exec_of_settledFold (g := taskWaitfWord f) rfl he ha
    rw [hexec, taskWaitfWord_pending he hv]
  case site =>
    rw [exec_of_wordFold (g := likeSiteWord f) rfl he ha, likeSiteWord, replyNow_eq, field_site]
    rfl
  case task =>
    rw [exec_of_wordFold (g := likeTaskWord f) rfl he ha, likeTaskWord, replyNow_eq]
    rfl
  case seed =>
    rw [exec_of_wordFold (g := likeSeedWord f) rfl he ha, likeSeedWord_plain hp]

/-! ### Supervisor words (R270 to R273) -/

section Supervisor
variable {f : Full} {s : State} {e : Env} {t u : Thread}

/-- The word's thread gets the status 24 cycles after issue (R314). -/
def supAnswered (f : Full) (e : Env) (t : Thread) (s : State) (st : Status) (more : List (Nat × Reg)) : State :=
  s.modThread e.c t.id.slot fun u => wordDone e.is (laterStatus e u f 24 st more)

theorem supReply_eq (st : Status) (more : List (Nat × Reg)) : supReply f st more e t s = supAnswered f e t s st more := by
  simp only [supReply, laterStatus_eq]
  rfl

theorem supPwaitWord_eq : supPwaitWord f e t s =
    (ends s e (waiting e t .supWait .future f.dsel.toNat f.d.toNat)).serveFaultsAt e.c := by
  rw [supPwaitWord, waiting_eq, ends_eq]

variable (he : s.env = some e)
include he

section Refused
variable {st : Status} (hu : target e.k (a32 f t).toNat false = .inl st)
include hu

theorem supPwrWord_refused : supPwrWord f e t s = supAnswered f e t s st [] := by
  rw [← (env_clock_core he).2] at hu
  simp only [supPwrWord, show target (s.core e.c) (readV t f.a.toNat).toNat false = .inl st from hu, supReply_eq]

theorem supResumeWord_refused : supResumeWord f e t s = supAnswered f e t s st [] := by
  rw [← (env_clock_core he).2] at hu
  simp only [supResumeWord, show target (s.core e.c) (readV t f.a.toNat).toNat false = .inl st from hu, supReply_eq]

theorem supKillWord_refused : supKillWord f e t s = supAnswered f e t s st [] := by
  rw [← (env_clock_core he).2] at hu
  simp only [supKillWord, show target (s.core e.c) (readV t f.a.toNat).toNat false = .inl st from hu, supReply_eq]

end Refused

theorem supPrdWord_target (hu : target e.k (a32 f t).toNat true = .inr u) : supPrdWord f e t s =
    match readItem s e.c u (readV t f.b.toNat).toNat with
    | some x => supAnswered f e t s .done [(f.d.toNat + 2, x.setWidth 32), (f.d.toNat + 3, (x >>> 32).setWidth 32)]
    | none => supAnswered f e t s .absent [] := by
  rw [← (env_clock_core he).2] at hu
  simp only [supPrdWord, show target (s.core e.c) (readV t f.a.toNat).toNat true = .inr u from hu, supReply_eq] <;>
    rfl

section Target
variable (hu : target e.k (a32 f t).toNat false = .inr u)
include hu

theorem supPwrWord_target : supPwrWord f e t s =
    match writeItem s e.c u (readV t f.b.toNat).toNat (readPair t (f.b.toNat + 2)) with
    | some s1 => supAnswered f e t s1 .done []
    | none => supAnswered f e t s .absent [] := by
  rw [← (env_clock_core he).2] at hu
  simp only [supPwrWord, show target (s.core e.c) (readV t f.a.toNat).toNat false = .inr u from hu, supReply_eq] <;>
    rfl

theorem supResumeWord_target : supResumeWord f e t s =
    match resumeAct (readV t f.b.toNat).toNat u.pos.widx (clauseLen e.k u) with
    | none => supAnswered f e t s .absent []
    | some act => supAnswered f e t ((s.withCore e.c (dropRec e.k u.id.slot u.id.gen)).withThread e.c
        (resume s.clock e.k u act ((readV t f.b.toNat).toNat.testBit 2) (stepsNow e.k u))) .done [] := by
  rw [← (env_clock_core he).2] at hu ⊢
  simp only [supResumeWord, show target (s.core e.c) (readV t f.a.toNat).toNat false = .inr u from hu, supReply_eq, bitAt_eq_testBit] <;>
    rfl

theorem supKillWord_target : supKillWord f e t s = supAnswered f e t (s.killThread e.c u) .done [] := by
  rw [← (env_clock_core he).2] at hu
  simp only [supKillWord, show target (s.core e.c) (readV t f.a.toNat).toNat false = .inr u from hu, supReply_eq]

end Target

/-- A SUP.RESUME of one thread takes its only turn. -/
theorem exec_supResume_alone (ha : Alone e (.supResume f) t) : exec (.supResume f) s = .next (settleWord (supResumeWord f e t s)) := by
  have hexec : exec (.supResume f) s = execSupResume f s := rfl
  have hfold : [t.id.slot].foldl (foldTurn (supResumeWord f) e) (parkIllegal e (.supResume f)) =
      wordFold (.supResume f) (supResumeWord f) s := by
    simp only [wordFold, he, ha.1]
  have hturns : resumeTurns f e = [t.id.slot] := by
    rw [resumeTurns, ha.1]
    rfl
  simp only [hexec, execSupResume, he, hturns, hfold, wordFold_alone he ha]

/-- SUP.SAVE and SUP.LOAD start the save engine, and their thread waits for it. -/
theorem supXferWord_target {save : Bool} {p : Nat} {w : Path}
    (hu : xferTarget e.k (a32 f t).toNat (if save then .parked else .saved) = .inr u)
    (hchk : checkOwn s e.c (readV t f.b.toNat) (256 + 4 * u.id.nregs) 64 = .good p w) :
    let at_ := (readV t f.b.toNat).toNat % 2 ^ 23
    supXferWord f save e t s =
      (ends s e (waiting e t (.supXfer save u.id.slot at_) .future f.dsel.toNat f.d.toNat)).modCore e.c
        fun k => { k with supX := k.supX ++ [⟨t.id.slot, t.id.gen, u.id.slot, u.id.gen, save, at_⟩] } := by
  intro at_
  have hat : offsetOf (readV t f.b.toNat) = at_ := by simp only [offsetOf, field, pow_zero, Nat.div_one, at_]
  rw [← (env_clock_core he).2] at hu
  have hu' : xferTarget (s.core e.c) (readV t f.a.toNat).toNat (if save then .parked else .saved) = .inr u := hu
  have hchk' : checkOwn e.s e.c (readV t f.b.toNat) (threadImageLen u) 64 = .good p w := by rw [(env_spec he).1]; exact hchk
  simp only [supXferWord, hu', hchk', hat, waiting_eq, ends_eq]

end Supervisor

/-- Settles O39: each word acts in its one thread, as its lemma for the target that it names says. -/
theorem supervisorWordsActOnParkedThreads : Obligations.SupervisorWordsActOnParkedThreads := by
  unfold Obligations.SupervisorWordsActOnParkedThreads
  intro f s e t he d r b answered answer
  refine ⟨fun ha => ?pwait, fun ha u hu => ⟨fun x hx => ?prd, fun hx => ?prdNone⟩, fun ha u hu => ⟨fun s1 hx => ?pwr, fun hx => ?pwrNone⟩,
    fun ha u hu => ⟨fun act hact => ?resume, fun hact => ?resumeNone⟩, fun ha u hu => ?kill,
    fun st hu => ⟨fun ha => ?pwrRefused, fun ha => ?resumeRefused, fun ha => ?killRefused⟩, ?xfer⟩
  case pwait => rw [exec_of_settledFold (g := supPwaitWord f) rfl he ha, supPwaitWord_eq]
  case prd =>
    rw [exec_of_wordFold (g := supPrdWord f) rfl he ha, supPrdWord_target he hu, show readItem s e.c u (readV t f.b.toNat).toNat = _ from hx]
    rfl
  case prdNone =>
    rw [exec_of_wordFold (g := supPrdWord f) rfl he ha, supPrdWord_target he hu, show readItem s e.c u (readV t f.b.toNat).toNat = _ from hx]
    rfl
  case pwr =>
    rw [exec_of_wordFold (g := supPwrWord f) rfl he ha, supPwrWord_target he hu,
      show writeItem s e.c u (readV t f.b.toNat).toNat (readPair t (f.b.toNat + 2)) = _ from hx]
    rfl
  case pwrNone =>
    rw [exec_of_wordFold (g := supPwrWord f) rfl he ha, supPwrWord_target he hu,
      show writeItem s e.c u (readV t f.b.toNat).toNat (readPair t (f.b.toNat + 2)) = _ from hx]
    rfl
  case resume =>
    rw [exec_supResume_alone he ha, supResumeWord_target he hu, show resumeAct (readV t f.b.toNat).toNat _ _ = _ from hact]
    rfl
  case resumeNone =>
    rw [exec_supResume_alone he ha, supResumeWord_target he hu, show resumeAct (readV t f.b.toNat).toNat _ _ = _ from hact]
    rfl
  case kill =>
    rw [exec_of_wordFold (g := supKillWord f) rfl he ha, supKillWord_target he hu]
    rfl
  case pwrRefused =>
    rw [exec_of_wordFold (g := supPwrWord f) rfl he ha, supPwrWord_refused he hu]
    rfl
  case resumeRefused =>
    rw [exec_supResume_alone he ha, supResumeWord_refused he hu]
    rfl
  case killRefused =>
    rw [exec_of_wordFold (g := supKillWord f) rfl he ha, supKillWord_refused he hu]
    rfl
  case xfer =>
    intro save i ha u p w hu hchk
    have hx : exec i s = .next (settleWord (wordFold i (supXferWord f save) s)) := by cases save <;> rfl
    rw [exec_of_settledFold hx he ha, supXferWord_target he hu hchk]

/-! ### Kicks (R255, R340, R343, R385 to R387) -/

section Kick
variable {s : State} {o : Maq} {k : Kick} {rest : List Kick}

/-- The kick at the head of the list is refused whole, once the tasks as loaded have room. -/
def refuseKick (s : State) (o : Maq) (k : Kick) (rest : List Kick) : State :=
  if (s.instantiate s.cur o (o.descs.map fun d => descOf (joinWords d))).isSome = true then
    (s.modObj s.cur fun o => { o with kicks := rest }).endKick s.cur k .fault 11
  else s

/-- The kick at the head of the list departs with the descriptors `ds`, once they have room. -/
def departKick (s : State) (o : Maq) (k : Kick) (rest : List Kick) (ds : List (List Quad)) : State :=
  match s.instantiate s.cur o (ds.map fun d => descOf (joinWords d)) with
  | none => s
  | some y => ((y.modObj s.cur fun o => { o with kicks := rest }).endKick s.cur k .done 0).settleGran

/-- The patched descriptors are those of a Maquette of that object. -/
def descsOk (s : State) (o : Maq) (ds : List (List Quad)) : Bool :=
  ds.all fun d => maqDescOk s o.launch o.descs.length o.ovfOff o.ovf.length (joinWords d)

variable (ho : (maqAt s s.cur).obj = some o) (hk : o.kicks = k :: rest)
include ho hk

theorem exec_kickDepart_full (hfull : o.maxLive ≤ o.live.length) : exec .kickDepart s = .next s := by
  have hexec : exec .kickDepart s = execKickDepart s := rfl
  simp only [hexec, execKickDepart, ho, hk, if_pos hfull]

/-- Below the limit of live copies the kick is judged: its fields, its patch table, the patched descriptors, and their room. -/
theorem exec_kickDepart (hlive : o.live.length < o.maxLive) : exec .kickDepart s = .next (
    if k.bad then refuseKick s o k rest
    else match patchTable s k.ptab o.descs.length with
      | none => refuseKick s o k rest
      | some es => if descsOk s o (es.foldl patchOne o.descs) then departKick s o k rest (es.foldl patchOne o.descs)
        else refuseKick s o k rest) := by
  have hexec : exec .kickDepart s = execKickDepart s := rfl
  simp only [hexec, execKickDepart, ho, hk, if_neg (not_le.mpr hlive), refuseKick]
  congr 2
  cases patchTable s k.ptab o.descs.length with
  | none => rfl
  | some es =>
    simp only [descsOk, departKick, Bool.not_eq_true', ← Bool.not_eq_true, ite_not]
    rfl

end Kick

/-- Settles O48: the limit of live copies first, then `exec_kickDepart` in each of its cases. -/
theorem kicksDepartWhole : Obligations.KicksDepartWhole := by
  unfold Obligations.KicksDepartWhole
  intro s o k rest ho hk pop room bad
  refine ⟨exec_kickDepart_full ho hk, fun hlive => ?_⟩
  have hexec := exec_kickDepart ho hk hlive
  have hrefuse (h : exec .kickDepart s = .next (refuseKick s o k rest)) : bad := h
  refine ⟨fun hbad => hrefuse ?fields, fun hnone => hrefuse ?table, ?patched⟩
  case fields => rw [hexec, if_pos hbad]
  case table => rw [hexec, hnone, ite_self]
  case patched =>
    intro es hgood hes ds
    have hjudged : exec .kickDepart s = .next (if descsOk s o ds then departKick s o k rest ds else refuseKick s o k rest) := by
      simp only [hexec, hgood, hes, Bool.false_eq_true, if_false]
      rfl
    refine ⟨fun ⟨d, hd, hno⟩ => hrefuse ?_, fun hok => ?_⟩
    · have hds : descsOk s o ds = false := List.all_eq_false.mpr ⟨d, hd, by simp [hno]⟩
      rw [hjudged, hds, if_neg Bool.false_ne_true]
    · have hds : descsOk s o ds = true := List.all_eq_true.mpr hok
      rw [hjudged, hds, if_pos rfl, departKick]
      exact ⟨fun y hy => by rw [hy], fun hnone => by rw [hnone]⟩

end Sys2Proof.Tasks
end

section
/-! Proofs for the family of tasks, tillers and the system: teams placed, saved, restored and ended, and fault records. -/

namespace Sys2Proof.Teams

open Sys2Proof Sys2Proof.Machine Sys2Proof.Spec Sys2Proof.Laws Sys2Proof.Scope Sys2Proof.Sheaves Sys2Proof.MemorySeen

section Event
variable {s : State}

/-! ### Placement and ends (R24, R150, R377, R381, R382) -/

theorem exec_teamPlacement {l : Launch} (hl : launchOf s s.ix = some l) (hopen : l.closing = false) (hread : l.preloadFail = false)
    (hleft : l.placed < l.teams) {d : Nat} {r : List Nat}
    (hfree : freePlaces s (s.hub.cfg.parts.getD l.part 0) l.img.paired l.num = d :: r) :
    exec .teamPlacement s = .next (s.placeAt l [d]) := by
  have hexec : exec .teamPlacement s = execTeamPlacement s := rfl
  simp only [hexec, execTeamPlacement, hl, hopen, hread, hfree, decide_eq_false (not_le.mpr hleft)]
  rfl

theorem exec_launchEnd {l : Launch} (hl : launchOf s s.ix = some l) (hended : l.placed ≤ l.ended) (hall : l.placed = l.teams)
    (hread : l.preloadFail = false) :
    let s1 := if l.closing then s else s.closeLaunch l
    let rest := s1.launches.filter fun x => x.num != l.num
    (s1.posted.any fun p => p.launch == l.num) = false → exec .launchEnd s = .next
      ({ s1 with launches := rest, hist := if rest.isEmpty then [] else s1.hist }.finishPk l.pk .done 0) := by
  intro s1 rest hquiet
  have hexec : exec .launchEnd s = execLaunchEnd s := rfl
  have hgo : ¬ (decide (l.ended < l.placed) || !(l.preloadFail || l.placed == l.teams)) = true := by
    rw [decide_eq_false (not_lt.mpr hended), hall]
    simp
  simp only [hexec, execLaunchEnd, hl]
  rw [if_neg hgo, hread]
  exact congrArg Host.Outcome.next (if_neg (Bool.eq_false_iff.mp hquiet))

theorem teamCores_single {c : Nat} {tm : Team} (ht : (s.core c).team = some tm) (hp : tm.paired = false) : teamCores s c = [c] := by
  simp [teamCores, ht, hp]

/-- With no request on the core and no retirement deferred, the end of a team brings nothing else about. -/
theorem afterTeam_idle {launch c : Nat} (hpre : (s.core c).pre = none) (hdue : (s.core c).retireDue = []) :
    s.afterTeam launch c = s := by
  simp [State.afterTeam, hpre, hdue]

theorem exec_teamEnd {tm : Team} (ht : (s.core s.cur).team = some tm) (hp : tm.paired = false) (hover : teamOver s s.cur tm = true)
    (hpre : (s.core s.cur).pre = none) (hdue : (s.core s.cur).retireDue = []) :
    exec .teamEnd s = .next (((dropWakes s s.cur tm.launch).modCore s.cur freedCore).modLaunch tm.launch fun l =>
      { l with ended := l.ended + 1 }) := by
  have hexec : exec .teamEnd s = execTeamEnd s := rfl
  have hc : s.cur < s.cores.length := by
    by_contra h
    have hreset : s.core s.cur = Core.reset := List.getD_eq_default _ _ (not_lt.mp h)
    rw [hreset] at ht
    cases ht
  have hcore : (((dropWakes s s.cur tm.launch).modCore s.cur freedCore).modLaunch tm.launch fun l =>
      { l with ended := l.ended + 1 }).core s.cur = freedCore (s.core s.cur) := core_modCore (s := dropWakes s s.cur tm.launch) hc
  simp only [hexec, execTeamEnd, ht, hover, teamCores_single ht hp, List.foldl_cons, List.foldl_nil, Bool.not_true, Bool.false_eq_true,
    if_false]
  rw [afterTeam_idle (by rw [hcore]; exact hpre) (by rw [hcore]; exact hdue)]

/-! ### Saves of threads (R334, R357) -/

/-- Before the grace deadline a thread that nothing keeps from it is saved as `saveEarly` says. -/
theorem exec_phintSave {t : Thread} {p : Preempt} (ht : s.thread s.cur s.sub = some t) (hp : (s.core s.cur).pre = some p)
    (hsaved : p.saved = false) (hover : p.graceOver = false) (hgrace : s.time < p.grace) (hcan : savable (s.core s.cur) t = true) :
    exec .phintSave s = .next (s.saveEarly s.cur t) := by
  have hexec : exec .phintSave s = execPhintSave s := rfl
  simp [hexec, execPhintSave, hp, ht, hsaved, hover, hgrace, hcan]

theorem saveEarly_parked {c : Nat} {t : Thread} (h : t.pos.st = .parked ∨ t.pos.st = .saved) : s.saveEarly c t = s.saveThread c t := by
  rcases h with h | h <;> simp [State.saveEarly, h]

theorem saveEarly_barrier {c : Nat} {t : Thread} (h : t.pos.st = .barrier) :
    s.saveEarly c t = (s.takeWake c t).saveThread c t := by
  simp [State.saveEarly, h]

section Phint
variable {c : Nat} {t : Thread} (hst : t.pos.st = .ready) (hw : t.pos.widx = 0) (hphint : phintAt (s.core c) false t.pos.hdr = true)
include hst hw hphint

theorem saveEarly_full (hd : liveDesc s (s.core c) t = none) : s.saveEarly c t = s.saveThread c t := by
  simp [State.saveEarly, hst, hw, hphint, hd]

theorem saveEarly_cut {n d : Nat} (hd : liveDesc s (s.core c) t = some (n, d)) :
    s.saveEarly c t = s.saveThread c (cutThread s c t n d) := by
  simp [State.saveEarly, hst, hw, hphint, hd]

end Phint

theorem cutThread_v (c : Nat) (t : Thread) (n d : Nat) :
    (cutThread s c t n d).v = t.v.mapIdx fun j x => if d.testBit j then x else 0 := by
  simp only [cutThread, bitAt_eq_testBit]

/-- The descriptor is the one that the PHINT at the thread's header names (R239, R266). -/
theorem liveDesc_eq {k : Core} {t : Thread} {n d : Nat} (hd : liveDesc s k t = some (n, d)) {f : Full} {l : Launch}
    (hf : decodeWord (wordAt k false (t.pos.hdr + 1)) = .one (.phint f)) (hl : launchOf s t.id.launch = some l) :
    n = f.a.toNat ∧ d = memRead s.mem (busAt s (l.img.addr + l.img.liveOff + 192 * f.a.toNat)) 192 := by
  simp only [liveDesc, hf, hl, Option.ite_none_right_eq_some, Option.some.injEq, Prod.mk.injEq] at hd
  obtain ⟨-, rfl, rfl⟩ := hd
  exact ⟨rfl, rfl⟩

theorem exec_graceDeadlineExpiry {p : Preempt} (hp : (s.core s.cur).pre = some p) (hsaved : p.saved = false) (hgrace : p.grace ≤ s.time) :
    exec .graceDeadlineExpiry s = .next (((userThreads (s.core s.cur)).filter (savable (s.core s.cur))).foldl
      (fun x t => x.saveLate s.cur t) (s.withCore s.cur { s.core s.cur with pre := some { p with graceOver := true } })) := by
  have hexec : exec .graceDeadlineExpiry s = execGraceDeadlineExpiry s := rfl
  simp [hexec, execGraceDeadlineExpiry, hp, hsaved, not_lt.mpr hgrace, State.modCore]

/-! ### Teams saved and restored, and the slice boundary (R358, R360, R427) -/

theorem exec_teamDrainComplete {p : Preempt} {tm : Team} {l : Launch} (hp : (s.core s.cur).pre = some p)
    (ht : (s.core s.cur).team = some tm) (hl : launchOf s tm.launch = some l) (hsaved : p.saved = false)
    (hdrained : drainedTeam s s.cur tm.launch = true) : exec .teamDrainComplete s = .next (s.saveTeam s.cur l tm p) := by
  have hexec : exec .teamDrainComplete s = execTeamDrainComplete s := rfl
  simp [hexec, execTeamDrainComplete, hp, ht, hl, hsaved, hdrained]

theorem exec_teamRestore {x : SavedTeam} {l : Launch} (ht : (s.core s.cur).team = none)
    (hx : (s.core s.cur).savedTeams.find? (·.due) = some x) (hl : launchOf s x.team.launch = some l)
    (hon : (s.core s.cur).offline = false)
    (hdue : ∀ d ∈ (if x.team.paired then [s.cur - s.cur % 2, s.cur - s.cur % 2 + 1] else [s.cur]), (s.core d).retireDue = []) :
    let s0 := s.restoreTeam s.cur l x
    let s1 := if x.spared = true then s0.logSpare s.cur x.team.launch else s0
    exec .teamRestore s = .next
      (if (teamCores s1 s.cur).all (fun d => (s1.core d).savedTeams.all fun y => !(y.due && y.team.launch == x.team.launch)) then
        (teamCores s1 s.cur).foldl State.finishRestores s1 else s1) := by
  intro s0 s1
  have hexec : exec .teamRestore s = execTeamRestore s := rfl
  have hnone : (if x.team.paired then [s.cur - s.cur % 2, s.cur - s.cur % 2 + 1] else [s.cur]).any
      (fun d => !(s.core d).retireDue.isEmpty) = false :=
    List.any_eq_false.mpr fun d hd => by simp [hdue d hd]
  simp only [hexec, execTeamRestore, ht, hx, hl, hon, hnone, Bool.or_self, Bool.false_eq_true, if_false]
  rfl

theorem exec_timeSliceBoundary (hset : s.hub.offsetSet = true) (hnext : s.hub.nextSlice ≠ 0) (hnow : s.hub.nextSlice ≤ ieeeNow s) :
    let s1 := (sharedCores s).foldl sliceCoreOver s
    exec .timeSliceBoundary s = .next { s1 with hub := { s1.hub with nextSlice := boundaryAfter s.hub.plinth (ieeeNow s) } } := by
  intro s1
  have hexec : exec .timeSliceBoundary s = execTimeSliceBoundary s := rfl
  simp [hexec, execTimeSliceBoundary, hset, hnext, not_lt.mpr hnow, s1]

/-! ### Fault records (R347 to R350, R415) -/

/-- A user thread in a lower slot has parked in the cycle of the record, and its own record has not been offered yet. -/
def parkedBefore (t : Thread) (r : FaultRec) (u : Thread) : Prop :=
  u.id.sup = false ∧ u.id.slot < t.id.slot ∧ ∃ x, u.frec = some x ∧ x.cyc = r.cyc

theorem recWaits_iff (c : Nat) (t : Thread) (r : FaultRec) : recWaits s c t r = true ↔ t.id.sup = false
    ∧ ((s.cycle ≤ r.cyc ∧ s.frac + s.svc.clk < 1200) ∨ ∃ u ∈ (s.core c).threads, parkedBefore t r u) := by
  simp [recWaits, parkedBefore, Option.any_eq_true, and_assoc]

section Parked
variable {t : Thread} {r : FaultRec} (ht : s.thread s.cur s.sub = some t) (hr : t.frec = some r) (hst : t.pos.st = .parked)
  (hl : landed t = true)
include ht hr

theorem exec_parkComplete_waits (h : recWaits s s.cur t r = true) : exec .parkComplete s = .next s := by
  have hexec : exec .parkComplete s = execParkComplete s := rfl
  simp [hexec, execParkComplete, ht, hr, h]

include hst hl in
theorem exec_parkComplete (h : recWaits s s.cur t r = false) : exec .parkComplete s =
    .next (((s.modThread s.cur s.sub fun u => { u with frec := none, flags := List.replicate 12 0 }).modCore s.cur
      fun k => offerRec k t.id.sup r).serveFaultsAt s.cur) := by
  have hexec : exec .parkComplete s = execParkComplete s := rfl
  simp [hexec, execParkComplete, ht, hr, hst, hl, h]

end Parked

theorem exec_faultRecordEnqueue {r : FaultRec} {rest : List FaultRec} (hw : (s.core s.cur).faultWait = r :: rest)
    (hroom : (s.core s.cur).faultQ.length < Config.nFaultRecs) : exec .faultRecordEnqueue s = .next
      ((s.withCore s.cur { s.core s.cur with faultQ := (s.core s.cur).faultQ ++ [r], faultWait := rest }).serveFaultsAt s.cur) := by
  have hexec : exec .faultRecordEnqueue s = execFaultRecordEnqueue s := rfl
  simp only [hexec, execFaultRecordEnqueue, hw, if_pos hroom]

/-! ### SUP.SAVE and SUP.LOAD (R273) -/

theorem exec_supSaveLoadComplete {x : SupXfer} {rest : List SupXfer} {u : Thread} (hx : (s.core s.cur).supX = x :: rest)
    (hu : threadAt (s.core s.cur).threads x.target = some u) (hgen : u.id.gen = x.targetGen)
    (hst : u.pos.st = if x.save then .parked else .saved) (hl : x.save = true → landed u = true) :
    exec .supSaveLoadComplete s = .next ((s.withCore s.cur { s.core s.cur with supX := rest }).finishXfer s.cur x u) := by
  have hexec : exec .supSaveLoadComplete s = execSupSaveLoadComplete s := rfl
  have hwait : (x.save && !landed u) = false := by
    cases hs : x.save
    · rfl
    · simp [hl hs]
  simp [hexec, execSupSaveLoadComplete, hx, hu, hgen, hst, hwait]

@[simp] theorem inertWaits_mem (s : State) (a : Nat) : (s.inertWaits a).mem = s.mem := by
  refine foldl_mem (fun s o => ?_) _ s
  split
  · exact endBarrier_mem ..
  · rfl

theorem finishXfer_mem_save {c : Nat} {x : SupXfer} {u : Thread} (hs : x.save = true) :
    (s.finishXfer c x u).mem = (s.store (sliceAt c + x.addr) (threadBytes s.time c 2 0 (fun _ => true) u)).mem := by
  simp only [State.finishXfer, hs, if_true]
  split
  · split
    · exact inertWaits_mem ..
    · exact inertWaits_mem ..
  · exact inertWaits_mem ..

end Event

/-- Settles O50: the lemma about each event. -/
theorem teamsArePlacedSavedAndEnded : Obligations.TeamsArePlacedSavedAndEnded := by
  unfold Obligations.TeamsArePlacedSavedAndEnded
  intro s c k save
  refine ⟨fun l hl hopen hread hleft d r => exec_teamPlacement hl hopen hread hleft,
    fun l hl hended hall hread => exec_launchEnd hl hended hall hread,
    fun tm ht hp hover hpre hdue => exec_teamEnd ht hp hover hpre hdue,
    fun t p ht hp hsaved hover hgrace hcan => ?save,
    fun p hp hsaved hgrace => exec_graceDeadlineExpiry hp hsaved hgrace,
    fun p tm l hp ht hl hsaved hdrained => exec_teamDrainComplete hp ht hl hsaved hdrained,
    fun x l ht hx hl hon hdue => exec_teamRestore ht hx hl hon hdue,
    exec_timeSliceBoundary,
    ?parked,
    fun r rest hw hroom => exec_faultRecordEnqueue hw hroom,
    fun x rest u hx hu hgen hc hst hl => ⟨exec_supSaveLoadComplete hx hu hgen hst hl, fun hs => finishXfer_mem_save hs⟩⟩
  case save =>
    have hexec := exec_phintSave ht hp hsaved hover hgrace hcan
    refine ⟨fun h => ?_, fun h => ?_, fun hst hw hphint hd => ?_, fun n d hst hw hphint hd => ⟨?_, cutThread_v .., fun f l => liveDesc_eq hd⟩⟩
    · rw [hexec, saveEarly_parked h]
      rfl
    · rw [hexec, saveEarly_barrier h]
      rfl
    · rw [hexec, saveEarly_full hst hw hphint hd]
      rfl
    · rw [hexec, saveEarly_cut hst hw hphint hd]
      rfl
  case parked =>
    intro t r ht hr hst hl quiet before early
    refine ⟨fun hsup h => exec_parkComplete_waits ht hr ((recWaits_iff ..).mpr ⟨hsup, h⟩), fun h => exec_parkComplete ht hr hst hl ?_⟩
    rw [← Bool.not_eq_true, recWaits_iff]
    rintro ⟨hsup, hwaits⟩
    rcases h with h | ⟨hnow, hnone⟩
    · rw [hsup] at h
      cases h
    · exact hwaits.elim hnow fun ⟨u, hu, hb⟩ => hnone u hu hb

end Sys2Proof.Teams
end

section
/-! Proofs for the family of tasks, tillers and the system: the orders in which the Granary chooses, and the task that it chooses. -/

namespace Sys2Proof.Granary

open Sys2Proof Sys2Proof.Machine Sys2Proof.Spec Sys2Proof.Laws

/-! ### Lexicographic orders -/

theorem firstLex_total : ∀ a b : List Int, firstLex (a.zip b) ∨ firstLex (b.zip a)
  | [], _ => .inl trivial
  | _ :: _, [] => .inr trivial
  | x :: a, y :: b => by
    simp only [List.zip_cons_cons, firstLex]
    have ih := firstLex_total a b
    rcases lt_trichotomy x y with h | rfl | h
    · exact .inl (.inl h)
    · exact ih.imp (fun h => .inr ⟨rfl, h⟩) fun h => .inr ⟨rfl, h⟩
    · exact .inr (.inl h)

theorem firstLex_trans : ∀ {a b c : List Int}, a.length = b.length → firstLex (a.zip b) → firstLex (b.zip c) → firstLex (a.zip c)
  | [], _, _, _, _, _ => trivial
  | _ :: _, _, [], _, _, _ => trivial
  | _ :: _, [], _ :: _, h, _, _ => absurd h (by simp)
  | x :: a, y :: b, z :: c, hlen, h, h' => by
    simp only [List.zip_cons_cons, firstLex] at h h' ⊢
    rcases h with h | ⟨rfl, h⟩
    · exact .inl (h'.elim h.trans fun h' => h.trans_eq h'.1)
    · exact h'.imp id fun ⟨hz, h'⟩ => ⟨hz, firstLex_trans (Nat.succ.inj hlen) h h'⟩

theorem sortBy_eq_insertionSort {α : Type} (le : α → α → Bool) (l : List α) :
    sortBy le l = l.insertionSort fun a b => le a b = true := by
  have hinsert (x : α) (r : List α) : insertBy le x r = r.orderedInsert (fun a b => le a b = true) x := by
    induction r with
    | nil => rfl
    | cons y r ih => simp only [insertBy, List.orderedInsert_cons, ih]
  induction l with
  | nil => rfl
  | cons x r ih => rw [sortBy, ih, hinsert, List.insertionSort_cons]

section Sorting
variable {α : Type} {le : α → α → Bool} {key : α → List Int} {n : Nat} (hlen : ∀ x, (key x).length = n)
  (hle : ∀ x y, le x y = true ↔ firstLex ((key x).zip (key y)))
include hlen hle

/-- A sort by a lexicographic order is sorted. -/
theorem pairwise_sortBy_lex (l : List α) : (sortBy le l).Pairwise fun x y => firstLex ((key x).zip (key y)) := by
  have htotal : Std.Total fun a b => le a b = true := ⟨fun a b => by simpa only [hle] using firstLex_total (key a) (key b)⟩
  have htrans : IsTrans α fun a b => le a b = true :=
    ⟨fun a b c => by simpa only [hle] using firstLex_trans ((hlen a).trans (hlen b).symm)⟩
  simp only [← hle, sortBy_eq_insertionSort]
  exact List.pairwise_insertionSort _ l

/-- What stands first in the sort stands before all. -/
theorem head_sortBy_lex {l : List α} {x : α} (h : (sortBy le l).head? = some x) :
    x ∈ l ∧ ∀ y ∈ l, firstLex ((key x).zip (key y)) := by
  obtain ⟨r, hr⟩ := List.head?_eq_some_iff.mp h
  have hmem {y : α} : y ∈ l ↔ y ∈ x :: r := by rw [← hr, mem_sortBy]
  have hsorted := hr ▸ pairwise_sortBy_lex hlen hle l
  refine ⟨hmem.mpr List.mem_cons_self, fun y hy => ?_⟩
  rcases List.mem_cons.mp (hmem.mp hy) with rfl | hy
  · exact (firstLex_total _ _).elim id id
  · exact List.rel_of_pairwise_cons hsorted hy

omit hlen hle in
theorem head_sortBy_none {l : List α} (h : (sortBy le l).head? = none) : ∀ y ∈ l, False := by
  intro y hy
  have hnil : sortBy le l = [] := List.head?_eq_none_iff.mp h
  exact absurd (hnil ▸ mem_sortBy.mpr hy) (by simp)

end Sorting

/-! ### The orders of R246 -/

/-- Priority, then the time since which the task is ready, then the entry. -/
def taskKey (x : Entry) : List Int := [-(x.desc.prio : Int), x.readyAt, x.ix]

theorem taskBefore_iff (x y : Entry) : taskBefore x y = true ↔ firstLex ((taskKey x).zip (taskKey y)) := by
  simp only [taskBefore, taskKey, List.zip_cons_cons, List.zip_nil_right, firstLex, Bool.or_eq_true, Bool.and_eq_true, decide_eq_true_eq,
    beq_iff_eq, and_true]
  omega

/-- How far the die of a task lies from another. -/
def farFrom (die : Nat) (x : Entry) : Int := |(x.die : Int) - die|

theorem farFrom_eq (die : Nat) (x : Entry) : farFrom die x = dieGap x.die die := by
  rw [farFrom, dieGap]
  rcases le_total x.die die with h | h
  · rw [abs_of_nonpos (by omega)]
    omega
  · rw [abs_of_nonneg (by omega)]
    omega

def gleanKey (die : Nat) (x : Entry) : List Int := farFrom die x :: (x.die : Int) :: taskKey x

theorem gleanBefore_iff (die : Nat) (x y : Entry) : gleanBefore die x y = true ↔ firstLex ((gleanKey die x).zip (gleanKey die y)) := by
  simp only [gleanBefore, gleanKey, List.zip_cons_cons, firstLex, ← taskBefore_iff, farFrom_eq, Nat.cast_lt, Nat.cast_inj]
  split
  next h => simp [h]
  next h =>
    simp only [not_not.mp h, lt_self_iff_false, true_and, false_or]
    split
    next h' => simp [h']
    next h' => simp [not_not.mp h']

def tillerKey (x : Entry) : List Int := [-(likeOf x : Int), x.born, x.die, x.ix]

theorem chainLike_eq (x : Entry) : chainLike x.chain = likeOf x := rfl

theorem tillerBefore_iff (x y : Entry) : tillerBefore x y = true ↔ firstLex ((tillerKey x).zip (tillerKey y)) := by
  have hdef : tillerBefore x y = if likeOf x ≠ likeOf y then decide (likeOf y < likeOf x)
    else if x.born ≠ y.born then decide (x.born < y.born)
    else if x.die ≠ y.die then decide (x.die < y.die) else decide (x.ix ≤ y.ix) := rfl
  simp only [hdef, tillerKey, List.zip_cons_cons, List.zip_nil_right, firstLex, and_true]
  repeat' split
  all_goals
    rw [decide_eq_true_eq]
    omega

/-! ### Choose (R246, R247) -/

section Choose
variable {s : State} {c launch : Nat} {mask : Quad} {x : Entry} {gl : Bool}

theorem eligible_iff : x ∈ s.gran.entries.filter (eligible s c launch mask) ↔ Eligible s c launch mask x := by
  have hadmits : admits s x c = true ↔ (x.desc.amode = 1 → c = x.desc.acore ∨ x.readyAt + s.hub.plinth.awin ≤ s.time)
      ∧ (x.desc.amode = 2 → c / 64 = x.die) ∧ (3 ≤ x.desc.amode → c = x.desc.acore) := by
    obtain h | h | h | ⟨n, h⟩ : x.desc.amode = 0 ∨ x.desc.amode = 1 ∨ x.desc.amode = 2 ∨ ∃ n, x.desc.amode = n + 3 := by
      rcases x.desc.amode with _ | _ | _ | n
      · exact .inl rfl
      · exact .inr (.inl rfl)
      · exact .inr (.inr (.inl rfl))
      · exact .inr (.inr (.inr ⟨n, rfl⟩))
    all_goals simp [admits, awinOver, dieOf, h]
  have hleft : (!(x.desc.kind == 1 && exhausted x)) = true ↔ (x.desc.kind = 1 → x.next < spaceOf x.desc) := by
    simp [exhausted, show spaceSize x.desc = spaceOf x.desc from rfl, imp_iff_not_or]
  rw [List.mem_filter, eligible, Bool.and_eq_true, Bool.and_eq_true, Bool.and_eq_true, Bool.and_eq_true, hadmits, hleft, beq_iff_eq,
    beq_iff_eq, Eligible]
  tauto

variable (s c launch mask)

/-- The tasks of the taker's die, those that it may glean, and the tillers likely enough. -/
def tasksHere : List Entry := (s.gran.entries.filter (eligible s c launch mask)).filter fun x => !x.tiller && x.die == dieOf c
def tasksThere : List Entry :=
  (s.gran.entries.filter (eligible s c launch mask)).filter fun x => !x.tiller && gleanable s (dieOf c) x
def tillersLikely : List Entry :=
  (s.gran.entries.filter (eligible s c launch mask)).filter fun x => x.tiller && decide (s.hub.plinth.lmin ≤ chainLike x.chain)

variable {s c launch mask}

theorem mem_tasksHere : x ∈ tasksHere s c launch mask ↔ Eligible s c launch mask x ∧ x.tiller = false ∧ x.die = c / 64 := by
  rw [tasksHere, List.mem_filter, eligible_iff]
  simp [dieOf]

theorem mem_tasksThere : x ∈ tasksThere s c launch mask ↔ Eligible s c launch mask x ∧ x.tiller = false ∧ x.die ≠ c / 64
    ∧ x.desc.amode ≤ 1 ∧ farFrom (c / 64) x ≤ s.hub.plinth.gdist
    ∧ s.hub.plinth.ghi < (s.gran.entries.filter fun z => z.die == x.die && z.desc.queue == x.desc.queue && z.st == .queued).length := by
  rw [tasksThere, List.mem_filter, eligible_iff, farFrom_eq, Nat.cast_le]
  simp only [gleanable, Bool.and_eq_true, Bool.not_eq_true', bne_iff_ne, decide_eq_true_eq, and_assoc]
  rfl

theorem mem_tillersLikely : x ∈ tillersLikely s c launch mask ↔ Eligible s c launch mask x ∧ x.tiller = true
    ∧ s.hub.plinth.lmin ≤ likeOf x := by
  rw [tillersLikely, List.mem_filter, eligible_iff, Bool.and_eq_true, decide_eq_true_eq]
  rfl

theorem chooseTask_eq : chooseTask s c launch mask = match (sortBy taskBefore (tasksHere s c launch mask)).head?,
    (sortBy (gleanBefore (dieOf c)) (tasksThere s c launch mask)).head?, (sortBy tillerBefore (tillersLikely s c launch mask)).head? with
  | some x, _, _ => some (x, false)
  | none, some x, _ => some (x, true)
  | none, none, some x => some (x, false)
  | none, none, none => none := rfl

/-- Where the Granary chooses, its choice is that of R246. -/
theorem isChoice_of_chooseTask (h : chooseTask s c launch mask = some (x, gl)) : IsChoice s c launch mask x gl := by
  rw [chooseTask_eq] at h
  split at h
  next y _ _ hy =>
    obtain ⟨rfl, rfl⟩ := Prod.mk.inj (Option.some.inj h)
    obtain ⟨hmem, hfirst⟩ := head_sortBy_lex (n := 3) (fun _ => rfl) taskBefore_iff hy
    exact .inl ⟨rfl, mem_tasksHere.mp hmem, fun z hz => hfirst z (mem_tasksHere.mpr hz)⟩
  next y _ hnone hy =>
    obtain ⟨rfl, rfl⟩ := Prod.mk.inj (Option.some.inj h)
    obtain ⟨hmem, hfirst⟩ := head_sortBy_lex (n := 5) (fun _ => rfl) (gleanBefore_iff _) hy
    exact .inr (.inl ⟨rfl, fun z hz => head_sortBy_none hnone z (mem_tasksHere.mpr hz), mem_tasksThere.mp hmem,
      fun z hz => hfirst z (mem_tasksThere.mpr hz)⟩)
  next y hnone hnone' hy =>
    obtain ⟨rfl, rfl⟩ := Prod.mk.inj (Option.some.inj h)
    obtain ⟨hmem, hfirst⟩ := head_sortBy_lex (n := 4) (fun _ => rfl) tillerBefore_iff hy
    exact .inr (.inr ⟨rfl, fun z hz => head_sortBy_none hnone z (mem_tasksHere.mpr hz),
      fun z hz => head_sortBy_none hnone' z (mem_tasksThere.mpr hz), mem_tillersLikely.mp hmem,
      fun z hz => hfirst z (mem_tillersLikely.mpr hz)⟩)
  next => cases h

/-- Where the Granary chooses no task, none is the choice of R246. -/
theorem not_isChoice_of_chooseTask (h : chooseTask s c launch mask = none) : ¬ IsChoice s c launch mask x gl := by
  rw [chooseTask_eq] at h
  split at h
  next => cases h
  next => cases h
  next => cases h
  next hhere hthere hlikely =>
    rintro (⟨-, hx, -⟩ | ⟨-, -, hx, -⟩ | ⟨-, -, -, hx, -⟩)
    · exact head_sortBy_none hhere x (mem_tasksHere.mpr hx)
    · exact head_sortBy_none hthere x (mem_tasksThere.mpr hx)
    · exact head_sortBy_none hlikely x (mem_tillersLikely.mpr hx)

end Choose

end Sys2Proof.Granary
end

section
/-! Proofs for the family of tasks, tillers and the system: how a wait on the Granary ends, and which action the Granary makes next. -/

namespace Sys2Proof.Granary

open Sys2Proof Sys2Proof.Machine Sys2Proof.Spec Sys2Proof.Laws Sys2Proof.Scope Sys2Proof.Sheaves Sys2Proof.MemorySeen

/-! ### Registers written together (R42, R248) -/

@[simp] theorem length_writeVs (t : Thread) (rs : List (Nat × Reg)) : (writeVs t rs).v.length = t.v.length := by
  induction rs generalizing t with
  | nil => rfl
  | cons x r ih =>
    obtain ⟨n, x⟩ := x
    rw [writeVs, ih, writeV, List.length_set]

theorem readV_writeV {t : Thread} {n : Nat} (hn : n < t.v.length) (m : Nat) (x : Reg) :
    readV (writeV t m x) n = if m = n then x else readV t n := by
  simp only [readV, writeV, List.getD_eq_getElem?_getD, List.getElem?_set]
  split
  next h => simp [h, hn]
  next => rfl

/-- Registers of different numbers each take their value, and the others stay. -/
theorem readV_writeVs {rs : List (Nat × Reg)} (hrs : (rs.map (·.1)).Nodup) {t : Thread} {n : Nat} (hn : n < t.v.length) :
    readV (writeVs t rs) n = ((rs.find? fun x => x.1 == n).map (·.2)).getD (readV t n) := by
  induction rs generalizing t with
  | nil => rfl
  | cons x r ih =>
    obtain ⟨m, x⟩ := x
    obtain ⟨hm, hr⟩ := List.nodup_cons.mp hrs
    rw [writeVs, ih hr (by simpa [writeV] using hn), readV_writeV hn]
    by_cases h : m = n
    · subst h
      have hnone : r.find? (fun x => x.1 == m) = none := by
        rw [List.find?_eq_none]
        exact fun y hy hym => hm (List.mem_map.mpr ⟨y, hy, by simpa using hym⟩)
      simp [hnone]
    · simp [h]

/-! ### The end of a wait (R27, R42) -/

theorem endWait_wait_more (ck : Clock) (k : Core) (t : Thread) (w : Wait) (st : Status) (more : List (Nat × Reg)) :
    (endWait ck k t w st more).wait = none := fallThrough_wait ..

theorem endWait_v_more (ck : Clock) (k : Core) (t : Thread) (w : Wait) (st : Status) (more : List (Nat × Reg)) :
    (endWait ck k t w st more).v = (writeV (writeVs t more) w.reg (codeOfStatus st)).v := by
  have hwait (rs : List (Nat × Reg)) (u v : Thread) (h : u.v = v.v) : (writeVs u rs).v = (writeVs v rs).v := by
    induction rs generalizing u v with
    | nil => exact h
    | cons x r ih => exact ih _ _ (by simp only [writeV, h])
  rw [← codeOfStatus_eq]
  refine (fallThrough_v ..).trans ((keeps_countStatus ck.escl _ st).v.trans ?_)
  simp only [writeV, hwait more { t with wait := none } t rfl]

theorem endWait_id_more (ck : Clock) (k : Core) (t : Thread) (w : Wait) (st : Status) (more : List (Nat × Reg)) :
    (endWait ck k t w st more).id = t.id := by
  have hwait (rs : List (Nat × Reg)) (u : Thread) : (writeVs u rs).id = u.id := by
    induction rs generalizing u with
    | nil => rfl
    | cons x r ih => exact ih _
  exact (fallThrough_id ..).trans ((keeps_countStatus ck.escl _ st).id.trans (hwait more _))

/-- A core that holds a thread is one of the device. -/
theorem lt_of_thread {s : State} {c sl : Nat} {t : Thread} (h : s.thread c sl = some t) : c < s.cores.length := by
  by_contra hc
  have hreset : s.core c = Core.reset := List.getD_eq_default _ _ (not_lt.mp hc)
  rw [State.thread, hreset] at h
  cases h

theorem thread_modThread {s : State} {c sl : Nat} {t : Thread} (h : s.thread c sl = some t) {f : Thread → Thread}
    (hf : ∀ u, (f u).id = u.id) : (s.modThread c sl f).thread c sl = some (f t) := by
  have hid (u : Thread) : (if u.id.slot == sl then f u else u).id = u.id := by
    split
    · exact hf u
    · rfl
  have hslot : t.id.slot = sl := by simpa using List.find?_some h
  rw [State.thread, State.modThread, core_modCore (lt_of_thread h)]
  refine (threadAt_map (g := fun t => if t.id.slot == sl then f t else t) hid sl).trans ?_
  rw [show threadAt (s.core c).threads sl = some t from h]
  simp [hslot]

theorem thread_settle {s : State} {c sl : Nat} {t : Thread} (h : s.thread c sl = some t) :
    ∃ ck k, (s.settle c).thread c sl = some (settledThread ck k t) := by
  refine ⟨s.clock, s.core c, ?_⟩
  rw [State.thread, State.settle, core_modCore (lt_of_thread h), threadAt_settled, show threadAt (s.core c).threads sl = some t from h]
  rfl

theorem keeps_settledThread (ck : Clock) (k : Core) (t : Thread) : Keeps t (settledThread ck k t) :=
  (keeps_settleHold ck k t).trans (keeps_settleForm ..)

theorem settledThread_wait (ck : Clock) (k : Core) (t : Thread) : (settledThread ck k t).wait = t.wait :=
  (settleForm_wait ..).trans (settleHold_wait ..)

/-- A wait that ends leaves its registers and its status, whatever has changed beside the thread's registers before. -/
theorem answered_endWaitAt {s s1 : State} {c : Nat} {t u : Thread} {w : Wait} {st : Status} {more : List (Nat × Reg)}
    (hu : s.thread c t.id.slot = some t → s1.thread c t.id.slot = some u) (hv : u.v = t.v) (hw : u.wait = some w)
    (hmore : (more.map (·.1)).Nodup) :
    Answered s (s1.endWaitAt c t.id.slot st more) c t ((w.reg, codeOfStatus st) :: more) := by
  intro ht
  have hid (u : Thread) : (match u.wait with | some w => endWait s1.clock (s1.core c) u w st more | none => u).id = u.id := by
    split
    · exact endWait_id_more ..
    · rfl
  obtain ⟨ck, k, hk⟩ := thread_settle (thread_modThread (hu ht) hid)
  simp only [hw] at hk
  have hread (n : Nat) : readV (settledThread ck k (endWait s1.clock (s1.core c) u w st more)) n =
      readV (writeV (writeVs u more) w.reg (codeOfStatus st)) n := by
    rw [readV, (keeps_settledThread ..).v, endWait_v_more, readV]
  refine ⟨_, hk, ?_, ?_, fun n hn => ?_⟩
  · rw [settledThread_wait, endWait_wait_more]
  · rw [(keeps_settledThread ..).v, endWait_v_more, writeV, List.length_set, length_writeVs, hv]
  · have hn' : n < u.v.length := hv ▸ hn
    rw [hread, readV_writeV (by rwa [length_writeVs]), readV_writeVs hmore hn', List.find?_cons]
    by_cases h : w.reg = n
    · simp [h]
    · have hb : (w.reg == n) = false := beq_eq_false_iff_ne.mpr h
      rw [if_neg h, hb]
      cases more.find? fun x => x.1 == n with
      | none => exact congrArg (fun v : List Reg => v.getD n 0) hv
      | some x => rfl

/-! ### The next action (R253, R254) -/

section Next
variable {s : State}

/-- The threads that wait on the Granary. -/
def waiters (s : State) : List (Nat × Thread) := (everyThread s).filter fun z => granWaits z.2

/-- The order in which words that wait are looked at: from when they wait, then by core and slot. -/
def byAge (x y : Nat × Thread) : Bool := lexBefore (waitKey x) (waitKey y)

theorem mem_waiters {z : Nat × Thread} : z ∈ waiters s ↔ z ∈ everyThread s ∧ granWaits z.2 = true := List.mem_filter

theorem wait_isSome_of_granWaits {t : Thread} (h : granWaits t = true) (hp : t.pend = []) : ∃ w, t.wait = some w := by
  cases hw : t.wait with
  | some w => exact ⟨w, rfl⟩
  | none => simp [granWaits, hp, hw] at h

/-- The next action: a word behind its release, a descriptor that has been read, a word for which there is an entry or a condition, a
taker that has a choice. -/
theorem granNext_eq : granNext s =
    match firstBy (fun x => [actRank x.2.2.act, x.1, x.2.1.id.slot]) ((waiters s).filterMap (pendReady s)) with
    | some (c, t, p) => some (s.performPend c t p)
    | none => match firstBy (fun x => [x.1, x.2.1.id.slot]) (((waiters s).filter (waitTurn s)).filterMap (descReady s)) with
      | some (c, t, w, a, v) => some (s.judgeDesc c t w a v)
      | none => match (sortBy byAge ((waiters s).filter (waitTurn s))).findSome? (serveWait s) with
        | some s1 => some s1
        | none => (sortBy byAge ((waiters s).filter (waitTurn s))).findSome? (serveTake s) := rfl

theorem granNext_of_waiters_nil (h : waiters s = []) : granNext s = none := by
  rw [granNext_eq, h]
  rfl

/-- With no word behind a release and the turn of the waits come, a descriptor that has been read comes first, then entries and
conditions, then takers. -/
theorem granNext_waits (hturn : tickRank 6 2 0 0 ≤ s.phase) (hp : ∀ z ∈ waiters s, z.2.pend = []) : granNext s =
    match firstBy (fun x => [x.1, x.2.1.id.slot]) ((waiters s).filterMap (descReady s)) with
    | some (c, t, w, a, v) => some (s.judgeDesc c t w a v)
    | none => ((sortBy byAge (waiters s)).findSome? (serveWait s)).or ((sortBy byAge (waiters s)).findSome? (serveTake s)) := by
  have hpend : (waiters s).filterMap (pendReady s) = [] :=
    List.filterMap_eq_nil_iff.mpr fun z hz => by simp [pendReady, pendFree, hp z hz]
  have hnow : (waiters s).filter (waitTurn s) = waiters s := by
    refine List.filter_eq_self.mpr fun z hz => ?_
    obtain ⟨w, hw⟩ := wait_isSome_of_granWaits (mem_waiters.mp hz).2 (hp z hz)
    simp [waitTurn, hw, hturn]
  rw [granNext_eq, hpend, hnow]
  simp only [firstBy, List.foldl_nil]
  split
  · rfl
  · cases (sortBy byAge (waiters s)).findSome? (serveWait s) <;> rfl

/-! ### Takers (R245, R246, R248) -/

/-- Only takers wait on the Granary, with no word behind a release, and their turn in the tick has come. -/
def OnlyTakers (s : State) : Prop := tickRank 6 2 0 0 ≤ s.phase ∧
  ∀ z ∈ everyThread s, granWaits z.2 = true → z.2.pend = [] ∧ ∃ w mask, z.2.wait = some w ∧ w.kind = .take mask

theorem granNext_takers (h : OnlyTakers s) : granNext s = (sortBy byAge (waiters s)).findSome? (serveTake s) := by
  obtain ⟨hturn, htake⟩ := h
  have htake' {z : Nat × Thread} (hz : z ∈ waiters s) := htake z (mem_waiters.mp hz).1 (mem_waiters.mp hz).2
  have hdesc : (waiters s).filterMap (descReady s) = [] := by
    refine List.filterMap_eq_nil_iff.mpr fun z hz => ?_
    obtain ⟨-, w, mask, hw, hk⟩ := htake' hz
    simp [descReady, hw, hk]
  have hserve : (sortBy byAge (waiters s)).findSome? (serveWait s) = none := by
    refine List.findSome?_eq_none_iff.mpr fun z hz => ?_
    obtain ⟨-, w, mask, hw, hk⟩ := htake' (mem_sortBy.mp hz)
    simp [serveWait, hw, hk]
  rw [granNext_waits hturn fun z hz => (htake' hz).1, hdesc, hserve]
  rfl

theorem serveTake_of_taker {z : Nat × Thread} {w : Wait} {mask : Quad} (hw : z.2.wait = some w) (hk : w.kind = .take mask) :
    serveTake s z = (chooseTask s z.1 z.2.id.launch mask).map fun y => s.giveTask z.1 z.2 w.reg y.1 y.2 := by
  simp only [serveTake, hw, hk]
  cases chooseTask s z.1 z.2.id.launch mask <;> rfl

theorem granWaits_of_take {t : Thread} {w : Wait} {mask : Quad} (hw : t.wait = some w) (hk : w.kind = .take mask) :
    granWaits t = true := by
  simp [granWaits, hw, hk]

/-- A word's place in the order of age, as whole numbers. -/
def ageKey (x : Nat × Thread) : List Int := [((x.2.wait.map (·.start)).getD 0 : Nat), x.1, x.2.id.slot]

theorem byAge_iff (x y : Nat × Thread) : byAge x y = true ↔ firstLex ((ageKey x).zip (ageKey y)) := by
  simp only [byAge, waitKey, ageKey, lexBefore, List.zip_cons_cons, List.zip_nil_right, firstLex, Nat.cast_lt, Nat.cast_inj, and_true]
  repeat' split
  all_goals simp_all

theorem pairwise_byAge (l : List (Nat × Thread)) : (sortBy byAge l).Pairwise fun x y => firstLex ((ageKey x).zip (ageKey y)) :=
  pairwise_sortBy_lex (n := 3) (fun _ => rfl) byAge_iff l

/-- A task boundary leaves its thread's identity, registers and wait. -/
theorem boundary_frame (k : Core) (q n : Nat) (t : Thread) : boundary k q n t = { t with dbg := (boundary k q n t).dbg } := by
  unfold boundary
  split
  · rfl
  · rfl

theorem runTiller_frame (x : Entry) (t : Thread) :
    runTiller x t = { t with spec := (runTiller x t).spec, outer := (runTiller x t).outer } := by
  unfold runTiller
  split <;> rfl

theorem blockOf_eq (d : Nat) (x : Entry) (gl : Bool) : blockOf d x gl = (d, codeOfStatus .done) :: takeRegs d x gl := by
  have hbit (b : Bool) (m : Nat) : b.toNat * m = if b = true then m else 0 := by cases b <;> simp
  simp only [blockOf, takeRegs, hbit, chainLike_eq]
  rfl

/-- What a take leaves (R246, R248). -/
theorem giveTask_spec {z : Nat × Thread} {w : Wait} (hw : z.2.wait = some w) (x : Entry) (gl : Bool) :
    let s1 := s.giveTask z.1 z.2 w.reg x gl
    let who : Holder := ⟨z.1, z.2.id.launch, z.2.id.tmx, z.2.id.sup, z.2.id.tid⟩
    s1.mem = s.mem ∧ Answered s s1 z.1 z.2 (blockOf w.reg x gl)
      ∧ s1.gran.entries = s.gran.entries.map fun y => if y.die = x.die ∧ y.ix = x.ix then
        { y with st := if y.desc.kind = 1 then y.st else .running, gleaned := gl, provCore := z.1
                 holders := if who ∈ y.holders then y.holders else y.holders ++ [who] } else y := by
  intro s1 who
  have hthread (u : Thread) : (boundary (s.core z.1) x.desc.queue 2 (runTiller x u)).id = u.id
      ∧ (boundary (s.core z.1) x.desc.queue 2 (runTiller x u)).v = u.v
      ∧ (boundary (s.core z.1) x.desc.queue 2 (runTiller x u)).wait = u.wait := by
    rw [boundary_frame, runTiller_frame]
    exact ⟨rfl, rfl, rfl⟩
  refine ⟨rfl, ?_, ?_⟩
  · rw [blockOf_eq]
    obtain ⟨-, hv, hwait⟩ := hthread z.2
    refine answered_endWaitAt (fun ht => thread_modThread ?_ fun u => (hthread u).1) hv (hwait.trans hw) ?_
    · exact ht
    · simp [takeRegs]
  · refine List.map_congr_left fun y _ => ?_
    simp only [takenEntry, Bool.and_eq_true, beq_iff_eq, List.contains_iff_mem]
    rfl

/-- R245, R246: the taker that has waited longest of those for which a task can be chosen takes it. -/
theorem takersAreServed : TakersAreServed s := by
  unfold TakersAreServed
  intro waits hturn htake
  have honly : OnlyTakers s := ⟨hturn, htake⟩
  have hwaits {z : Nat × Thread} {w : Wait} {mask : Quad} (hz : waits z w mask) : z ∈ sortBy byAge (waiters s) :=
    mem_sortBy.mpr (mem_waiters.mpr ⟨hz.1, granWaits_of_take hz.2.1 hz.2.2⟩)
  rw [granNext_takers honly]
  cases hnext : (sortBy byAge (waiters s)).findSome? (serveTake s) with
  | none =>
    refine .inl ⟨rfl, fun z w mask hz x gl => not_isChoice_of_chooseTask ?_⟩
    have hnone := List.findSome?_eq_none_iff.mp hnext z (hwaits hz)
    rwa [serveTake_of_taker hz.2.1 hz.2.2, Option.map_eq_none_iff] at hnone
  | some s1 =>
    obtain ⟨l, z, r, hl, hz, hbefore⟩ := List.findSome?_eq_some_iff.mp hnext
    have hmem : z ∈ waiters s := mem_sortBy.mp (hl ▸ List.mem_append_right l List.mem_cons_self)
    obtain ⟨-, w, mask, hw, hk⟩ := htake z (mem_waiters.mp hmem).1 (mem_waiters.mp hmem).2
    rw [serveTake_of_taker hw hk, Option.map_eq_some_iff] at hz
    obtain ⟨⟨x, gl⟩, hchoose, rfl⟩ := hz
    refine .inr ⟨z, w, mask, x, gl, ⟨(mem_waiters.mp hmem).1, hw, hk⟩, isChoice_of_chooseTask hchoose, fun y v m a b hy hchoice => ?_,
      _, rfl, giveTask_spec hw x gl⟩
    have hlater : firstLex ((ageKey z).zip (ageKey y)) := by
      rcases List.mem_append.mp (hl ▸ hwaits hy) with hy' | hy'
      · have hnone := hbefore y hy'
        rw [serveTake_of_taker hy.2.1 hy.2.2, Option.map_eq_none_iff] at hnone
        exact absurd hchoice (not_isChoice_of_chooseTask hnone)
      · rcases List.mem_cons.mp hy' with rfl | hy'
        · exact (firstLex_total _ _).elim id id
        · have hsorted := hl ▸ pairwise_byAge (waiters s)
          exact List.rel_of_pairwise_cons (List.pairwise_append.mp hsorted).2.1 hy'
    simp only [ageKey, hw, hy.2.1, Option.map_some, Option.getD_some] at hlater
    exact hlater

end Next

end Sys2Proof.Granary
end

section
/-! Proofs for the family of tasks, tillers and the system: the pass of the Granary, and how words that wait for an entry or a condition end. -/

namespace Sys2Proof.Granary

open Sys2Proof Sys2Proof.Machine Sys2Proof.Spec Sys2Proof.Laws

/-! ### The pass (R253, R254) -/

section Pass
variable {s : State}

theorem le_turns (l : List (Nat × Thread)) (n : Nat) : n ≤ l.foldl (fun n x => n + 2 + x.2.pend.length) n := by
  induction l generalizing n with
  | nil => exact le_rfl
  | cons x l ih => exact le_trans (Nat.le_add_right_of_le (Nat.le_add_right n 2)) (ih _)

theorem waiters_ne_nil {s1 : State} (h : granNext s = some s1) : waiters s ≠ [] :=
  fun hnil => absurd (h.symm.trans (granNext_of_waiters_nil hnil)) (by simp)

/-- With something that waits the pass has more than one turn. -/
theorem two_le_turns (h : waiters s ≠ []) : 2 ≤ (waiters s).foldl (fun n x => n + 2 + x.2.pend.length) 0 := by
  obtain ⟨x, l, hl⟩ := List.exists_cons_of_ne_nil h
  rw [hl, List.foldl_cons]
  exact le_trans (by omega) (le_turns l _)

theorem settleGran_eq {s1 : State} (h : granLoop ((waiters s).foldl (fun n x => n + 2 + x.2.pend.length) 0) s = s1)
    (hf : ¬ ∃ z ∈ everyThread s1, atFence z.2 = true) : s.settleGran = s1 := by
  have hfence : (everyThread s1).any (fun x => atFence x.2) = false :=
    Bool.eq_false_iff.mpr fun hany => hf (List.any_eq_true.mp hany)
  have hdef : s.settleGran = if (everyThread (granLoop ((waiters s).foldl (fun n x => n + 2 + x.2.pend.length) 0) s)).any
      (fun x => atFence x.2) then (granLoop ((waiters s).foldl (fun n x => n + 2 + x.2.pend.length) 0) s).settleWaits
    else granLoop ((waiters s).foldl (fun n x => n + 2 + x.2.pend.length) 0) s := rfl
  rw [hdef, h, hfence]
  rfl

theorem granLoop_of_granNext_none (n : Nat) (h : granNext s = none) : granLoop n s = s := by
  cases n with
  | zero => rfl
  | succ n => rw [granLoop, h]

/-- R253, R254: the pass makes the next action while there is one. -/
theorem granaryPass : GranaryPass s := by
  unfold GranaryPass
  refine ⟨fun hnone hf => settleGran_eq (granLoop_of_granNext_none _ hnone) hf, fun s1 hsome hnone hf => settleGran_eq ?_ hf⟩
  obtain ⟨n, hn⟩ := Nat.exists_eq_add_of_le' (two_le_turns (waiters_ne_nil hsome))
  rw [hn, granLoop, hsome]
  exact granLoop_of_granNext_none _ hnone

end Pass

/-! ### One thread that waits (R254) -/

/-- Of copies of one candidate the first is that one. -/
theorem firstBy_of_forall_eq {α : Type} {key : α → List Nat} {l : List α} {y : α} (hl : ∀ x ∈ l, x = y) (hy : y ∈ l) :
    firstBy key l = some y := by
  have hfold (r : List α) (hr : ∀ x ∈ r, x = y) : r.foldl (fun m x => match m with
      | none => some x
      | some y => if lexBefore (key y) (key x) then some y else some x) (some y) = some y := by
    induction r with
    | nil => rfl
    | cons x r ih =>
      obtain ⟨rfl, hr⟩ := List.forall_mem_cons.mp hr
      simpa only [List.foldl_cons, ite_self] using ih hr
  cases l with
  | nil => cases hy
  | cons x l =>
    obtain ⟨rfl, hl⟩ := List.forall_mem_cons.mp hl
    exact hfold l hl

theorem findSome_of_forall_eq {α β : Type} {f : α → Option β} {l : List α} {y : α} (hl : ∀ x ∈ l, x = y) (hy : y ∈ l) :
    l.findSome? f = f y := by
  cases hf : f y with
  | none => exact List.findSome?_eq_none_iff.mpr fun x hx => hl x hx ▸ hf
  | some z =>
    cases l with
    | nil => cases hy
    | cons x l => rw [List.findSome?_cons, hl x List.mem_cons_self, hf]

section Only
variable {s : State} {c : Nat} {t : Thread} {w : Wait}

theorem granNext_only (h : OnlyWaits s c t) (hg : granWaits t = true) : granNext s =
    match descReady s (c, t) with
    | some (c, t, w, a, v) => some (s.judgeDesc c t w a v)
    | none => (serveWait s (c, t)).or (serveTake s (c, t)) := by
  obtain ⟨hturn, hmem, honly, hpend⟩ := h
  have hin : (c, t) ∈ waiters s := mem_waiters.mpr ⟨hmem, hg⟩
  have hall : ∀ z ∈ waiters s, z = (c, t) := fun z hz => honly z (mem_waiters.mp hz).1 (mem_waiters.mp hz).2
  have hsorted : ∀ z ∈ sortBy byAge (waiters s), z = (c, t) := fun z hz => hall z (mem_sortBy.mp hz)
  rw [granNext_waits hturn fun z hz => hall z hz ▸ hpend, findSome_of_forall_eq hsorted (mem_sortBy.mpr hin),
    findSome_of_forall_eq hsorted (mem_sortBy.mpr hin)]
  cases hd : descReady s (c, t) with
  | none =>
    rw [List.filterMap_eq_nil_iff.mpr fun z hz => hall z hz ▸ hd]
    rfl
  | some y =>
    rw [firstBy_of_forall_eq (y := y) (fun x hx => ?_) (List.mem_filterMap.mpr ⟨_, hin, hd⟩)]
    obtain ⟨z, hz, hx⟩ := List.mem_filterMap.mp hx
    exact Option.some.inj (hx.symm.trans ((congrArg _ (hall z hz)).trans hd))

variable (h : OnlyWaits s c t) (hw : t.wait = some w)
include h hw

theorem granNext_put {d : Desc} (hk : w.kind = .put d) : granNext s = s.tryPut c t w.reg d := by
  rw [granNext_only h (by simp [granWaits, hw, hk])]
  simp [descReady, serveWait, serveTake, hw, hk]

theorem granNext_spawn {d : Desc} {a : SpawnArg} (hk : w.kind = .spawn d a) : granNext s = s.trySpawn c t w.reg d a := by
  rw [granNext_only h (by simp [granWaits, hw, hk])]
  simp [descReady, serveWait, serveTake, hw, hk]

theorem granNext_condNew (hk : w.kind = .condNew) : granNext s = s.tryCond c t w.reg := by
  rw [granNext_only h (by simp [granWaits, hw, hk])]
  simp [descReady, serveWait, serveTake, hw, hk]

theorem granNext_desc {a : Option SpawnArg} {ws : List Quad} {ids posts : List Nat} (hk : w.kind = .desc a ws ids posts)
    (hacc : ∀ b ∈ t.acc, isDescRead b = false ∧ b.id ∉ ids) (hposts : ∀ p ∈ s.posted, p.id ∉ posts) :
    granNext s = some (s.judgeDesc c t w a (joinWords ws)) := by
  have hread : t.acc.any isDescRead = false := List.any_eq_false.mpr fun b hb => by simp [(hacc b hb).1]
  have hrel : relOk s t ids posts = true := by
    simp only [relOk, postedAny, Bool.and_eq_true, Bool.not_eq_true', List.any_eq_false, List.contains_iff_mem]
    exact ⟨fun b hb => (hacc b hb).2, hposts⟩
  rw [granNext_only h (by simp [granWaits, hw, hk])]
  simp [descReady, hw, hk, hread, hrel]

end Only

end Sys2Proof.Granary
end

section
/-! Proofs for the family of tasks, tillers and the system: places for tasks and conditions, and the words that wait for them. -/

namespace Sys2Proof.Granary

open Sys2Proof Sys2Proof.Machine Sys2Proof.Spec Sys2Proof.Laws

/-! ### The lowest free number (R244, R256) -/

theorem mem_of_lt_firstFree (used : List Nat) : ∀ (fuel n j : Nat), n ≤ j → j < firstFree used fuel n → j ∈ used
  | 0, _, _, hn, hj => absurd hj (not_lt.mpr hn)
  | fuel + 1, n, j, hn, hj => by
    rw [firstFree] at hj
    split at hj
    next h =>
      rcases eq_or_lt_of_le hn with rfl | hlt
      · exact List.contains_iff_mem.mp h
      · exact mem_of_lt_firstFree used fuel (n + 1) j hlt hj
    next => exact absurd hj (not_lt.mpr hn)

theorem firstFree_mem (used : List Nat) : ∀ (fuel n : Nat), firstFree used fuel n ∈ used → firstFree used fuel n = n + fuel
  | 0, _, _ => rfl
  | fuel + 1, n, hmem => by
    rw [firstFree] at hmem ⊢
    split at hmem
    next h => rw [if_pos h, firstFree_mem used fuel (n + 1) hmem, Nat.add_right_comm, Nat.add_assoc]
    next h => exact absurd (List.contains_iff_mem.mpr hmem) h

/-- A list of `n` numbers lacks one of 0 to `n`. -/
theorem firstFree_notMem (used : List Nat) : firstFree used used.length 0 ∉ used := by
  intro hmem
  have heq := firstFree_mem used used.length 0 hmem
  have hsub : List.range (used.length + 1) ⊆ used := fun j hj => by
    rcases Nat.lt_succ_iff_lt_or_eq.mp (List.mem_range.mp hj) with hlt | rfl
    · exact mem_of_lt_firstFree used _ 0 j (Nat.zero_le j) (by rwa [heq, Nat.zero_add])
    · rwa [heq, Nat.zero_add] at hmem
  have hlen := (List.nodup_range.subperm hsub).length_le
  rw [List.length_range] at hlen
  exact absurd hlen (by omega)

theorem firstFree_eq_iff {used : List Nat} {n : Nat} : firstFree used used.length 0 = n ↔ n ∉ used ∧ ∀ j < n, j ∈ used := by
  constructor
  · rintro rfl
    exact ⟨firstFree_notMem used, fun j hj => mem_of_lt_firstFree used _ 0 j (Nat.zero_le j) hj⟩
  · rintro ⟨hn, hlow⟩
    rcases lt_trichotomy (firstFree used used.length 0) n with h | h | h
    · exact absurd (hlow _ h) (firstFree_notMem used)
    · exact h
    · exact absurd (mem_of_lt_firstFree used _ 0 n (Nat.zero_le n) h) hn

/-! ### Places of tasks (R244, R245) -/

section Place
variable {s : State} {c : Nat} {d : Desc} {die ix : Nat}

theorem freeEntryIx_eq_some : freeEntryIx s die = some ix ↔ ix < 16384 ∧ die < 4
    ∧ (∀ y ∈ s.gran.entries, ¬ (y.die = die ∧ y.ix = ix)) ∧ ∀ j < ix, ∃ y ∈ s.gran.entries, y.die = die ∧ y.ix = j := by
  have hused (j : Nat) : j ∈ (s.gran.entries.filter fun x => x.die == die).map (·.ix) ↔ ∃ y ∈ s.gran.entries, y.die = die ∧ y.ix = j := by
    simp [and_assoc]
  have hfirst := firstFree_eq_iff (used := (s.gran.entries.filter fun x => x.die == die).map (·.ix)) (n := ix)
  simp only [hused, not_exists, not_and] at hfirst
  simp only [freeEntryIx, Option.ite_none_right_eq_some, Option.some.injEq, Bool.and_eq_true, decide_eq_true_eq, not_and, ← hfirst]
  constructor
  · rintro ⟨⟨hix, hdie⟩, rfl⟩
    exact ⟨hix, hdie, rfl⟩
  · rintro ⟨hix, hdie, rfl⟩
    exact ⟨⟨hix, hdie⟩, rfl⟩

theorem canPut_eq_some : canPut s d (dieOf c) = some (die, ix) ↔ IsPlace s d (c / 64) die ix := by
  have hput : canPut s d (dieOf c) = some (die, ix) ↔ die = taskDie d (dieOf c) ∧ freeEntryIx s die = some ix
      ∧ queueCount s die d.queue < qlimOf s die d.queue := by
    rw [canPut]
    cases hfree : freeEntryIx s (taskDie d (dieOf c)) with
    | none => exact iff_of_false (by simp) (by rintro ⟨rfl, hsome, -⟩; simp [hfree] at hsome)
    | some n =>
      simp only [Option.ite_none_right_eq_some, Option.some.injEq, Prod.mk.injEq]
      constructor
      · rintro ⟨hlt, rfl, rfl⟩
        exact ⟨rfl, hfree, hlt⟩
      · rintro ⟨rfl, hsome, hlt⟩
        exact ⟨hlt, rfl, Option.some.inj (hfree.symm.trans hsome)⟩
  rw [hput, freeEntryIx_eq_some, IsPlace]
  constructor
  · rintro ⟨hdie, ⟨hix, hlt, hno, hlow⟩, hlim⟩
    exact ⟨hdie, hlt, hix, hno, hlow, hlim⟩
  · rintro ⟨hdie, hlt, hix, hno, hlow, hlim⟩
    exact ⟨hdie, ⟨hix, hlt, hno, hlow⟩, hlim⟩

theorem canPut_eq_none (h : ∀ die ix, ¬ IsPlace s d (c / 64) die ix) : canPut s d (dieOf c) = none :=
  Option.eq_none_iff_forall_ne_some.mpr fun _ hy => h _ _ (canPut_eq_some.mp hy)

end Place

end Sys2Proof.Granary
end

section
/-! Proofs for the family of tasks, tillers and the system: what the words that read a descriptor, or wait for an entry or a condition, are
answered. -/

namespace Sys2Proof.Granary

open Sys2Proof Sys2Proof.Machine Sys2Proof.Spec Sys2Proof.Laws Sys2Proof.Waiting Sys2Proof.Arithmetic Sys2Proof.MatrixWords

/-! ### Answers -/

/-- The next action leaves memory and answers the word of thread `t` with `regs`. -/
def Replies (s : State) (c : Nat) (t : Thread) (s1 : State) (regs : List (Nat × Reg)) : Prop :=
  granNext s = some s1 ∧ s1.mem = s.mem ∧ Answered s s1 c t regs

theorem nextSeq_pos (n m : Nat) : 0 < nextSeq n m := by
  unfold nextSeq
  split
  · exact Nat.one_pos
  · exact Nat.pos_of_ne_zero ‹_›

section Answers
variable {s s2 : State} {c : Nat} {t : Thread} {w : Wait}

theorem replies_endWaitAt {st : Status} {more : List (Nat × Reg)} (hnext : granNext s = some (s2.endWaitAt c t.id.slot st more))
    (hw : t.wait = some w) (hmore : (more.map (·.1)).Nodup) (hmem : s2.mem = s.mem := by rfl) (hcores : s2.cores = s.cores := by rfl) :
    Replies s c t (s2.endWaitAt c t.id.slot st more) ((w.reg, codeOfStatus st) :: more) := by
  refine ⟨hnext, hmem, answered_endWaitAt (u := t) (fun ht => ?_) rfl hw hmore⟩
  rw [← ht, State.thread, State.core, hcores]
  rfl

variable (h : OnlyWaits s c t) (hw : t.wait = some w)
include h hw

/-! ### Detached threads (R262) -/

/-- R262: a thread detached while it waits gets no entry and no condition. -/
theorem detached_withdrawn (hdet : isDetached t = true)
    (hk : (∃ d, w.kind = .put d) ∨ (∃ d a, w.kind = .spawn d a) ∨ w.kind = .condNew) :
    ∃ s1, Replies s c t s1 [(w.reg, 4)] ∧ s1.gran = s.gran := by
  have hnext : granNext s = some (s.endWaitAt c t.id.slot .withdrawn []) := by
    rcases hk with ⟨d, hk⟩ | ⟨d, a, hk⟩ | hk
    · rw [granNext_put h hw hk, State.tryPut, State.refuseDetached, if_pos hdet]
    · rw [granNext_spawn h hw hk, State.trySpawn, State.refuseDetached, if_pos hdet]
    · rw [granNext_condNew h hw hk, State.tryCond, State.refuseDetached, if_pos hdet]
  exact ⟨_, replies_endWaitAt hnext hw List.nodup_nil, rfl⟩

end Answers

/-! ### Descriptors that have been read (R242, R245, R257) -/

section Desc
variable {s : State} {c : Nat} {t : Thread} {w : Wait} {v n : Nat}

/-- A fault of a descriptor: its code, or 3 and the number of the fault. -/
theorem replies_fault (hnext : granNext s = some (s.endWaitAt c t.id.slot .fault [(w.reg + 1, regOf n)])) (hw : t.wait = some w) :
    ∃ s1, Replies s c t s1 [(w.reg, 3), (w.reg + 1, BitVec.ofNat 32 n)] ∧ s1.gran = s.gran :=
  ⟨_, replies_endWaitAt hnext hw (List.nodup_singleton _), rfl⟩

variable (hdet : isDetached t = false)
include hdet

theorem judgeDesc_put : s.judgeDesc c t w none v =
    if malformed v = true ∨ (descOf v).kind = 2 then s.endWaitAt c t.id.slot .fault [(w.reg + 1, regOf 7)]
    else if ¬ ((descOf v).amode = 0 ∨ bitAt (partMask s t.id.launch) (descOf v).acore = true)
        ∨ ¬ (qmaskOf s t.id.launch).getLsbD (descOf v).queue = true then
      s.endWaitAt c t.id.slot .fault [(w.reg + 1, regOf 8)]
    else s.waitKind c t.id.slot (.put (descOf v)) := by
  simp only [State.judgeDesc, hdet, acoreOk, holdsQ, Bool.or_eq_true, Bool.not_eq_true', beq_iff_eq, Bool.false_eq_true, if_false,
    ← Bool.not_eq_true]

theorem judgeDesc_spawn (b : SpawnArg) : s.judgeDesc c t w (some b) v =
    if malformed v = true ∨ (descOf v).kind ≠ 2 ∨ b.rsvd = true then s.endWaitAt c t.id.slot .fault [(w.reg + 1, regOf 7)]
    else if 8 < (parentChain s t).length + (if viewCond s t.id.launch b.cref = .resolved b.side then 0 else 1)
        ∨ ¬ (qmaskOf s t.id.launch).getLsbD (descOf v).queue = true then
      s.endWaitAt c t.id.slot .fault [(w.reg + 1, regOf 8)]
    else s.waitKind c t.id.slot (.spawn (descOf v) b) := by
  have hlong : chainTooLong s t b = true ↔
      8 < (parentChain s t).length + if viewCond s t.id.launch b.cref = .resolved b.side then 0 else 1 := by
    rw [chainTooLong, decide_eq_true_eq]
    cases viewCond s t.id.launch b.cref <;> simp
  simp only [State.judgeDesc, hdet, ← hlong, holdsQ, Bool.or_eq_true, Bool.not_eq_true', bne_iff_ne, Bool.false_eq_true,
    if_false, or_assoc, ← Bool.not_eq_true]

end Desc

/-! ### New entries (R241, R245, R263) -/

/-- An entry without its provisional store. -/
def unheld (y : Entry) : Entry := { y with prov := [], provCore := 0 }

/-- Items that enter provisional stores change nothing else. -/
theorem hold_frame (s : State) (c : Nat) (tillers : List (Nat × Nat × Nat)) (items : List Held) :
    (s.hold c tillers items).mem = s.mem ∧ (s.hold c tillers items).cores = s.cores
      ∧ (s.hold c tillers items).gran.entries.map unheld = s.gran.entries.map unheld := by
  induction tillers generalizing s with
  | nil => exact ⟨rfl, rfl, rfl⟩
  | cons x l ih =>
    obtain ⟨hmem, hcores, hentries⟩ := ih (s.modEntry x.1 x.2.1 fun y => { y with prov := y.prov ++ items, provCore := c })
    refine ⟨hmem, hcores, hentries.trans ?_⟩
    rw [State.modEntry, List.map_map]
    refine List.map_congr_left fun y _ => ?_
    rw [Function.comp_apply]
    split <;> rfl

theorem newEntry_isNew (s : State) (t : Thread) (d : Desc) (die ix : Nat) (st : EState) :
    NewEntry s t d die ix (newEntry s die ix t.id.launch d st) :=
  ⟨rfl, rfl, rfl, rfl, rfl, rfl, rfl, rfl, rfl, rfl, rfl, rfl, rfl, rfl⟩

section Words
variable {s : State} {c : Nat} {t : Thread} {w : Wait} (h : OnlyWaits s c t) (hw : t.wait = some w) (hdet : isDetached t = false)
include h hw hdet

/-- R245: with no place for its task a TASK.PUT waits on. -/
theorem put_waits {d : Desc} (hk : w.kind = .put d) (hfull : ∀ die ix, ¬ IsPlace s d (c / 64) die ix) : granNext s = none := by
  rw [granNext_put h hw hk, State.tryPut, State.refuseDetached, hdet, canPut_eq_none hfull]
  rfl

/-- R245, R263: a TASK.PUT makes its entry in the place that there is. -/
theorem put_makes {d : Desc} (hk : w.kind = .put d) {die ix : Nat} (hplace : IsPlace s d (c / 64) die ix) :
    ∃ s1 x, Replies s c t s1 [(w.reg, 0), (w.reg + 1, refOf x)] ∧ NewEntry s t d die ix x
      ∧ x.st = (if runsTiller t = true then .held else if d.dep = 0 then .queued else .pending) ∧ x.tiller = false ∧ x.chain = []
      ∧ (runsTiller t = false → s1.gran.entries = s.gran.entries ++ [x])
      ∧ s1.gran.entries.map unheld = (s.gran.entries ++ [x]).map unheld := by
  let x := newEntry s die ix t.id.launch d (if runsTiller t then .held else openState d.dep)
  obtain ⟨hmem, hcores, hentries⟩ := hold_frame (s.addEntry x) c (heldFor anyWord t) [.act (.put die ix) (16 * s.cycle)]
  have hnext : granNext s = some (((s.addEntry x).hold c (heldFor anyWord t) [.act (.put die ix) (16 * s.cycle)]).endWaitAt c t.id.slot
      .done [(w.reg + 1, taskRef x)]) := by
    rw [granNext_put h hw hk, State.tryPut, State.refuseDetached, hdet, canPut_eq_some.mpr hplace]
    rfl
  refine ⟨_, x, replies_endWaitAt hnext hw (List.nodup_singleton _) hmem hcores, newEntry_isNew .., rfl, rfl, rfl, fun hrun => ?_, hentries⟩
  rw [heldFor_of_no_tiller hrun, hold_nil]
  rfl

end Words

/-! ### SPAWN (R257, R259) -/

/-- The entry of a tiller, or of a task whose chain is empty. -/
def spawnEntry (s : State) (t : Thread) (d : Desc) (chain : List Link) (die ix : Nat) : Entry :=
  { newEntry s die ix t.id.launch d .queued with tiller := !chain.isEmpty, chain := chain, parent := runOf t }

/-- SPAWN makes its entry when there is a place, on a chain, and on the condition from which its site is to learn. -/
def spawnOn (s : State) (c : Nat) (t : Thread) (reg : Nat) (d : Desc) (a : SpawnArg) (chain : List Link) (on : Option Nat) : Option State :=
  (canPut s d (dieOf c)).map fun y =>
    ((s.addEntry (spawnEntry s t d chain y.1 y.2)).learnFrom (if a.learn then on else none) a.site a.side).endWaitAt c t.id.slot .done
      [(reg + 1, taskRef (spawnEntry s t d chain y.1 y.2))]

theorem trySpawn_attached {s : State} {t : Thread} (hdet : isDetached t = false) (c reg : Nat) (d : Desc) (a : SpawnArg) :
    s.trySpawn c t reg d a = match viewCond s t.id.launch a.cref with
      | .stale => some (s.endWaitAt c t.id.slot .stale [])
      | .absent => some (s.endWaitAt c t.id.slot .absent [])
      | .resolved v =>
        if v = a.side then spawnOn s c t reg d a (parentChain s t) none else some (s.endWaitAt c t.id.slot .absent [])
      | .live n => spawnOn s c t reg d a (parentChain s t ++ [⟨n, a.side, if a.psrc then predOf s a.site else a.p⟩]) (some n) := by
  rw [State.trySpawn, State.refuseDetached, hdet]
  simp only [spawnOn]
  cases canPut s d (dieOf c) <;> cases viewCond s t.id.launch a.cref <;> simp only [beq_iff_eq] <;> rfl

/-- No condition has the number `none`. -/
theorem learnFrom_conds (s : State) (a : SpawnArg) (on : Option Nat) :
    (s.learnFrom (if a.learn then on else none) a.site a.side).gran.conds =
      s.gran.conds.map fun x => if a.learn = true ∧ x.live = true ∧ on = some x.num then
        { x with learners := x.learners ++ [(a.site, a.side)] } else x := by
  refine List.map_congr_left fun x _ => ?_
  cases a.learn <;> simp

section Spawn
variable {s : State} {c : Nat} {t : Thread} {w : Wait} (hw : t.wait = some w)
include hw

theorem spawnOn_makes {d : Desc} {a : SpawnArg} {chain : List Link} {on : Option Nat} {conds : List Cond}
    (hnext : granNext s = spawnOn s c t w.reg d a chain on)
    (hconds : (s.learnFrom (if a.learn then on else none) a.site a.side).gran.conds = conds) :
    ((∀ die ix, ¬ IsPlace s d (c / 64) die ix) → granNext s = none)
    ∧ ∀ die ix, IsPlace s d (c / 64) die ix → ∃ s1 x, Replies s c t s1 [(w.reg, 0), (w.reg + 1, refOf x)] ∧ NewEntry s t d die ix x
      ∧ x.st = .queued ∧ x.tiller = !chain.isEmpty ∧ x.chain = chain ∧ x.parent = runOf t
      ∧ s1.gran.entries = s.gran.entries ++ [x] ∧ s1.gran.conds = conds := by
  refine ⟨fun hfull => ?_, fun die ix hplace => ?_⟩
  · rw [hnext, spawnOn, canPut_eq_none hfull]
    rfl
  · rw [spawnOn, canPut_eq_some.mpr hplace, Option.map_some] at hnext
    exact ⟨_, spawnEntry s t d chain die ix, replies_endWaitAt hnext hw (List.nodup_singleton _),
      newEntry_isNew s t d die ix .queued, rfl, rfl, rfl, rfl, rfl, hconds⟩

/-- A SPAWN that makes nothing, by its condition. -/
theorem replies_status {st : Status} (hnext : granNext s = some (s.endWaitAt c t.id.slot st [])) :
    ∃ s1, Replies s c t s1 [(w.reg, codeOfStatus st)] ∧ s1.gran = s.gran :=
  ⟨_, replies_endWaitAt hnext hw List.nodup_nil, rfl⟩

end Spawn

/-! ### Conditions (R256) -/

theorem freeCond_eq {s : State} {n : Nat} (hn : n < 4096) (hfree : ¬ ∃ x ∈ s.gran.conds, x.live = true ∧ x.num = n)
    (hlow : ∀ j < n, ∃ x ∈ s.gran.conds, x.live = true ∧ x.num = j) :
    freeCond s = some (n, nextSeq (((s.gran.conds.find? fun c => c.num == n).map (·.seq)).getD 0) (2 ^ 20)) := by
  have hused (j : Nat) : j ∈ (s.gran.conds.filter (·.live)).map (·.num) ↔ ∃ x ∈ s.gran.conds, x.live = true ∧ x.num = j := by
    simp [and_assoc]
  have hfirst : firstFree ((s.gran.conds.filter (·.live)).map (·.num)) ((s.gran.conds.filter (·.live)).map (·.num)).length 0 = n :=
    firstFree_eq_iff.mpr ⟨fun hmem => hfree ((hused n).mp hmem), fun j hj => (hused j).mpr (hlow j hj)⟩
  simp only [freeCond, hfirst]
  exact if_pos hn

theorem freeCond_eq_none {s : State} (hfull : ∀ n < 4096, ∃ x ∈ s.gran.conds, x.live = true ∧ x.num = n) : freeCond s = none := by
  refine if_neg fun hlt => ?_
  obtain ⟨x, hx, hlive, hnum⟩ := hfull _ hlt
  exact firstFree_notMem _ (List.mem_map.mpr ⟨x, List.mem_filter.mpr ⟨hx, hlive⟩, hnum⟩)

section CondNew
variable {s : State} {c : Nat} {t : Thread} {w : Wait} (h : OnlyWaits s c t) (hw : t.wait = some w) (hdet : isDetached t = false)
  (hk : w.kind = .condNew)
include h hw hdet hk

theorem condNew_waits (hfull : ∀ n < 4096, ∃ x ∈ s.gran.conds, x.live = true ∧ x.num = n) : granNext s = none := by
  rw [granNext_condNew h hw hk, State.tryCond, State.refuseDetached, hdet, freeCond_eq_none hfull]
  rfl

theorem condNew_makes {n : Nat} (hn : n < 4096) (hfree : ¬ ∃ x ∈ s.gran.conds, x.live = true ∧ x.num = n)
    (hlow : ∀ j < n, ∃ x ∈ s.gran.conds, x.live = true ∧ x.num = j) :
    ∃ s1 x, Replies s c t s1 [(w.reg, 0), (w.reg + 1, BitVec.ofNat 32 (n + x.seq * 2 ^ 12))]
      ∧ s1.gran.conds = x :: s.gran.conds.filter (fun y => y.num != n) ∧ x.num = n ∧ x.launch = t.id.launch ∧ x.live = true
      ∧ x.val = none ∧ 0 < x.seq ∧ x.owners = (specs t).filterMap runKey := by
  let x : Cond := ⟨n, nextSeq (((s.gran.conds.find? fun c => c.num == n).map (·.seq)).getD 0) (2 ^ 20), t.id.launch, true, none,
    (specs t).filterMap runKey, []⟩
  have hnext : granNext s = some ((s.addCond x).endWaitAt c t.id.slot .done [(w.reg + 1, regOf (n + x.seq * 2 ^ 12))]) := by
    rw [granNext_condNew h hw hk, State.tryCond, State.refuseDetached, hdet, freeCond_eq hn hfree hlow]
    rfl
  exact ⟨_, x, replies_endWaitAt hnext hw (List.nodup_singleton _), rfl, rfl, rfl, rfl, rfl, nextSeq_pos _ _, rfl⟩

end CondNew

/-- R242, R245, R253, R256, R257, R262, R263: how the words that read a descriptor or wait for an entry or a condition end. -/
theorem entriesAreMade (s : State) : EntriesAreMade s := by
  unfold EntriesAreMade
  intro c t w h hw replies only fault full attached
  refine ⟨detached_withdrawn h hw, ?desc, ?put, ?spawn, ?cond⟩
  case desc =>
    intro a ws ids posts hk hdet hacc hposts v d held going
    have hnext := granNext_desc h hw hk hacc hposts
    refine ⟨?_, ?_⟩
    · rintro rfl
      rw [judgeDesc_put hdet] at hnext
      refine ⟨fun hbad => ?_, fun hform hkind => ?_⟩
      · exact replies_fault (hnext.trans (congrArg some (if_pos hbad))) hw
      · replace hnext := hnext.trans (congrArg some (if_neg (not_or.mpr ⟨Bool.eq_false_iff.mp hform, hkind⟩)))
        refine ⟨fun hbad => ?_, fun hcore hheld => ?_⟩
        · refine replies_fault (hnext.trans (congrArg some (if_pos ?_))) hw
          exact hbad.imp_left fun hcore => not_or.mpr ⟨hcore.1, Bool.eq_false_iff.mp hcore.2⟩
        · exact hnext.trans (congrArg some (if_neg (not_or.mpr ⟨not_not.mpr hcore, not_not.mpr hheld⟩)))
    · rintro b rfl
      rw [judgeDesc_spawn hdet] at hnext
      refine ⟨fun hbad => ?_, fun hform hkind hrsvd => ?_⟩
      · exact replies_fault (hnext.trans (congrArg some (if_pos hbad))) hw
      · replace hnext := hnext.trans (congrArg some (if_neg (not_or.mpr
          ⟨Bool.eq_false_iff.mp hform, not_or.mpr ⟨not_not.mpr hkind, Bool.eq_false_iff.mp hrsvd⟩⟩)))
        refine ⟨fun hbad => ?_, fun hlen hheld => ?_⟩
        · exact replies_fault (hnext.trans (congrArg some (if_pos hbad))) hw
        · exact hnext.trans (congrArg some (if_neg (not_or.mpr ⟨not_lt.mpr hlen, not_not.mpr hheld⟩)))
  case put =>
    exact fun d hk hdet => ⟨put_waits h hw hdet hk, fun die ix hplace => put_makes h hw hdet hk hplace⟩
  case spawn =>
    intro d a hk hdet q makes
    have hnext := (granNext_spawn h hw hk).trans (trySpawn_attached hdet c w.reg d a)
    refine ⟨fun hview => ?_, ?_, fun hview => ?_, fun n hview => ?_⟩
    · rw [hview] at hnext
      exact replies_status hw hnext
    · rintro (hview | hview)
      · rw [hview] at hnext
        exact replies_status hw hnext
      · rw [hview] at hnext
        exact replies_status hw (hnext.trans (if_neg (by simp)))
    · rw [hview] at hnext
      exact spawnOn_makes hw (hnext.trans (if_pos rfl)) ((learnFrom_conds s a none).trans (by simp))
    · rw [hview] at hnext
      exact spawnOn_makes hw hnext ((learnFrom_conds s a (some n)).trans (by simp [eq_comm (a := n)]))
  case cond =>
    intro hk hdet used
    exact ⟨condNew_waits h hw hdet hk, fun n hn hfree hlow => condNew_makes h hw hdet hk hn hfree hlow⟩

end Sys2Proof.Granary
end

section
/-! Proofs for the family of tasks, tillers and the system: what words behind a release do to tasks, successors, counts and conditions. -/

namespace Sys2Proof.Granary

open Sys2Proof Sys2Proof.Machine Sys2Proof.Spec Sys2Proof.Laws

/-! ### Decrements (R249) -/

theorem decSucc_eq (s : State) (r : Nat) : s.decSucc r = decremented s r := by
  have hzero (n : Nat) : n - 1 = 0 ↔ n = 1 ∨ n = 0 := by omega
  unfold State.decSucc decremented
  cases viewRef s r with
  | none => rfl
  | stale => rfl
  | entry x =>
    simp only [openState, hzero, ne_eq, ite_not]

/-- A change of an entry that keeps its place and its Maquette's copy. -/
structure KeepsPlace (f : Entry → Entry) : Prop where
  die : ∀ y, (f y).die = y.die
  ix : ∀ y, (f y).ix = y.ix
  maq : ∀ y, (f y).maq = y.maq

theorem keepsPlace_id : KeepsPlace id := ⟨fun _ => rfl, fun _ => rfl, fun _ => rfl⟩

theorem KeepsPlace.comp {f g : Entry → Entry} (hg : KeepsPlace g) (hf : KeepsPlace f) : KeepsPlace fun y => g (f y) :=
  ⟨fun y => (hg.die _).trans (hf.die y), fun y => (hg.ix _).trans (hf.ix y), fun y => (hg.maq _).trans (hf.maq y)⟩

/-- A change of the entry at one place. -/
theorem keepsPlace_ite {f : Entry → Entry} (hf : KeepsPlace f) (p : Entry → Bool) : KeepsPlace fun y => if p y then f y else y := by
  refine ⟨fun y => ?_, fun y => ?_, fun y => ?_⟩ <;> split
  exacts [hf.die y, rfl, hf.ix y, rfl, hf.maq y, rfl]

/-- A decrement is a change of entries in their places. -/
theorem decSucc_frame (s : State) (r : Nat) : ∃ f : Entry → Entry, KeepsPlace f
    ∧ ∀ k, State.decSucc { s with cores := k } r = { s with cores := k, gran := { s.gran with entries := s.gran.entries.map f } } := by
  have hview (k : List Core) : viewRef { s with cores := k } r = viewRef s r := rfl
  simp only [State.decSucc, hview]
  cases viewRef s r with
  | none => exact ⟨id, keepsPlace_id, fun k => by simp⟩
  | stale => exact ⟨id, keepsPlace_id, fun k => by simp⟩
  | entry x =>
    by_cases hst : x.st ≠ .pending
    · exact ⟨id, keepsPlace_id, fun k => by simp [hst]⟩
    · refine ⟨_, keepsPlace_ite ?_ _, fun k => (if_neg hst).trans rfl⟩
      exact ⟨fun _ => rfl, fun _ => rfl, fun _ => rfl⟩

/-- Decrements one after another. -/
theorem foldl_decSucc_frame (s : State) (l : List Nat) : ∃ f : Entry → Entry, KeepsPlace f
    ∧ ∀ k, l.foldl State.decSucc { s with cores := k } = { s with cores := k, gran := { s.gran with entries := s.gran.entries.map f } } := by
  induction l generalizing s with
  | nil => exact ⟨id, keepsPlace_id, fun k => by simp⟩
  | cons r l ih =>
    obtain ⟨f, hf, hstep⟩ := decSucc_frame s r
    obtain ⟨g, hg, hrest⟩ := ih { s with gran := { s.gran with entries := s.gran.entries.map f } }
    refine ⟨fun y => g (f y), hg.comp hf, fun k => ?_⟩
    rw [List.foldl_cons, hstep, hrest]
    simp [Function.comp_def]

/-! ### What the Granary reads (R249) -/

section Reads
variable (s : State) (k : List Core) (g : Granary)

theorem walkFrom_apart (space va : Nat) : ∀ fuel level tab,
    walkFrom { s with cores := k, gran := g } space va fuel level tab = walkFrom s space va fuel level tab
  | 0, _, _ => rfl
  | fuel + 1, level, tab => by
    rw [walkFrom, walkFrom, walkFrom_apart space va fuel]
    rfl

theorem runFault_apart (write : Bool) : ∀ fuel p len off,
    runFault { s with cores := k, gran := g } write fuel p len off = runFault s write fuel p len off
  | 0, _, _, _ => rfl
  | fuel + 1, p, len, off => by
    simp only [runFault, runFault_apart write fuel]
    rfl

theorem granBytes_apart (launch : Nat) : ∀ n va, granBytes { s with cores := k, gran := g } launch va n = granBytes s launch va n
  | 0, _ => rfl
  | n + 1, va => by
    have hbyte : granByte { s with cores := k, gran := g } launch va = granByte s launch va := by
      simp only [granByte, walk, walkFrom_apart, runFault_apart]
      rfl
    rw [granBytes, granBytes, hbyte]
    simp only [granBytes_apart launch n]

theorem granBytes_decSucc (s : State) (r launch va n : Nat) : granBytes (s.decSucc r) launch va n = granBytes s launch va n := by
  obtain ⟨f, -, hf⟩ := decSucc_frame s r
  exact (congrArg (granBytes · launch va n) (hf s.cores)).trans (granBytes_apart s s.cores _ launch n va)

end Reads

/-- The references that can be read from an overflow list are decremented in order. -/
theorem decList_reads (launch ovf n : Nat) : ∀ (refs : List Nat) (j : Nat) (s : State),
    (∀ i < refs.length, granBytes s launch (ovf + 4 * (j + i)) 4 = .inr (refs.getD i 0)) →
    decList launch ovf (refs.length + n) j s = decList launch ovf n (j + refs.length) (refs.foldl State.decSucc s)
  | [], j, s, _ => by simp
  | r :: refs, j, s, hread => by
    have hhead : granBytes s launch (ovf + 4 * j) 4 = .inr r := hread 0 (Nat.succ_pos _)
    rw [List.length_cons, Nat.add_right_comm, decList, hhead]
    refine (decList_reads launch ovf n refs (j + 1) (s.decSucc r) fun i hi => ?_).trans ?_
    · rw [granBytes_decSucc, Nat.add_right_comm, Nat.add_assoc]
      exact hread (i + 1) (Nat.succ_lt_succ hi)
    · rw [Nat.add_assoc, Nat.add_comm 1]
      rfl

end Sys2Proof.Granary
end

section
/-! Proofs for the family of tasks, tillers and the system: what words behind a release do to tasks, successors, counts and conditions,
and what they are answered. -/

namespace Sys2Proof.Granary

open Sys2Proof Sys2Proof.Machine Sys2Proof.Spec Sys2Proof.Laws

/-! ### The end of a task (R249) -/

theorem freeEntry_eq {s : State} {die ix : Nat} (h : ∀ y, entryAt s die ix = some y → y.maq = none) :
    s.freeEntry die ix = { s with gran := { s.gran with entries := s.gran.entries.filter fun y => !(y.die == die && y.ix == ix) } } := by
  unfold State.freeEntry
  cases hy : entryAt s die ix with
  | none =>
    have hkeep : s.gran.entries.filter (fun y => !(y.die == die && y.ix == ix)) = s.gran.entries :=
      List.filter_eq_self.mpr fun y hmem => by simpa [imp_iff_not_or] using List.find?_eq_none.mp hy y hmem
    rw [hkeep]
  | some y =>
    simp only [dropCopy, h y hy]
    rfl

/-- A change of entries in their places leaves at a place the Maquette's copy that was there. -/
theorem maq_of_entryAt_map {s s1 : State} {f : Entry → Entry} {die ix : Nat} {x : Entry}
    (hf : KeepsPlace f) (hs : s1.gran.entries = s.gran.entries.map f)
    (hx : entryAt s die ix = some x) {y : Entry} (hy : entryAt s1 die ix = some y) : y.maq = x.maq := by
  have hkey : (fun y : Entry => (f y).die == die && (f y).ix == ix) = fun y => y.die == die && y.ix == ix := by
    funext y
    rw [hf.die, hf.ix]
  have hfind : entryAt s1 die ix = (entryAt s die ix).map f := by
    rw [entryAt, hs, List.find?_map]
    exact congrArg (fun p => (s.gran.entries.find? p).map f) hkey
  rw [hfind, hx] at hy
  exact Option.some.inj hy ▸ hf.maq x

section Complete
variable {s : State} {x : Entry} (hx : entryAt s x.die x.ix = some x) (hmaq : x.maq = none)
include hx hmaq

/-- The last of a task that is no Maquette's: the references of its descriptor and those that could be read of its overflow list are
decremented, and its entry goes. -/
theorem completeTask_eq {refs : List Nat} {cause : Option EFault} {k : List Core}
    (hread : ∀ j < refs.length, granBytes s x.launch (x.desc.ovf + 4 * j) 4 = .inr (refs.getD j 0))
    (hend : (refs.length = x.desc.ovfn ∧ cause = none)
      ∨ ∃ e, refs.length < x.desc.ovfn ∧ granBytes s x.launch (x.desc.ovf + 4 * refs.length) 4 = .inl e ∧ cause = some e) :
    State.completeTask { s with cores := k } x = ({ s with
      cores := k
      gran := { s.gran with entries := ((x.desc.succ ++ refs).foldl decremented s).gran.entries.filter fun y =>
        !(y.die == x.die && y.ix == x.ix) } }, cause) := by
  obtain ⟨f, hf, hall⟩ := foldl_decSucc_frame s (x.desc.succ ++ refs)
  have hdec : (State.decSucc : State → Nat → State) = decremented := funext fun s => funext fun r => decSucc_eq s r
  have hbytes (l : List Nat) (launch va n : Nat) :
      granBytes (l.foldl State.decSucc { s with cores := k }) launch va n = granBytes s launch va n := by
    obtain ⟨f, -, hf⟩ := foldl_decSucc_frame s l
    rw [hf]
    exact granBytes_apart s k _ launch n va
  have hlist : decList x.launch x.desc.ovf x.desc.ovfn 0 (x.desc.succ.foldl State.decSucc { s with cores := k }) =
      ((x.desc.succ ++ refs).foldl State.decSucc { s with cores := k }, cause) := by
    obtain ⟨n, hn⟩ : ∃ n, x.desc.ovfn = refs.length + n := by
      refine Nat.exists_eq_add_of_le ?_
      rcases hend with ⟨h, -⟩ | ⟨-, h, -⟩
      · exact h.le
      · exact h.le
    rw [hn, decList_reads _ _ _ _ _ _ fun i hi => by rw [hbytes, Nat.zero_add]; exact hread i hi, ← List.foldl_append]
    rcases hend with ⟨h, rfl⟩ | ⟨e, h, hfail, rfl⟩
    · obtain rfl : n = 0 := by omega
      rfl
    · obtain ⟨m, rfl⟩ : ∃ m, n = m + 1 := ⟨n - 1, by omega⟩
      rw [decList, hbytes, Nat.zero_add, hfail]
  have hnone : maqList { s with cores := k } x = none := by rw [maqList, hmaq]
  simp only [State.completeTask, hnone, hlist]
  rw [hall, freeEntry_eq fun y hy => (maq_of_entryAt_map hf rfl hx hy).trans hmaq, ← hdec, hall s.cores]

end Complete

end Sys2Proof.Granary
end

section
/-! Proofs for the family of tasks, tillers and the system: words behind a release act, and what they are answered. -/

namespace Sys2Proof.Granary

open Sys2Proof Sys2Proof.Machine Sys2Proof.Spec Sys2Proof.Laws Sys2Proof.Ordering

/-! ### A word behind its release (R253) -/

/-- Nothing waits on the Granary but thread `t` of core `c`, with one word behind a release that has come, and it runs no tiller. -/
structure OnlyPends (s : State) (c : Nat) (t : Thread) (p : PendG) : Prop where
  mem : (c, t) ∈ everyThread s
  thread : s.thread c t.id.slot = some t
  specs : specs t = []
  only : ∀ z ∈ everyThread s, granWaits z.2 = true → z = (c, t)
  pend : t.pend = [p]
  cyc : p.cyc = s.cycle
  acc : ∀ a ∈ t.acc, a.id ∉ p.after
  posts : ∀ q ∈ s.posted, q.id ∉ p.posts

/-- The next action answers the word of thread `t` after a latency. -/
def Acts (s : State) (c : Nat) (t : Thread) (p : PendG) (s1 : State) (lat : Nat) (regs : List (Nat × Reg)) : Prop :=
  granNext s = some s1 ∧ ∃ u, s1.thread c t.id.slot = some u ∧ u.pend = [] ∧ u.v = t.v
    ∧ u.res = t.res ++ [⟨s.cycle + lat, p.cyc, regs, none, 0, p.flag, none, true⟩]

/-- The word has left its thread, which has all else as before that its answer meets. -/
def Left (s : State) (c : Nat) (t : Thread) (s1 : State) : Prop :=
  s1.cycle = s.cycle ∧ ∃ u, s1.thread c t.id.slot = some u ∧ u.pend = [] ∧ u.v = t.v ∧ u.res = t.res

/-- A change of a thread that an answer of the Granary does not meet. -/
structure KeepsAnswer (f : Thread → Thread) : Prop where
  id : ∀ u, (f u).id = u.id
  pend : ∀ u, (f u).pend = u.pend
  v : ∀ u, (f u).v = u.v
  res : ∀ u, (f u).res = u.res

/-- The machine without the word of thread `t`. -/
def unpended (s : State) (c : Nat) (t : Thread) : State := s.modThread c t.id.slot fun u => { u with pend := u.pend.tail }

/-- The answer of the word is due. -/
def replied (s : State) (c : Nat) (t : Thread) (p : PendG) (regs : List (Nat × Reg)) : State :=
  s.modThread c t.id.slot fun u => { u with res := u.res ++ [⟨s.cycle + granLat c p.act, p.cyc, regs, none, 0, p.flag, none, true⟩] }

section Pend
variable {s s1 : State} {c : Nat} {t : Thread} {p : PendG} {regs : List (Nat × Reg)}

theorem left_modThread (h : Left s c t s1) {f : Thread → Thread} (hf : KeepsAnswer f) :
    Left s c t (s1.modThread c t.id.slot f) := by
  obtain ⟨hcyc, u, hu, hpend, hv, hres⟩ := h
  exact ⟨hcyc, f u, thread_modThread hu hf.id, (hf.pend u).trans hpend, (hf.v u).trans hv, (hf.res u).trans hres⟩

variable (h : OnlyPends s c t p)
include h

theorem left_unpended : Left s c t (unpended s c t) :=
  ⟨rfl, _, thread_modThread h.thread fun _ => rfl, by simp [h.pend], rfl, rfl⟩

theorem granNext_pends : granNext s = some (s.performPend c t p) := by
  have hin : (c, t) ∈ waiters s := mem_waiters.mpr ⟨h.mem, by simp [granWaits, h.pend]⟩
  have hrel : relOk s t p.after p.posts = true := by
    simp only [relOk, postedAny, Bool.and_eq_true, Bool.not_eq_true', List.any_eq_false, List.contains_iff_mem]
    exact ⟨h.acc, h.posts⟩
  have hready : pendReady s (c, t) = some (c, t, p) := by simp [pendReady, pendFree, h.pend, hrel, h.cyc]
  rw [granNext_eq, firstBy_of_forall_eq (y := (c, t, p)) (fun x hx => ?_) (List.mem_filterMap.mpr ⟨_, hin, hready⟩)]
  obtain ⟨z, hz, hx⟩ := List.mem_filterMap.mp hx
  rw [h.only z (mem_waiters.mp hz).1 (mem_waiters.mp hz).2] at hx
  exact Option.some.inj (hx.symm.trans hready)

theorem acts_replied (hs1 : Left s c t s1) (hp : s.performPend c t p = replied s1 c t p regs) :
    Acts s c t p (replied s1 c t p regs) (granLat c p.act) regs := by
  obtain ⟨hcyc, u, hu, hpend, hv, hres⟩ := hs1
  exact ⟨(granNext_pends h).trans (congrArg some hp), _, thread_modThread hu fun _ => rfl, hpend, hv, by rw [hres, hcyc]⟩

end Pend

/-! ### Latencies (R314) -/

/-- The latency of an answer from the entry of a reference. -/
theorem granLat_of_ref {c r : Nat} {a : GAct} (ha : (∃ d, a = .done r d) ∨ ∃ delta d, a = .dep r delta d) :
    granLat c a = if r / 2 ^ 14 % 4 = c / 64 then 48 else 96 := by
  rcases ha with ⟨d, rfl⟩ | ⟨delta, d, rfl⟩ <;> rfl

/-! ### TASK.DEP (R250) -/

section Dep
variable {s : State} {r : Nat} {delta : Int} {x : Entry}

theorem depTask_stale (h : viewRef s r = .stale) : s.depTask r delta = (s, .stale) := by rw [State.depTask, h]

theorem depTask_none (h : viewRef s r = .none) : s.depTask r delta = (s, .absent) := by rw [State.depTask, h]

variable (h : viewRef s r = .entry x)
include h

theorem depTask_entry_of_not_pending (hst : x.st ≠ .pending) : s.depTask r delta = (s, .absent) := by
  rw [State.depTask, h]
  exact if_pos hst

theorem depTask_entry_of_out (hst : x.st = .pending) (hn : (x.dep : Int) + delta < 0 ∨ 65535 < (x.dep : Int) + delta) :
    s.depTask r delta = (s, .fault) := by
  rw [State.depTask, h]
  exact (if_neg (not_not.mpr hst)).trans (if_pos (by simpa using hn))

theorem depTask_entry (hst : x.st = .pending) (h0 : 0 ≤ (x.dep : Int) + delta) (hlim : (x.dep : Int) + delta ≤ 65535) :
    s.depTask r delta = (s.modEntry x.die x.ix fun y =>
      { y with dep := ((x.dep : Int) + delta).toNat, st := if (x.dep : Int) + delta = 0 then .queued else .pending
               readyAt := if (x.dep : Int) + delta = 0 then s.time else y.readyAt }, .done) := by
  have hzero : ((x.dep : Int) + delta).toNat = 0 ↔ (x.dep : Int) + delta = 0 := by omega
  rw [State.depTask, h]
  refine (if_neg (not_not.mpr hst)).trans ((if_neg (by simp [h0, hlim])).trans ?_)
  simp only [openState, hzero]

end Dep

end Sys2Proof.Granary
end

section
/-! Proofs for the family of tasks, tillers and the system: TASK.DONE and COND.SET behind a release. -/

namespace Sys2Proof.Granary

open Sys2Proof Sys2Proof.Machine Sys2Proof.Spec Sys2Proof.Laws Sys2Proof.Ordering

/-! ### TASK.DONE (R249) -/

/-- The end of a task at the thread: a boundary of its queue (R404). -/
def marked (c : Nat) (t : Thread) (q : Nat) (s : State) : State := s.modThread c t.id.slot (boundary (s.core c) q 3)

section Done
variable {s : State} {c : Nat} {t : Thread} {r : Nat} {x : Entry} (hspecs : specs t = [])
include hspecs

theorem doneTask_absent (h : viewRef s r = .stale ∨ viewRef s r = .none) : s.doneTask c t r = (s, .absent, none) := by
  rcases h with h | h <;> simp only [State.doneTask, hspecs, h] <;> rfl

variable (h : viewRef s r = .entry x)
include h

theorem doneTask_entry : s.doneTask c t r =
    if !x.holders.contains (holderOf c t) || x.st == .finished then (s, .absent, none)
    else if x.pruned then (s.freeEntry x.die x.ix, .withdrawn, none)
    else if x.tiller then
      (marked c t x.desc.queue ((s.modEntry x.die x.ix fun y => { y with st := .finished }).modThread c t.id.slot fun u =>
        setSpecs ((specs u).filter fun y => !isRun x.die x.ix y) u), .done, none)
    else if x.desc.kind = 1 ∧ ¬ (spaceOf x.desc ≤ x.next ∧ x.holders.erase (holderOf c t) = []) then
      (marked c t x.desc.queue (s.modEntry x.die x.ix fun _ => { x with holders := x.holders.erase (holderOf c t) }), .done, none)
    else
      (if (s.completeTask x).2.isSome then (s.completeTask x).1 else marked c t x.desc.queue (s.completeTask x).1,
        if (s.completeTask x).2.isSome then .fault else .done, (s.completeTask x).2) := by
  have hlast : (exhausted { x with holders := x.holders.erase (holderOf c t) } && (x.holders.erase (holderOf c t)).isEmpty) = true ↔
      spaceOf x.desc ≤ x.next ∧ x.holders.erase (holderOf c t) = [] := by
    simp only [exhausted, Bool.and_eq_true, decide_eq_true_eq, List.isEmpty_iff]
    exact Iff.rfl
  simp only [State.doneTask, hspecs, h, List.findSome?_nil, hlast]
  by_cases hk : x.desc.kind = 1
  · simp only [ite_not, hk, true_and]
    rfl
  · simp only [hk, if_false, false_and]
    rfl

end Done

/-- What a reference names stands at its key. -/
theorem entryAt_of_viewRef {s : State} {r : Nat} {x : Entry} (h : viewRef s r = .entry x) : entryAt s x.die x.ix = some x := by
  unfold viewRef at h
  split at h
  · cases h
  · split at h
    · cases h
    · cases hx : entryAt s (refDie r) (refEntry r) with
      | none => simp [hx] at h
      | some y =>
        simp only [hx, RefView.entry.injEq] at h
        obtain ⟨hdie, hix⟩ := entryAt_key hx
        subst h
        rwa [hdie, hix]

section Pending
variable {s s1 : State} {c : Nat} {t : Thread} {p : PendG}

theorem left_marked (hs1 : Left s c t s1) (q : Nat) : Left s c t (marked c t q s1) := by
  refine left_modThread hs1 ⟨fun u => ?_, fun u => ?_, fun u => ?_, fun u => ?_⟩ <;> rw [boundary_frame]

variable (h : OnlyPends s c t p)
include h

theorem left_of_cores (hcores : s1.cores = (unpended s c t).cores) (hcyc : s1.cycle = s.cycle) : Left s c t s1 := by
  obtain ⟨-, u, hu, hrest⟩ := left_unpended h
  exact ⟨hcyc, u, by rwa [State.thread, State.core, hcores], hrest⟩

theorem done_tells {r d : Nat} {st : Status} {cause : Option EFault} (hp : p.act = .done r d)
    (hdone : (unpended s c t).doneTask c t r = (s1, st, cause)) (hleft : Left s c t s1) (hmem : s1.mem = s.mem) :
    ∃ s2, Acts s c t p s2 (if r / 2 ^ 14 % 4 = c / 64 then 48 else 96)
        ((d, statusReg st) :: (cause.map fun e => (d + 1, BitVec.ofNat 32 (efaultCode e))).toList)
      ∧ s2.gran.entries = s1.gran.entries ∧ s2.mem = s.mem := by
  have hperf : s.performPend c t p = replied s1 c t p
      ((d, statusReg st) :: (cause.map fun e => (d + 1, BitVec.ofNat 32 (efaultCode e))).toList) := by
    have hdone' : (s.modThread c t.id.slot fun u => { u with pend := u.pend.tail }).doneTask c t r = (s1, st, cause) := hdone
    simp only [State.performPend, hp, hdone', replied]
    cases cause <;> rfl
  rw [← granLat_of_ref (.inl ⟨d, hp⟩)]
  exact ⟨_, acts_replied h hleft hperf, rfl, hmem⟩

theorem dep_tells {r d : Nat} {delta : Int} {st : Status} (hp : p.act = .dep r delta d)
    (hdep : (unpended s c t).depTask r delta = (s1, st)) (hcores : s1.cores = (unpended s c t).cores) (hcyc : s1.cycle = s.cycle)
    (hmem : s1.mem = s.mem) :
    ∃ s2, Acts s c t p s2 (if r / 2 ^ 14 % 4 = c / 64 then 48 else 96) [(d, statusReg st)]
      ∧ s2.gran.entries = s1.gran.entries ∧ s2.mem = s.mem := by
  have hperf : s.performPend c t p = replied s1 c t p [(d, statusReg st)] := by
    have hdep' : (s.modThread c t.id.slot fun u => { u with pend := u.pend.tail }).depTask r delta = (s1, st) := hdep
    simp only [State.performPend, hp, hdep', replied]
  rw [← granLat_of_ref (.inr ⟨delta, d, hp⟩)]
  exact ⟨_, acts_replied h (left_of_cores h hcores hcyc) hperf, rfl, hmem⟩

/-! ### COND.SET (R260) -/

theorem condSet_tells {r d : Nat} {v : Bool} {st : Status} (hp : p.act = .condSet r v d)
    (hview : (viewCond s t.id.launch r = .stale ∧ st = .stale)
      ∨ ((viewCond s t.id.launch r = .absent ∨ ∃ b, viewCond s t.id.launch r = .resolved b) ∧ st = .absent)) :
    ∃ s2, Acts s c t p s2 96 [(d, statusReg st)] ∧ s2.gran = s.gran ∧ s2.mem = s.mem := by
  have hperf : s.performPend c t p = replied (unpended s c t) c t p [(d, statusReg st)] := by
    have hsame : viewCond (s.modThread c t.id.slot fun u => { u with pend := u.pend.tail }) t.id.launch r = viewCond s t.id.launch r := rfl
    simp only [State.performPend, hp, hsame, replied]
    rcases hview with ⟨hview, rfl⟩ | ⟨hview | ⟨b, hview⟩, rfl⟩ <;> rw [hview] <;> rfl
  have hlat : granLat c p.act = 96 := by rw [hp]; rfl
  rw [← hlat]
  exact ⟨_, acts_replied h (left_unpended h) hperf, rfl, rfl⟩

theorem condSet_resolves {r d n : Nat} {v : Bool} (hp : p.act = .condSet r v d) (hview : viewCond s t.id.launch r = .live n) :
    granNext s = some (replied ((unpended s c t).granWork [.resolve n v]) c t p [(d, 0)]) := by
  have hsame : viewCond (s.modThread c t.id.slot fun u => { u with pend := u.pend.tail }) t.id.launch r = .live n := hview
  rw [granNext_pends h]
  simp only [State.performPend, hp, hsame, replied]
  rfl

end Pending

/-! ### The task that ends (R249) -/

section Ends
variable {s : State} {c : Nat} {t : Thread} {p : PendG} {r d : Nat} {x : Entry} (h : OnlyPends s c t p) (hp : p.act = .done r d)
  (hview : viewRef s r = .entry x)
include h hview

include hp in
theorem done_of_not_holder (hnot : holderOf c t ∉ x.holders) :
    ∃ s2, Acts s c t p s2 (if r / 2 ^ 14 % 4 = c / 64 then 48 else 96) [(d, 7)] ∧ s2.gran.entries = s.gran.entries ∧ s2.mem = s.mem := by
  have hdone : (unpended s c t).doneTask c t r = (unpended s c t, .absent, none) :=
    (doneTask_entry (s := unpended s c t) h.specs hview).trans (if_pos (by simp [hnot]))
  exact done_tells h hp hdone (left_unpended h) rfl

variable (hpruned : x.pruned = false) (hwho : holderOf c t ∈ x.holders) (hst : x.st ≠ .finished)
include hpruned hwho hst

theorem doneTask_held : (unpended s c t).doneTask c t r =
    if x.tiller then
      (marked c t x.desc.queue (((unpended s c t).modEntry x.die x.ix fun y => { y with st := .finished }).modThread c t.id.slot fun u =>
        setSpecs ((specs u).filter fun y => !isRun x.die x.ix y) u), .done, none)
    else if x.desc.kind = 1 ∧ ¬ (spaceOf x.desc ≤ x.next ∧ x.holders.erase (holderOf c t) = []) then
      (marked c t x.desc.queue ((unpended s c t).modEntry x.die x.ix fun _ => { x with holders := x.holders.erase (holderOf c t) }),
        .done, none)
    else
      (if ((unpended s c t).completeTask x).2.isSome then ((unpended s c t).completeTask x).1
        else marked c t x.desc.queue ((unpended s c t).completeTask x).1,
        if ((unpended s c t).completeTask x).2.isSome then .fault else .done, ((unpended s c t).completeTask x).2) := by
  refine (doneTask_entry (s := unpended s c t) h.specs hview).trans ((if_neg ?_).trans (if_neg ?_))
  · simp [hwho, hst]
  · simp [hpruned]

include hp

/-- R260: a tiller's task waits for its commit. -/
theorem done_of_tiller (htiller : x.tiller = true) :
    ∃ s2, Acts s c t p s2 (if r / 2 ^ 14 % 4 = c / 64 then 48 else 96) [(d, 0)] ∧ s2.gran.entries = s.gran.entries.map (fun y =>
      if y.die = x.die ∧ y.ix = x.ix then { y with st := .finished } else y) ∧ s2.mem = s.mem := by
  have hdone := (doneTask_held h hview hpruned hwho hst).trans (if_pos htiller)
  have hleft : Left s c t ((unpended s c t).modEntry x.die x.ix fun y => { y with st := .finished }) := left_of_cores h rfl rfl
  have hfree : KeepsAnswer fun u => setSpecs ((specs u).filter fun y => !isRun x.die x.ix y) u :=
    ⟨fun _ => rfl, fun _ => rfl, fun _ => rfl, fun _ => rfl⟩
  obtain ⟨s2, hacts, hentries, hmem⟩ := done_tells h hp hdone (left_marked (left_modThread hleft hfree) _) rfl
  refine ⟨s2, hacts, hentries.trans (List.map_congr_left fun y _ => ?_), hmem⟩
  simp only [Bool.and_eq_true, beq_iff_eq]

variable (htiller : x.tiller = false)
include htiller

/-- R249: a grid task goes on while tuples are left or others hold it. -/
theorem done_of_more (hmore : ¬ (x.desc.kind ≠ 1 ∨ (spaceOf x.desc ≤ x.next ∧ x.holders.erase (holderOf c t) = []))) :
    ∃ s2, Acts s c t p s2 (if r / 2 ^ 14 % 4 = c / 64 then 48 else 96) [(d, 0)] ∧ s2.gran.entries = s.gran.entries.map (fun y =>
      if y.die = x.die ∧ y.ix = x.ix then { x with holders := x.holders.erase (holderOf c t) } else y) ∧ s2.mem = s.mem := by
  have hdone := (doneTask_held h hview hpruned hwho hst).trans ((if_neg (Bool.eq_false_iff.mp htiller)).trans
    (if_pos ⟨not_not.mp fun hk => hmore (.inl hk), fun hl => hmore (.inr hl)⟩))
  have hleft := left_of_cores h (s1 := (unpended s c t).modEntry x.die x.ix fun _ => { x with holders := x.holders.erase (holderOf c t) })
    rfl rfl
  obtain ⟨s2, hacts, hentries, hmem⟩ := done_tells h hp hdone (left_marked hleft _) rfl
  refine ⟨s2, hacts, hentries.trans ?_, hmem⟩
  refine List.map_congr_left fun y _ => ?_
  simp

/-- R249: the last holder completes the task. -/
theorem done_of_last (hmaq : x.maq = none)
    (hlast : x.desc.kind ≠ 1 ∨ (spaceOf x.desc ≤ x.next ∧ x.holders.erase (holderOf c t) = [])) {refs : List Nat} {cause : Option EFault}
    (hread : ∀ j < refs.length, granBytes s x.launch (x.desc.ovf + 4 * j) 4 = .inr (refs.getD j 0))
    (hend : (refs.length = x.desc.ovfn ∧ cause = none)
      ∨ ∃ e, refs.length < x.desc.ovfn ∧ granBytes s x.launch (x.desc.ovf + 4 * refs.length) 4 = .inl e ∧ cause = some e) :
    ∃ s2, Acts s c t p s2 (if r / 2 ^ 14 % 4 = c / 64 then 48 else 96)
        ((d, if cause.isSome then 3 else 0) :: (cause.map fun e => (d + 1, BitVec.ofNat 32 (efaultCode e))).toList)
      ∧ s2.gran.entries = ((x.desc.succ ++ refs).foldl decremented s).gran.entries.filter (fun y => !(y.die == x.die && y.ix == x.ix))
      ∧ s2.mem = s.mem := by
  have hcomplete := completeTask_eq (k := (unpended s c t).cores) (entryAt_of_viewRef hview) hmaq hread hend
  have hdone := (doneTask_held h hview hpruned hwho hst).trans ((if_neg (Bool.eq_false_iff.mp htiller)).trans
    (if_neg fun hk => hlast.elim (fun hk' => hk' hk.1) hk.2))
  rw [show (unpended s c t).completeTask x = _ from hcomplete] at hdone
  cases cause with
  | none => exact done_tells h hp hdone (left_marked (left_of_cores h rfl rfl) _) rfl
  | some e => exact done_tells h hp hdone (left_of_cores h rfl rfl) rfl

end Ends

/-- R249, R250, R253, R260: a word of a thread in no tiller acts once its release conditions hold. -/
theorem pendingWordsAct (s : State) : PendingWordsAct s := by
  unfold PendingWordsAct
  intro c t p hmem hthread hspecs honly hpend hcyc hacc hposts answers near who
  have h : OnlyPends s c t p := ⟨hmem, hthread, hspecs, honly, hpend, hcyc, hacc, hposts⟩
  refine ⟨?dep, ?done, ?condSet⟩
  case dep =>
    intro r delta d hp tells
    refine ⟨fun hview => ?_, fun hview => ?_, fun x hview => ?_⟩
    · exact dep_tells h hp (depTask_stale (s := unpended s c t) hview) rfl rfl rfl
    · exact dep_tells h hp (depTask_none (s := unpended s c t) hview) rfl rfl rfl
    · intro n
      refine ⟨fun hst => ?_, fun hst => ⟨fun hn => ?_, fun h0 hlim => ?_⟩⟩
      · exact dep_tells h hp (depTask_entry_of_not_pending (s := unpended s c t) hview hst) rfl rfl rfl
      · exact dep_tells h hp (depTask_entry_of_out (s := unpended s c t) hview hst hn) rfl rfl rfl
      · obtain ⟨s2, hacts, hentries, hmem⟩ := dep_tells h hp (depTask_entry (s := unpended s c t) hview hst h0 hlim) rfl rfl rfl
        refine ⟨s2, hacts, hentries.trans (List.map_congr_left fun y _ => ?_), hmem⟩
        simp only [Bool.and_eq_true, beq_iff_eq]
        rfl
  case done =>
    intro r d hp tells
    refine ⟨fun hview => done_tells h hp (doneTask_absent (s := unpended s c t) hspecs hview) (left_unpended h) rfl, fun x hview hpruned =>
      ⟨done_of_not_holder h hp hview, done_of_tiller h hp hview hpruned, fun hwho hst htiller hmaq => ?_⟩⟩
    intro last word freed
    refine ⟨done_of_more h hp hview hpruned hwho hst htiller, fun hlast refs hread => ⟨fun hall => ?_, fun e hshort hfail => ?_⟩⟩
    · exact done_of_last h hp hview hpruned hwho hst htiller hmaq hlast hread (.inl ⟨hall, rfl⟩)
    · exact done_of_last h hp hview hpruned hwho hst htiller hmaq hlast hread (.inr ⟨e, hshort, hfail, rfl⟩)
  case condSet =>
    intro r v d hp tells
    refine ⟨fun hview => ?_, fun hview => ?_, fun n hview => ?_⟩
    · exact condSet_tells h hp (.inl ⟨hview, rfl⟩)
    · exact condSet_tells h hp (.inr ⟨hview, rfl⟩)
    · intro s2
      rw [condSet_resolves h hp hview, replied, hp]
      rfl

end Sys2Proof.Granary
end

section
/-! Proofs for the family of tasks, tillers and the system: what a prune leaves of the entries of the Granary. -/

namespace Sys2Proof.Granary

open Sys2Proof Sys2Proof.Machine Sys2Proof.Spec Sys2Proof.Laws Sys2Proof.Ordering

/-! ### Prune (R93, R260) -/

/-- The die and the number of an entry. -/
def placeOf (x : Entry) : Nat × Nat := (x.die, x.ix)

/-- What becomes of each entry when the tillers at some places are pruned: those that run are pruned, the others of them go, and all else
keeps all but some of what it holds. -/
def Prunes (places : List (Nat × Nat)) (f : Entry → Option Entry) : Prop := ∀ y,
  (placeOf y ∉ places → ∃ prov, prov ⊆ y.prov ∧ f y = some { y with prov := prov })
  ∧ (placeOf y ∈ places → y.st = .running → ∃ prov, f y = some { y with prov := prov, pruned := true, committing := false })
  ∧ (placeOf y ∈ places → y.st ≠ .running → f y = none)

/-- A prune changes entries, and beside them neither memory nor conditions nor the predictor. -/
structure PruneLeaves (s : State) (places : List (Nat × Nat)) (s1 : State) : Prop where
  mem : s1.mem = s.mem
  hub : s1.hub = s.hub
  conds : s1.gran.conds = s.gran.conds
  pred : s1.gran.pred = s.gran.pred
  entries : ∃ f, Prunes places f ∧ s1.gran.entries = s.gran.entries.filterMap f

section Prunes
variable {places more : List (Nat × Nat)} {f g : Entry → Option Entry}

theorem prunes_nil : Prunes [] some := fun y => ⟨fun _ => ⟨y.prov, fun _ h => h, rfl⟩, fun h => absurd h (by simp), fun h => absurd h (by simp)⟩

/-- A prune keeps the place of what it leaves. -/
theorem Prunes.place (h : Prunes places f) {y z : Entry} (hz : f y = some z) : placeOf z = placeOf y := by
  obtain ⟨hout, hrun, hgo⟩ := h y
  by_cases hmem : placeOf y ∈ places
  · by_cases hst : y.st = .running
    · obtain ⟨prov, hf⟩ := hrun hmem hst
      exact (Option.some.inj (hz.symm.trans hf)) ▸ rfl
    · rw [hgo hmem hst] at hz
      cases hz
  · obtain ⟨prov, -, hf⟩ := hout hmem
    exact (Option.some.inj (hz.symm.trans hf)) ▸ rfl

theorem Prunes.append (hf : Prunes places f) (hg : Prunes more g) : Prunes (places ++ more) fun y => (f y).bind g := by
  intro y
  obtain ⟨hout, hrun, hgo⟩ := hf y
  simp only [List.mem_append, not_or]
  refine ⟨fun ⟨hfirst, hmore⟩ => ?_, fun hmem hst => ?_, fun hmem hst => ?_⟩
  · obtain ⟨prov, hprov, hy⟩ := hout hfirst
    obtain ⟨rest, hrest, hz⟩ := (hg { y with prov := prov }).1 hmore
    exact ⟨rest, List.Subset.trans hrest hprov, by rw [hy]; exact hz⟩
  · by_cases hfirst : placeOf y ∈ places
    · obtain ⟨prov, hy⟩ := hrun hfirst hst
      obtain ⟨hout', hrun', -⟩ := hg { y with prov := prov, pruned := true, committing := false }
      rw [hy, Option.bind_some]
      by_cases hmore : placeOf y ∈ more
      · exact hrun' hmore hst
      · obtain ⟨rest, -, hz⟩ := hout' hmore
        exact ⟨rest, hz⟩
    · obtain ⟨prov, -, hy⟩ := hout hfirst
      rw [hy, Option.bind_some]
      obtain ⟨-, hrun', -⟩ := hg { y with prov := prov }
      exact hrun' (hmem.resolve_left hfirst) hst
  · by_cases hfirst : placeOf y ∈ places
    · rw [hgo hfirst hst, Option.bind_none]
    · obtain ⟨prov, -, hy⟩ := hout hfirst
      rw [hy, Option.bind_some]
      obtain ⟨-, -, hgo'⟩ := hg { y with prov := prov }
      exact hgo' (hmem.resolve_left hfirst) hst

/-- What a prune leaves has different places when all had. -/
theorem Prunes.nodup (h : Prunes places f) {l : List Entry} (hl : (l.map placeOf).Nodup) : ((l.filterMap f).map placeOf).Nodup := by
  refine List.Nodup.sublist ?_ hl
  induction l with
  | nil => exact List.Sublist.refl _
  | cons y l ih =>
    have ih := ih (List.nodup_cons.mp hl).2
    cases hy : f y with
    | none => simpa [hy] using ih.cons (placeOf y)
    | some z => simpa [hy, h.place hy] using ih.cons_cons (placeOf y)

end Prunes

section Leaves
variable {s s1 s2 : State} {places more : List (Nat × Nat)}

theorem PruneLeaves.refl : PruneLeaves s [] s := ⟨rfl, rfl, rfl, rfl, some, prunes_nil, by simp⟩

theorem PruneLeaves.trans (h : PruneLeaves s places s1) (h' : PruneLeaves s1 more s2) : PruneLeaves s (places ++ more) s2 := by
  obtain ⟨hmem, hhub, hconds, hpred, f, hf, hentries⟩ := h
  obtain ⟨hmem', hhub', hconds', hpred', g, hg, hentries'⟩ := h'
  refine ⟨hmem'.trans hmem, hhub'.trans hhub, hconds'.trans hconds, hpred'.trans hpred, _, hf.append hg, ?_⟩
  rw [hentries', hentries, List.filterMap_filterMap]

end Leaves

/-- Held stores go without a trace. -/
theorem dropHeld_stores {items : List Held} (h : ∀ y ∈ items, ∃ a, y = .store a) (s : State) : s.dropHeld items = s := by
  induction items with
  | nil => rfl
  | cons y r ih =>
    obtain ⟨⟨a, rfl⟩, hr⟩ := List.forall_mem_cons.mp h
    exact ih hr

/-- With different places the entry at a place is the one there. -/
theorem entryAt_of_mem {s : State} (hnodup : (s.gran.entries.map placeOf).Nodup) {x : Entry} (hx : x ∈ s.gran.entries) :
    entryAt s x.die x.ix = some x := by
  cases hfind : entryAt s x.die x.ix with
  | none => exact absurd (List.find?_eq_none.mp hfind x hx) (by simp)
  | some y =>
    obtain ⟨hdie, hix⟩ := entryAt_key hfind
    rw [List.inj_on_of_nodup_map hnodup (List.mem_of_find?_eq_some hfind) hx (Prod.ext hdie hix)]

/-- What a tiller that is pruned leaves of an entry. -/
def pruneEntry (x y : Entry) : Option Entry :=
  let prov := if y.holders == x.holders then y.prov.filter fun h => !x.prov.contains h else y.prov
  if placeOf y = placeOf x then if y.st = .running then some { y with prov := prov, pruned := true, committing := false } else none
  else some { y with prov := prov }

theorem prunes_pruneEntry (x : Entry) : Prunes [placeOf x] (pruneEntry x) := by
  intro y
  simp only [List.mem_singleton, pruneEntry]
  refine ⟨fun hout => ⟨_, ?_, if_neg hout⟩, fun hplace hst => ⟨_, (if_pos hplace).trans (if_pos hst)⟩,
    fun hplace hst => (if_pos hplace).trans (if_neg hst)⟩
  split
  · exact List.filter_subset_self _
  · exact fun _ h => h

/-- An entry beside a tiller that is pruned, or itself the tiller, before the tiller goes. -/
def markPruned (x y : Entry) : Entry :=
  let prov := if y.holders == x.holders then y.prov.filter fun h => !x.prov.contains h else y.prov
  if placeOf y = placeOf x then { y with prov := prov, pruned := true, committing := false } else { y with prov := prov }

theorem markPruned_keeps (x : Entry) : KeepsPlace (markPruned x) := by
  refine ⟨fun y => ?_, fun y => ?_, fun y => ?_⟩ <;> unfold markPruned <;> dsimp only <;> split <;> rfl

/-- The tiller before it goes: what it holds has gone, and it is marked. -/
def withMark (s : State) (x : Entry) : State :=
  (markBuf (s.dropStore x) x).modEntry x.die x.ix fun y => { y with pruned := true, committing := false }

theorem withMark_frame {s : State} {x : Entry} (hstores : ∀ h ∈ x.prov, ∃ a, h = .store a) :
    (withMark s x).mem = s.mem ∧ (withMark s x).hub = s.hub ∧ (withMark s x).gran.conds = s.gran.conds
      ∧ (withMark s x).gran.pred = s.gran.pred ∧ (withMark s x).gran.entries = s.gran.entries.map (markPruned x) := by
  have hbuf (s : State) : ∃ l, markBuf s x = { s with gran := { s.gran with prunedBufs := l } } := by
    unfold markBuf
    split
    · exact ⟨s.gran.prunedBufs, rfl⟩
    · exact ⟨_, rfl⟩
  obtain ⟨l, hl⟩ := hbuf (s.takeItems x x.prov)
  rw [withMark, State.dropStore, dropHeld_stores hstores, hl]
  refine ⟨rfl, rfl, rfl, rfl, ?_⟩
  simp only [State.modEntry, State.takeItems, List.map_map]
  refine List.map_congr_left fun y _ => ?_
  simp only [Function.comp_apply, markPruned, placeOf, Prod.mk.injEq, Bool.and_eq_true, beq_iff_eq]
  split <;> split <;> simp_all

/-- A tiller of stores alone, and no Maquette's, is pruned. -/
theorem pruneOne_leaves {s : State} {x : Entry} (hnodup : (s.gran.entries.map placeOf).Nodup) (hx : x ∈ s.gran.entries)
    (hmaq : x.maq = none) (hstores : ∀ h ∈ x.prov, ∃ a, h = .store a) : PruneLeaves s [placeOf x] (s.pruneOne x) := by
  obtain ⟨hmem, hhub, hconds, hpred, hentries⟩ := withMark_frame (s := s) hstores
  have hone {y : Entry} (hy : y ∈ s.gran.entries) (hplace : placeOf y = placeOf x) : y = x :=
    List.inj_on_of_nodup_map hnodup hy hx hplace
  by_cases hst : x.st = .running
  · have hprune : s.pruneOne x = (withMark s x).modAll x.provCore (detach (withMark s x) x.die x.ix true) := by
      rw [State.pruneOne, hst]
      rfl
    rw [hprune]
    refine ⟨hmem, hhub, hconds, hpred, pruneEntry x, prunes_pruneEntry x, hentries.trans ?_⟩
    rw [← List.filterMap_eq_map]
    refine List.filterMap_congr fun y hy => ?_
    by_cases hplace : placeOf y = placeOf x
    · obtain rfl := hone hy hplace
      simp [markPruned, pruneEntry, hst]
    · simp [markPruned, pruneEntry, hplace]
  · have hfree : (withMark s x).freeEntry x.die x.ix = _ := freeEntry_eq fun y hy =>
      (maq_of_entryAt_map (markPruned_keeps x) hentries (entryAt_of_mem hnodup hx) hy).trans hmaq
    have hprune : s.pruneOne x = (withMark s x).freeEntry x.die x.ix := by
      rw [State.pruneOne]
      split
      next h => exact absurd h hst
      next => rfl
    rw [hprune, hfree]
    refine ⟨hmem, hhub, hconds, hpred, pruneEntry x, prunes_pruneEntry x, ?_⟩
    dsimp only
    rw [hentries, ← List.filterMap_eq_filter, ← List.filterMap_eq_map, List.filterMap_filterMap]
    refine List.filterMap_congr fun y hy => ?_
    by_cases hplace : placeOf y = placeOf x
    · obtain rfl := hone hy hplace
      simp [markPruned, pruneEntry, hst, Option.guard]
    · simpa [markPruned, pruneEntry, hplace, Option.guard] using fun (hdie : y.die = x.die) (hix : y.ix = x.ix) => hplace (Prod.ext hdie hix)

/-! ### Prunes one after another (R260) -/

/-- A tiller that a resolution prunes alone: of stores, of no Maquette, and no condition's owner. -/
structure Lone (s : State) (x : Entry) : Prop where
  tiller : x.tiller = true
  pruned : x.pruned = false
  maq : x.maq = none
  stores : ∀ h ∈ x.prov, ∃ a, h = .store a
  owner : ∀ y ∈ s.gran.conds, y.live = true → (x.die, x.ix, x.seq) ∉ y.owners

theorem freeConds_nil (s : State) : freeConds s [] = s := by
  have hid : (fun c : Cond => if c.live && ([] : List Nat).contains c.num then { c with live := false, val := none, owners := [], learners := [] } else c) = id := by
    funext c
    simp
  simp only [freeConds, hid, List.map_id]

/-- One turn of the prune of a tiller that owns no condition. -/
theorem prune_cons {s : State} {x : Entry} (hnodup : (s.gran.entries.map placeOf).Nodup) (hx : x ∈ s.gran.entries) (hlone : Lone s x)
    (fuel : Nat) (rest : List (Nat × Nat)) : s.prune (fuel + 1) (placeOf x :: rest) = (s.pruneOne x).prune fuel rest := by
  have howned : ownedConds s x = [] := by
    rw [ownedConds, List.map_eq_nil_iff, List.filter_eq_nil_iff]
    intro y hy
    by_cases hlive : y.live = true
    · simpa [hlive, entryKey] using hlone.owner y hy hlive
    · simp [hlive]
  rw [placeOf, State.prune, entryAt_of_mem hnodup hx]
  simp [hlone.tiller, hlone.pruned, howned, freeConds_nil]

/-- Tillers that are lone are pruned one after another. -/
theorem prune_leaves {places : List (Nat × Nat)} : ∀ {s : State} {fuel : Nat}, (s.gran.entries.map placeOf).Nodup → places.Nodup →
    places.length ≤ fuel → (∀ a ∈ places, ∃ x ∈ s.gran.entries, placeOf x = a ∧ Lone s x) →
    PruneLeaves s places (s.prune fuel places) := by
  induction places with
  | nil =>
    intro s fuel _ _ _ _
    have hnil : s.prune fuel [] = s := by cases fuel <;> rfl
    rw [hnil]
    exact PruneLeaves.refl
  | cons a rest ih =>
    intro s fuel hnodup hplaces hfuel hall
    obtain ⟨n, rfl⟩ : ∃ n, fuel = n + 1 := ⟨fuel - 1, (Nat.sub_add_cancel (Nat.one_le_of_lt hfuel)).symm⟩
    obtain ⟨x, hx, rfl, hlone⟩ := hall a List.mem_cons_self
    obtain ⟨hout, hrest⟩ := List.nodup_cons.mp hplaces
    have hfirst := pruneOne_leaves hnodup hx hlone.maq hlone.stores
    rw [prune_cons hnodup hx hlone]
    obtain ⟨f, hf, hentries⟩ := hfirst.entries
    refine hfirst.trans (ih (hentries ▸ hf.nodup hnodup) hrest (Nat.le_of_succ_le_succ hfuel) fun b hb => ?_)
    obtain ⟨y, hy, rfl, hlone'⟩ := hall b (List.mem_cons_of_mem _ hb)
    obtain ⟨prov, hprov, hfy⟩ := (hf y).1 (by rw [List.mem_singleton]; exact fun h => hout (h ▸ hb))
    refine ⟨{ y with prov := prov }, hentries ▸ List.mem_filterMap.mpr ⟨y, hy, hfy⟩, rfl,
      ⟨hlone'.tiller, hlone'.pruned, hlone'.maq, fun h hh => hlone'.stores h (hprov hh), fun z hz => hlone'.owner z (hfirst.conds ▸ hz)⟩⟩

end Sys2Proof.Granary
end

section
/-! Proofs for the family of tasks, tillers and the system: the resolution of a condition. -/

namespace Sys2Proof.Granary

open Sys2Proof Sys2Proof.Machine Sys2Proof.Spec Sys2Proof.Laws Sys2Proof.Ordering

/-! ### The predictor (R259) -/

/-- One update of a site, as an exact quotient. -/
theorem predStep_eq (k q : Nat) (hit : Bool) :
    predStep k q hit = ((q : Int) + ⌊(((if hit = true then 256 else 0) - (q : Int) : Int) : Rat) / 2 ^ k⌋).toNat := by
  have hpow : (2 : Rat) ^ k = ((2 ^ k : Nat) : Rat) := by push_cast; rfl
  rw [predStep, hpow, Rat.floor_intCast_div_natCast]

/-- The sites of those that were spawned with LEARN move one after another. -/
def moved (k : Nat) (v : Bool) (m : Tbl Nat) (l : List (Nat × Bool)) : Tbl Nat :=
  l.foldl (fun m x => tblPut m x.1 (predStep k (tblGet m x.1 128) (v == x.2))) m

theorem learnAll_eq (s : State) (v : Bool) (l : List (Nat × Bool)) :
    learnAll s v l = { s with gran := { s.gran with pred := moved s.hub.plinth.predK v s.gran.pred l } } := by
  induction l generalizing s with
  | nil => rfl
  | cons x l ih => exact ih _

/-! ### The resolution (R260) -/

/-- The tillers of a condition, and those of them whose side is the other one. -/
def onCond (s : State) (n : Nat) : List Entry := s.gran.entries.filter fun x => x.tiller && !x.pruned && chainHas x n
def againstCond (s : State) (n : Nat) (v : Bool) : List Entry :=
  (onCond s n).filter fun x => x.chain.any fun l => l.cond == n && l.side != v

/-- A tiller's chain without the condition. -/
def dropLink (n : Nat) (x : Entry) : Entry := { x with chain := if x.tiller then x.chain.filter fun l => l.cond != n else x.chain }

/-- The condition is free and keeps its value. -/
def closeCond (n : Nat) (v : Bool) (c : Cond) : Cond :=
  if c.num = n && c.live then { c with live := false, val := some v, owners := [], learners := [] } else c

section Resolve
variable {s : State} {n : Nat} {v : Bool}

theorem mem_againstCond {x : Entry} : x ∈ againstCond s n v ↔ x ∈ s.gran.entries
    ∧ (x.tiller = true ∧ x.pruned = false ∧ ∃ l ∈ x.chain, l.cond = n) ∧ ∃ l ∈ x.chain, l.cond = n ∧ l.side ≠ v := by
  simp only [againstCond, onCond, chainHas, List.mem_filter, List.any_eq_true, Bool.and_eq_true, Bool.not_eq_true', beq_iff_eq, bne_iff_ne, and_assoc]

theorem resolveOne_fst : (s.resolveOne n v).1 =
    let s1 := s.pruneAll ((againstCond s n v).map placeOf)
    { s1 with gran := { s1.gran with
        entries := s1.gran.entries.map (dropLink n)
        conds := s1.gran.conds.map (closeCond n v)
        pred := moved s1.hub.plinth.predK v s1.gran.pred
          (((s.gran.conds.find? fun c => c.num == n && c.live).map (·.learners)).getD []) } } := by
  simp only [State.resolveOne, learnAll_eq]
  rfl

theorem resolveOne_snd : (s.resolveOne n v).2 =
    ((s.resolveOne n v).1.gran.entries.filter fun y => y.tiller && !y.pruned && y.chain.isEmpty
      && s.gran.entries.any fun x => x.tiller && !x.pruned && (x.chain.any fun l => l.cond == n) && x.die == y.die && x.ix == y.ix).map
        fun x => .commit x.die x.ix := by
  have hdef : (s.resolveOne n v).2 = ((s.resolveOne n v).1.gran.entries.filter fun x => x.tiller && !x.pruned && x.chain.isEmpty
      && (onCond s n).any fun y => sameEntry y x.die x.ix).map fun x => .commit x.die x.ix := rfl
  simp only [hdef, onCond, List.any_filter, sameEntry, Bool.and_assoc]
  rfl

/-- A resolution that sets off no commit is all the work there is. -/
theorem granWork_resolve (h : (s.resolveOne n v).2 = []) : s.granWork [.resolve n v] = (s.resolveOne n v).1 := by
  obtain ⟨fuel, hfuel⟩ : ∃ fuel, granFuel s = fuel + 1 := ⟨_, (Nat.sub_add_cancel (by unfold granFuel; omega)).symm⟩
  have hturn : inTurn (s.resolveOne n v).1 [] = [] := rfl
  rw [State.granWork, hfuel, granRun]
  simp only [h, hturn, List.nil_append, granRun_nil]

end Resolve

/-- R259, R260: one resolution of a condition. -/
theorem conditionResolves (s : State) : ConditionResolves s := by
  unfold ConditionResolves
  intro n v r key on against less bare hnodup hlone
  have hmem (x : Entry) : x ∈ againstCond s n v ↔ x ∈ s.gran.entries ∧ against x := mem_againstCond
  have hplaces : ((againstCond s n v).map placeOf).Nodup :=
    hnodup.sublist ((List.filter_sublist.trans List.filter_sublist).map placeOf)
  have hfuel : ((againstCond s n v).map placeOf).length ≤
      (s.gran.entries.length + 1) * (s.gran.entries.length + ((againstCond s n v).map placeOf).length + 1) := by
    nlinarith
  have hprune : PruneLeaves s ((againstCond s n v).map placeOf) (s.pruneAll ((againstCond s n v).map placeOf)) := by
    refine prune_leaves hnodup hplaces hfuel fun a ha => ?_
    obtain ⟨x, hx, rfl⟩ := List.mem_map.mp ha
    obtain ⟨hx, hag⟩ := (hmem x).mp hx
    obtain ⟨hmaq, hstores, hown⟩ := hlone x hx hag
    obtain ⟨⟨htiller, hpruned, -⟩, -⟩ := hag
    exact ⟨x, hx, rfl, htiller, hpruned, hmaq, hstores, hown⟩
  have hplace {x : Entry} (hx : x ∈ s.gran.entries) : placeOf x ∈ (againstCond s n v).map placeOf ↔ against x := by
    refine ⟨fun h => ?_, fun h => List.mem_map_of_mem ((hmem x).mpr ⟨hx, h⟩)⟩
    obtain ⟨y, hy, hyx⟩ := List.mem_map.mp h
    obtain ⟨hy, hag⟩ := (hmem y).mp hy
    exact List.inj_on_of_nodup_map hnodup hy hx hyx ▸ hag
  obtain ⟨hmemory, hhub, hconds, hpred, f, hf, hentries⟩ := hprune
  have hr : r.1.gran.entries = (s.gran.entries.filterMap f).map (dropLink n) := by
    rw [show r.1 = _ from resolveOne_fst, ← hentries]
  have hfrom {y : Entry} (hy : y ∈ r.1.gran.entries) : ∃ x ∈ s.gran.entries, ∃ z, f x = some z ∧ dropLink n z = y := by
    rw [hr] at hy
    obtain ⟨z, hz, hzy⟩ := List.mem_map.mp hy
    obtain ⟨x, hx, hxz⟩ := List.mem_filterMap.mp hz
    exact ⟨x, hx, z, hxz, hzy⟩
  have hto {x z : Entry} (hx : x ∈ s.gran.entries) (hz : f x = some z) : dropLink n z ∈ r.1.gran.entries :=
    hr ▸ List.mem_map_of_mem (List.mem_filterMap.mpr ⟨x, hx, hz⟩)
  refine ⟨fun x hx hag => ?_, fun x hx hag => ?_, fun y hy => ?_, ?_, ?_, ?_, granWork_resolve, resolveOne_snd⟩
  · obtain ⟨-, hrun, hgo⟩ := hf x
    split
    next hst =>
      obtain ⟨prov, hz⟩ := hrun ((hplace hx).mpr hag) hst
      exact ⟨_, hto hx hz, rfl, rfl, rfl⟩
    next hst =>
      intro y hy hkey
      obtain ⟨w, hw, z, hz, rfl⟩ := hfrom hy
      obtain rfl : w = x := List.inj_on_of_nodup_map hnodup hw hx ((hf.place hz).symm.trans hkey)
      rw [hgo ((hplace hx).mpr hag) hst] at hz
      cases hz
  · obtain ⟨prov, -, hz⟩ := (hf x).1 (mt (hplace hx).mp hag)
    exact List.mem_map.mpr ⟨_, hto hx hz, rfl⟩
  · obtain ⟨x, hx, z, hz, rfl⟩ := hfrom hy
    exact ⟨x, hx, (hf.place hz).symm⟩
  · rw [show r.1 = _ from resolveOne_fst]
    refine (congrArg (List.map (closeCond n v)) hconds).trans (List.map_congr_left fun c _ => ?_)
    simp [closeCond]
  · rw [show r.1 = _ from resolveOne_fst]
    dsimp only
    rw [hpred, hhub, moved]
    simp only [predStep_eq, beq_iff_eq]
  · rw [show r.1 = _ from resolveOne_fst]
    exact hmemory

end Sys2Proof.Granary
end

section
/-! Proofs for the family of tasks, tillers and the system: the task words of one thread, and what the Granary makes of what waits on it. -/

namespace Sys2Proof.Granary

open Sys2Proof Sys2Proof.Machine Sys2Proof.Spec Sys2Proof.Laws Sys2Proof.Scope Sys2Proof.Sheaves Sys2Proof.Waiting Sys2Proof.Arithmetic
  Sys2Proof.Tasks

section Words
variable {f : Full} {s : State} {e : Env} {t : Thread}

/-! ### TASK.TAKE (R246) -/

theorem taskTakeWord_eq : taskTakeWord f e t s =
    let mask := tblGet e.k.g ((if t.id.sup then 1024 else 0) * 64 + t.id.tid / t.id.width * 64 + f.b.toNat) 0 &&& qmaskOf s t.id.launch
    if mask = 0 then ends s e (status t f.d.toNat .absent)
    else (ends s e (waiting e t (.take mask) .task f.dsel.toNat f.d.toNat)).settleGran := by
  simp only [taskTakeWord, readG, gKey_eq, ends_eq, waiting_eq, status_eq e t _ .absent (by decide)]

/-! ### Words that read a descriptor (R245, R257) -/

/-- The eight reads of a descriptor join the path queue, and the thread waits for them. -/
def readingDesc (f : Full) (e : Env) (t : Thread) (x : Option SpawnArg) (p : Nat) (w : Path) : Thread :=
  let acc := t.acc ++ (List.range 8).map fun j =>
    ({ id := 16 * e.ck.cyc + j, path := w, kind := .desc j, phys := p + 8 * j, size := 8, cyc := e.ck.cyc, inv := false,
       rel := false, flag := none, after := 0, posts := [] } : Access)
  waiting e { t with acc := acc } (.desc x (List.replicate 8 0) (t.acc.map (·.id)) (owed e t)) .task f.dsel.toNat f.d.toNat

theorem descWord_plain (hp : t.spec = .plain) {p : Nat} {w : Path} (hacc : checkAcc e t (a32 f t) 64 8 true false = .at_ p w)
    (x : Option SpawnArg) : descWord f x e t s = ends s e (readingDesc f e t x p w) := by
  have hacc' : checkAcc e t (readV t f.a.toNat) 64 8 true false = .at_ p w := hacc
  have hid (j : Nat) : accId e j = 16 * e.ck.cyc + j := congrArg (· + j) (Nat.mul_comm _ _)
  simp only [descWord, hacc', isDetached_of_plain hp, runsTiller_of_plain hp, Bool.and_false, Bool.false_and, Bool.false_eq_true, if_false,
    ends_eq, waiting_eq, descLoads, hid]
  rfl

/-- The spawn block of R257, field by field. -/
theorem spawnArg_eq : spawnArg f t =
    let v := (readV t (f.b.toNat + 1)).toNat
    { cref := (readV t f.b.toNat).toNat, p := v % 2 ^ 8, side := v.testBit 8, site := v / 2 ^ 9 % 2 ^ 12,
      psrc := f.opx.getLsbD 0, learn := f.opx.getLsbD 1, rsvd := decide (v / 2 ^ 21 ≠ 0) } := by
  have hv : (readV t (f.b.toNat + 1)).toNat / 2 ^ 21 % 2 ^ 11 = (readV t (f.b.toNat + 1)).toNat / 2 ^ 21 :=
    Nat.mod_eq_of_lt (by have := (readV t (f.b.toNat + 1)).isLt; omega)
  have hset (n : Nat) : (n != 0) = decide (n ≠ 0) := by by_cases h : n = 0 <;> simp [h]
  simp only [spawnArg, field, pow_zero, Nat.div_one, bitAt_eq_testBit, opxB, hv, hset]

/-! ### Words behind a release (R253) -/

/-- The word pends in its thread, and its flag is raised. -/
def pending (f : Full) (e : Env) (t : Thread) (act : GAct) : Thread :=
  { t with pend := t.pend ++ [⟨act, flagFor e f, t.acc.map (·.id), owed e t, e.ck.cyc⟩], flags := raised (flagFor e f) t.flags }

theorem pendWord_eq (act : GAct) : pendWord f act e t s = (ends s e (pending f e t act)).settleGran := by
  simp only [pendWord, addFlag_eq, flagFor_eq, ends_eq]
  rfl

theorem heldWord_plain (hp : t.spec = .plain) (act : GAct) (lat : Nat) :
    heldWord f act lat (pendWord f act) e t s = (ends s e (pending f e t act)).settleGran := by
  simp only [heldWord, isDetached_of_plain hp, runsTiller_of_plain hp, Bool.false_eq_true, if_false, pendWord_eq]

theorem condNewWord_plain (hp : t.spec = .plain) :
    condNewWord f e t s = (ends s e (waiting e t .condNew .task f.dsel.toNat f.d.toNat)).settleGran := by
  simp only [condNewWord, isDetached_of_plain hp, Bool.false_eq_true, if_false, ends_eq, waiting_eq]

end Words

/-- Settles O36: the words of one thread, each in its one taker; and of the Granary its pass, its takers, the words that wait for an entry
or a condition, the words behind a release, and the resolution of a condition, each by the theorem of its name. -/
theorem taskWordsReachTheGranaryWhichServesThem : Obligations.TaskWordsReachTheGranaryWhichServesThem := by
  unfold Obligations.TaskWordsReachTheGranaryWhichServesThem
  refine ⟨?words, fun s => ⟨granaryPass, takersAreServed, entriesAreMade s, pendingWordsAct s, conditionResolves s⟩⟩
  intro f s e t he hp d ids pends reads v arg mask
  refine ⟨fun ha => ?take, fun p w hacc => ⟨fun ha => ?put, fun ha => ?spawn⟩, fun ha => ?done, fun ha => ?dep, fun ha => ?set, fun ha => ?new⟩
  case take => rw [exec_of_settledFold (g := taskTakeWord f) rfl he ha, taskTakeWord_eq]
  case put =>
    rw [exec_of_settledFold (g := descWord f none) rfl he ha, descWord_plain hp hacc]
    rfl
  case spawn =>
    rw [exec_of_settledFold (g := spawnWord f) rfl he ha, spawnWord, descWord_plain hp hacc, spawnArg_eq]
    rfl
  case done =>
    rw [exec_of_wordFold (g := taskDoneWord f) rfl he ha, taskDoneWord, pendWord_eq]
    rfl
  case dep =>
    rw [exec_of_wordFold (g := taskDepWord f) rfl he ha, taskDepWord, heldWord_plain hp, intOf_s32]
    rfl
  case set =>
    rw [exec_of_wordFold (g := condSetWord f) rfl he ha, condSetWord, heldWord_plain hp]
    rfl
  case new => rw [exec_of_settledFold (g := condNewWord f) rfl he ha, condNewWord_plain hp]

end Sys2Proof.Granary
end

section
/-! Proofs for the family of traps, the front end and the service: what a trap leaves and how a resume returns from it. -/

namespace Sys2Proof.Traps

open Sys2Proof Machine

variable {ck : Clock} {k : Core} {t : Thread} {w : Nat} {skw stepping : Bool}

/-- RETRY inside the clause: the thread stands at its word again (R352, R353). -/
theorem resume_retry_inside (hpos : 1 ≤ t.pos.widx) (hlen : t.pos.widx ≤ clauseLen k t) :
    resume ck k t .retry skw stepping = standResume ck.now { t with
      frec := none
      dbg := { t.dbg with skw := if skw then some (t.pos.hdr, t.pos.widx) else none, step := stepping, fresh := true } } t.pos.widx := by
  have h0 : t.pos.widx ≠ 0 := by omega
  simp only [resume, h0, hlen, if_false, if_true, beq_self_eq_true, Bool.true_and]

/-- RETRY past the clause's end: control falls through (R353). -/
theorem resume_retry_past (hlen : clauseLen k t < t.pos.widx) :
    resume ck k t .retry false stepping = fallThrough ck k { t with
      frec := none, dbg := { t.dbg with skw := none, step := stepping, fresh := true } } .sent := by
  have h0 : t.pos.widx ≠ 0 := by omega
  have h1 : ¬ t.pos.widx ≤ clauseLen k t := by omega
  simp only [resume, h0, h1, if_false, Bool.and_false, Bool.false_eq_true]

/-- SKIP inside the clause: the thread stands at the next word (R352, R353). -/
theorem resume_skip_inside (hlen : t.pos.widx < clauseLen k t) :
    resume ck k t .skip skw stepping = standResume ck.now { t with
      frec := none, dbg := { t.dbg with skw := none, step := stepping, fresh := true } } (t.pos.widx + 1) := by
  simp only [resume, hlen, if_true]
  rfl

/-- SKIP at the clause's end or past it: control falls through (R353). -/
theorem resume_skip_past (hlen : clauseLen k t ≤ t.pos.widx) :
    resume ck k t .skip skw stepping = fallThrough ck k { t with
      frec := none, dbg := { t.dbg with skw := none, step := stepping, fresh := true } } .sent := by
  simp only [resume, if_neg (not_lt.mpr hlen)]
  rfl

/-- REDIRECT: an arrival at the header that it names, or a new trap at the same word (R352). -/
theorem resume_redirect (h : Nat) :
    let free : Thread := { t with frec := none, dbg := { t.dbg with skw := none, step := stepping, fresh := true } }
    resume ck k t (.redirect h) skw stepping =
      if isHeader k t.id.sup h then arriveAt ck k free h none .sent else park ck free .illegal t.pos.widx 0 0 := rfl

theorem guestMode_eq (t : Thread) : guestMode t = decide (t.gst.htb ≠ 0) := by
  simp only [guestMode, bne, ne_eq, decide_not]
  rfl

/-- Settles O53: the record by definition, each resume word by its lemma on the parked thread. -/
theorem trapsParkAndResumesReturn : Obligations.TrapsParkAndResumesReturn := by
  unfold Obligations.TrapsParkAndResumesReturn
  intro ck k t cause w code arg skw stepping u gm len
  refine ⟨by simp [u, park], ?record, ?retry, ?skip, ⟨?skipPast, ?retryPast, ?retryHeader⟩, ?redirect⟩
  case record => simp only [u, gm, park, recordOf, guestMode_eq]
  case retry =>
    intro hpos hlen
    simp only [show resume ck k u .retry skw stepping = _ from resume_retry_inside hpos hlen]
    exact ⟨rfl, rfl, rfl, rfl, rfl, rfl⟩
  case skip =>
    intro hlen
    simp only [show resume ck k u .skip skw stepping = _ from resume_skip_inside hlen]
    exact ⟨rfl, rfl, rfl, rfl, rfl⟩
  case skipPast => exact fun hlen => resume_skip_past hlen
  case retryPast => rintro rfl hlen; exact resume_retry_past hlen
  case retryHeader => rintro rfl rfl; rfl
  case redirect =>
    refine fun h => ⟨fun hno => ?_, fun hyes => ?_⟩
    · rw [resume_redirect, show isHeader k u.id.sup h = false from hno, if_neg Bool.false_ne_true]; rfl
    · rw [resume_redirect, show isHeader k u.id.sup h = true from hyes, if_pos rfl]

end Sys2Proof.Traps
end

section
/-! Proofs for the family of traps, the front end and the service: what reset leaves, and that every step settles the halts. -/

namespace Sys2Proof.Halts

open Sys2Proof Machine

/-- R398: a core that hardware has looked at keeps no completed halt. -/
theorem clearHalt_settles (k : Core) :
    ((clearHalt k).dbgNow.haltr.getLsbD 10 && (clearHalt k).dbgDue.isNone && (clearHalt k).team.isSome
      && haltOver (clearHalt k) (clearHalt k).dbgNow.haltr.toNat) = false := by
  unfold clearHalt
  split
  case isTrue => simp
  case isFalse h => exact eq_false_of_ne_true h

theorem haltsSettled_endStep (s : State) : haltsSettled (endStep s) := by
  intro k hk
  obtain ⟨k, -, rfl⟩ := List.mem_map.mp hk
  exact clearHalt_settles k

/-- What a step answers is a move's answer at its end. -/
theorem step_next_iff {s t : State} : step s = .next t ↔ ∃ s1, perform (takeMove s).2 (takeMove s).1 = .next s1 ∧ t = endStep s1 := by
  unfold step
  cases h : perform (takeMove s).2 (takeMove s).1 <;> simp [h, eq_comm]

/-- Settles O58: the end of a step clears every completed halt. -/
theorem everyStepSettlesHalts : Obligations.EveryStepSettlesHalts := by
  unfold Obligations.EveryStepSettlesHalts
  intro s t h
  obtain ⟨s1, -, rfl⟩ := step_next_iff.mp h
  exact haltsSettled_endStep s1

theorem eq_reset_of_mem_cores {k : Core} (hk : k ∈ State.reset.cores) : k = Core.reset := List.eq_of_mem_replicate hk

/-- Settles O59: every core is `Core.reset`, and no queue is listed. -/
theorem resetHoldsTheStatedValues : Obligations.ResetHoldsTheStatedValues := by
  unfold Obligations.ResetHoldsTheStatedValues
  have hcores : ∀ k ∈ State.reset.cores,
      k.team = none ∧ k.threads = [] ∧ k.issue = none ∧ k.dbg.haltr = 0 ∧ k.dbgNow.haltr = 0 := fun k hk => by
    rw [eq_reset_of_mem_cores hk]; exact ⟨rfl, rfl, rfl, rfl, rfl⟩
  have hhalts : haltsSettled State.reset := fun k hk => by rw [eq_reset_of_mem_cores hk]; rfl
  exact ⟨State.reset_wf, hhalts, rfl, rfl, rfl, List.length_replicate, hcores, fun _ => rfl, rfl, rfl, rfl, rfl, rfl, rfl, rfl, rfl,
    rfl, rfl, rfl, rfl, rfl, rfl, rfl, rfl, rfl⟩

end Sys2Proof.Halts
end

section
/-! Every step keeps the memory canonical. A function of the model that writes no byte has a lemma `f_mem`, which says that it
leaves the memory as it is; one that writes has a lemma `f_wf`, which says that it keeps the canonical form. Bytes are written by
`State.store`, `State.clearRange` and `State.storeCells` alone, whose lemmas stand with the laws of memory. The lemmas follow the
order of the model's definitions; where a proof ends in `(repeat' split) <;> simp`, every branch is built of functions that stand
before it. -/

namespace Sys2Proof.Canonical

open Sys2Proof Machine MemorySeen

theorem foldl_wf {α : Type} {g : State → α → State} (hg : ∀ s x, memWf s.mem = true → memWf (g s x).mem = true) (l : List α)
    {s : State} (h : memWf s.mem = true) : memWf (l.foldl g s).mem = true := by
  induction l generalizing s with
  | nil => exact h
  | cons x l ih => exact ih (hg s x h)

@[simp] theorem mem_ite (p : Prop) [Decidable p] (s t : State) : (if p then s else t).mem = if p then s.mem else t.mem :=
  apply_ite State.mem p s t

@[simp] theorem memWf_ite (p : Prop) [Decidable p] {m n : Mem} (hm : memWf m = true) (hn : memWf n = true) :
    memWf (if p then m else n) = true := by
  split
  · exact hm
  · exact hn

theorem ite_wf {p : Prop} [Decidable p] {s t : State} (hs : memWf s.mem = true) (ht : memWf t.mem = true) :
    memWf (if p then s else t).mem = true := by
  split
  · exact hs
  · exact ht

@[simp] theorem storeN_wf {s : State} (h : memWf s.mem = true) (a n v : Nat) : memWf (s.storeN a n v).mem = true :=
  State.store_wf h _ _

@[simp] theorem wordMap_mem (i : Instr) (f : Env → Thread → TRes) (s : State) : (wordMap i f s).mem = s.mem := by
  unfold wordMap
  split <;> rfl

/-! ### The shared operations -/

@[simp] theorem parkIllegal_mem (e : Env) (i : Instr) : (parkIllegal e i).mem = e.s.mem := rfl

theorem foldTurn_wf {f : Env → Thread → State → State} {e : Env} (hf : ∀ t s, memWf s.mem = true → memWf (f e t s).mem = true)
    (s : State) (sl : Nat) (h : memWf s.mem = true) : memWf (foldTurn f e s sl).mem = true := by
  unfold foldTurn
  split
  · split
    · exact hf _ _ h
    · exact h
  · exact h

theorem wordFold_wf (i : Instr) {f : Env → Thread → State → State} (hf : ∀ e t s, memWf s.mem = true → memWf (f e t s).mem = true)
    {s : State} (h : memWf s.mem = true) : memWf (wordFold i f s).mem = true := by
  unfold wordFold
  split
  · exact h
  · rename_i e he
    have hpark : memWf (parkIllegal e i).mem = true := by rwa [parkIllegal_mem, (Laws.env_spec he).1]
    exact foldl_wf (foldTurn_wf (hf e)) _ hpark

theorem wordMix_wf (i : Instr) (f : Env → Thread → TRes) {g : Env → Thread → State → State}
    (hg : ∀ e t s, memWf s.mem = true → memWf (g e t s).mem = true) {s : State} (h : memWf s.mem = true) :
    memWf (wordMix i f g s).mem = true := by
  unfold wordMix
  split
  · exact h
  · exact foldl_wf (foldTurn_wf (hg _)) _ h

@[simp] theorem endWordAt_mem (s : State) (e : Env) (t : Thread) (r : TRes) : (s.endWordAt e t r).mem = s.mem := rfl

@[simp] theorem hold_mem (s : State) (c : Nat) (tillers : List (Nat × Nat × Nat)) (items : List Held) :
    (s.hold c tillers items).mem = s.mem := by
  refine foldl_mem (fun s x => ?_) tillers s
  rfl

@[simp] theorem suspendAt_mem (e : Env) (t : Thread) (s : State) : (suspendAt e t s).mem = s.mem := rfl

@[simp] theorem holdOrSuspend_mem (e : Env) (t u : Thread) (tillers : List (Nat × Nat × Nat)) (items : List Held) (s : State) :
    (holdOrSuspend e t u tillers items s).mem = s.mem := by
  simp [holdOrSuspend]

/-! ### Transfers -/

@[simp] theorem callTiller_mem (e : Env) (t : Thread) (h : Nat) (s : State) : (callTiller e t h s).mem = s.mem := by
  unfold callTiller
  split <;> simp

/-! ### Waits on the completion board -/

@[simp] theorem settleWaitsAt_mem (s : State) (c : Nat) : (s.settleWaitsAt c).mem = s.mem := rfl

@[simp] theorem settleWaits_mem (s : State) : (s.settleWaits).mem = s.mem := rfl

/-! ### Loads, stores, atomics and the counting filter at issue -/

@[simp] theorem storeTiller_mem (f : Full) (rel : Bool) (e : Env) (t : Thread) (s : State) :
    (storeTiller f rel e t s).mem = s.mem := by
  unfold storeTiller
  dsimp only
  split <;> simp

@[simp] theorem atomTiller_mem (f : Full) (e : Env) (t : Thread) (s : State) : (atomTiller f e t s).mem = s.mem := by
  unfold atomTiller
  split <;> simp

@[simp] theorem cntfTiller_mem (f : Full) (e : Env) (t : Thread) (s : State) : (cntfTiller f e t s).mem = s.mem := by
  unfold cntfTiller
  split <;> simp

@[simp] theorem cntfClrTiller_mem (f : Full) (e : Env) (t : Thread) (s : State) : (cntfClrTiller f e t s).mem = s.mem := by
  unfold cntfClrTiller
  dsimp only
  split <;> simp

/-! ### Barrier objects and ring-slot tags -/

@[simp] theorem putBarPost_mem (s : State) (x : BarPost) : (s.putBarPost x).mem = s.mem := rfl

@[simp] theorem fireWake_mem (s : State) (c : Nat) (t : Thread) (st : Status) (regs : List (Nat × Reg)) :
    (s.fireWake c t st regs).mem = s.mem := rfl

@[simp] theorem completePhase_wf {s : State} (a : Nat) (short past : Bool) (h : memWf s.mem = true) :
    memWf (s.completePhase a short past).mem = true := by
  rw [completePhase_mem]
  exact storeN_wf h _ _ _

@[simp] theorem decBarrier_wf {s : State} (a d : Nat) (short : Bool) (h : memWf s.mem = true) :
    memWf (s.decBarrier a d short).mem = true := by
  unfold State.decBarrier
  dsimp only
  split
  · exact storeN_wf h _ _ _
  · split
    · exact storeN_wf (storeN_wf h _ _ _) _ _ _
    · exact completePhase_wf _ _ _ h

@[simp] theorem countedBy_mem (s : State) (op obj : Nat) : (countedBy s op obj).mem = s.mem := by
  simp [countedBy]

@[simp] theorem arriveBar_wf {s : State} (c : Nat) (t : Thread) (a n : Nat) (h : memWf s.mem = true) :
    memWf (arriveBar s c t a n).1.mem = true := by
  rw [arriveBar_mem]
  split
  · exact h
  · exact decBarrier_wf _ _ _ h

@[simp] theorem withdraw_wf {s : State} (c : Nat) (t : Thread) (obj ph n : Nat) (h : memWf s.mem = true) :
    memWf (s.withdraw c t obj ph n).mem = true := by
  unfold State.withdraw
  dsimp only
  split <;> simp [h]

@[simp] theorem endWaitAt_mem (s : State) (c sl : Nat) (st : Status) (more : List (Nat × Reg)) :
    (s.endWaitAt c sl st more).mem = s.mem := rfl

@[simp] theorem waitAs_mem (s : State) (c sl : Nat) (kind : WaitKind) : (s.waitAs c sl kind).mem = s.mem := rfl

@[simp] theorem doneOrAcquire_mem (s : State) (c sl : Nat) (acq : Bool) (ids : List Nat) (kind : WaitKind) :
    (s.doneOrAcquire c sl acq ids kind).mem = s.mem := by
  unfold State.doneOrAcquire
  split <;> rfl

@[simp] theorem meetBarrier_wf {s : State} (c : Nat) (t : Thread) (a ph n : Nat) (acq : Bool) (h : memWf s.mem = true) :
    memWf (s.meetBarrier c t a ph n acq).mem = true := by
  unfold State.meetBarrier
  (repeat' split) <;> simp [h]

@[simp] theorem initBarrier_wf {s : State} (a n : Nat) (h : memWf s.mem = true) : memWf (s.initBarrier a n).mem = true := by
  rw [initBarrier_mem]
  exact storeN_wf (storeN_wf h _ _ _) _ _ _

@[simp] theorem setTag_mem (s : State) (c n : Nat) (x : Tag) : (s.setTag c n x).mem = s.mem := rfl

@[simp] theorem countedIn_mem (s : State) (op c n : Nat) : (countedIn s op c n).mem = s.mem := by
  simp [countedIn]

@[simp] theorem sawFill_mem (s : State) (c sl : Nat) (x : Tag) (claim : Option Nat) : (s.sawFill c sl x claim).mem = s.mem := by
  unfold State.sawFill
  split <;> rfl

@[simp] theorem settleTag_mem (s : State) (c n fuel : Nat) : (s.settleTag c n fuel).mem = s.mem := by
  induction fuel generalizing s with
  | zero => rfl
  | succ fuel ih =>
    unfold State.settleTag
    split
    · rfl
    · simp [ih]

@[simp] theorem countTag_mem (s : State) (c n b : Nat) (short : Bool) : (s.countTag c n b short).mem = s.mem := by
  simp [State.countTag]

@[simp] theorem meetTag_mem (s : State) (c : Nat) (t : Thread) (tc tag : Nat) (claim : Option Nat) :
    (s.meetTag c t tc tag claim).mem = s.mem := by
  unfold State.meetTag
  split <;> simp

@[simp] theorem freeTag_mem (s : State) (tc tag : Nat) : (s.freeTag tc tag).1.mem = s.mem := by
  unfold State.freeTag
  dsimp only
  split <;> simp

@[simp] theorem barTiller_mem (f : Full) (g : Env → Thread → TRes) (e : Env) (t : Thread) (s : State) :
    (barTiller f g e t s).mem = s.mem := by
  unfold barTiller
  split <;> simp

@[simp] theorem slotTiller_mem (g : Env → Thread → TRes) (e : Env) (t : Thread) (s : State) : (slotTiller g e t s).mem = s.mem := by
  unfold slotTiller
  split <;> simp

/-! ### The physical map, walks and pager futures -/

@[simp] theorem busStore_wf {s : State} (a n v : Nat) (h : memWf s.mem = true) : memWf (s.busStore a n v).mem = true := by
  simp [State.busStore, h]

@[simp] theorem logRec_wf {s : State} (kind unit launch data : Nat) (h : memWf s.mem = true) :
    memWf (s.logRec kind unit launch data).mem = true := by
  simp [State.logRec, h]

@[simp] theorem pagerFor_mem (s : State) (die launch va lo bytes acc : Nat) :
    (s.pagerFor die launch va lo bytes acc).1.mem = s.mem := by
  unfold State.pagerFor
  split
  · rfl
  · split
    · rfl
    · split <;> rfl

@[simp] theorem translate_mem (s : State) (o : Op) (va acc : Nat) : (s.translate o va acc).mem = s.mem := by
  unfold State.translate
  dsimp only
  split
  · rfl
  · split
    · rfl
    · rw [State.modOp_mem]
      split
      · exact pagerFor_mem ..
      · rfl

/-! ### Engine operations in common -/

theorem newOp_mem {s : State} {c cyc : Nat} {t : Thread} {x : Ask} {held dead : Bool} {r : State × Nat × Quad}
    (h : s.newOp c cyc t x held dead = some r) : r.1.mem = s.mem := by
  unfold State.newOp at h
  split at h
  · cases h
  · cases h; rfl

@[simp] theorem issueOp_mem (e : Env) (t : Thread) (d : Nat) (x : Ask) (outside : Thread → Bool) (s : State) :
    (issueOp e t d x outside s).mem = s.mem := by
  unfold issueOp
  dsimp only
  split
  · exact suspendAt_mem ..
  · split
    · exact endWordAt_mem ..
    · rename_i hnew
      simpa using newOp_mem hnew

@[simp] theorem accept_mem (s : State) (o : Op) (f : Op → Op) (promise : Option Nat) : (s.accept o f promise).mem = s.mem := rfl

@[simp] theorem complete_mem (s : State) (o : Op) (st : Status) : (s.complete o st).mem = s.mem := rfl

/-! ### The Granary -/

@[simp] theorem addEntry_mem (s : State) (x : Entry) : (s.addEntry x).mem = s.mem := rfl

@[simp] theorem dropCopy_mem (s : State) (x : Entry) : (dropCopy s x).mem = s.mem := by
  unfold dropCopy
  split <;> simp

@[simp] theorem freeEntry_mem (s : State) (die ix : Nat) : (s.freeEntry die ix).mem = s.mem := by
  unfold State.freeEntry
  split <;> simp

@[simp] theorem decSucc_mem (s : State) (r : Nat) : (s.decSucc r).mem = s.mem := by
  unfold State.decSucc
  split <;> simp

@[simp] theorem decList_mem (launch ovf n j : Nat) (s : State) : (decList launch ovf n j s).1.mem = s.mem := by
  induction n generalizing j s with
  | zero => rfl
  | succ n ih =>
    unfold decList
    split
    · rfl
    · simp [ih]

@[simp] theorem completeTask_mem (s : State) (x : Entry) : (s.completeTask x).1.mem = s.mem := by
  have hsucc (l : List Nat) (s : State) : (l.foldl State.decSucc s).mem = s.mem := foldl_mem decSucc_mem l s
  unfold State.completeTask
  rw [freeEntry_mem]
  split <;> simp [hsucc]

@[simp] theorem learnAll_mem (s : State) (v : Bool) (l : List (Nat × Bool)) : (learnAll s v l).mem = s.mem := by
  simp [learnAll, foldl_mem]

@[simp] theorem giveTask_mem (s : State) (c : Nat) (t : Thread) (reg : Nat) (x : Entry) (gleaned : Bool) :
    (s.giveTask c t reg x gleaned).mem = s.mem := rfl

@[simp] theorem modAll_mem (s : State) (c : Nat) (f : Thread → Thread) : (s.modAll c f).mem = s.mem := rfl

@[simp] theorem dropHeld_mem (s : State) (items : List Held) : (s.dropHeld items).mem = s.mem := by
  refine foldl_mem (fun s y => ?_) _ s
  split
  · split <;> simp
  · simp
  · rfl

@[simp] theorem markBuf_mem (s : State) (x : Entry) : (markBuf s x).mem = s.mem := by
  unfold markBuf
  split <;> rfl

@[simp] theorem freeConds_mem (s : State) (ns : List Nat) : (freeConds s ns).mem = s.mem := rfl

@[simp] theorem takeItems_mem (s : State) (x : Entry) (items : List Held) : (s.takeItems x items).mem = s.mem := rfl

@[simp] theorem dropStore_mem (s : State) (x : Entry) : (s.dropStore x).mem = s.mem := by
  simp [State.dropStore]

@[simp] theorem pruneOne_mem (s : State) (x : Entry) : (s.pruneOne x).mem = s.mem := by
  unfold State.pruneOne
  split <;> simp

@[simp] theorem prune_mem (fuel : Nat) (l : List (Nat × Nat)) (s : State) : (State.prune fuel l s).mem = s.mem := by
  fun_induction State.prune fuel l s <;> simp_all

@[simp] theorem pruneAll_mem (s : State) (l : List (Nat × Nat)) : (s.pruneAll l).mem = s.mem := prune_mem ..

@[simp] theorem storeAcc_wf {s : State} (a : Access) (h : memWf s.mem = true) : memWf (s.storeAcc a).mem = true := by
  unfold State.storeAcc
  split
  · split
    · simp [State.clearRange_wf h]
    · simp [storeN_wf h]
  · exact h

@[simp] theorem releaseItem_wf {s : State} (item : Held) (h : memWf s.mem = true) : memWf (s.releaseItem item).mem = true := by
  cases item with
  | store a => exact storeAcc_wf a h
  | op id => exact h
  | act => exact h

@[simp] theorem depTask_mem (s : State) (r : Nat) (delta : Int) : (s.depTask r delta).1.mem = s.mem := by
  unfold State.depTask
  split
  · rfl
  · rfl
  · split
    · rfl
    · dsimp only
      split <;> rfl

@[simp] theorem seedSite_mem (s : State) (site v : Nat) : (s.seedSite site v).mem = s.mem := rfl

@[simp] theorem openHeld_mem (s : State) (die ix : Nat) : (s.openHeld die ix).mem = s.mem := rfl

@[simp] theorem committed_mem (s : State) (x : Entry) (acts : List GWork) : (s.committed x acts).1.mem = s.mem := by
  unfold State.committed
  split <;> rfl

@[simp] theorem commitOne_wf {s : State} (x : Entry) (h : memWf s.mem = true) : memWf (s.commitOne x).1.mem = true := by
  have hitems (l : List Held) : memWf (l.foldl State.releaseItem s).mem = true := foldl_wf (fun _ y hs => releaseItem_wf y hs) l h
  unfold State.commitOne
  dsimp only
  split
  · exact h
  · simp [hitems]

theorem granRun_wf (fuel : Nat) (l : List GWork) {s : State} (h : memWf s.mem = true) : memWf (granRun fuel l s).mem = true := by
  induction fuel generalizing l s with
  | zero => exact h
  | succ fuel ih =>
    cases l with
    | nil => exact h
    | cons w ws =>
      cases w with
      | resolve n v => exact ih _ (by simpa using h)
      | commit die ix =>
        unfold granRun
        dsimp only
        split
        · exact ih _ (commitOne_wf _ h)
        · exact ih _ h
      | act launch a =>
        cases a with
        | dep r delta => exact ih _ (by simpa using h)
        | seed site v => exact ih _ (by simpa using h)
        | condSet r v =>
          unfold granRun
          dsimp only
          split <;> exact ih _ h
        | put d e => exact ih _ (by simpa using h)
        | done => exact ih _ h
      | complete die ix =>
        unfold granRun
        dsimp only
        split
        · exact ih _ (by simpa using h)
        · exact ih _ h

@[simp] theorem granWork_wf {s : State} (l : List GWork) (h : memWf s.mem = true) : memWf (s.granWork l).mem = true :=
  granRun_wf _ l h

@[simp] theorem doneTask_mem (s : State) (c : Nat) (t : Thread) (r : Nat) : (s.doneTask c t r).1.mem = s.mem := by
  unfold State.doneTask
  dsimp only
  split
  · dsimp only
    split <;> simp
  · split
    · rfl
    · split
      · simp
      · split
        · rfl
        · split
          · split <;> simp
          · split <;> simp
  · rfl

@[simp] theorem waitKind_mem (s : State) (c sl : Nat) (kind : WaitKind) : (s.waitKind c sl kind).mem = s.mem := rfl

theorem refuseDetached_mem {s s' : State} {c : Nat} {t : Thread} {f : Option State} (hf : ∀ y, f = some y → y.mem = s.mem)
    (h : s.refuseDetached c t f = some s') : s'.mem = s.mem := by
  unfold State.refuseDetached at h
  split at h
  · cases h; rfl
  · exact hf _ h

theorem tryPut_mem {s s' : State} {c : Nat} {t : Thread} {reg : Nat} {d : Desc} (h : s.tryPut c t reg d = some s') :
    s'.mem = s.mem := by
  refine refuseDetached_mem (fun y hy => ?_) h
  split at hy
  · cases hy
  · cases hy; simp

@[simp] theorem learnFrom_mem (s : State) (on : Option Nat) (site : Nat) (side : Bool) :
    (s.learnFrom on site side).mem = s.mem := rfl

theorem trySpawn_mem {s s' : State} {c : Nat} {t : Thread} {reg : Nat} {d : Desc} {x : SpawnArg}
    (h : s.trySpawn c t reg d x = some s') : s'.mem = s.mem := by
  unfold State.trySpawn at h
  extract_lets p put at h
  have hput (chain : List Link) (on : Option Nat) {y : State} (hy : put chain on = some y) : y.mem = s.mem := by
    dsimp only [put] at hy
    split at hy
    · cases hy
    · cases hy; simp
  refine refuseDetached_mem (fun y hy => ?_) h
  split at hy
  · cases hy; rfl
  · cases hy; rfl
  · split at hy
    · exact hput _ _ hy
    · cases hy; rfl
  · exact hput _ _ hy

theorem tryCond_mem {s s' : State} {c : Nat} {t : Thread} {reg : Nat} (h : s.tryCond c t reg = some s') : s'.mem = s.mem := by
  refine refuseDetached_mem (fun y hy => ?_) h
  split at hy
  · cases hy
  · cases hy; rfl

@[simp] theorem judgeDesc_mem (s : State) (c : Nat) (t : Thread) (w : Wait) (x : Option SpawnArg) (v : Nat) :
    (s.judgeDesc c t w x v).mem = s.mem := by
  unfold State.judgeDesc
  (repeat' split) <;> simp

/-! ### The Granary's pending words and its pass -/

@[simp] theorem performPend_wf {s : State} (c : Nat) (t : Thread) (p : PendG) (h : memWf s.mem = true) :
    memWf (s.performPend c t p).mem = true := by
  unfold State.performPend
  dsimp only
  split
  · simp [h]
  · simp [h]
  · split <;> simp [h]
  · exact h

theorem serveWait_mem {s s' : State} {x : Nat × Thread} (h : serveWait s x = some s') : s'.mem = s.mem := by
  unfold serveWait at h
  split at h
  · split at h
    · exact tryPut_mem h
    · exact trySpawn_mem h
    · exact tryCond_mem h
    · cases h
  · cases h

theorem serveTake_mem {s s' : State} {x : Nat × Thread} (h : serveTake s x = some s') : s'.mem = s.mem := by
  unfold serveTake at h
  split at h
  · split at h
    · split at h
      · cases h; simp
      · cases h
    · cases h
  · cases h

theorem granNext_wf {s s' : State} (hwf : memWf s.mem = true) (h : granNext s = some s') : memWf s'.mem = true := by
  unfold granNext at h
  dsimp only at h
  split at h
  · cases h; exact performPend_wf _ _ _ hwf
  · split at h
    · cases h; simpa using hwf
    · split at h
      · rename_i hfind
        cases h
        obtain ⟨x, -, hx⟩ := List.exists_of_findSome?_eq_some hfind
        rwa [serveWait_mem hx]
      · obtain ⟨x, -, hx⟩ := List.exists_of_findSome?_eq_some h
        rwa [serveTake_mem hx]

theorem granLoop_wf (fuel : Nat) {s : State} (h : memWf s.mem = true) : memWf (granLoop fuel s).mem = true := by
  induction fuel generalizing s with
  | zero => exact h
  | succ fuel ih =>
    unfold granLoop
    split
    · rename_i hnext
      exact ih (granNext_wf h hnext)
    · exact h

@[simp] theorem settleGran_wf {s : State} (h : memWf s.mem = true) : memWf s.settleGran.mem = true := by
  unfold State.settleGran
  dsimp only
  split
  · simpa using granLoop_wf _ h
  · exact granLoop_wf _ h

@[simp] theorem lend_mem (s : State) (c : Nat) : (s.lend c).mem = s.mem := by
  simp [State.lend]

/-! ### Commit points and the landing of results -/

@[simp] theorem addResult_mem (s : State) (c sl : Nat) (r : Result) : (s.addResult c sl r).mem = s.mem := rfl

@[simp] theorem modXfer_mem (s : State) (c sl : Nat) (f : Xfer → Xfer) : (s.modXfer c sl f).mem = s.mem := rfl

@[simp] theorem tableRead_mem (s : State) (c sl : Nat) (a : Access) (mates : List Nat) (bs : List Byte) :
    (s.tableRead c sl a mates bs).mem = s.mem := by
  have hmates (r : Result) (l : List Nat) (s : State) : (l.foldl (fun s m => s.addResult c m r) s).mem = s.mem := by
    refine foldl_mem (fun s m => ?_) l s
    rfl
  unfold State.tableRead
  rw [hmates, addResult_mem]

@[simp] theorem cntfCommit_wf {s : State} (c : Nat) (t : Thread) (a : Access) (add : Bool) (r inc least dst : Nat)
    (h : memWf s.mem = true) :
    memWf (s.cntfCommit c t a add r inc least dst).mem = true := by
  simp [State.cntfCommit, h]

@[simp] theorem commitAcc_wf {s : State} (c : Nat) (t : Thread) (a : Access) (h : memWf s.mem = true) :
    memWf (s.commitAcc c t a).mem = true := by
  have harrive (n : Nat) := arriveBar_wf c t a.phys n h
  unfold State.commitAcc
  dsimp only
  split <;> simp [h, harrive]

@[simp] theorem commitAt_wf {s : State} (c : Nat) (t : Thread) (i : Nat) (a : Access) (h : memWf s.mem = true) :
    memWf (commitAt s c t i a).mem = true := by
  simp [commitAt, h]

@[simp] theorem landAt_mem (s : State) (c : Nat) (t : Thread) (i : Nat) (r0 : Result) : (landAt s c t i r0).mem = s.mem := by
  simp [landAt]

/-! ### COPY and CKICK -/

@[simp] theorem reserve_mem (s : State) (t0 : Nat) (l : List (Nat × Nat × Nat)) : (reserve s t0 l).1.mem = s.mem := by
  induction l generalizing s with
  | nil => rfl
  | cons x l ih => exact ih _

@[simp] theorem countBytes_wf {s : State} (c : Nat) (bar tag : Option Nat) (n : Nat) (short : Bool) (h : memWf s.mem = true) :
    memWf (s.countBytes c bar tag n short).mem = true := by
  unfold State.countBytes
  (repeat' split) <;> simp [h]

@[simp] theorem countParts_wf {s : State} (c : Nat) (bar tag : Option Nat) (st : Nat) (ps : List Part) (h : memWf s.mem = true) :
    memWf (s.countParts c bar tag st ps).mem = true := by
  refine foldl_wf (fun s a hs => ?_) ps h
  split
  · exact countBytes_wf _ _ _ _ _ hs
  · exact hs

@[simp] theorem writePart_wf {s : State} (o : Op) (j : Nat) (a : Part) (bs : List Byte) (h : memWf s.mem = true) :
    memWf (s.writePart o j a bs).mem = true := by
  simp [State.writePart, h, State.storeCells_wf]

@[simp] theorem movePart_wf {s : State} (o : Op) (x : CopyArg) (p : Plan) (j : Nat) (a : Part) (h : memWf s.mem = true) :
    memWf (s.movePart o x p j a).1.mem = true := by
  unfold State.movePart
  split
  · simp [h]
  · simp [h, State.store_wf]

@[simp] theorem countedFor_mem (s : State) (op c : Nat) (bar tag : Option Nat) : (s.countedFor op c bar tag).mem = s.mem := by
  unfold State.countedFor
  (repeat' split) <;> simp

@[simp] theorem logBad_wf {s : State} (o : Op) (rs : List (Nat × Nat)) (h : memWf s.mem = true) :
    memWf (s.logBad o rs).mem = true := by
  unfold State.logBad
  split <;> simp [h]

@[simp] theorem logPart_wf {s : State} (o : Op) (x : CopyArg) (p : Plan) (a : Part) (c : EFault) (h : memWf s.mem = true) :
    memWf (s.logPart o x p a c).mem = true := by
  simp [State.logPart, h]

@[simp] theorem refuseCopy_mem (s : State) (o : Op) (bad : Option (EFault × Nat × Quad)) (c : EFault) :
    (s.refuseCopy o bad c).mem = s.mem := rfl

@[simp] theorem acceptCopy_wf {s : State} (o : Op) (x : CopyArg) (h : memWf s.mem = true) :
    memWf (s.acceptCopy o x).mem = true := by
  unfold State.acceptCopy
  dsimp only
  split
  · simp [h]
  · split
    · simp [h]
    · split <;> simp [h]

@[simp] theorem copyLanded_wf {s : State} (o : Op) (x : CopyArg) (i : Nat) (h : memWf s.mem = true) :
    memWf (s.copyLanded o x i).mem = true := by
  simp [State.copyLanded, h, finishIfOver_mem]

@[simp] theorem performCopy_wf {s : State} (o : Op) (x : CopyArg) (i : Nat) (a : Part) (h : memWf s.mem = true) :
    memWf (s.performCopy o x i a).mem = true := by
  unfold State.performCopy
  split
  · exact h
  · split
    · simp [h, finishIfOver_mem]
    · dsimp only
      split <;> simp [h]

@[simp] theorem refusePart_wf {s : State} (o : Op) (x : CopyArg) (i : Nat) (a : Part) (h : memWf s.mem = true) :
    memWf (s.refusePart o x i a).mem = true := by
  simp [State.refusePart, h, finishIfOver_mem]

@[simp] theorem putRecStatus_wf {s : State} (p st : Nat) (h : memWf s.mem = true) : memWf (s.putRecStatus p st).mem = true := by
  simp [State.putRecStatus, h]

@[simp] theorem fetchRec_wf {s : State} (o : Op) (base count : Nat) (recs : List KickRec) (h : memWf s.mem = true) :
    memWf (s.fetchRec o base count recs).mem = true := by
  simp [State.fetchRec, h]

@[simp] theorem endRec_wf {s : State} (o : Op) (base j : Nat) (st : Status) (h : memWf s.mem = true) :
    memWf (s.endRec o base j st).mem = true := by
  simp [State.endRec, h]

@[simp] theorem acceptRec_wf {s : State} (o : Op) (base : Nat) (recs : List KickRec) (j : Nat) (r : KickRec)
    (h : memWf s.mem = true) : memWf (s.acceptRec o base recs j r).mem = true := by
  have hreserve (t0 : Nat) (l : List (Nat × Nat × Nat)) : memWf (reserve s t0 l).1.mem = true := by rwa [reserve_mem]
  have hpromise {s1 : State} (h1 : memWf s1.mem = true) (v : Option Nat) (p : Nat) (f : Op → Op) :
      memWf ((match v with | some v => s1.storeN p 8 v | none => s1).modOp o.id f).mem = true := by
    cases v <;> simp [h1]
  have hend {s1 : State} (h1 : memWf s1.mem = true) (past : Bool) (st : Status) :
      memWf (if past then s1.endRec o base j st else s1).mem = true := by
    simp [h1]
  unfold State.acceptRec
  dsimp only
  split
  · exact countParts_wf _ _ _ _ _ (hend (hpromise (hreserve _ _) _ _ _) _ _)
  · exact hend (hpromise (hreserve _ _) _ _ _) _ _

@[simp] theorem acceptKick_mem (s0 : State) (o : Op) (recs : List KickRec) : (s0.acceptKick o recs).mem = s0.mem := rfl

@[simp] theorem stepKick_wf {s : State} (o : Op) (base count : Nat) (recs : List KickRec) (h : memWf s.mem = true) :
    memWf (s.stepKick o base count recs).mem = true := by
  unfold State.stepKick
  split
  · simp [h]
  · split
    · simp [h]
    · split
      · simp [h]
      · dsimp only
        split
        · simp [h]
        · split
          · split <;> simp [h]
          · simp [h]

@[simp] theorem recLanded_wf {s : State} (o : Op) (base j i : Nat) (r : KickRec) (a : Part) (bad : Option (EFault × Nat))
    (h : memWf s.mem = true) :
    memWf (s.recLanded o base j i r a bad).mem = true := by
  unfold State.recLanded
  dsimp only
  (repeat' split) <;> simp [h, finishIfOver_mem]

@[simp] theorem performRec_wf {s : State} (o : Op) (base j i : Nat) (r : KickRec) (a : Part) (h : memWf s.mem = true) :
    memWf (s.performRec o base j i r a).mem = true := by
  unfold State.performRec
  dsimp only
  split
  · simp [h]
  · split <;> simp [h]

@[simp] theorem copyWord_mem (f : Full) (rel : Bool) (e : Env) (t : Thread) (s : State) : (copyWord f rel e t s).mem = s.mem := by
  simp [copyWord]

@[simp] theorem ckickWord_mem (f : Full) (e : Env) (t : Thread) (s : State) : (ckickWord f e t s).mem = s.mem := by
  simp [ckickWord]

/-! ### The matrix array -/

@[simp] theorem wakeArray_mem (s : State) (c : Nat) : (s.wakeArray c).mem = s.mem := rfl

@[simp] theorem restArrays_mem (s : State) (o : Op) : (s.restArrays o).mem = s.mem :=
  foldl_mem (fun s c => State.modCore_mem s c _) _ s

@[simp] theorem wakeArrays_mem (s : State) (o : Op) : (s.wakeArrays o).mem = s.mem := by
  unfold State.wakeArrays
  exact foldl_mem wakeArray_mem _ s

@[simp] theorem runArray_wf {s : State} (c src : Nat) (x : MmaArg) (h : memWf s.mem = true) :
    memWf (s.runArray c src x).1.mem = true := by
  unfold State.runArray
  dsimp only
  split
  · exact h
  · simp [h, State.store_wf]

/-- The arrays of a paired operation run one after the other. -/
theorem runArrays_wf (src : Nat) (x : MmaArg) (cs : List Nat) (r : State × Reg) (h : memWf r.1.mem = true) :
    memWf (cs.foldl (fun (r : State × Reg) c => let (s2, e2) := r.1.runArray c src x; (s2, r.2 ||| e2)) r).1.mem = true := by
  induction cs generalizing r with
  | nil => exact h
  | cons c cs ih => exact ih _ (runArray_wf c src x h)

@[simp] theorem performMma_wf {s : State} (o : Op) (x : MmaArg) (h : memWf s.mem = true) : memWf (s.performMma o x).mem = true := by
  unfold State.performMma
  split
  · dsimp only
    rw [finishIfOver_mem, State.modOp_mem]
    exact runArrays_wf o.core x (mxCores o) (s, 0) h
  · simp [h, finishIfOver_mem]

@[simp] theorem performWload_mem (s : State) (o : Op) (ty : Ty) (buf addr : Nat) (sc : Option Nat) :
    (s.performWload o ty buf addr sc).mem = s.mem := by
  simp [State.performWload, finishIfOver_mem]

@[simp] theorem wloadWord_mem (f : Full) (e : Env) (t : Thread) (s : State) : (wloadWord f e t s).mem = s.mem := by
  simp [wloadWord]

@[simp] theorem mmaWord_mem (f : Full) (e : Env) (t : Thread) (s : State) : (mmaWord f e t s).mem = s.mem := by
  simp [mmaWord]

/-- The threads of a sheaf end their word one after the other. -/
@[simp] theorem endWords_mem (e : Env) (r : Thread → TRes) (l : List Thread) (s : State) :
    (l.foldl (fun s t => s.endWordAt e t (r t)) s).mem = s.mem := by
  refine foldl_mem (fun s t => ?_) l s
  exact endWordAt_mem s e t (r t)

@[simp] theorem mmaIssue_mem (f : Full) (paired : Bool) (e : Env) (l : List Thread) (s : State) :
    (mmaIssue f paired e l s).mem = s.mem := by
  induction l generalizing s with
  | nil => rfl
  | cons u rest ih =>
    unfold mmaIssue
    dsimp only
    split
    · rw [ih, suspendAt_mem]
    · split
      · exact endWords_mem e (fun _ => _) _ _
      · rename_i hnew
        rw [endWords_mem e (fun t => _)]
        simpa [mem_ite] using newOp_mem hnew

@[simp] theorem mmaSheaf_mem (i : Instr) (f : Full) (paired : Bool) (s : State) : (mmaSheaf i f paired s).mem = s.mem := by
  unfold mmaSheaf
  split
  · rfl
  · rename_i e he
    rw [mmaIssue_mem, endWords_mem e fun t => .ok (writePair t f.d.toNat 0), parkIllegal_mem, (Laws.env_spec he).1]

/-! ### The halves of a paired word -/

@[simp] theorem halfWord_mem (i : Instr) (h : Half) (f : Env → Thread → HalfOut) (s : State) : (halfWord i h f s).mem = s.mem := by
  unfold halfWord
  split
  · rfl
  · rename_i he
    dsimp only
    split <;> simp [(Laws.env_spec he).1]

/-! ### GATHER, COLL and RATOM -/

@[simp] theorem acceptGather_mem (s : State) (o : Op) (x : GatherArg) : (s.acceptGather o x).mem = s.mem := by
  unfold State.acceptGather
  dsimp only
  split <;> simp

@[simp] theorem performRow_wf {s : State} (o : Op) (x : GatherArg) (i : Nat) (a : Part) (h : memWf s.mem = true) :
    memWf (s.performRow o x i a).mem = true := by
  unfold State.performRow
  split <;> simp [h, State.store_wf]

@[simp] theorem performPool_wf {s : State} (o : Op) (x : GatherArg) (h : memWf s.mem = true) :
    memWf (s.performPool o x).mem = true := by
  simp [State.performPool, h, finishIfOver_mem, State.store_wf]

@[simp] theorem performGather_wf {s : State} (o : Op) (x : GatherArg) (i : Nat) (a : Part) (h : memWf s.mem = true) :
    memWf (s.performGather o x i a).mem = true := by
  simp [State.performGather, h]

@[simp] theorem gatherWord_mem (f : Full) (e : Env) (t : Thread) (s : State) : (gatherWord f e t s).mem = s.mem := by
  simp [gatherWord]

@[simp] theorem countJoin_mem (s : State) (cid rank k : Nat) : (countJoin s cid rank k).mem = s.mem := rfl

@[simp] theorem join_mem (s : State) (cid k ranks : Nat) (j : Joined) : (s.join cid k ranks j).mem = s.mem := by
  unfold State.join
  split <;> rfl

@[simp] theorem acceptColl_wf {s : State} (o : Op) (x : CollArg) (h : memWf s.mem = true) :
    memWf (s.acceptColl o x).mem = true := by
  unfold State.acceptColl
  split <;> simp [h]

@[simp] theorem withdrawCall_mem (s : State) (cid k : Nat) : (s.withdrawCall cid k).mem = s.mem := by
  unfold State.withdrawCall
  split
  · rfl
  · refine foldl_mem (fun s id => ?_) _ _
    split <;> simp

@[simp] theorem withdrawAhead_mem (s : State) (o : Op) : (s.withdrawAhead o).mem = s.mem := by
  unfold State.withdrawAhead
  dsimp only
  split <;> simp

@[simp] theorem performColl_wf {s : State} (o : Op) (x : CollArg) (cid k rank : Nat) (h : memWf s.mem = true) :
    memWf (s.performColl o x cid k rank).mem = true := by
  unfold State.performColl
  (repeat' split) <;> simp [h, finishIfOver_mem, State.store_wf]

@[simp] theorem collWord_mem (f : Full) (e : Env) (t : Thread) (s : State) : (collWord f e t s).mem = s.mem := by
  simp [collWord]

@[simp] theorem acceptRatom_wf {s : State} (o : Op) (ty : Ty) (addr : Nat) (h : memWf s.mem = true) :
    memWf (s.acceptRatom o ty addr).mem = true := by
  unfold State.acceptRatom
  split <;> simp [h]

@[simp] theorem doRatom_wf {s : State} (o : Op) (op : Nat) (ty : Ty) (addr : Nat) (b cmp : Quad) (dst : Nat)
    (h : memWf s.mem = true) :
    memWf (s.doRatom o op ty addr b cmp dst).mem = true := by
  simp [State.doRatom, h, finishIfOver_mem]

@[simp] theorem performRatom_wf {s : State} (o : Op) (op : Nat) (ty : Ty) (addr : Nat) (b cmp : Quad) (dst : Nat)
    (h : memWf s.mem = true) :
    memWf (s.performRatom o op ty addr b cmp dst).mem = true := by
  simp [State.performRatom, h, finishIfOver_mem]

@[simp] theorem ratomWord_mem (f : Full) (e : Env) (t : Thread) (s : State) : (ratomWord f e t s).mem = s.mem := by
  simp [ratomWord]

/-! ### How an operation moves on -/

@[simp] theorem acceptOp_wf {s : State} (o : Op) (h : memWf s.mem = true) : memWf (s.acceptOp o).mem = true := by
  unfold State.acceptOp
  (repeat' split) <;> simp [h]

@[simp] theorem performPart_wf {s : State} (o : Op) (j : Nat) (h : memWf s.mem = true) : memWf (s.performPart o j).mem = true := by
  unfold State.performPart
  (repeat' split) <;> simp [h]

@[simp] theorem landPart_wf {s : State} (id j : Nat) (h : memWf s.mem = true) : memWf (s.landPart id j).mem = true := by
  unfold State.landPart
  (repeat' split) <;> simp [h]

@[simp] theorem countCut_wf {s : State} (c : Nat) (bar tag : Option Nat) (ps : List Part) (h : memWf s.mem = true) :
    memWf (s.countCut c bar tag ps).mem = true := by
  refine foldl_wf (fun s a hs => ?_) ps h
  split
  · exact countBytes_wf _ _ _ _ _ hs
  · exact hs

@[simp] theorem cutCopy_wf {s : State} (o : Op) (x : CopyArg) (h : memWf s.mem = true) : memWf (s.cutCopy o x).mem = true := by
  unfold State.cutCopy
  split <;> simp [h]

@[simp] theorem cutRec_wf {s : State} (o : Op) (base : Nat) (x : Nat × KickRec) (h : memWf s.mem = true) :
    memWf (s.cutRec o base x).mem = true := by
  unfold State.cutRec
  (repeat' split) <;> simp [h]

@[simp] theorem cutOp_wf {s : State} (o : Op) (h : memWf s.mem = true) : memWf (s.cutOp o).mem = true := by
  unfold State.cutOp
  split
  · exact cutCopy_wf _ _ h
  · exact foldl_wf (fun _ x hs => cutRec_wf _ _ x hs) _ h
  · exact h

@[simp] theorem cancelOp_wf {s : State} (o : Op) (h : memWf s.mem = true) : memWf (s.cancelOp o).mem = true := by
  unfold State.cancelOp
  split <;> simp [h]

@[simp] theorem cancel_wf {s : State} (launch : Nat) (x : Quad) (h : memWf s.mem = true) :
    memWf (s.cancel launch x).1.mem = true := by
  unfold State.cancel
  split
  · exact cancelOp_wf _ h
  · exact h

/-! ### Futures and cancellation -/

@[simp] theorem fcancelWord_wf (f : Full) (e : Env) (t : Thread) {s : State} (h : memWf s.mem = true) :
    memWf (fcancelWord f e t s).mem = true := by
  simp [fcancelWord, h]

@[simp] theorem expireSleep_mem (s : State) (c : Nat) (t : Thread) (h : Quad) (begun : Bool) :
    (s.expireSleep c t h begun).mem = s.mem := by
  unfold State.expireSleep
  split <;> simp

@[simp] theorem expireWait_wf {s : State} (c : Nat) (t : Thread) (w : Wait) (h : memWf s.mem = true) :
    memWf (s.expireWait c t w).mem = true := by
  unfold State.expireWait
  split <;> simp [h]

/-! ### Traps, the fault queue and supervisor words -/

@[simp] theorem writeG_mem (s : State) (c : Nat) (t : Thread) (n : Nat) (x : Quad) : (s.writeG c t n x).mem = s.mem := rfl

@[simp] theorem syswWord_mem (f : Full) (e : Env) (t : Thread) (s : State) : (syswWord f e t s).mem = s.mem := by
  simp [syswWord]

@[simp] theorem serveFaults_mem (c fuel : Nat) (s : State) : (serveFaults c fuel s).mem = s.mem := by
  induction fuel generalizing s with
  | zero => rfl
  | succ fuel ih =>
    unfold serveFaults
    dsimp only
    split
    · simp [ih]
    · rfl

@[simp] theorem serveFaultsAt_mem (s : State) (c : Nat) : (s.serveFaultsAt c).mem = s.mem := serveFaults_mem ..

@[simp] theorem supPwaitWord_mem (f : Full) (e : Env) (t : Thread) (s : State) : (supPwaitWord f e t s).mem = s.mem := by
  simp [supPwaitWord]

theorem writeItem_mem {s s' : State} {c : Nat} {t : Thread} {sel : Nat} {x : Quad} (h : writeItem s c t sel x = some s') :
    s'.mem = s.mem := by
  have hput {p : Prop} [Decidable p] {f : Thread → Thread}
      (h : (if p then some (s.modThread c t.id.slot f) else none) = some s') : s'.mem = s.mem := by
    split at h
    · cases h; rfl
    · cases h
  unfold writeItem at h
  dsimp only at h
  split at h
  · cases h
  · split at h
    · exact hput h
    · split at h
      · cases h; exact writeG_mem ..
      · exact hput h
    · exact hput h
    · exact hput h
    · exact hput h
    · exact hput h
    · exact hput h
    · cases h

@[simp] theorem supReply_mem (f : Full) (st : Status) (more : List (Nat × Reg)) (e : Env) (t : Thread) (s : State) :
    (supReply f st more e t s).mem = s.mem := rfl

@[simp] theorem supPrdWord_mem (f : Full) (e : Env) (t : Thread) (s : State) : (supPrdWord f e t s).mem = s.mem := by
  unfold supPrdWord
  (repeat' split) <;> simp

@[simp] theorem supPwrWord_mem (f : Full) (e : Env) (t : Thread) (s : State) : (supPwrWord f e t s).mem = s.mem := by
  unfold supPwrWord
  split
  · simp
  · split
    · rename_i hw
      simp [writeItem_mem hw]
    · simp

@[simp] theorem supResumeWord_mem (f : Full) (e : Env) (t : Thread) (s : State) : (supResumeWord f e t s).mem = s.mem := by
  unfold supResumeWord
  dsimp only
  (repeat' split) <;> simp

@[simp] theorem abandon_wf {s : State} (c : Nat) (t : Thread) (h : memWf s.mem = true) : memWf (s.abandon c t).mem = true := by
  refine settleGran_wf ?_
  rwa [foldl_mem fun s x => by rw [freeEntry_mem, pruneAll_mem]]

@[simp] theorem killThread_wf {s : State} (c : Nat) (t : Thread) (h : memWf s.mem = true) :
    memWf (s.killThread c t).mem = true := by
  simp [State.killThread, h]

@[simp] theorem supKillWord_wf (f : Full) (e : Env) (t : Thread) {s : State} (h : memWf s.mem = true) :
    memWf (supKillWord f e t s).mem = true := by
  unfold supKillWord
  split <;> simp [h]

@[simp] theorem supXferWord_mem (f : Full) (save : Bool) (e : Env) (t : Thread) (s : State) :
    (supXferWord f save e t s).mem = s.mem := by
  unfold supXferWord
  dsimp only
  (repeat' split) <;> simp

@[simp] theorem finishXfer_wf {s : State} (c : Nat) (x : SupXfer) (u : Thread) (h : memWf s.mem = true) :
    memWf (s.finishXfer c x u).mem = true := by
  unfold State.finishXfer
  dsimp only
  split <;> simp [h, State.store_wf]

/-! ### What the hub does in common -/

@[simp] theorem unblock_mem (s : State) (id : Nat) : (s.unblock id).mem = s.mem := by
  unfold State.unblock
  split <;> simp

@[simp] theorem finishPk_mem (s : State) (id : Nat) (st : Status) (reason : Nat) : (s.finishPk id st reason).mem = s.mem := by
  simp [State.finishPk]

@[simp] theorem fillRange_wf {s : State} (dest len : Nat) (cells : List Host.Cell) (h : memWf s.mem = true) :
    memWf (s.fillRange dest len cells).mem = true :=
  State.storeCells_wf (foldl_wf (fun _ _ hs => State.clearRange_wf hs _ _) _ h) _

@[simp] theorem dropWakes_mem (s : State) (c launch : Nat) : (dropWakes s c launch).mem = s.mem := rfl

@[simp] theorem killUsers_wf {s : State} (c : Nat) (h : memWf s.mem = true) : memWf (s.killUsers c).mem = true := by
  have hdrop (l : List Thread) (s : State) : (l.foldl (fun s t => dropWakes s c t.id.launch) s).mem = s.mem := by
    refine foldl_mem (fun s t => ?_) l s
    exact dropWakes_mem s c _
  unfold State.killUsers
  dsimp only
  rw [hdrop, State.modCore_mem]
  refine foldl_wf (fun _ t hs => abandon_wf c t hs) _ (foldl_wf (fun s t hs => ?_) _ h)
  split
  · split
    · exact killThread_wf _ _ hs
    · exact hs
  · exact hs

@[simp] theorem killTeam_wf {s : State} (c : Nat) (h : memWf s.mem = true) : memWf (s.killTeam c).mem = true :=
  foldl_wf (fun _ c hs => killUsers_wf c hs) _ h

@[simp] theorem reserveSpare_mem (s : State) (c : Nat) : (s.reserveSpare c).mem = s.mem := rfl

@[simp] theorem logSpare_wf {s : State} (c launch : Nat) (h : memWf s.mem = true) : memWf (s.logSpare c launch).mem = true := by
  have hsvc {s1 : State} (v : Service) (h : memWf s1.mem = true) : memWf ({ s1 with svc := v } : State).mem = true := h
  exact hsvc _ (logRec_wf 3 c launch _ h)

/-! ### Trace -/

@[simp] theorem takeDbg_mem (s : State) (c : Nat) : (s.takeDbg c).mem = s.mem := by
  simp [State.takeDbg]

@[simp] theorem traceWrite_wf {s : State} (c : Nat) (x : Nat) (h : memWf s.mem = true) : memWf (s.traceWrite c x).mem = true := by
  simp [State.traceWrite, h]

@[simp] theorem traceClause_wf {s : State} (c : Nat) (is : Issue) (words : Nat) (h : memWf s.mem = true) :
    memWf (s.traceClause c is words).mem = true := by
  unfold State.traceClause
  split <;> simp [h]

/-! ### The winnower's choice and the ends of holds -/

@[simp] theorem issueClause_mem (s : State) (c : Nat) (k : Core) (ts : List Thread) : (issueClause s c k ts).mem = s.mem := by
  unfold issueClause
  (repeat' split) <;> simp

@[simp] theorem advance_wf {s0 : State} (c : Nat) (h : memWf s0.mem = true) : memWf (advance s0 c).mem = true := by
  unfold advance
  split <;> simp [h]

/-! ### Pre-emption: requests, saves and restores -/

@[simp] theorem request_mem (s : State) (c kind grace : Nat) (pk : Option Nat) (off : Bool) :
    (s.request c kind grace pk off).mem = s.mem := foldl_mem (fun s c => State.modCore_mem s c _) _ s

@[simp] theorem retireOr_mem (s : State) (c kind grace : Nat) (pk : Option Nat) : (s.retireOr c kind grace pk).mem = s.mem := by
  simp [State.retireOr]

@[simp] theorem closeRequest_mem (s : State) (c : Nat) : (s.closeRequest c).mem = s.mem := by
  have hfree (l : List Nat) (s : State) : (l.foldl (fun s d => s.modCore d fun k => { k with pre := none }) s).mem = s.mem :=
    foldl_mem (fun s d => State.modCore_mem s d _) l s
  unfold State.closeRequest
  split
  · rfl
  · split
    · rfl
    · dsimp only
      split <;> simp [hfree]

@[simp] theorem saveThread_mem (s : State) (c : Nat) (t : Thread) : (s.saveThread c t).mem = s.mem := rfl

@[simp] theorem takeWake_mem (s : State) (c : Nat) (t : Thread) : (s.takeWake c t).mem = s.mem := by
  unfold State.takeWake
  split <;> rfl

@[simp] theorem saveEarly_mem (s : State) (c : Nat) (t : Thread) : (s.saveEarly c t).mem = s.mem := by
  unfold State.saveEarly
  dsimp only
  (repeat' split) <;> simp

@[simp] theorem saveLate_mem (s : State) (c : Nat) (t : Thread) : (s.saveLate c t).mem = s.mem := by
  simp [State.saveLate]

@[simp] theorem writeArea_wf {s : State} (c : Nat) (img : Image) (x : SavedTeam) (h : memWf s.mem = true) :
    memWf (s.writeArea c img x).mem = true := by
  simp [State.writeArea, h]

@[simp] theorem endSaved_wf {s : State} (c : Nat) (x : SavedTeam) (h : memWf s.mem = true) : memWf (s.endSaved c x).mem = true :=
  foldl_wf (fun _ t hs => abandon_wf c t hs) x.threads h

@[simp] theorem goOffline_wf {s : State} (c launch : Nat) (h : memWf s.mem = true) : memWf (s.goOffline c launch).mem = true := by
  have hlog : memWf ((s.modCore c fun k => { k with offline := true, retireWant := none }).logRec 4 c launch 0).mem = true :=
    logRec_wf _ _ _ _ h
  refine foldl_wf (fun s y hs => foldl_wf (fun s d hs => foldl_wf (fun s z hs => ?_) _ hs) _ hs) _ hlog
  split
  · exact endSaved_wf _ _ hs
  · exact hs

@[simp] theorem retireFree_wf {s : State} (c launch : Nat) (h : memWf s.mem = true) : memWf (s.retireFree c launch).mem = true := by
  unfold State.retireFree
  split
  · exact logSpare_wf c launch h
  · exact goOffline_wf c launch h

theorem saveTeam_wf {s : State} (c : Nat) (l : Launch) (tm : Team) (p : Preempt) (h : memWf s.mem = true) :
    memWf (s.saveTeam c l tm p).mem = true := by
  have harea (x : SavedTeam) : memWf (s.writeArea c l.img x).mem = true := writeArea_wf _ _ _ h
  unfold State.saveTeam
  dsimp only
  rw [closeRequest_mem]
  split
  · refine endSaved_wf _ _ ?_
    split
    · exact goOffline_wf _ _ (harea _)
    · exact harea _
  · split <;> split <;> simp only [State.modCore_mem, harea]

@[simp] theorem dropWake_mem (s : State) (w : Wake) : (s.dropWake w).mem = s.mem := rfl

@[simp] theorem recall_wf {s : State} (w : Wake) (t : Thread) (st : Status) (regs : List (Nat × Reg)) (h : memWf s.mem = true) :
    memWf (s.recall w t st regs).mem = true := by
  unfold State.recall
  dsimp only
  split <;> simp [h]

@[simp] theorem fireNow_wf {s : State} (w : Wake) (t : Thread) (wt : Wait) (st : Status) (u : Thread) (here : Bool)
    (h : memWf s.mem = true) :
    memWf (s.fireNow w t wt st u here).mem = true := by
  unfold State.fireNow
  split <;> simp [h]

@[simp] theorem tryFire_wf {s : State} (w : Wake) (t : Thread) (here : Bool) (h : memWf s.mem = true) :
    memWf (s.tryFire w t here).mem = true := by
  unfold State.tryFire
  (repeat' split) <;> simp [h]

@[simp] theorem restoreStack_wf {s : State} (c : Nat) (img : Image) (t : Thread) (h : memWf s.mem = true) :
    memWf (s.restoreStack c img t).mem = true := by
  unfold State.restoreStack
  split
  · exact h
  · exact foldl_wf (fun _ _ hs => State.store_wf hs _ _) _ (State.clearRange_wf h _ _)

@[simp] theorem withdrawLate_wf (c : Nat) {s : State} (t : Thread) (h : memWf s.mem = true) :
    memWf (withdrawLate c s t).mem = true := by
  unfold withdrawLate
  (repeat' split) <;> simp [h]

@[simp] theorem resumeWait_wf (c : Nat) (late : List Nat) {s : State} (t : Thread) (h : memWf s.mem = true) :
    memWf (resumeWait c late s t).mem = true := by
  unfold resumeWait
  split
  · exact h
  · split
    · split <;> simp [h]
    · split
      · split <;> simp [h]
      · split <;> simp [h]

@[simp] theorem restoreTeam_wf {s : State} (c : Nat) (l : Launch) (x : SavedTeam) (h : memWf s.mem = true) :
    memWf (s.restoreTeam c l x).mem = true := by
  have hstacks : memWf (x.threads.foldl (fun s t => s.restoreStack c l.img t)
      ((s.endStrays c).copyIn (x.area + 0x1000) (sliceAt c) Config.sliceBytes)).mem = true :=
    foldl_wf (fun _ t hs => restoreStack_wf c l.img t hs) _ (State.copyIn_wf h _ _ _)
  have hlate (ts : List Thread) {s : State} (h : memWf s.mem = true) : memWf (ts.foldl (withdrawLate c) s).mem = true :=
    foldl_wf (fun _ t hs => withdrawLate_wf c t hs) ts h
  have hresume (late : List Nat) (ts : List Thread) {s : State} (h : memWf s.mem = true) :
      memWf (ts.foldl (resumeWait c late) s).mem = true := foldl_wf (fun _ t hs => resumeWait_wf c late t hs) ts h
  unfold State.restoreTeam
  dsimp only
  rw [serveFaultsAt_mem, State.settle_mem]
  refine settleGran_wf ?_
  rw [settleWaits_mem]
  exact granWork_wf _ (hresume _ _ (hlate _ hstacks))

@[simp] theorem finishRestores_mem (s : State) (c : Nat) : (s.finishRestores c).mem = s.mem := by
  simp [State.finishRestores, foldl_mem]

@[simp] theorem sliceWaits_mem (s : State) (c : Nat) (on : Bool) : (s.sliceWaits c on).mem = s.mem := rfl

@[simp] theorem sliceCoreOver_mem (s : State) (c : Nat) : (sliceCoreOver s c).mem = s.mem := by
  simp [sliceCoreOver]

@[simp] theorem sliceCoreLate_mem (s : State) (c : Nat) : (sliceCoreLate s c).mem = s.mem := by
  simp [sliceCoreLate]

/-! ### The hub: features, mailboxes and packets -/

@[simp] theorem writeFctl_mem (s : State) (v : Nat) : (s.writeFctl v).mem = s.mem := by
  unfold State.writeFctl
  split <;> rfl

@[simp] theorem startPacket_mem (s : State) (q : Nat) (ws : List Quad) : (s.startPacket q ws).mem = s.mem := by
  simp [State.startPacket]

@[simp] theorem setMbox_mem (s : State) (m : Nat) (x : Mailbox) : (s.setMbox m x).mem = s.mem := rfl

@[simp] theorem putMbox_mem (s : State) (m : Nat) (v : Quad) (full : Bool) : (s.putMbox m v full).mem = s.mem := rfl

@[simp] theorem fillMbox_mem (s : State) (m : Nat) (v : Quad) : (s.fillMbox m v).mem = s.mem := by
  unfold State.fillMbox
  split <;> simp

@[simp] theorem changeMbox_mem (s : State) (m : Nat) (full : Bool) (v : Nat) : (s.changeMbox m full v).mem = s.mem := by
  simp [State.changeMbox]

@[simp] theorem writeMbox_mem (s : State) (m : Nat) (full : Bool) (v : Nat) : (s.writeMbox m full v).mem = s.mem := by
  simp [State.writeMbox]

@[simp] theorem lateMboxes_mem (s : State) : s.lateMboxes.mem = s.mem := by
  refine foldl_mem (fun s m => ?_) _ s
  split <;> simp

@[simp] theorem writeTail_mem (s : State) (q v : Nat) : (s.writeTail q v).mem = s.mem := by
  simp [State.writeTail]

@[simp] theorem writeRecord_wf {s : State} (p : Packet) (h : memWf s.mem = true) : memWf (s.writeRecord p).mem = true := by
  unfold State.writeRecord
  dsimp only
  (repeat' split) <;> simp [h]

@[simp] theorem deferRetire_mem (s : State) (c : Nat) : (s.deferRetire c).mem = s.mem :=
  foldl_mem (fun s d => State.modCore_mem s d _) _ s

@[simp] theorem writeShoot_mem (s : State) (v : Nat) : (s.writeShoot v).mem = s.mem := by
  unfold State.writeShoot
  split <;> rfl

@[simp] theorem writePager_mem (s : State) (die v : Nat) : (s.writePager die v).mem = s.mem := by
  simp [State.writePager]

@[simp] theorem startSlices_mem (s : State) : (startSlices s).mem = s.mem := by
  unfold startSlices
  split <;> rfl

@[simp] theorem writeAttreq_wf {s0 : State} (v : Nat) (h : memWf s0.mem = true) : memWf (s0.writeAttreq v).mem = true := by
  simp [State.writeAttreq, h, State.storeCells_wf]

/-! ### Launches, teams and their ends -/

@[simp] theorem fillSlice_wf {s : State} (c : Nat) (l : Launch) (h : memWf s.mem = true) : memWf (s.fillSlice c l).mem = true :=
  foldl_wf (fun _ _ hs => State.copyIn_wf hs _ _ _) _ (State.copyIn_wf (State.clearRange_wf h _ _) _ _ _)

@[simp] theorem prepareTeam_wf {s : State} (l : Launch) (tmx c : Nat) (h : memWf s.mem = true) :
    memWf (s.prepareTeam l tmx c).mem = true := by
  refine foldl_wf (fun s d hs => ?_) _ h
  dsimp only
  split <;> simp [hs]

@[simp] theorem seatTeam_mem (s : State) (l : Launch) (tmx c : Nat) : (s.seatTeam l tmx c).mem = s.mem :=
  foldl_mem (fun s d => by rw [State.settle_mem, State.modCore_mem]) _ s

@[simp] theorem placeAt_wf {s : State} (l : Launch) (places : List Nat) (h : memWf s.mem = true) :
    memWf (s.placeAt l places).mem = true := by
  unfold State.placeAt
  split
  · exact foldl_wf (fun _ d hs => fillSlice_wf d l hs) _ h
  · dsimp only
    rw [State.modLaunch_mem, foldl_mem fun _ _ => seatTeam_mem ..]
    exact foldl_wf (fun _ x hs => prepareTeam_wf l x.1 x.2 hs) _ h

@[simp] theorem retireLate_wf (launch : Nat) {s : State} (r : Nat) (h : memWf s.mem = true) :
    memWf (s.retireLate launch r).mem = true := by
  have hfinish (l : List Packet) (s : State) : (l.foldl (fun s p => s.finishPk p.id .done 0) s).mem = s.mem := by
    refine foldl_mem (fun s p => ?_) l s
    exact finishPk_mem s p.id .done 0
  unfold State.retireLate
  split
  · exact h
  · dsimp only
    rw [hfinish]
    exact retireFree_wf r launch h

@[simp] theorem afterTeam_wf {s : State} (launch c : Nat) (h : memWf s.mem = true) : memWf (s.afterTeam launch c).mem = true := by
  unfold State.afterTeam
  refine foldl_wf (fun _ r hs => retireLate_wf launch r hs) _ ?_
  split
  · rw [closeRequest_mem, State.modCore_mem]
    split
    · exact h
    · split
      · exact goOffline_wf _ _ h
      · split
        · exact logSpare_wf _ _ h
        · exact h
  · exact h

@[simp] theorem endKick_mem (s : State) (m : Nat) (x : Kick) (st : Status) (reason : Nat) :
    (s.endKick m x st reason).mem = s.mem := by
  unfold State.endKick
  split <;> simp

@[simp] theorem failKicks_mem (s : State) (m : Nat) : (s.failKicks m).mem = s.mem := by
  unfold State.failKicks
  split <;> simp [foldl_mem]

@[simp] theorem freeMaq_mem (s : State) (m : Nat) : (s.freeMaq m).mem = s.mem := rfl

@[simp] theorem dropMaq_mem (s : State) (m : Nat) : (s.dropMaq m).mem = s.mem := by
  unfold State.dropMaq
  (repeat' split) <;> simp

@[simp] theorem closeLaunch_wf {s : State} (l : Launch) (h : memWf s.mem = true) : memWf (s.closeLaunch l).mem = true := by
  refine settleGran_wf ?_
  rw [State.modLaunch_mem, foldl_mem dropMaq_mem, foldl_mem fun _ _ => freeEntry_mem .., freeConds_mem, pruneAll_mem]
  exact h

@[simp] theorem killSup_wf {s : State} (c : Nat) (h : memWf s.mem = true) : memWf (s.killSup c).mem = true := by
  refine foldl_wf (fun s t hs => ?_) _ h
  split
  · exact killThread_wf _ _ hs
  · exact hs

/-! ### Maquettes and kicks -/

@[simp] theorem modObj_mem (s : State) (m : Nat) (f : Maq → Maq) : (s.modObj m f).mem = s.mem := rfl

@[simp] theorem tryUnload_mem (s : State) (id m : Nat) : (s.tryUnload id m).mem = s.mem := by
  unfold State.tryUnload
  split <;> simp

@[simp] theorem enterKick_mem (s : State) (m v : Nat) (pk : Option Nat) : (s.enterKick m v pk).mem = s.mem := by
  unfold State.enterKick
  dsimp only
  split <;> simp

@[simp] theorem writeKick_mem (s : State) (m v : Nat) : (s.writeKick m v).mem = s.mem := by
  simp [State.writeKick]

@[simp] theorem readKstat_mem (s : State) (m : Nat) : (s.readKstat m).mem = s.mem := by
  unfold State.readKstat
  split <;> rfl

theorem allocTasks_mem {m cp launch die : Nat} {ds : List Desc} {s : State} {r : State × List Entry}
    (h : allocTasks m cp launch die ds s = some r) : r.1.mem = s.mem := by
  induction ds generalizing s r with
  | nil => cases h; rfl
  | cons d ds ih =>
    unfold allocTasks at h
    split at h
    · cases h
    · dsimp only at h
      split at h
      · rename_i halloc
        cases h
        exact (ih halloc).trans rfl
      · cases h

theorem instantiate_mem {s s' : State} {m : Nat} {o : Maq} {ds : List Desc} (h : s.instantiate m o ds = some s') :
    s'.mem = s.mem := by
  unfold State.instantiate at h
  split at h
  · cases h
  · rename_i halloc
    cases h
    exact allocTasks_mem halloc

/-! ### Service -/

@[simp] theorem wantRetire_mem (s : State) (c : Nat) (hard : Bool) : (s.wantRetire c hard).mem = s.mem := by
  simp [State.wantRetire]

@[simp] theorem countError_wf {s : State} (unit : Nat) (m : ErrMem) (h : memWf s.mem = true) :
    memWf (s.countError unit m).mem = true := by
  simp [State.countError, h]

@[simp] theorem faultRec_wf {s : State} (o : Op) (base j : Nat) (r : KickRec) (i : Nat) (a : Part) (h : memWf s.mem = true) :
    memWf (s.faultRec o base j r i a).mem = true := by
  unfold State.faultRec
  dsimp only
  split <;> simp [h]

@[simp] theorem faultOpen_mem (s : State) (o : Op) (j : Nat) : (s.faultOpen o j).mem = s.mem := rfl

@[simp] theorem faultPart_wf {s : State} (o : Op) (m : ErrMem) (h : memWf s.mem = true) : memWf (s.faultPart o m).mem = true := by
  unfold State.faultPart
  (repeat' split) <;> simp [h, finishIfOver_mem]

@[simp] theorem startRefetch_mem (s : State) (c : Nat) : (s.startRefetch c).mem = s.mem := by
  unfold State.startRefetch
  split <;> rfl

@[simp] theorem doubleError_wf {s : State} (unit : Nat) (m : ErrMem) (victim : Nat) (h : memWf s.mem = true) :
    memWf (s.doubleError unit m victim).mem = true := by
  unfold State.doubleError
  (repeat' split) <;> simp [h]

@[simp] theorem watchPorts_mem (s : State) : (watchPorts s).mem = s.mem := by
  simp [watchPorts]

@[simp] theorem abortFw_wf {s : State} (h : memWf s.mem = true) : memWf (s.abortFw).mem = true := by
  simp [State.abortFw, h]

@[simp] theorem setClock_wf {s : State} (clk : Nat) (kind : Option Nat) (h : memWf s.mem = true) :
    memWf (s.setClock clk kind).mem = true := by
  unfold State.setClock
  split <;> simp [h]

@[simp] theorem clockStep_wf {s : State} (x : TelemInput) (hot : Bool) (h : memWf s.mem = true) :
    memWf (clockStep s x hot).mem = true := by
  unfold clockStep
  split <;> simp [h]

@[simp] theorem powerDown_mem (s : State) : (s.powerDown).mem = s.mem := rfl

/-! ### The hub's registers -/

@[simp] theorem writeHaltr_mem (s : State) (c v : Nat) : (s.writeHaltr c v).mem = s.mem := by
  unfold State.writeHaltr
  split <;> rfl

@[simp] theorem readInto_mem (s : State) (v : Nat) : (readInto s v).mem = s.mem := rfl

@[simp] theorem writeQueue_mem (s : State) (q r v : Nat) : (s.writeQueue q r v).mem = s.mem := by
  simp [State.writeQueue]

@[simp] theorem writeFeature_mem (s : State) (off v : Nat) : (s.writeFeature off v).mem = s.mem := by
  simp [State.writeFeature]

@[simp] theorem writePaging_mem (s : State) (off v : Nat) : (s.writePaging off v).mem = s.mem := by
  simp [State.writePaging]

@[simp] theorem writeService_wf {s : State} (off v : Nat) (h : memWf s.mem = true) : memWf (s.writeService off v).mem = true := by
  unfold State.writeService
  (repeat' split) <;> simp [h]

@[simp] theorem writeHub_wf {s : State} (off v : Nat) (h : memWf s.mem = true) : memWf (s.writeHub off v).mem = true := by
  have hfeature (off v : Nat) : memWf (s.writeFeature off v).mem = true := by rwa [writeFeature_mem]
  have hqueue (q r v : Nat) : memWf (s.writeQueue q r v).mem = true := by rwa [writeQueue_mem]
  have hmbox (m : Nat) (full : Bool) (v : Nat) : memWf (s.writeMbox m full v).mem = true := by rwa [writeMbox_mem]
  have hkick (m v : Nat) : memWf (s.writeKick m v).mem = true := by rwa [writeKick_mem]
  have hpaging (off v : Nat) : memWf (s.writePaging off v).mem = true := by rwa [writePaging_mem]
  have hhaltr (c v : Nat) : memWf (s.writeHaltr c v).mem = true := by rwa [writeHaltr_mem]
  unfold State.writeHub
  exact ite_wf h <| ite_wf (hfeature _ _) <| ite_wf (hqueue _ _ _) <| ite_wf (hmbox _ _ _) <| ite_wf (ite_wf (hkick _ _) h) <|
    ite_wf (hpaging _ _) <| ite_wf (writeService_wf _ _ h) <| ite_wf h <| ite_wf h <| ite_wf (ite_wf (hhaltr _ _) h) h

@[simp] theorem readHubReg_mem (s : State) (off : Nat) : (s.readHubReg off).mem = s.mem := by
  simp [State.readHubReg]

@[simp] theorem writePeer_mem (s : State) (i v : Nat) : (s.writePeer i v).mem = s.mem := rfl

@[simp] theorem systemAccess_wf {s : State} (store : Bool) (a n v : Nat) (h : memWf s.mem = true) :
    memWf (s.systemAccess store a n v).mem = true := by
  unfold State.systemAccess
  (repeat' split) <;> simp [h]

/-! ### The Granary's words -/

@[simp] theorem taskTakeWord_wf (f : Full) (e : Env) (t : Thread) {s : State} (h : memWf s.mem = true) :
    memWf (taskTakeWord f e t s).mem = true := by
  simp [taskTakeWord, h]

@[simp] theorem descWord_mem (f : Full) (x : Option SpawnArg) (e : Env) (t : Thread) (s : State) :
    (descWord f x e t s).mem = s.mem := by
  unfold descWord
  dsimp only
  split <;> simp

@[simp] theorem spawnWord_mem (f : Full) (e : Env) (t : Thread) (s : State) : (spawnWord f e t s).mem = s.mem := by
  simp [spawnWord]

@[simp] theorem pendWord_wf (f : Full) (act : GAct) (e : Env) (t : Thread) {s : State} (h : memWf s.mem = true) :
    memWf (pendWord f act e t s).mem = true := by
  simp [pendWord, h]

@[simp] theorem replyNow_mem (f : Full) (lat : Nat) (regs : List (Nat × Reg)) (e : Env) (t : Thread) (s : State) :
    (replyNow f lat regs e t s).mem = s.mem := rfl

@[simp] theorem replyStatus_mem (f : Full) (lat : Nat) (st : Status) (more : List (Nat × Reg)) (e : Env) (t : Thread) (s : State) :
    (replyStatus f lat st more e t s).mem = s.mem := rfl

theorem heldWord_wf (f : Full) (act : GAct) (lat : Nat) {plain : Env → Thread → State → State} (e : Env) (t : Thread) {s : State}
    (hp : memWf s.mem = true → memWf (plain e t s).mem = true) (h : memWf s.mem = true) :
    memWf (heldWord f act lat plain e t s).mem = true := by
  unfold heldWord
  split
  · simp [h]
  · split
    · simp [h]
    · exact hp h

@[simp] theorem taskDoneWord_wf (f : Full) (e : Env) (t : Thread) {s : State} (h : memWf s.mem = true) :
    memWf (taskDoneWord f e t s).mem = true := by
  simp [taskDoneWord, h]

@[simp] theorem taskDepWord_wf (f : Full) (e : Env) (t : Thread) {s : State} (h : memWf s.mem = true) :
    memWf (taskDepWord f e t s).mem = true :=
  heldWord_wf f _ _ e t (pendWord_wf f _ e t) h

@[simp] theorem taskCoordWord_mem (f : Full) (e : Env) (t : Thread) (s : State) : (taskCoordWord f e t s).mem = s.mem := by
  unfold taskCoordWord
  dsimp only
  split <;> simp

@[simp] theorem taskWaitfWord_mem (f : Full) (e : Env) (t : Thread) (s : State) : (taskWaitfWord f e t s).mem = s.mem := by
  simp [taskWaitfWord]

@[simp] theorem condNewWord_wf (f : Full) (e : Env) (t : Thread) {s : State} (h : memWf s.mem = true) :
    memWf (condNewWord f e t s).mem = true := by
  simp [condNewWord, h]

@[simp] theorem condSetWord_wf (f : Full) (e : Env) (t : Thread) {s : State} (h : memWf s.mem = true) :
    memWf (condSetWord f e t s).mem = true :=
  heldWord_wf f _ _ e t (pendWord_wf f _ e t) h

@[simp] theorem likeSeed_mem (f : Full) (site v : Nat) (e : Env) (t : Thread) (s : State) :
    (likeSeed f site v e t s).mem = s.mem := rfl

@[simp] theorem likeSiteWord_mem (f : Full) (e : Env) (t : Thread) (s : State) : (likeSiteWord f e t s).mem = s.mem := rfl

@[simp] theorem likeTaskWord_mem (f : Full) (e : Env) (t : Thread) (s : State) : (likeTaskWord f e t s).mem = s.mem := rfl

@[simp] theorem likeSeedWord_wf (f : Full) (e : Env) (t : Thread) {s : State} (h : memWf s.mem = true) :
    memWf (likeSeedWord f e t s).mem = true := by
  unfold likeSeedWord
  dsimp only
  split
  · simpa using h
  · exact heldWord_wf f _ _ e t (fun h => by simpa using h) h

@[simp] theorem requeue_mem (s : State) (x : Entry) : (s.requeue x).mem = s.mem := by
  simp [State.requeue]

/-! ### The issue of a word -/

@[simp] theorem noteWord_mem (s1 s : State) (is : List Instr) : (s1.noteWord s is).mem = s1.mem := by
  unfold State.noteWord
  split <;> rfl

@[simp] theorem stallWord_wf {s : State} (c : Nat) (i : Instr) (n : Nat) (h : memWf s.mem = true) :
    memWf (s.stallWord c i n).mem = true := by
  unfold State.stallWord
  split <;> simp [h]

@[simp] theorem asRead_mem (s : State) (c : Nat) : (s.asRead c).mem = s.mem := by
  unfold State.asRead
  split <;> simp

@[simp] theorem keepLanded_mem (s1 s0 b : State) (c : Nat) (i : Instr) : (s1.keepLanded s0 b c i).mem = s1.mem := by
  unfold State.keepLanded
  split
  · rfl
  · split <;> rfl

@[simp] theorem waitCycle_mem (s : State) (c : Nat) : (s.waitCycle c).mem = s.mem := rfl

@[simp] theorem stopWords_mem (s : State) (c : Nat) (is : Issue) : (s.stopWords c is).mem = s.mem := rfl

@[simp] theorem parkBads_mem (s : State) (c : Nat) (is : Issue) (w : Quad) : (s.parkBads c is w).mem = s.mem := rfl

@[simp] theorem openPair_mem (s : State) (c : Nat) (a b : Instr) : (s.openPair c a b).mem = s.mem := by
  unfold State.openPair
  split <;> rfl

@[simp] theorem trapRegs_mem (s s1 : State) (e : Env) (is : List Instr) : (trapRegs s s1 e is).mem = s.mem := rfl

@[simp] theorem readRegisters_mem (s : State) (is : List Instr) (f : State → Out) : (readRegisters s is f).mem = s.mem := by
  unfold readRegisters
  (repeat' split) <;> simp

@[simp] theorem tickClock_mem (s : State) : (tickClock s).mem = s.mem := rfl

@[simp] theorem ripenDbg_mem (s : State) : (ripenDbg s).mem = s.mem := by
  simp [ripenDbg, foldl_mem]

/-! ### What a step leaves -/

/-- The memory of the state that a step leaves, if it leaves one, is canonical. -/
def OutWf : Out → Prop
  | .next t => memWf t.mem = true
  | _ => True

@[simp] theorem outWf_next (s : State) : OutWf (.next s) ↔ memWf s.mem = true := Iff.rfl

theorem wordMap_wf {i : Instr} {f : Env → Thread → TRes} {s : State} (h : memWf s.mem = true) :
    memWf (wordMap i f s).mem = true := by
  rwa [wordMap_mem]

theorem settleWord_wf {s : State} (h : memWf s.mem = true) : memWf (settleWord s).mem = true := by
  unfold settleWord
  split
  · exact h
  · exact h

theorem halfWord_wf {i : Instr} {x : Half} {f : Env → Thread → HalfOut} {s : State} (h : memWf s.mem = true) :
    memWf (halfWord i x f s).mem = true := by
  rwa [halfWord_mem]

theorem mmaSheaf_wf (i : Instr) (f : Full) (paired : Bool) {s : State} (h : memWf s.mem = true) :
    memWf (mmaSheaf i f paired s).mem = true := by
  rwa [mmaSheaf_mem]

/-! ### The events, and the words that write more than registers -/

theorem execExit_wf {s : State} (f : Full) (h : memWf s.mem = true) : OutWf (execExit f s) := by
  simp [execExit, h]

theorem execPagerRequestPost_wf {s : State} (h : memWf s.mem = true) : OutWf (execPagerRequestPost s) := by
  unfold execPagerRequestPost
  split <;> simp [h]

theorem execOperationCompletion_wf {s : State} (h : memWf s.mem = true) : OutWf (execOperationCompletion s) := by
  simp [execOperationCompletion, h, finishIfOver_mem]

theorem execCounterReport_wf {s : State} (h : memWf s.mem = true) : OutWf (execCounterReport s) := h

theorem execPromiseTimeReached_wf {s : State} (h : memWf s.mem = true) : OutWf (execPromiseTimeReached s) := h

theorem execEngineReplyLimit_wf {s : State} (h : memWf s.mem = true) : OutWf (execEngineReplyLimit s) := h

theorem execTblld_wf {s : State} (f : Full) (h : memWf s.mem = true) : OutWf (execTblld f s) := by
  unfold execTblld
  split <;> simp [h]

theorem execTblsw_wf {s : State} (f : Full) (h : memWf s.mem = true) : OutWf (execTblsw f s) := by
  unfold execTblsw
  split <;> simp [h]

theorem execDirectAccessCommit_wf {s : State} (h : memWf s.mem = true) : OutWf (execDirectAccessCommit s) := by
  unfold execDirectAccessCommit
  split <;> simp [h]

theorem execCntfRowServe_wf {s : State} (h : memWf s.mem = true) : OutWf (execCntfRowServe s) := by
  unfold execCntfRowServe
  split <;> simp [h]

theorem execResultLands_wf {s : State} (h : memWf s.mem = true) : OutWf (execResultLands s) := by
  unfold execResultLands
  rw [outWf_next]
  (repeat' split) <;> simp [h]

theorem execDelayedTransferArrival_wf {s : State} (h : memWf s.mem = true) : OutWf (execDelayedTransferArrival s) := by
  unfold execDelayedTransferArrival
  rw [outWf_next]
  (repeat' split) <;> simp [h]

theorem execSubarrayWakeComplete_wf {s : State} (h : memWf s.mem = true) : OutWf (execSubarrayWakeComplete s) := h

theorem execSubarrayGate_wf {s : State} (h : memWf s.mem = true) : OutWf (execSubarrayGate s) := h

theorem execCollPeerArrival_wf {s : State} (x : PeerMsg) (h : memWf s.mem = true) : OutWf (execCollPeerArrival x s) := by
  simp [execCollPeerArrival, h]

theorem execTranslationWalk_wf {s : State} (h : memWf s.mem = true) : OutWf (execTranslationWalk s) := by
  unfold execTranslationWalk
  rw [outWf_next]
  (repeat' split) <;> simp [h]

theorem execEngineAccept_wf {s : State} (h : memWf s.mem = true) : OutWf (execEngineAccept s) := by
  unfold execEngineAccept
  split <;> simp [h, finishIfOver_mem]

theorem execEnginePartPerformed_wf {s : State} (h : memWf s.mem = true) : OutWf (execEnginePartPerformed s) := by
  unfold execEnginePartPerformed
  split <;> simp [h]

theorem execPostedWritePerformed_wf {s : State} (h : memWf s.mem = true) : OutWf (execPostedWritePerformed s) := by
  unfold execPostedWritePerformed
  rw [outWf_next]
  split
  · exact h
  · split
    · exact h
    · refine settleGran_wf ?_
      rw [settleWaits_mem]
      split
      · exact landPart_wf _ _ (State.storeCells_wf h _)
      · exact State.storeCells_wf h _

theorem execWaitDeadlineExpiry_wf {s : State} (h : memWf s.mem = true) : OutWf (execWaitDeadlineExpiry s) := by
  unfold execWaitDeadlineExpiry
  rw [outWf_next]
  (repeat' split) <;> simp [h]

theorem execParkComplete_wf {s : State} (h : memWf s.mem = true) : OutWf (execParkComplete s) := by
  unfold execParkComplete
  rw [outWf_next]
  (repeat' split) <;> simp [h]

theorem execFaultRecordEnqueue_wf {s : State} (h : memWf s.mem = true) : OutWf (execFaultRecordEnqueue s) := by
  unfold execFaultRecordEnqueue
  rw [outWf_next]
  dsimp only
  split <;> simp [h]

theorem execSupResume_wf {s : State} (f : Full) (h : memWf s.mem = true) : OutWf (execSupResume f s) := by
  unfold execSupResume
  rw [outWf_next]
  split
  · exact h
  · rename_i e he
    have hpark : memWf (parkIllegal e (.supResume f)).mem = true := by rwa [parkIllegal_mem, (Laws.env_spec he).1]
    refine settleWord_wf (foldl_wf (foldTurn_wf fun t s hs => ?_) _ hpark)
    rwa [supResumeWord_mem]

theorem execSupSaveLoadComplete_wf {s : State} (h : memWf s.mem = true) : OutWf (execSupSaveLoadComplete s) := by
  unfold execSupSaveLoadComplete
  rw [outWf_next]
  dsimp only
  (repeat' split) <;> simp [h]

/-- The summary records of an interval are written one after the other. -/
theorem summaries_wf {s : State} (c e : Nat) (l : List IntvCount) (h : memWf s.mem = true) :
    memWf (l.foldl (fun s x => s.traceWrite c (summaryRecord e x)) s).mem = true := by
  induction l generalizing s with
  | nil => exact h
  | cons x l ih =>
    rw [List.foldl_cons]
    exact ih (traceWrite_wf c _ h)

theorem execTraceIntervalEnd_wf {s : State} (h : memWf s.mem = true) : OutWf (execTraceIntervalEnd s) := by
  have hcore (k : Core) : memWf (s.withCore s.cur k).mem = true := h
  unfold execTraceIntervalEnd
  rw [outWf_next]
  dsimp only
  split
  · exact h
  · split
    · exact hcore _
    · exact summaries_wf _ _ _ (hcore _)

theorem execWinnowerChoice_wf {s : State} (h : memWf s.mem = true) : OutWf (execWinnowerChoice s) := by
  simp [execWinnowerChoice, h]

theorem execGatherWindowExpiry_wf {s : State} (h : memWf s.mem = true) : OutWf (execGatherWindowExpiry s) := h

theorem execYieldHoldExpiry_wf {s : State} (h : memWf s.mem = true) : OutWf (execYieldHoldExpiry s) := h

theorem execCollectiveDeadlineExpiry_wf {s : State} (h : memWf s.mem = true) : OutWf (execCollectiveDeadlineExpiry s) := h

theorem execPhintSave_wf {s : State} (h : memWf s.mem = true) : OutWf (execPhintSave s) := by
  unfold execPhintSave
  split <;> simp [h]

theorem execGraceDeadlineExpiry_wf {s : State} (h : memWf s.mem = true) : OutWf (execGraceDeadlineExpiry s) := by
  unfold execGraceDeadlineExpiry
  split <;> simp [h, foldl_mem]

theorem execTeamDrainComplete_wf {s : State} (h : memWf s.mem = true) : OutWf (execTeamDrainComplete s) := by
  unfold execTeamDrainComplete
  rw [outWf_next]
  dsimp only
  split
  · split
    · split
      · exact saveTeam_wf _ _ _ _ h
      · exact h
    · exact h
  · exact h

theorem execWakeRecordFire_wf {s : State} (h : memWf s.mem = true) : OutWf (execWakeRecordFire s) := by
  unfold execWakeRecordFire
  rw [outWf_next]
  dsimp only
  (repeat' split) <;> simp [h]

theorem execTeamRestore_wf {s : State} (h : memWf s.mem = true) : OutWf (execTeamRestore s) := by
  unfold execTeamRestore
  rw [outWf_next]
  dsimp only
  (repeat' split) <;> simp [h, foldl_mem]

theorem execTimeSliceBoundary_wf {s : State} (h : memWf s.mem = true) : OutWf (execTimeSliceBoundary s) := by
  simp [execTimeSliceBoundary, h, foldl_mem]

theorem execFeatureGo_wf {s : State} (v : Nat) (h : memWf s.mem = true) : OutWf (execFeatureGo v s) := by
  simp [execFeatureGo, h]

theorem execMailboxWrite_wf {s : State} (m : Nat) (full : Bool) (v : Nat) (h : memWf s.mem = true) :
    OutWf (execMailboxWrite m full v s) := by
  simp [execMailboxWrite, h]

theorem execQtailWrite_wf {s : State} (q v : Nat) (h : memWf s.mem = true) : OutWf (execQtailWrite q v s) := by
  simp [execQtailWrite, h]

theorem execPacketStart_wf {s : State} (h : memWf s.mem = true) : OutWf (execPacketStart s) := by
  unfold execPacketStart
  rw [outWf_next]
  dsimp only
  split <;> simp [h]

theorem execConsumeDeadlineExpiry_wf {s : State} (h : memWf s.mem = true) : OutWf (execConsumeDeadlineExpiry s) := by
  unfold execConsumeDeadlineExpiry
  rw [outWf_next]
  dsimp only
  split <;> simp [h]

theorem execPacketProduce_wf {s : State} (h : memWf s.mem = true) : OutWf (execPacketProduce s) := by
  unfold execPacketProduce
  rw [outWf_next]
  (repeat' split) <;> simp [h]

theorem execProduceDeadlineExpiry_wf {s : State} (h : memWf s.mem = true) : OutWf (execProduceDeadlineExpiry s) := by
  unfold execProduceDeadlineExpiry
  rw [outWf_next]
  (repeat' split) <;> simp [h]

theorem execNopPacket_wf {s : State} (h : memWf s.mem = true) : OutWf (execNopPacket s) := by
  unfold execNopPacket
  split <;> simp [h]

theorem execPreempt_wf {s : State} (h : memWf s.mem = true) : OutWf (execPreempt s) := by
  unfold execPreempt
  split <;> simp [h]

theorem execRestore_wf {s : State} (h : memWf s.mem = true) : OutWf (execRestore s) := by
  unfold execRestore
  rw [outWf_next]
  dsimp only
  (repeat' split) <;> simp [h]

theorem execShootdownGo_wf {s : State} (v : Nat) (h : memWf s.mem = true) : OutWf (execShootdownGo v s) := by
  simp [execShootdownGo, h]

theorem execShootdownDone_wf {s : State} (h : memWf s.mem = true) : OutWf (execShootdownDone s) := by
  simp [execShootdownDone, h]

theorem execPagerCompletion_wf {s : State} (die v : Nat) (h : memWf s.mem = true) : OutWf (execPagerCompletion die v s) := by
  simp [execPagerCompletion, h]

theorem execNotifyWrite_wf {s : State} (v : Nat) (h : memWf s.mem = true) : OutWf (execNotifyWrite v s) := h

theorem execNlatchRead_wf {s : State} (h : memWf s.mem = true) : OutWf (execNlatchRead s) := h

theorem execPlinthWake_wf {s : State} (h : memWf s.mem = true) : OutWf (execPlinthWake s) := by
  simp [execPlinthWake, h]

theorem execTimept_wf {s : State} (h : memWf s.mem = true) : OutWf (execTimept s) := by
  simp [execTimept, h]

theorem execPtpFirstLock_wf {s : State} (ptp : Nat) (h : memWf s.mem = true) : OutWf (execPtpFirstLock ptp s) := by
  simp [execPtpFirstLock, h]

theorem execPtpLockLoss_wf {s : State} (h : memWf s.mem = true) : OutWf (execPtpLockLoss s) := h

theorem execPtpLockRegained_wf {s : State} (h : memWf s.mem = true) : OutWf (execPtpLockRegained s) := by
  simp [execPtpLockRegained, h]

theorem execClockHoldoverExpiry_wf {s : State} (h : memWf s.mem = true) : OutWf (execClockHoldoverExpiry s) := by
  unfold execClockHoldoverExpiry
  split <;> simp [h]

theorem execPlinthParameterWrite_wf {s : State} (p : Param) (v : Nat) (h : memWf s.mem = true) :
    OutWf (execPlinthParameterWrite p v s) := by
  simp [execPlinthParameterWrite, h]

theorem execPowerOnReset_wf {s : State} (_h : memWf s.mem = true) : OutWf (execPowerOnReset s) := State.reset_wf

theorem execAttreqGo_wf {s : State} (v : Nat) (h : memWf s.mem = true) : OutWf (execAttreqGo v s) := by
  simp [execAttreqGo, h]

theorem execLaunch_wf {s : State} (h : memWf s.mem = true) : OutWf (execLaunch s) := by
  unfold execLaunch
  rw [outWf_next]
  (repeat' split) <;> simp [h]

theorem execTeamPlacement_wf {s : State} (h : memWf s.mem = true) : OutWf (execTeamPlacement s) := by
  unfold execTeamPlacement
  split <;> simp [h]

theorem execTeamEnd_wf {s : State} (h : memWf s.mem = true) : OutWf (execTeamEnd s) := by
  have hfreed (tm : Team) (cs : List Nat) (s : State) :
      (cs.foldl (fun s d => (dropWakes s d tm.launch).modCore d freedCore) s).mem = s.mem := by
    refine foldl_mem (fun s d => ?_) cs s
    rfl
  unfold execTeamEnd
  rw [outWf_next]
  split
  · exact h
  · split
    · exact h
    · refine foldl_wf (fun s d hs => afterTeam_wf _ d hs) _ ?_
      rwa [State.modLaunch_mem, hfreed]

theorem execLaunchEnd_wf {s : State} (h : memWf s.mem = true) : OutWf (execLaunchEnd s) := by
  unfold execLaunchEnd
  rw [outWf_next]
  (repeat' split) <;> simp [h]

theorem execSupplace_wf {s : State} (h : memWf s.mem = true) : OutWf (execSupplace s) := by
  unfold execSupplace
  rw [outWf_next]
  split
  · exact h
  · split
    · rwa [finishPk_mem]
    · dsimp only
      rw [finishPk_mem]
      refine foldl_wf (fun s c hs => ?_) _ h
      rw [State.settle_mem, State.modCore_mem]
      exact killSup_wf c hs

theorem execMqload_wf {s : State} (h : memWf s.mem = true) : OutWf (execMqload s) := by
  unfold execMqload
  rw [outWf_next]
  dsimp only
  (repeat' split) <;> simp [h]

theorem execMqunload_wf {s : State} (h : memWf s.mem = true) : OutWf (execMqunload s) := by
  unfold execMqunload
  rw [outWf_next]
  dsimp only
  (repeat' split) <;> simp [h]

theorem execKickWrite_wf {s : State} (sm v : Nat) (h : memWf s.mem = true) : OutWf (execKickWrite sm v s) := by
  simp [execKickWrite, h]

theorem execKstatRead_wf {s : State} (sm : Nat) (h : memWf s.mem = true) : OutWf (execKstatRead sm s) := by
  simp [execKstatRead, h]

theorem execMqkick_wf {s : State} (h : memWf s.mem = true) : OutWf (execMqkick s) := by
  unfold execMqkick
  split <;> simp [h]

theorem execKickDepart_wf {s : State} (h : memWf s.mem = true) : OutWf (execKickDepart s) := by
  have hrefuse (room : Prop) [Decidable room] (f : Maq → Maq) (k : Kick) :
      memWf (if room then (s.modObj s.cur f).endKick s.cur k .fault 11 else s).mem = true := by
    simp [h]
  unfold execKickDepart
  rw [outWf_next]
  dsimp only
  split
  · exact h
  · split
    · exact h
    · split
      · exact h
      · split
        · exact hrefuse _ _ _
        · split
          · exact hrefuse _ _ _
          · split
            · exact hrefuse _ _ _
            · split
              · exact h
              · rename_i hinst
                refine settleGran_wf ?_
                rwa [endKick_mem, modObj_mem, instantiate_mem hinst]

theorem execSingleBitError_wf {s : State} (unit : Nat) (m : ErrMem) (h : memWf s.mem = true) :
    OutWf (execSingleBitError unit m s) := by
  simp [execSingleBitError, h]

theorem execDoubleBitError_wf {s : State} (unit : Nat) (m : ErrMem) (victim : Nat) (h : memWf s.mem = true) :
    OutWf (execDoubleBitError unit m victim s) := by
  simp [execDoubleBitError, h]

theorem execIfetchParityError_wf {s : State} (c : Nat) (h : memWf s.mem = true) : OutWf (execIfetchParityError c s) := by
  simp [execIfetchParityError, h]

theorem execIfetchRefetchComplete_wf {s : State} (c : Nat) (ok : Bool) (h : memWf s.mem = true) :
    OutWf (execIfetchRefetchComplete c ok s) := by
  have hone (f : Core → Core) : memWf (s.modCore c f).mem = true := h
  have htwo (f g : Core → Core) : memWf ((s.modCore c f).modCore c g).mem = true := h
  unfold execIfetchRefetchComplete
  rw [outWf_next]
  split
  · exact h
  · dsimp only
    split
    · exact countError_wf _ _ (hone _)
    · split
      · exact countError_wf _ _ (htwo _ _)
      · exact logRec_wf _ _ _ _ (killTeam_wf _ (hone _))

theorem execCoreRetirement_wf {s : State} (c : Nat) (hard : Bool) (h : memWf s.mem = true) :
    OutWf (execCoreRetirement c hard s) := by
  have hdefer (f : Core → Core) : memWf ((s.modCore c f).deferRetire c).mem = true := by rwa [deferRetire_mem]
  unfold execCoreRetirement
  rw [outWf_next]
  dsimp only
  split
  · exact h
  · split
    · split
      · exact h
      · exact retireFree_wf _ _ h
    · split
      · split
        · exact foldl_wf (fun _ d hs => killTeam_wf d hs) _ (hdefer _)
        · exact hdefer _
      · split
        · rwa [retireOr_mem]
        · exact h

theorem execHbmRowSpare_wf {s : State} (stack chan bank row : Nat) (h : memWf s.mem = true) :
    OutWf (execHbmRowSpare stack chan bank row s) := by
  simp [execHbmRowSpare, h]

theorem execHbmChannelSpare_wf {s : State} (stack chan : Nat) (h : memWf s.mem = true) :
    OutWf (execHbmChannelSpare stack chan s) := by
  simp [execHbmChannelSpare, h]

theorem execLaneFailure_wf {s : State} (port half : Nat) (h : memWf s.mem = true) : OutWf (execLaneFailure port half s) := by
  simp [execLaneFailure, h]

theorem execPortRetrainComplete_wf {s : State} (h : memWf s.mem = true) : OutWf (execPortRetrainComplete s) := by
  simp [execPortRetrainComplete, h]

theorem execLaneRestore_wf {s : State} (port half lanes : Nat) (h : memWf s.mem = true) :
    OutWf (execLaneRestore port half lanes s) := by
  simp [execLaneRestore, h]

theorem execFwLoad_wf {s : State} (img : FwImage) (h : memWf s.mem = true) : OutWf (execFwLoad img s) := by
  simp [execFwLoad, h]

theorem execFwVerify_wf {s : State} (h : memWf s.mem = true) : OutWf (execFwVerify s) := by
  unfold execFwVerify
  split <;> simp [h]

theorem execFwShadowStart_wf {s : State} (h : memWf s.mem = true) : OutWf (execFwShadowStart s) := by
  simp [execFwShadowStart, h]

theorem execFwCommit_wf {s : State} (h : memWf s.mem = true) : OutWf (execFwCommit s) := by
  unfold execFwCommit
  split <;> simp [h]

theorem execFwAbort_wf {s : State} (h : memWf s.mem = true) : OutWf (execFwAbort s) := by
  simp [execFwAbort, h]

theorem execTelemInterval_wf {s : State} (x : TelemInput) (h : memWf s.mem = true) : OutWf (execTelemInterval x s) := by
  unfold execTelemInterval
  split <;> simp [h]

theorem execThermalShutdown_wf {s : State} (x : TelemInput) (h : memWf s.mem = true) : OutWf (execThermalShutdown x s) := by
  simp [execThermalShutdown, h]

theorem execHaltrGo_wf {s : State} (c v : Nat) (h : memWf s.mem = true) : OutWf (execHaltrGo c v s) := by
  simp [execHaltrGo, h]

theorem execTrdropRead_wf {s : State} (c : Nat) (h : memWf s.mem = true) : OutWf (execTrdropRead c s) := h

theorem execSvfaultCtlRead_wf {s : State} (c : Nat) (h : memWf s.mem = true) : OutWf (execSvfaultCtlRead c s) := h

theorem execRegisterWrite_wf {s : State} (off v : Nat) (h : memWf s.mem = true) : OutWf (execRegisterWrite off v s) := by
  simp [execRegisterWrite, h]

theorem execSystemCoreMemoryAccess_wf {s : State} (store : Bool) (addr size v : Nat) (h : memWf s.mem = true) :
    OutWf (execSystemCoreMemoryAccess store addr size v s) := by
  simp [execSystemCoreMemoryAccess, h]

theorem execAffinityWindowExpiry_wf {s : State} (h : memWf s.mem = true) : OutWf (execAffinityWindowExpiry s) := by
  simp [execAffinityWindowExpiry, h]

theorem execTillerCommit_wf {s : State} (h : memWf s.mem = true) : OutWf (execTillerCommit s) := by
  unfold execTillerCommit
  rw [outWf_next]
  (repeat' split) <;> simp [h]

theorem execTillerWithdrawal_wf {s : State} (h : memWf s.mem = true) : OutWf (execTillerWithdrawal s) := by
  unfold execTillerWithdrawal
  rw [outWf_next]
  (repeat' split) <;> simp [h]

/-! ### Every instruction -/

/-- Every instruction and every event keeps the memory canonical. -/
theorem exec_wf (i : Instr) {s : State} (h : memWf s.mem = true) : OutWf (exec i s) := by
  cases i
  case mov | sel | add | sub | mul | mulh | mad | div | rem | min | max | abs | neg | and | or | xor | andn | not |
      shl | shrl | shra | rotl | bfx | bfi | perm | clz | popc | brev | lea | addD | setp | pand | por | pxor | pnot |
      movi | addi | nop | ld | ldI | dlset | dladd | dlget | sleepu | cntfGet | gfetch | dispatchOp | dispatchPc |
      gnext | gjmp | gjmpRel | gbrc | gset | gget | fadd | fsub | fmul | ffma | fmin | fmax | fsetp | fclass | cvt |
      cvtpk | cvtup | cvtSr | cvtpkSr | padd2 | pmul2 | pfma2 | dot2 | dot4 | dot8 | fmule | rcp | rsqrt | sqrt | exp2
      | log2 | tanh | sin | cos | tbl | shfl | vote | redux | scan | sample | ftest | ftime | qrd | trap | bkpt |
      phint | sysr =>
    exact wordMap_wf h
  case pairedMovB32 | pairedAddS32 | pairedSubS32 | pairedMulS32 | pairedMinS32 | pairedMaxS32 | pairedMinN32 |
      pairedMaxN32 | pairedAndB32 | pairedOrB32 | pairedXorB32 | pairedAndnB32 | pairedNotB32 | pairedShlB32 |
      pairedShrlB32 | pairedShraS32 | pairedRotlB32 | pairedPermB32 | pairedClzB32 | pairedPopcB32 | pairedBrevB32 |
      pairedNegS32 | pairedAbsS32 | pairedFaddF32 | pairedFsubF32 | pairedFmulF32 | pairedFminF32 | pairedFmaxF32 |
      pairedPadd2Bf16 | pairedPmul2Bf16 | pairedPadd2F16 | pairedPmul2F16 | pairedPand | pairedPor | pairedPxor |
      pairedPnot | pairedSetpEq | pairedSetpNe | pairedSetpLt | pairedSetpLe | pairedSetpGt | pairedSetpGe |
      pairedFsetpLt | pairedFsetpLe | pairedFsetpEq =>
    exact halfWord_wf h
  case bra | brc | ret | loop | lend | fence | fwait | fwaitAcq | fsleep | waitn | yield =>
    exact settleWord_wf (wordMap_wf h)
  case st | stRel | atom | cntfAdd | cntfClr | barInit | barArrive | slotFree =>
    exact wordMix_wf _ _ (fun e t s hs => by simp [hs]) h
  case call | calli | barWait | barWaitAcq | barArwt | slotClaim | slotTake =>
    exact settleWord_wf (wordMix_wf _ _ (fun e t s hs => by simp [hs]) h)
  case copyIn | copyOut | copyRel | ckick | wload | mma | gather | coll | ratom | fcancel | sysw | supPrd | supPwr |
      supKill | taskDone | taskDep | taskCoord | condSet | likeSite | likeTask | likeSeed =>
    exact wordFold_wf _ (fun e t s hs => by simp [hs]) h
  case supPwait | supSave | supLoad | taskTake | taskPut | spawn | taskWaitf | condNew =>
    exact settleWord_wf (wordFold_wf _ (fun e t s hs => by simp [hs]) h)
  case mmaR | mmap =>
    exact mmaSheaf_wf _ _ _ h
  case exit => exact execExit_wf _ h
  case pagerRequestPost => exact execPagerRequestPost_wf h
  case operationCompletion => exact execOperationCompletion_wf h
  case counterReport => exact execCounterReport_wf h
  case promiseTimeReached => exact execPromiseTimeReached_wf h
  case engineReplyLimit => exact execEngineReplyLimit_wf h
  case tblld => exact execTblld_wf _ h
  case tblsw => exact execTblsw_wf _ h
  case directAccessCommit => exact execDirectAccessCommit_wf h
  case cntfRowServe => exact execCntfRowServe_wf h
  case resultLands => exact execResultLands_wf h
  case delayedTransferArrival => exact execDelayedTransferArrival_wf h
  case subarrayWakeComplete => exact execSubarrayWakeComplete_wf h
  case subarrayGate => exact execSubarrayGate_wf h
  case collPeerArrival => exact execCollPeerArrival_wf _ h
  case translationWalk => exact execTranslationWalk_wf h
  case engineAccept => exact execEngineAccept_wf h
  case enginePartPerformed => exact execEnginePartPerformed_wf h
  case postedWritePerformed => exact execPostedWritePerformed_wf h
  case waitDeadlineExpiry => exact execWaitDeadlineExpiry_wf h
  case parkComplete => exact execParkComplete_wf h
  case faultRecordEnqueue => exact execFaultRecordEnqueue_wf h
  case supResume => exact execSupResume_wf _ h
  case supSaveLoadComplete => exact execSupSaveLoadComplete_wf h
  case traceIntervalEnd => exact execTraceIntervalEnd_wf h
  case winnowerChoice => exact execWinnowerChoice_wf h
  case gatherWindowExpiry => exact execGatherWindowExpiry_wf h
  case yieldHoldExpiry => exact execYieldHoldExpiry_wf h
  case collectiveDeadlineExpiry => exact execCollectiveDeadlineExpiry_wf h
  case phintSave => exact execPhintSave_wf h
  case graceDeadlineExpiry => exact execGraceDeadlineExpiry_wf h
  case teamDrainComplete => exact execTeamDrainComplete_wf h
  case wakeRecordFire => exact execWakeRecordFire_wf h
  case teamRestore => exact execTeamRestore_wf h
  case timeSliceBoundary => exact execTimeSliceBoundary_wf h
  case featureGo => exact execFeatureGo_wf _ h
  case mailboxWrite => exact execMailboxWrite_wf _ _ _ h
  case qtailWrite => exact execQtailWrite_wf _ _ h
  case packetStart => exact execPacketStart_wf h
  case consumeDeadlineExpiry => exact execConsumeDeadlineExpiry_wf h
  case packetProduce => exact execPacketProduce_wf h
  case produceDeadlineExpiry => exact execProduceDeadlineExpiry_wf h
  case nopPacket => exact execNopPacket_wf h
  case preempt => exact execPreempt_wf h
  case restore => exact execRestore_wf h
  case shootdownGo => exact execShootdownGo_wf _ h
  case shootdownDone => exact execShootdownDone_wf h
  case pagerCompletion => exact execPagerCompletion_wf _ _ h
  case notifyWrite => exact execNotifyWrite_wf _ h
  case nlatchRead => exact execNlatchRead_wf h
  case plinthWake => exact execPlinthWake_wf h
  case timept => exact execTimept_wf h
  case ptpFirstLock => exact execPtpFirstLock_wf _ h
  case ptpLockLoss => exact execPtpLockLoss_wf h
  case ptpLockRegained => exact execPtpLockRegained_wf h
  case clockHoldoverExpiry => exact execClockHoldoverExpiry_wf h
  case plinthParameterWrite => exact execPlinthParameterWrite_wf _ _ h
  case powerOnReset => exact execPowerOnReset_wf h
  case attreqGo => exact execAttreqGo_wf _ h
  case launch => exact execLaunch_wf h
  case teamPlacement => exact execTeamPlacement_wf h
  case teamEnd => exact execTeamEnd_wf h
  case launchEnd => exact execLaunchEnd_wf h
  case supplace => exact execSupplace_wf h
  case mqload => exact execMqload_wf h
  case mqunload => exact execMqunload_wf h
  case kickWrite => exact execKickWrite_wf _ _ h
  case kstatRead => exact execKstatRead_wf _ h
  case mqkick => exact execMqkick_wf h
  case kickDepart => exact execKickDepart_wf h
  case singleBitError => exact execSingleBitError_wf _ _ h
  case doubleBitError => exact execDoubleBitError_wf _ _ _ h
  case ifetchParityError => exact execIfetchParityError_wf _ h
  case ifetchRefetchComplete => exact execIfetchRefetchComplete_wf _ _ h
  case coreRetirement => exact execCoreRetirement_wf _ _ h
  case hbmRowSpare => exact execHbmRowSpare_wf _ _ _ _ h
  case hbmChannelSpare => exact execHbmChannelSpare_wf _ _ h
  case laneFailure => exact execLaneFailure_wf _ _ h
  case portRetrainComplete => exact execPortRetrainComplete_wf h
  case laneRestore => exact execLaneRestore_wf _ _ _ h
  case fwLoad => exact execFwLoad_wf _ h
  case fwVerify => exact execFwVerify_wf h
  case fwShadowStart => exact execFwShadowStart_wf h
  case fwCommit => exact execFwCommit_wf h
  case fwAbort => exact execFwAbort_wf h
  case telemInterval => exact execTelemInterval_wf _ h
  case thermalShutdown => exact execThermalShutdown_wf _ h
  case haltrGo => exact execHaltrGo_wf _ _ h
  case trdropRead => exact execTrdropRead_wf _ h
  case svfaultCtlRead => exact execSvfaultCtlRead_wf _ h
  case registerWrite => exact execRegisterWrite_wf _ _ h
  case systemCoreMemoryAccess => exact execSystemCoreMemoryAccess_wf _ _ _ _ h
  case affinityWindowExpiry => exact execAffinityWindowExpiry_wf h
  case tillerCommit => exact execTillerCommit_wf h
  case tillerWithdrawal => exact execTillerWithdrawal_wf h

/-! ### The moves -/

theorem fire_wf {s : State} (i : Instr) (cur sub ix : Nat) (h : memWf s.mem = true) : OutWf (fire s i cur sub ix) := by
  unfold fire
  split
  · exact exec_wf i h
  · exact h

theorem execPair_wf (a b : Instr) {s : State} (h : memWf s.mem = true) : OutWf (execPair a b s) := by
  have ha := exec_wf a h
  unfold execPair
  cases hs : exec a s with
  | next s1 =>
    rw [hs] at ha
    exact exec_wf b ha
  | fault => trivial
  | refused => trivial

/-- The states that `perform` makes on the way to a word differ from the step's state in the core alone. -/
theorem runWord_wf {s0 : State} (c : Nat) (i : Instr) (h : memWf s0.mem = true) : OutWf (runWord s0 c i) := by
  have hread : memWf (readRegisters (s0.asRead c) [i] (exec i)).mem = true := by simp [h]
  have hi := exec_wf i hread
  unfold runWord
  dsimp only
  split
  · rename_i hs
    rw [hs, outWf_next] at hi
    simp [hi]
  · exact hi

theorem runPair_wf {s : State} (c : Nat) (is : Issue) (a b : Instr) (h : memWf s.mem = true) : OutWf (runPair s c is a b) := by
  have hread (x : State) (hx : x.mem = s.mem) : memWf (readRegisters x [a, b] (execPair a b)).mem = true := by simp [h, hx]
  unfold runPair
  dsimp only
  split
  · rename_i hs
    have hp := execPair_wf a b (hread (({ s with cur := c }.stopWords c is).openPair c a b) (by simp))
    rw [hs, outWf_next] at hp
    simp [hp]
  · exact execPair_wf a b (hread _ (by simp))

theorem runOne_wf {s : State} (c : Nat) (is : Issue) (i : Instr) (h : memWf s.mem = true) : OutWf (runOne s c is i) := by
  unfold runOne
  dsimp only
  split
  · exact runWord_wf c i h
  · split
    · simp [h]
    · split
      · exact runWord_wf c i (by simp [h])
      · simp [h]

theorem issueOn_wf {s : State} (c : Nat) (h : memWf s.mem = true) : OutWf (issueOn s c) := by
  unfold issueOn
  split
  · exact h
  · split
    · simp [h]
    · split
      · exact runOne_wf _ _ _ h
      · exact runPair_wf _ _ _ _ h
      · simp [h]

theorem tick_wf {s : State} (h : memWf s.mem = true) : memWf (tick s).mem = true := by
  simp [tick, h]

theorem perform_wf {s : State} (m : Move) (h : memWf s.mem = true) : OutWf (perform s m) := by
  cases m with
  | event i cur sub ix => exact fire_wf i cur sub ix h
  | issue c =>
    change OutWf (if s.svc.computeDown then .fault .computeDiesDown else issueOn s c)
    split
    · trivial
    · exact issueOn_wf c h
  | granary => exact settleGran_wf h
  | tick => exact tick_wf h

theorem asked_mem {s s1 : State} (m : Move) (h : s1.mem = s.mem) : (asked s s1 m).2.mem = s.mem := by
  unfold asked
  split
  · split
    · rfl
    · exact h
  · split
    · rfl
    · split
      · rfl
      · exact h

theorem takeMove_mem (s : State) : (takeMove s).2.mem = s.mem := by
  unfold takeMove
  split
  · exact asked_mem _ rfl
  · split
    · exact asked_mem _ rfl
    · exact asked_mem _ rfl

/-- Settles O57: a move keeps the memory canonical, and the ends of a step leave it alone. -/
theorem everyStepKeepsMemoryCanonical : Obligations.EveryStepKeepsMemoryCanonical := by
  unfold Obligations.EveryStepKeepsMemoryCanonical
  intro s t h hstep
  obtain ⟨s1, hmove, rfl⟩ := Halts.step_next_iff.mp hstep
  have htaken : memWf (takeMove s).2.mem = true := by rwa [takeMove_mem]
  have hout := perform_wf (takeMove s).1 htaken
  rwa [hmove, outWf_next] at hout

end Sys2Proof.Canonical
end

section
/-! Proofs for the family of traps, the front end and the service: the hub's registers, and the accesses of system cores. -/

namespace Sys2Proof.HubRegs

open Sys2Proof Machine

variable {s : State} {m w : Nat}

theorem ptpFirstLock_next (h : s.hub.offsetSet = false) : exec (.ptpFirstLock w) s = .next { s with hub := { s.hub with
    timeoff := BitVec.ofNat 64 w - BitVec.ofNat 64 s.time, offsetSet := true, locked := true
    nextSlice := boundaryAfter s.hub.plinth w } } := by
  have hoff : BitVec.ofNat 64 (w + 2 ^ 64 - s.time % 2 ^ 64) = BitVec.ofNat 64 w - BitVec.ofNat 64 s.time := by
    apply BitVec.eq_of_toNat_eq
    simp only [BitVec.toNat_ofNat, BitVec.toNat_sub]
    omega
  change Host.Outcome.next (if s.hub.offsetSet then s else _) = _
  rw [h, hoff]
  rfl

theorem clockHoldoverExpiry_next {d : Nat} (hd : s.svc.holdover = some d) (h : d ≤ s.time) :
    exec .clockHoldoverExpiry s = .next { s with
      hub := { s.hub with locked := false }, svc := { s.svc with holdover := none } } := by
  have hdue : ¬ s.time < d := by omega
  simp [exec, execClockHoldoverExpiry, hd, hdue]

theorem featureGo_next : exec (.featureGo w) s = .next (if w % 2 = 1 ∧ s.launches = [] then
    { s with hub := { s.hub with fagr := (0x1FF &&& s.hub.cfg.ceiling) &&& s.hub.freq } } else s) := by
  simp [exec, execFeatureGo, State.writeFctl, bitAt, offer]

/-! ### Mailboxes (R373 to R376) -/

theorem mailboxWrite_free (hm : m < 4096) (hat : (mboxAt s m).at_ ≠ some s.time) (hlate : (mboxAt s m).late = []) (full : Bool) :
    exec (.mailboxWrite m full w) s = .next (s.changeMbox m full w) := by
  have hm' : ¬ 4096 ≤ m := by omega
  have hfree : (mboxFree s m && (mboxAt s m).late.isEmpty) = true := by simp [mboxFree, hat, hlate]
  simp only [exec, execMailboxWrite, State.writeMbox, if_neg hm', hfree, if_true]

theorem mailboxWrite_late (hm : m < 4096) (h : (mboxAt s m).at_ = some s.time ∨ (mboxAt s m).late ≠ []) (full : Bool) :
    exec (.mailboxWrite m full w) s = .next (s.setMbox m { mboxAt s m with late := (mboxAt s m).late ++ [(full, w)] }) := by
  have hm' : ¬ 4096 ≤ m := by omega
  have hfree : (mboxFree s m && (mboxAt s m).late.isEmpty) = false := by
    rcases h with h | h <;> simp [mboxFree, h]
  simp only [exec, execMailboxWrite, State.writeMbox, if_neg hm', hfree, Bool.false_eq_true, if_false]

theorem changeMbox_empty (h : w % 2 = 0) : s.changeMbox m true w = s.putMbox m (mboxAt s m).val false := by
  simp [State.changeMbox, bitAt, h]

theorem changeMbox_full (h : w % 2 = 1) (hc : consumers s m = []) : s.changeMbox m true w = s.putMbox m (mboxAt s m).val true := by
  simp [State.changeMbox, State.fillMbox, bitAt, h, hc]

/-! ### Kick registers (R342, R386, R387) -/

theorem maqAt_setMaq (x : MaqSlot) : maqAt (s.setMaq m x) m = x := Laws.tblGet_tblPut_self ..

theorem kicksFull_of_room {o : Maq} (ho : (maqAt s m).obj = some o) (hk : o.kicks.length < 16) : kicksFull s m = false := by
  simp [kicksFull, ho, hk]

theorem agreed_eq (n : Nat) : agreed s n = s.hub.fagr.testBit n := Sheaves.bitAt_eq_testBit ..

/-- The kick that a write of `w` enters: its number, its patch table, and whether its reserved bits are not clear. -/
def kickOf (x : MaqSlot) (w : Nat) : Kick := ⟨(x.kseq + 1) % 2 ^ 32, w % 2 ^ 44, decide (w / 2 ^ 44 % 2 ^ 20 ≠ 0), none⟩

theorem enterKick_eq {o : Maq} (ho : (maqAt s m).obj = some o) (hu : o.unloading = none) :
    s.enterKick m w none = (s.setMaq m { maqAt s m with kseq := ((maqAt s m).kseq + 1) % 2 ^ 32 }).modObj m
      fun o => { o with kicks := o.kicks ++ [kickOf (maqAt s m) w] } := by
  have hbad : (field w 63 44 != 0) = decide (w / 2 ^ 44 % 2 ^ 20 ≠ 0) := by
    simp only [field, bne, decide_not]
    rfl
  simp only [State.enterKick, ho, hu, hbad, kickOf, Option.isSome_none, Bool.false_eq_true, if_false]
  simp [field]

theorem maqAt_modObj (f : Maq → Maq) : maqAt (s.modObj m f) m = { maqAt s m with obj := (maqAt s m).obj.map f } := maqAt_setMaq _

theorem kickWrite_enters (hm : m < 64) {o : Maq} (ho : (maqAt s m).obj = some o) (hu : o.unloading = none)
    (hk : o.kicks.length < 16) (hf : s.hub.fagr.testBit 2 = true) :
    ∃ s', exec (.kickWrite m w) s = .next s' ∧ s'.mem = s.mem ∧ maqAt s' m = { maqAt s m with
      kickReg := BitVec.ofNat 64 (w % 2 ^ 44), kseq := ((maqAt s m).kseq + 1) % 2 ^ 32
      obj := some { o with kicks := o.kicks ++ [kickOf (maqAt s m) w] } } := by
  have hm' : ¬ 64 ≤ m := by omega
  have hgo : (!agreed s 2 || kicksFull s m) = false := by rw [agreed_eq, hf, kicksFull_of_room ho hk]; rfl
  let s1 := s.setMaq m { maqAt s m with kickReg := BitVec.ofNat 64 (field w 43 0) }
  have hs1 : maqAt s1 m = { maqAt s m with kickReg := BitVec.ofNat 64 (field w 43 0) } := maqAt_setMaq _
  have ho1 : (maqAt s1 m).obj = some o := by rw [hs1]; exact ho
  refine ⟨s1.enterKick m w none, ?_, ?_, ?_⟩
  · simp only [exec, execKickWrite, State.writeKick, if_neg hm', hgo, Bool.false_eq_true, if_false, s1]
  · rw [enterKick_eq ho1 hu]; rfl
  · rw [enterKick_eq ho1 hu, maqAt_modObj, maqAt_setMaq]
    simp [hs1, ho, kickOf, field]

theorem kickWrite_drops (hm : m < 64) (hf : s.hub.fagr.testBit 2 = false) :
    ∃ s', exec (.kickWrite m w) s = .next s' ∧ s'.mem = s.mem ∧ s'.gran = s.gran ∧ maqAt s' m = { maqAt s m with
      kickReg := BitVec.ofNat 64 (w % 2 ^ 44), kseq := ((maqAt s m).kseq + 1) % 2 ^ 32, drop := true } := by
  have hm' : ¬ 64 ≤ m := by omega
  have hstop : (!agreed s 2 || kicksFull s m) = true := by rw [agreed_eq, hf]; rfl
  let s1 := s.setMaq m { maqAt s m with kickReg := BitVec.ofNat 64 (field w 43 0) }
  refine ⟨s1.setMaq m { maqAt s1 m with kseq := ((maqAt s m).kseq + 1) % 2 ^ 32, drop := true }, ?_, rfl, rfl, ?_⟩
  · simp only [exec, execKickWrite, State.writeKick, if_neg hm', hstop, if_true, s1]
  · rw [maqAt_setMaq, maqAt_setMaq]
    simp [field]

theorem kstatRead_next (hm : m < 64) :
    exec (.kstatRead m) s = .next (readInto (s.setMaq m { maqAt s m with drop := false }) (kstat s m)) := by
  have hm' : ¬ 64 ≤ m := by omega
  simp only [exec, execKstatRead, State.readKstat, if_neg hm']
  rfl

/-! ### Shootdowns (R364, R365) -/

theorem inShoot_iff {launch lo n : Nat} {x : TlbEnt} :
    inShoot launch lo n x = true ↔ x.space = launch ∧ x.va < lo + n ∧ lo < x.va + x.bytes := by
  simp [inShoot, and_assoc]

theorem mem_tlb_mapCores {f : Core → Core} {p : TlbEnt → Bool} (hf : ∀ k, (f k).tlb = k.tlb.filter p) {t : State}
    (ht : t.cores = s.cores.map f) (c : Nat) (x : TlbEnt) :
    x ∈ (t.core c).tlb ↔ x ∈ (s.core c).tlb ∧ p x = true := by
  have hcore : (t.core c).tlb = ((s.core c).tlb).filter p := by
    rcases lt_or_ge c s.cores.length with h | h
    · simp [State.core, ht, h, hf]
    · simp [State.core, ht, h]; rfl
  rw [hcore, List.mem_filter]

/-- What a write that starts a shootdown leaves, over the pages of `launch` that meet the `n` bytes from `lo`. -/
theorem writeShoot_spec {launch lo n : Nat} (hl : field w 15 0 = launch) (hlo : s.hub.shootAddr.toNat = lo)
    (hn : field w 47 16 * 65536 = n) (hdone : s.hub.shootDone = true) (hw : w.testBit 63 = true) :
    (s.writeShoot w).hub.shootDone = false ∧ (s.writeShoot w).hub.shootLaunch = launch
      ∧ (∀ id, id ∈ (s.writeShoot w).hub.shootPosts ↔ ∃ p ∈ s.posted, p.id = id ∧ p.launch = launch
          ∧ p.page.1 < lo + n ∧ lo < p.page.1 + p.page.2)
      ∧ (∀ x, x ∈ (s.writeShoot w).hub.shootOps ↔ ∃ o ∈ s.ops, o.sup = false ∧ o.launch = launch ∧ ∃ y ∈ placedBy o,
          inShoot launch lo n y.2 = true ∧ x = ⟨o.id, y.1, y.2.va, y.2.bytes⟩)
      ∧ ∀ c x, x ∈ ((s.writeShoot w).core c).tlb ↔ x ∈ (s.core c).tlb ∧ ¬ inShoot launch lo n x = true := by
  have hgo : (!bitAt w 63 || !s.hub.shootDone) = false := by rw [Sheaves.bitAt_eq_testBit, hw, hdone]; rfl
  simp only [State.writeShoot, hl, hlo, hn, hgo, Bool.false_eq_true, if_false]
  refine ⟨trivial, trivial, fun id => ?_, fun x => ?_, fun c x => ?_⟩
  · simp only [List.mem_map, List.mem_filter, Bool.and_eq_true, beq_iff_eq, decide_eq_true_eq]
    constructor
    · rintro ⟨p, ⟨hp, ⟨hla, hlo⟩, hhi⟩, rfl⟩
      exact ⟨p, hp, rfl, hla, hlo, hhi⟩
    · rintro ⟨p, hp, rfl, hla, hlo, hhi⟩
      exact ⟨p, ⟨hp, ⟨hla, hlo⟩, hhi⟩, rfl⟩
  · simp only [List.mem_flatMap, List.mem_map, List.mem_filter, Bool.and_eq_true, Bool.not_eq_true', beq_iff_eq]
    constructor
    · rintro ⟨o, ⟨ho, hsup, hla⟩, y, ⟨hy, hin⟩, rfl⟩
      exact ⟨o, ho, hsup, hla, y, hy, hin, rfl⟩
    · rintro ⟨o, ho, hsup, hla, y, hy, hin, rfl⟩
      exact ⟨o, ⟨ho, hsup, hla⟩, y, ⟨hy, hin⟩, rfl⟩
  · rw [mem_tlb_mapCores (fun _ => rfl) rfl]
    simp

theorem rangesMeet_iff {lo n a k : Nat} : rangesMeet lo n a k = true ↔ ¬ (a + k ≤ lo ∨ lo + n ≤ a) := by
  simp only [rangesMeet, Bool.and_eq_true, decide_eq_true_eq]
  omega

theorem shotPast_copy {x : Shot} {o : Op} {y : CopyArg} (ho : opAt s x.op = some o) (hk : o.kind = .copy y) :
    shotPast s x = ((s.posted.all fun p => p.op != x.op || !rangesMeet x.va x.bytes p.page.1 p.page.2)
      && (o.accepted && o.parts.all fun a => a.st != 0 || !(partOn x a || metaOn x y a))) := by
  simp only [shotPast, ho, hk]

theorem partOn_iff {x : Shot} {a : Part} : partOn x a = true ↔ ¬ (a.gva + a.len ≤ x.va ∨ x.va + x.bytes ≤ a.gva) := rangesMeet_iff

/-- A shot is past once no posted write of its operation is under way and its COPY, if it runs still, has no open part on the pages. -/
theorem shotPast_of_apart {x : Shot} (hposts : ∀ p ∈ s.posted, p.op ≠ x.op)
    (hop : ∀ o, opAt s x.op = some o → ∃ y, o.kind = .copy y ∧ y.xp = false ∧ o.accepted = true
      ∧ ∀ a ∈ o.parts, a.st ≠ 0 ∨ (a.gva + a.len ≤ x.va ∨ x.va + x.bytes ≤ a.gva)) : shotPast s x = true := by
  have hp : (s.posted.all fun p => p.op != x.op || !rangesMeet x.va x.bytes p.page.1 p.page.2) = true := by
    simp only [List.all_eq_true, Bool.or_eq_true, bne_iff_ne]
    exact fun p hpost => .inl (hposts p hpost)
  cases ho : opAt s x.op with
  | none => simp only [shotPast, hp, ho, Bool.and_self]
  | some o =>
    obtain ⟨y, hk, hxp, hacc, hparts⟩ := hop o ho
    rw [shotPast_copy ho hk, hp, hacc, Bool.true_and, Bool.true_and, List.all_eq_true]
    intro a ha
    have hmeta : metaOn x y a = false := by simp [metaOn, hxp]
    rcases hparts a ha with hst | hapart
    · simp [hst]
    · have hoff : partOn x a = false := by
        rw [← Bool.not_eq_true, partOn_iff, not_not]
        exact hapart
      simp [hmeta, hoff]

theorem not_shotPast_of_open {x : Shot} {o : Op} {y : CopyArg} (ho : opAt s x.op = some o) (hk : o.kind = .copy y) {a : Part}
    (ha : a ∈ o.parts) (hst : a.st = 0) (hon : ¬ (a.gva + a.len ≤ x.va ∨ x.va + x.bytes ≤ a.gva)) : shotPast s x = false := by
  have hpart : (o.parts.all fun a => a.st != 0 || !(partOn x a || metaOn x y a)) = false := by
    rw [List.all_eq_false]
    exact ⟨a, ha, by simp [hst, partOn_iff.mpr hon]⟩
  rw [shotPast_copy ho hk, hpart, Bool.and_false, Bool.and_false]

theorem postedAny_iff {ids : List Nat} : postedAny s ids = true ↔ ∃ p ∈ s.posted, p.id ∈ ids := by
  simp [postedAny]

theorem shootdownDone_ends (hdone : s.hub.shootDone = false) (hpost : ∀ p ∈ s.posted, p.id ∉ s.hub.shootPosts)
    (hpast : ∀ x ∈ s.hub.shootOps, shotPast s x = true) :
    exec .shootdownDone s = .next { s with hub := { s.hub with shootDone := true, shootOps := [], shootPosts := [] } } := by
  have hall : s.hub.shootOps.all (shotPast s) = true := List.all_eq_true.mpr hpast
  have hnone : postedAny s s.hub.shootPosts = false := by
    rw [← Bool.not_eq_true, postedAny_iff]
    rintro ⟨p, hp, hid⟩
    exact hpost p hp hid
  simp [exec, execShootdownDone, hdone, hall, hnone]

theorem shootdownDone_waits_for_shot {x : Shot} (hx : x ∈ s.hub.shootOps) (hopen : shotPast s x = false) :
    exec .shootdownDone s = .next s := by
  have hall : s.hub.shootOps.all (shotPast s) = false := List.all_eq_false.mpr ⟨x, hx, by simp [hopen]⟩
  simp [exec, execShootdownDone, hall]

theorem shootdownDone_waits_for_post (h : ∃ p ∈ s.posted, p.id ∈ s.hub.shootPosts) : exec .shootdownDone s = .next s := by
  simp [exec, execShootdownDone, postedAny_iff.mpr h]

/-! ### Debug and fault registers (R397, R398, R407, R425) -/

theorem haltrGo_next {c : Nat} (hc : c < 256) : exec (.haltrGo c w) s = .next (s.modCore c fun k => { k with
    dbg := { k.dbg with haltr := BitVec.ofNat 32 (w % 2 ^ 11), step := BitVec.ofNat 32 (w / 2 ^ 32 % 2 ^ 9) }
    dbgDue := some (k.dbgDue.getD (s.cycle + 256)), haltDue := w.testBit 10 }) := by
  have hc' : ¬ Config.nCores ≤ c := by unfold Config.nCores; omega
  have hlow : field w 10 0 = w % 2 ^ 11 := by simp [field]
  simp only [exec, execHaltrGo, State.writeHaltr, if_neg hc', hlow, Sheaves.bitAt_eq_testBit]
  rfl

/-! ### Registers by address (R366) -/

theorem registerWrite_svroot :
    exec (.registerWrite 0x40000 w) s = .next { s with hub := { s.hub with svroot := BitVec.ofNat 64 (w % 2 ^ 44) } } := by
  have hlow : field w 43 0 = w % 2 ^ 44 := by simp [field]
  rw [← hlow]
  rfl

/-- The value of mailbox `m` stands at 0x10000 + 16 m, its full bit 8 bytes on. -/
theorem writeHub_mailbox {d : Nat} (hm : m < 4096) (hd : d = 0 ∨ d = 8) :
    s.writeHub (0x10000 + 0x10 * m + d) w = s.writeMbox m (d == 8) w := by
  have halign : ¬ (0x10000 + 0x10 * m + d) % 8 ≠ 0 := by omega
  have hfeature : ¬ 0x10000 + 0x10 * m + d < 0x1000 := by omega
  have hqueue : ¬ 0x10000 + 0x10 * m + d < 0x5000 := by omega
  have hmbox : (decide (0x10000 ≤ 0x10000 + 0x10 * m + d) && decide (0x10000 + 0x10 * m + d < 0x20000)) = true := by
    rw [Bool.and_eq_true, decide_eq_true_eq, decide_eq_true_eq]
    omega
  have hnumber : (0x10000 + 0x10 * m + d - 0x10000) / 0x10 = m := by omega
  have hhalf : (0x10000 + 0x10 * m + d) % 0x10 = d := by omega
  rw [State.writeHub, if_neg halign, if_neg hfeature, if_neg hqueue, if_pos hmbox, hnumber, hhalf]

/-! ### Attestation (R425) -/

theorem runFault_svc (v : Service) (write : Bool) (fuel p len off : Nat) :
    runFault { s with svc := v } write fuel p len off = runFault s write fuel p len off := by
  induction fuel generalizing p len off with
  | zero => rfl
  | succ fuel ih =>
    simp only [runFault, ih]
    rfl

theorem busCells_svc (v : Service) (cs : List Host.Cell) : busCells { s with svc := v } cs = busCells s cs := by
  have hwrite (a : Nat) : mayWrite { s with svc := v } a 1 = mayWrite s a 1 := by rw [mayWrite, runFault_svc, mayWrite]
  simp only [busCells, hwrite]
  rfl

theorem shiftCells_numbered (a : Nat) (bs : List Byte) : shiftCells a (numbered bs) = bs.mapIdx fun j b => (a + j, b) := by
  apply List.ext_getElem <;> simp [shiftCells, numbered]

theorem foldl_append_flatMap {α β : Type} (f : α → List β) (l : List α) (acc : List β) :
    l.foldl (fun acc x => acc ++ f x) acc = acc ++ l.flatMap f := by
  induction l generalizing acc with
  | nil => simp
  | cons x l ih => simp [ih]

/-- The bytes of the report, as software finds them. -/
def report (s : State) : List Byte := attHeader s (attHeads s).length ++ (attHeads s).flatMap (attEntry s.svc.attnonce)

theorem attreqGo_notes (hw : w.testBit 63 = false) :
    exec (.attreqGo w) s = .next { s with svc := { s.svc with attreq := BitVec.ofNat 64 (w % 2 ^ 44) } } := by
  have hlow : field w 43 0 = w % 2 ^ 44 := by simp [field]
  simp [exec, execAttreqGo, State.writeAttreq, Sheaves.bitAt_eq_testBit, hw, hlow]

theorem attreqGo_reports (hw : w.testBit 63 = true) : ∃ s', exec (.attreqGo w) s = .next s'
    ∧ s'.svc.attreq = BitVec.ofNat 64 (w % 2 ^ 44) ∧ s'.svc.attSeq = s.svc.attSeq + 1 ∧ s'.hub.nlatch = s.hub.nlatch ||| (1#64 <<< 62)
    ∧ s'.mem = (s.storeCells ((((report s).mapIdx fun j b => (w % 2 ^ 44 + j, b)).filter fun x => mayWrite s x.1 1).map fun x =>
        (busAt s x.1, x.2))).mem := by
  have hlow : field w 43 0 = w % 2 ^ 44 := by simp [field]
  refine ⟨s.writeAttreq w, rfl, ?_⟩
  simp only [State.writeAttreq, Sheaves.bitAt_eq_testBit, hw, hlow, Bool.not_true, Bool.false_eq_true, if_false, busCells_svc,
    shiftCells_numbered, foldl_append_flatMap, List.nil_append]
  exact ⟨rfl, rfl, rfl, rfl⟩

/-! ### Accesses of system cores (R383, R384) -/

theorem systemAccess_memory {a n : Nat} (hr : readable s a n = true) (hhub : a < hubBase ∨ hubBase + 2 ^ 24 ≤ a) (ha : a < 2 ^ 44)
    (store : Bool) : s.systemAccess store a n w =
      if store then (if mayWrite s a n then ((s.storeN (busAt s a) n w).inertWaits a).settleWaits else s)
      else readInto s (memRead s.mem (busAt s a) n) := by
  have hout : (decide (hubBase ≤ a) && decide (a < hubBase + 2 ^ 24)) = false := by
    rw [← Bool.not_eq_true, Bool.and_eq_true, decide_eq_true_eq, decide_eq_true_eq]
    omega
  have hpeer : (decide (peerBase ≤ a) && decide (a < peerBase + 8 * 4096)) = false := by
    rw [← Bool.not_eq_true, Bool.and_eq_true, decide_eq_true_eq, decide_eq_true_eq, peerBase]
    omega
  simp only [State.systemAccess, hout, hpeer, hr, Bool.not_true, Bool.false_eq_true, if_false]

theorem systemAccess_peer {i : Nat} (hi : i < 4096) : s.systemAccess true (2 ^ 44 + 8 * i) 8 w = s.writePeer i w := by
  have hout : ¬ (decide (hubBase ≤ 2 ^ 44 + 8 * i) && decide (2 ^ 44 + 8 * i < hubBase + 2 ^ 24)) = true := by
    rw [Bool.and_eq_true, decide_eq_true_eq, decide_eq_true_eq, hubBase]
    omega
  have hpeer : (decide (peerBase ≤ 2 ^ 44 + 8 * i) && decide (2 ^ 44 + 8 * i < peerBase + 8 * 4096)) = true := by
    rw [Bool.and_eq_true, decide_eq_true_eq, decide_eq_true_eq, peerBase]
    omega
  have halign : ¬ (decide (8 ≠ 8) || decide ((2 ^ 44 + 8 * i) % 8 ≠ 0)) = true := by
    rw [Bool.or_eq_true, decide_eq_true_eq, decide_eq_true_eq]
    omega
  have hnumber : (2 ^ 44 + 8 * i - peerBase) / 8 = i := by rw [peerBase]; omega
  rw [State.systemAccess, if_neg hout, if_pos hpeer, if_neg halign, if_pos rfl, hnumber]

theorem writePeer_set {i : Nat} (hw : w.testBit 63 = true) : s.writePeer i w = { s with hub := { s.hub with
    peers := tblPut s.hub.peers i (w % 2 ^ 16, w / 2 ^ 16 % 2 ^ 16) } } := by
  have hlow : field w 15 0 = w % 2 ^ 16 := by simp [field]
  simp only [State.writePeer, Sheaves.bitAt_eq_testBit, hw, hlow, if_true]
  rfl

theorem writePeer_clear {i : Nat} (hw : w.testBit 63 = false) : s.writePeer i w = { s with hub := { s.hub with
    peers := s.hub.peers.filter fun x => x.1 != i } } := by
  simp [State.writePeer, Sheaves.bitAt_eq_testBit, hw]

theorem ptpLockRegained_next (h : s.hub.offsetSet = true) : exec .ptpLockRegained s = .next { s with
    hub := { s.hub with locked := true }, svc := { s.svc with holdover := none } } := by
  simp [exec, execPtpLockRegained, h]

theorem plinthDlmax_next (h : s.sub = 0) : exec (.plinthParameterWrite .dlmax w) s = .next (startSlices { s with
    hub := { s.hub with plinth := { s.hub.plinth with dlmax := max 1024 (min (2 ^ 48) w) } } }).settleGran := by
  have hnow : ¬ s.sub = 1 := by omega
  simp only [exec, execPlinthParameterWrite, if_neg hnow]
  rfl

theorem qtailWrite_next {q : Nat} (hq : q < 256) :
    let x := queueAt s q
    let ahead (t : Nat) : Nat := (t + 2 ^ 32 - x.head) % 2 ^ 32
    exec (.qtailWrite q w) s = .next (s.setQueue q
      (if 2 ^ x.log2n < ahead (w % 2 ^ 32) ∨ ahead (w % 2 ^ 32) < ahead x.tail then { x with err := true, errAt := some s.time }
      else { x with tail := w % 2 ^ 32 })) := by
  have hq' : ¬ 256 ≤ q := by omega
  dsimp only
  rw [apply_ite (s.setQueue q)]
  simp only [exec, execQtailWrite, State.writeTail, if_neg hq', Bool.or_eq_true, decide_eq_true_eq]

/-! ### The statement -/

/-- Settles O52: a clause per register, each by the lemma on its write. -/
theorem hubRegistersAct : Obligations.HubRegistersAct := by
  unfold Obligations.HubRegistersAct
  intro s w
  dsimp only
  refine ⟨rfl, rfl, rfl, rfl, ptpFirstLock_next, rfl, ptpLockRegained_next, fun d hd h => clockHoldoverExpiry_next hd h,
    plinthDlmax_next, featureGo_next,
    fun m hm => ⟨fun hat hlate => ⟨mailboxWrite_free hm hat hlate false, fun he => ?_, fun hf hc => ?_⟩,
      fun h full => mailboxWrite_late hm h full⟩,
    fun q hq => qtailWrite_next hq, fun m hm o ho hu hk hf => ?_, fun m hm hf => kickWrite_drops hm hf,
    fun m hm => kstatRead_next hm, fun hdone hw => ?_, fun hdone hpost => ⟨fun hpast => ?_, ?_⟩,
    fun _ h => shootdownDone_waits_for_post h, fun c hc => haltrGo_next hc, fun c => rfl, fun c => rfl, registerWrite_svroot, rfl,
    rfl, fun m hm => ⟨?_, ?_⟩, attreqGo_notes, attreqGo_reports, fun a n hr hhub ha => ⟨?_, ?_⟩,
    fun i hi => ⟨fun hw => ?_, fun hw => ?_⟩, rfl⟩
  · rw [mailboxWrite_free hm hat hlate, changeMbox_empty he]
    rfl
  · rw [mailboxWrite_free hm hat hlate, changeMbox_full hf hc]
    rfl
  · obtain ⟨s', hs', hmem, hslot⟩ := kickWrite_enters (w := w) hm ho hu hk hf
    exact ⟨s', hs', _, by rw [hslot], rfl, by rw [hslot], hmem, by rw [hslot]⟩
  · have hlaunch : field w 15 0 = w % 2 ^ 16 := by simp [field]
    have hcount : field w 47 16 * 65536 = w / 2 ^ 16 % 2 ^ 32 * 65536 := rfl
    obtain ⟨hdone', hla, hposts, hops, htlb⟩ := writeShoot_spec hlaunch rfl hcount hdone hw
    exact ⟨s.writeShoot w, rfl, hdone', hla, hposts, by simpa only [inShoot_iff] using hops, by simpa only [inShoot_iff] using htlb⟩
  · exact shootdownDone_ends hdone hpost fun x hx => shotPast_of_apart (hpast x hx).1 (hpast x hx).2
  · rintro ⟨x, hx, o, y, ho, hk, a, ha, hst, hon⟩
    exact shootdownDone_waits_for_shot hx (not_shotPast_of_open ho hk ha hst hon)
  · exact congrArg Host.Outcome.next (writeHub_mailbox hm (.inl rfl))
  · have haddr : 0x10008 + 0x10 * m = 0x10000 + 0x10 * m + 8 := by omega
    rw [haddr]
    exact congrArg Host.Outcome.next (writeHub_mailbox hm (.inr rfl))
  · exact congrArg Host.Outcome.next (systemAccess_memory hr hhub ha false)
  · exact congrArg Host.Outcome.next (systemAccess_memory hr hhub ha true)
  · exact congrArg Host.Outcome.next ((systemAccess_peer hi).trans (writePeer_set hw))
  · exact congrArg Host.Outcome.next ((systemAccess_peer hi).trans (writePeer_clear hw))

end Sys2Proof.HubRegs
end

section
/-! Proofs for the family of traps, the front end and the service: packets. The statement about them fails at MQLOAD. -/

namespace Sys2Proof.Packets

open Sys2Proof Machine

variable {s : State} {id : Nat} {p : Packet}

theorem packetAt_id (h : packetAt s id = some p) : p.id = id := by
  simpa using List.find?_some h

theorem startedPk_eq {op : Nat} (hp : packetAt s s.ix = some p) (hst : p.stage = .started) (hop : pkOp p.ws = op) :
    startedPk s s.ix op = some p := by
  simp [startedPk, hp, hst, hop]

/-- MQLOAD (R385) writes the launch that its own packet names into every packet of its number. -/
theorem mqload_next {o : Maq} (hp : packetAt s s.ix = some p) (hst : p.stage = .started) (hop : pkOp p.ws = 2)
    (hslot : (maqAt s (pkSlot p.ws)).obj = none) (hlive : liveLaunch s (field (pkWord p.ws 6) 15 0) = true)
    (ho : readMaq s (pkWord p.ws 5) (field (pkWord p.ws 6) 15 0) = some o) :
    exec .mqload s = .next (((s.modPacket s.ix fun y => { y with launch := field (pkWord p.ws 6) 15 0 }).setMaq (pkSlot p.ws)
      { maqAt s (pkSlot p.ws) with obj := some o }).finishPk s.ix .done 0) := by
  simp only [exec, execMqload, startedPk_eq hp hst hop, hslot, hlive, ho, packetAt_id hp, Option.isSome_none,
    Bool.not_true, Bool.false_eq_true, if_false]

/-- An MQLOAD into slot 0 for `launch`, of the Maquette at 0x1000; it stands as packet 0. -/
def mqload (launch : Nat) : Packet :=
  ⟨0, 0, [0x102, 0, 0, 0, 0, 0x1000, BitVec.ofNat 64 launch], .started, .done, 0, 0, none, false, 0, 0, 0, 0⟩

/-- The header of a Maquette of one task, with room for one live copy and its task 64 bytes on. -/
def maqHeader : Nat := 0x5551414D + 2 ^ 32 + 2 ^ 48 + 2 ^ 64 + 64 * 2 ^ 128

/-- A live launch, number 1, that holds the queues 0 and 3. -/
def running : Launch := ⟨1, imageOf 0x40 0, 0, 0x1000, 1, 0, false, 1, 0, 0, 0, 9, 1, 0, 0, false, false⟩

/-- Two packets of number 0, whose words name the launches 1 and 2. -/
def twins : State := { State.reset.store 0x1000 (leBytes 64 maqHeader) with
  launches := [running], hub := { Hub.reset with packets := [mqload 1, mqload 2], nextPk := 1, fagr := 0x1FF } }

/-- The Maquette that MQLOAD reads there. -/
def maqRead : Maq := ⟨1, 1, [List.replicate 8 0], [], 0, [], 0, [], none⟩

theorem readMaq_twins : readMaq twins 0x1000 1 = some maqRead := by decide +kernel

/-- The launches that the packets of a state name. -/
def named (t : State) : List Nat := t.hub.packets.map (·.launch)

/-- Refutes O47: its clause on MQLOAD lets every packet of the started one's number name the launch of its own words, where the
machine writes the launch of the started packet into all of them. In `twins` two packets share number 0: MQLOAD leaves both
at launch 1, and the clause asks for launch 2 in the second. The statement has no hypothesis that numbers are distinct. -/
theorem not_packetsAreCarriedOut : ¬ Obligations.PacketsAreCarriedOut := by
  unfold Obligations.PacketsAreCarriedOut
  intro h
  obtain ⟨-, -, hpacket⟩ := h twins
  obtain ⟨-, -, -, -, -, hmqload, -⟩ := hpacket (mqload 1) rfl
  have hslot : (maqAt twins 0).obj = none := rfl
  have hlive : liveLaunch twins 1 = true := by decide
  have hsaid := hmqload ⟨rfl, rfl⟩ hslot hlive maqRead readMaq_twins
  have hdone := mqload_next (s := twins) (p := mqload 1) rfl rfl rfl hslot hlive readMaq_twins
  have hnames := congrArg named (Host.Outcome.next.inj (hdone.symm.trans hsaid))
  exact absurd hnames (by decide +kernel)

end Sys2Proof.Packets
end

section
/-! Proofs for the family of traps, the front end and the service: soft errors, retirement, spares, lanes, telemetry and the
hand-over of firmware. -/

namespace Sys2Proof.Service

open Sys2Proof Machine

variable {s : State} {c unit : Nat}

/-! ### Log records (R417, R418) -/

/-- A record that finds the ring full is counted and dropped. -/
theorem logRec_of_full (h : 4096 < (s.svc.slptr + 1 + 2 ^ 32 - s.svc.slrd) % 2 ^ 32) (kind unit launch data : Nat) :
    s.logRec kind unit launch data = { s with svc := { s.svc with slseq := s.svc.slseq + 1 } } := by
  rw [State.logRec, if_pos h]

theorem logRec_of_room (h : ¬ 4096 < (s.svc.slptr + 1 + 2 ^ 32 - s.svc.slrd) % 2 ^ 32) (kind unit launch data : Nat) :
    s.logRec kind unit launch data =
      { s.busStore (s.svc.slbase + 32 * (s.svc.slptr % 4096)) 32 (logBits s kind unit launch data) with
        svc := { s.svc with slseq := s.svc.slseq + 1, slptr := (s.svc.slptr + 1) % 2 ^ 32 }
        hub := { s.hub with nlatch := s.hub.nlatch ||| (1#64 <<< 60) } } := by
  rw [State.logRec, if_neg h]

/-- A record changes the number and the place of the next one, and nothing else of the service. -/
theorem logRec_svc (s : State) (kind unit launch data : Nat) : ∃ ptr, (s.logRec kind unit launch data).svc =
    { s.svc with slseq := s.svc.slseq + 1, slptr := ptr } := by
  by_cases h : 4096 < (s.svc.slptr + 1 + 2 ^ 32 - s.svc.slrd) % 2 ^ 32
  · exact ⟨s.svc.slptr, by rw [logRec_of_full h]⟩
  · exact ⟨_, by rw [logRec_of_room h]⟩

/-! ### Retirement asked for (R394, R420) -/

/-- A sparing decision of core `c` is asked for through bit CFG. -/
def decided (s : State) (c : Nat) (hard : Bool) : State :=
  (s.modCore c fun k => { k with retireWant := some hard }).notify (1#64 <<< 63)

theorem wantRetire_soft : s.wantRetire c false = if (s.core c).retireWant = none then decided s c false else s := by
  unfold State.wantRetire decided
  cases (s.core c).retireWant <;> rfl

theorem wantRetire_hard : s.wantRetire c true = if (s.core c).retireWant = some true then s else decided s c true := by
  unfold State.wantRetire decided
  rcases (s.core c).retireWant with _ | _ | _ <;> rfl

theorem wantRetire_core (hc : c < s.cores.length) (hard : Bool) :
    ∃ w, (s.wantRetire c hard).core c = { s.core c with retireWant := w } := by
  unfold State.wantRetire
  dsimp only
  split
  · exact ⟨some hard, Sheaves.core_modCore (f := fun k => { k with retireWant := some hard }) hc⟩
  · exact ⟨_, rfl⟩

theorem wantRetire_mem (hard : Bool) : (s.wantRetire c hard).mem = s.mem := Canonical.wantRetire_mem ..

/-! ### Corrected errors (R419) -/

theorem pastThreshold_iff (k : Core) : pastThreshold k = true ↔ Config.retireAt < (k.corrected.map (·.2)).sum := by
  have hsum (l : List (Nat × Nat)) (n : Nat) : l.foldl (fun n x => n + x.2) n = n + (l.map (·.2)).sum := by
    induction l generalizing n with
    | nil => rfl
    | cons x l ih => simp [ih, Nat.add_assoc]
  rw [pastThreshold, hsum, Nat.zero_add, decide_eq_true_eq]

/-- The state with one more corrected error of memory `m` in the count of core `c`. -/
def counted (s : State) (c : Nat) (m : ErrMem) : State :=
  s.modCore c fun k => { k with corrected := tblPut k.corrected (memCode m) (tblGet (s.core c).corrected (memCode m) 0 + 1) }

theorem countError_eq {m : ErrMem} (hm : m ≠ .hbm) (hn : (tblGet (s.core c).corrected (memCode m) 0 + 1) % 256 ≠ 0) :
    s.countError c m = if pastThreshold ((counted s c m).core c) then (counted s c m).wantRetire c false else counted s c m := by
  have hm' : (m == ErrMem.hbm) = false := by simpa using hm
  simp only [State.countError, hm', Bool.false_eq_true, if_false, if_neg hn]
  rfl

theorem counted_core (hc : c < s.cores.length) (m : ErrMem) : (counted s c m).core c = { s.core c with
    corrected := tblPut (s.core c).corrected (memCode m) (tblGet (s.core c).corrected (memCode m) 0 + 1) } := Sheaves.core_modCore hc

theorem singleBitError_registers (hc : unit < s.cores.length) (hn : (tblGet (s.core unit).corrected 0 0 + 1) % 256 ≠ 0) :
    let counts := tblPut (s.core unit).corrected 0 (tblGet (s.core unit).corrected 0 0 + 1)
    exec (.singleBitError unit .registers) s = .next
      (if Config.retireAt < (counts.map (·.2)).sum ∧ (s.core unit).retireWant = none then
        decided (counted s unit .registers) unit false
      else counted s unit .registers) := by
  have hcore := counted_core hc .registers
  have hwant : ((counted s unit .registers).core unit).retireWant = (s.core unit).retireWant := by rw [hcore]
  have hcounts : ((counted s unit .registers).core unit).corrected =
      tblPut (s.core unit).corrected 0 (tblGet (s.core unit).corrected 0 0 + 1) := by rw [hcore]; rfl
  change Host.Outcome.next (s.countError unit .registers) = _
  rw [countError_eq (by decide) hn, wantRetire_soft, hwant]
  simp only [pastThreshold_iff, hcounts, ite_and]

/-! ### Uncorrected errors (R419, R420) -/

theorem doubleBitError_slice (hop : opAt s 0 = none) : exec (.doubleBitError unit .slice 0) s = .next
    ((if ((s.killTeam unit).core unit).retireWant = some true then s.killTeam unit else decided (s.killTeam unit) unit true).logRec
      2 unit (((s.core unit).team.map (·.launch)).getD 0) 1) := by
  change Host.Outcome.next _ = _
  rw [State.doubleError, ← wantRetire_hard, victimLaunch]
  simp only [hop]
  rfl

/-! ### A word fetched again (R419) -/

theorem ifetchParityError_next {is : Issue} (his : (s.core c).issue = some is) (hsl : is.slots ≠ [])
    (hr : (s.core c).refetch = none) : exec (.ifetchParityError c) s = .next (s.modCore c fun k => { k with
      refetch := some (is.sup, is.hdr + is.widx, s.cycle + 2048) }) := by
  have hnext : nextWordOf s c = some (is.sup, is.hdr + is.widx) := by simp [nextWordOf, his, hsl]
  change Host.Outcome.next (s.startRefetch c) = _
  rw [State.startRefetch, hnext]
  simp only [State.modCore, hr, Option.isSome_none, Bool.false_eq_true, if_false]

theorem wordAt_putWordAt {k : Core} {sup : Bool} {ix : Nat} (h : ix < (codeOf k sup).length) (w : Quad) :
    wordAt (putWordAt sup ix w k) sup ix = w := by
  cases sup with
  | false =>
    have h' : ix < k.code.length := h
    simp [wordAt, putWordAt, codeOf, h']
  | true =>
    cases hk : k.sup with
    | none => simp [codeOf, hk] at h
    | some x =>
      have h' : ix < x.code.length := by simpa [codeOf, hk] using h
      simp [wordAt, putWordAt, codeOf, hk, h']

/-- A word put into the code changes neither threads nor counts nor the word at issue. -/
theorem putWordAt_frame (sup : Bool) (ix : Nat) (w : Quad) (k : Core) : (putWordAt sup ix w k).refetch = k.refetch
    ∧ (putWordAt sup ix w k).corrected = k.corrected ∧ (putWordAt sup ix w k).threads = k.threads
    ∧ (putWordAt sup ix w k).issue = k.issue := by
  cases sup <;> exact ⟨rfl, rfl, rfl, rfl⟩

theorem lt_of_imageWordAt {sup : Bool} {ix a : Nat} (h : imageWordAt s c sup ix = some a) : ix < (codeOf (s.core c) sup).length := by
  by_contra hlt
  simp [imageWordAt, not_lt.mp hlt] at h

/-- An error counted short of 256 changes the core's count, and may ask for its retirement. -/
theorem countError_core {m : ErrMem} (hm : m ≠ .hbm) (hc : c < s.cores.length)
    (hn : (tblGet (s.core c).corrected (memCode m) 0 + 1) % 256 ≠ 0) : (s.countError c m).mem = s.mem
      ∧ ∃ w, (s.countError c m).core c = { s.core c with
          corrected := tblPut (s.core c).corrected (memCode m) (tblGet (s.core c).corrected (memCode m) 0 + 1), retireWant := w } := by
  have hcore := counted_core hc m
  have hlen : c < (counted s c m).cores.length := by simpa [counted, State.modCore, State.withCore] using hc
  rw [countError_eq hm hn]
  split
  · obtain ⟨w, hw⟩ := wantRetire_core hlen false
    exact ⟨wantRetire_mem false, w, by rw [hw, hcore]⟩
  · exact ⟨rfl, _, hcore⟩

theorem ifetchRefetchComplete_good {sup : Bool} {ix d a : Nat} (hr : (s.core c).refetch = some (sup, ix, d))
    (ha : imageWordAt s c sup ix = some a) (hread : readable s a 8 = true) (hc : c < s.cores.length)
    (hn : (tblGet (s.core c).corrected 3 0 + 1) % 256 ≠ 0) :
    ∃ s', exec (.ifetchRefetchComplete c true) s = .next s' ∧ (s'.core c).refetch = none ∧ s'.mem = s.mem
      ∧ wordAt (s'.core c) sup ix = BitVec.ofNat 64 (busRead s a 8)
      ∧ (s'.core c).corrected = tblPut (s.core c).corrected 3 (tblGet (s.core c).corrected 3 0 + 1)
      ∧ (s'.core c).threads = (s.core c).threads ∧ (s'.core c).issue = (s.core c).issue := by
  let k : Core := { s.core c with refetch := none }
  let w : Quad := BitVec.ofNat 64 (busRead s a 8)
  have hlt : ix < (codeOf k sup).length := lt_of_imageWordAt ha
  obtain ⟨hpr, hpc, hpt, hpi⟩ := putWordAt_frame sup ix w k
  have hs2 : (s.modCore c fun k => { k with refetch := none }).modCore c (putWordAt sup ix w) = s.withCore c (putWordAt sup ix w k) := by
    simp only [State.modCore, State.core_withCore _ _ _ hc, State.withCore_withCore, k]
  have hk2 : (s.withCore c (putWordAt sup ix w k)).core c = putWordAt sup ix w k := State.core_withCore _ _ _ hc
  have hlen : c < (s.withCore c (putWordAt sup ix w k)).cores.length := by simpa [State.withCore] using hc
  have hn2 : (tblGet ((s.withCore c (putWordAt sup ix w k)).core c).corrected (memCode .instructionStore) 0 + 1) % 256 ≠ 0 := by
    rw [hk2, hpc]
    exact hn
  obtain ⟨hmem, v, hcore⟩ := countError_core (by decide) hlen hn2
  refine ⟨(s.withCore c (putWordAt sup ix w k)).countError c .instructionStore, ?_, ?_, hmem, ?_, ?_, ?_, ?_⟩
  · simp only [exec, execIfetchRefetchComplete, hr, ha, hread, Bool.and_self, if_true]
    rw [hs2]
  all_goals rw [hcore, hk2]
  · exact hpr
  · exact wordAt_putWordAt (k := k) hlt w
  · rw [hpc]
    rfl
  · exact hpt
  · exact hpi

theorem ifetchRefetchComplete_bad {sup ok : Bool} {ix d a : Nat} (hr : (s.core c).refetch = some (sup, ix, d))
    (ha : imageWordAt s c sup ix = some a) (hbad : ok = false ∨ readable s a 8 = false) :
    exec (.ifetchRefetchComplete c ok) s = .next (((s.modCore c fun k => { k with refetch := none }).killTeam c).logRec 2 c
      (((s.core c).team.map (·.launch)).getD 0) 3) := by
  have hstop : (ok && readable s a 8) = false := by rcases hbad with h | h <;> simp [h]
  simp only [exec, execIfetchRefetchComplete, hr, ha, hstop, Bool.false_eq_true, if_false]
  rfl

/-! ### Retirement and spares (R420 to R423) -/

theorem coreRetirement_free {hard : Bool} (hw : (s.core c).retireWant = some hard) (hoff : (s.core c).offline = false)
    (ht : (s.core c).team = none) (hpre : (s.core c).pre = none) : exec (.coreRetirement c hard) s = .next (s.retireFree c 0) := by
  simp [exec, execCoreRetirement, hw, hoff, ht, hpre]

theorem coreRetirement_unasked {hard : Bool} (hw : (s.core c).retireWant ≠ some hard) : exec (.coreRetirement c hard) s = .next s := by
  simp [exec, execCoreRetirement, hw]

theorem hbmRowSpare_next (st ch bank row : Nat) :
    let used := s.svc.rowSpares.filter fun x => x.1 == st && x.2.1 == ch && x.2.2.1 == bank
    exec (.hbmRowSpare st ch bank row) s = .next (if used.length < 4 ∧ (∀ x ∈ used, x.2.2.2 ≠ row) then
      ({ s with svc := { s.svc with rowSpares := s.svc.rowSpares ++ [(st, ch, bank, row)] } } : State).logRec 5 (st * 32 + ch) 0
        (bank % 2 ^ 8 + row % 2 ^ 32 * 2 ^ 8) else s) := by
  intro used
  have hiff : (decide (4 ≤ used.length) || used.any fun x => x.2.2.2 == row) = true ↔
      ¬ (used.length < 4 ∧ ∀ x ∈ used, x.2.2.2 ≠ row) := by
    simp only [Bool.or_eq_true, decide_eq_true_eq, List.any_eq_true, beq_iff_eq, not_and_or, not_lt, not_forall, not_not, exists_prop]
  change Host.Outcome.next (if (decide (4 ≤ used.length) || used.any fun x => x.2.2.2 == row) = true then s else _) = _
  rw [← ite_not]
  simp only [hiff, not_not]

section Channels

variable {st ch : Nat} (hst : st < 8) (hch : ch < 32)

include hst hch

theorem hbmChannelSpare_first (h : ∀ x ∈ s.svc.chanSpare, x.1 ≠ st) : exec (.hbmChannelSpare st ch) s = .next
    (({ s with svc := { s.svc with chanSpare := tblPut s.svc.chanSpare st ch } } : State).logRec 6 (st * 32 + ch) 0 0) := by
  have hgo : ((s.svc.chanSpare.any fun x => x.1 == st) || decide (8 ≤ st) || decide (32 ≤ ch)) = false := by
    simpa [hst, hch] using h
  simp only [exec, execHbmChannelSpare, hgo, Bool.false_eq_true, if_false]

theorem hbmChannelSpare_again (h : ∃ x ∈ s.svc.chanSpare, x.1 = st) (hne : tblGet s.svc.chanSpare st 32 ≠ ch)
    (hbad : (st, ch) ∉ s.svc.badChans) : exec (.hbmChannelSpare st ch) s = .next
      { s with svc := { s.svc with badChans := s.svc.badChans ++ [(st, ch)] } } := by
  have hused : (s.svc.chanSpare.any fun x => x.1 == st) = true := by simpa using h
  have hnew : (decide (8 ≤ st) || decide (32 ≤ ch) || decide (tblGet s.svc.chanSpare st 32 = ch) || s.svc.badChans.contains (st, ch)) =
      false := by
    simp [hst, hch, hne, hbad]
  simp only [exec, execHbmChannelSpare, hused, Bool.true_or, if_true, hnew, Bool.false_eq_true, if_false]

end Channels

/-! ### Lanes (R424) -/

theorem laneFailure_next {port half : Nat} (hp : portExists s port half = true) (hn : 1 < lanesOf s port half) :
    exec (.laneFailure port half) s = .next (watchPorts (({ s with svc := { s.svc with
      lanes := tblPut s.svc.lanes (2 * port + half) (lanesOf s port half / 2)
      retrain := tblPut s.svc.retrain (2 * port + half) (s.time + 12000000) } } : State).logRec 7 (2 * port + half) 0
        (lanesOf s port half / 2))) := by
  have hgo : (!portExists s port half || decide (lanesOf s port half ≤ 1)) = false := by simp [hp, hn]
  simp only [exec, execLaneFailure, hgo, Bool.false_eq_true, if_false]
  rfl

theorem laneRestore_next {port half n : Nat} (hp : portExists s port half = true) (hlt : lanesOf s port half < n) (hle : n ≤ maxLanes s)
    (hn : n = 2 ∨ n = 4) : exec (.laneRestore port half n) s = .next (({ s with svc := { s.svc with
      lanes := tblPut s.svc.lanes (2 * port + half) n } } : State).logRec 8 (2 * port + half) 0 n) := by
  have hpower : (n != 2 && n != 4) = false := by rcases hn with h | h <;> simp [h]
  have hgo : (!portExists s port half || decide (n ≤ lanesOf s port half) || decide (maxLanes s < n) || (n != 2 && n != 4)) = false := by
    simp [hp, hlt, hle, hpower]
  simp only [exec, execLaneRestore, hgo, Bool.false_eq_true, if_false]

theorem portRetrainComplete_next (h : tblGet s.svc.retrain (2 * s.cur + s.sub) 0 ≠ 0) : exec .portRetrainComplete s = .next
    (watchPorts { s with svc := { s.svc with retrain := tblPut s.svc.retrain (2 * s.cur + s.sub) 0 } }) := by
  simp only [exec, execPortRetrainComplete, if_neg h]

/-! ### Telemetry and the thermal limits (R428, R429) -/

theorem anyTj_iff {x : TelemInput} {n : Nat} : anyTj x n = true ↔ ∃ t ∈ x.tj, n ≤ t := by simp [anyTj]

theorem anyTj_eq_false {x : TelemInput} {n : Nat} (h : ∀ t ∈ x.tj, t < n) : anyTj x n = false := by
  rw [← Bool.not_eq_true, anyTj_iff]
  rintro ⟨t, ht, hle⟩
  exact absurd (h t ht) (by omega)

theorem starved_eq_false {x : TelemInput} (h : 5 ≤ x.flow) : starved s x = false := by
  have hflow : ¬ x.flow < 5 := by omega
  simp [starved, hflow]

theorem setClock_svc (s : State) (clk : Nat) (kind : Option Nat) :
    (s.setClock clk kind).svc.clk = clk ∧ (s.setClock clk kind).svc.hot = s.svc.hot := by
  cases kind with
  | none => exact ⟨rfl, rfl⟩
  | some k =>
    let s1 : State := { s with svc := { s.svc with clk := clk } }
    by_cases h : clk = s.svc.clk
    · have hs : s.setClock clk (some k) = s1 := if_pos h
      rw [hs]
      exact ⟨rfl, rfl⟩
    · have hs : s.setClock clk (some k) = s1.logRec k 0 0 clk := if_neg h
      obtain ⟨ptr, hptr⟩ := logRec_svc s1 k 0 0 clk
      rw [hs, hptr]
      exact ⟨rfl, rfl⟩

theorem clockStep_hot (s : State) (x : TelemInput) :
    (clockStep s x true).svc.clk = max 300 (s.svc.clk - 50) ∧ (clockStep s x true).svc.hot = s.svc.hot := by
  rw [clockStep, if_pos rfl]
  exact setClock_svc ..

theorem setClock_silent (s : State) (clk : Nat) : (s.setClock clk none).svc.clk = clk ∧ (s.setClock clk none).svc.hot = s.svc.hot
    ∧ (s.setClock clk none).svc.lowFlowSince = s.svc.lowFlowSince ∧ (s.setClock clk none).mem = s.mem := ⟨rfl, rfl, rfl, rfl⟩

theorem clockStep_cool {x : TelemInput} (hcap : ¬ s.hub.plinth.powerCap < x.pwr) :
    (clockStep s x false).svc.clk = min 1200 (s.svc.clk + 50) ∧ (clockStep s x false).svc.hot = s.svc.hot
      ∧ (clockStep s x false).svc.lowFlowSince = s.svc.lowFlowSince ∧ (clockStep s x false).mem = s.mem := by
  simp only [clockStep, Bool.false_eq_true, if_false, if_neg hcap]
  exact setClock_silent ..

/-- A die is hot from 100 degrees on, until every die is below 95. -/
def runsHot (s : State) (x : TelemInput) : Bool := anyTj x 100 || (s.svc.hot && anyTj x 95)

/-- The state in which a telemetry interval has noted the heat and the flow. -/
def noted (s : State) (x : TelemInput) (hot : Bool) : State := { s with svc := { s.svc with hot := hot, lowFlowSince := lowFlow s x } }

/-- The end of a telemetry interval: its record, and the time of the next one. -/
def recorded (t : State) (bits : BitVec 128) (next : Nat) : State := { t with svc := { t.svc with telem := bits, nextTelem := next } }

theorem recorded_spec (t : State) (bits : BitVec 128) (next : Nat) : (recorded t bits next).svc.clk = t.svc.clk
    ∧ (recorded t bits next).svc.hot = t.svc.hot ∧ (recorded t bits next).svc.lowFlowSince = t.svc.lowFlowSince
    ∧ (recorded t bits next).svc.nextTelem = next ∧ (recorded t bits next).svc.telem = bits
    ∧ (recorded t bits next).svc.computeDown = t.svc.computeDown ∧ (recorded t bits next).mem = t.mem
    ∧ (recorded t bits next).launches = t.launches := ⟨rfl, rfl, rfl, rfl, rfl, rfl, rfl, rfl⟩

/-- The interval ends in `t`: with the record of `x` at its clock. -/
def intervalEnd (s t : State) (x : TelemInput) : State := recorded t (telemBits x t.svc.clk) (s.svc.nextTelem + telemInterval)

theorem intervalEnd_spec (s t : State) (x : TelemInput) : (intervalEnd s t x).svc.clk = t.svc.clk
    ∧ (intervalEnd s t x).svc.hot = t.svc.hot ∧ (intervalEnd s t x).svc.lowFlowSince = t.svc.lowFlowSince
    ∧ (intervalEnd s t x).svc.nextTelem = s.svc.nextTelem + telemInterval ∧ (intervalEnd s t x).svc.telem = telemBits x t.svc.clk
    ∧ (intervalEnd s t x).svc.computeDown = t.svc.computeDown ∧ (intervalEnd s t x).mem = t.mem
    ∧ (intervalEnd s t x).launches = t.launches := recorded_spec ..

theorem telemInterval_down {x : TelemInput} (hdue : s.svc.nextTelem ≤ s.time) (hx : anyTj x 110 = true) :
    exec (.telemInterval x) s = .next
      (intervalEnd s (noted s x (runsHot s x)).powerDown x) := by
  have hdue' : ¬ s.time < s.svc.nextTelem := by omega
  simp only [exec, execTelemInterval, if_neg hdue', hx, Bool.true_or, if_true]
  rfl

theorem telemInterval_clock {x : TelemInput} (hdue : s.svc.nextTelem ≤ s.time) (hx : anyTj x 110 = false) (hflow : 5 ≤ x.flow) :
    exec (.telemInterval x) s = .next
      (intervalEnd s (clockStep (noted s x (runsHot s x)) x (runsHot s x)) x) := by
  have hdue' : ¬ s.time < s.svc.nextTelem := by omega
  simp only [exec, execTelemInterval, if_neg hdue', hx, starved_eq_false hflow, Bool.or_self, Bool.false_eq_true, if_false]
  rfl

theorem telemInterval_cool {x : TelemInput} (hdue : s.svc.nextTelem ≤ s.time) (htj : ∀ t ∈ x.tj, t < 95)
    (hpwr : x.pwr ≤ s.hub.plinth.powerCap) (hflow : 5 ≤ x.flow) : ∃ s', exec (.telemInterval x) s = .next s' ∧ s'.mem = s.mem
      ∧ s'.svc.clk = min 1200 (s.svc.clk + 50) ∧ s'.svc.hot = false ∧ s'.svc.lowFlowSince = none
      ∧ s'.svc.nextTelem = s.svc.nextTelem + 1200000 ∧ s'.svc.telem = telemBits x s'.svc.clk := by
  have hlow (n : Nat) (hn : 95 ≤ n) : anyTj x n = false := anyTj_eq_false fun t ht => by have := htj t ht; omega
  have hcap : ¬ (noted s x false).hub.plinth.powerCap < x.pwr := not_lt.mpr hpwr
  have hfl : lowFlow s x = none := by
    have hflow' : ¬ x.flow < 5 := by omega
    simp [lowFlow, hflow']
  refine ⟨_, telemInterval_clock hdue (hlow 110 (by omega)) hflow, ?_⟩
  rw [runsHot, hlow 100 (by omega), hlow 95 (by omega), Bool.and_false, Bool.or_false]
  obtain ⟨hstep, hhot, hlow, hmem⟩ := clockStep_cool hcap
  obtain ⟨hclk', hhot', hlow', hnext, htelem, -, hmem', -⟩ := intervalEnd_spec s (clockStep (noted s x false) x false) x
  exact ⟨hmem'.trans hmem, hclk'.trans hstep, hhot'.trans hhot, (hlow'.trans hlow).trans hfl, hnext, by rw [htelem, hclk']⟩

theorem telemInterval_hot {x : TelemInput} (hdue : s.svc.nextTelem ≤ s.time) (hhot : ∃ t ∈ x.tj, 100 ≤ t)
    (htj : ∀ t ∈ x.tj, t < 110) (hflow : 5 ≤ x.flow) :
    ∃ s', exec (.telemInterval x) s = .next s' ∧ s'.svc.clk = max 300 (s.svc.clk - 50) ∧ s'.svc.hot = true := by
  refine ⟨_, telemInterval_clock hdue (anyTj_eq_false htj) hflow, ?_⟩
  rw [runsHot, anyTj_iff.mpr hhot, Bool.true_or]
  obtain ⟨hstep, hkeep⟩ := clockStep_hot (noted s x true) x
  obtain ⟨hclk, hhot', -⟩ := intervalEnd_spec s (clockStep (noted s x true) x true) x
  exact ⟨hclk.trans hstep, hhot'.trans hkeep⟩

/-! ### The hand-over of firmware (R394) -/

theorem stage_inactive (v : Service) (img : FwImage) (meas : BitVec 256) (st : Nat) : (v.stage img meas st).inactive = img
    ∧ (v.stage img meas st).staged = meas ∧ (v.stage img meas st).fwState = st ∧ (v.stage img meas st).fwActive = v.fwActive := by
  unfold Service.stage Service.inactive Service.staged
  cases v.fwActive <;> simp

theorem telemInterval_limit {x : TelemInput} (hdue : s.svc.nextTelem ≤ s.time) (hx : ∃ t ∈ x.tj, 110 ≤ t) :
    ∃ s', exec (.telemInterval x) s = .next s' ∧ s'.svc.computeDown = true ∧ s'.launches = [] ∧ s'.mem = s.mem
      ∧ s'.svc.clk = s.svc.clk := by
  obtain ⟨hclk, -, -, -, -, hdown, hmem, hlaunches⟩ :=
    intervalEnd_spec s (noted s x (runsHot s x)).powerDown x
  exact ⟨_, telemInterval_down hdue (anyTj_iff.mpr hx), hdown, hlaunches, hmem, hclk⟩

theorem thermalShutdown_limit {x : TelemInput} (hx : ∃ t ∈ x.tj, 110 ≤ t) : ∃ s', exec (.thermalShutdown x) s = .next s'
    ∧ s'.svc.computeDown = true ∧ s'.launches = [] ∧ s'.ops = [] ∧ s'.hub = s.hub ∧ s'.mem = s.mem ∧ s'.time = s.time := by
  refine ⟨s.powerDown, ?_, rfl, rfl, rfl, rfl, rfl, rfl⟩
  simp only [exec, execThermalShutdown, anyTj_iff.mpr hx, Bool.true_or, if_true]

/-- A record leaves the state of the hand-over and the images as they are. -/
theorem logRec_firmware (s : State) (kind unit launch data : Nat) : (s.logRec kind unit launch data).svc.inactive = s.svc.inactive
    ∧ (s.logRec kind unit launch data).svc.staged = s.svc.staged ∧ (s.logRec kind unit launch data).svc.fwState = s.svc.fwState
    ∧ (s.logRec kind unit launch data).svc.fwActive = s.svc.fwActive := by
  obtain ⟨ptr, hptr⟩ := logRec_svc s kind unit launch data
  rw [hptr]
  exact ⟨rfl, rfl, rfl, rfl⟩

theorem fwLoad_next (img : FwImage) (h : s.svc.fwState = 0) : ∃ s', exec (.fwLoad img) s = .next s' ∧ s'.svc.inactive = img
    ∧ s'.svc.staged = Config.sm3 img.bytes ∧ s'.svc.fwState = 1 ∧ s'.svc.fwActive = s.svc.fwActive := by
  let s1 : State := { s with svc := s.svc.stage img (Config.sm3 img.bytes) 1 }
  obtain ⟨hinactive, hstaged, hstate, hactive⟩ := stage_inactive s.svc img (Config.sm3 img.bytes) 1
  obtain ⟨hi, hs, hst, ha⟩ := logRec_firmware s1 9 0 0 img.seq
  refine ⟨s1.logRec 9 0 0 img.seq, ?_, hi.trans hinactive, hs.trans hstaged, hst.trans hstate, ha.trans hactive⟩
  simp [exec, execFwLoad, h, s1]

theorem abortFw_spec (s : State) : s.abortFw.svc.fwState = 0 ∧ s.abortFw.svc.inactive = FwImage.empty
    ∧ s.abortFw.svc.fwActive = s.svc.fwActive := by
  let s1 : State := { s with svc := s.svc.stage FwImage.empty 0 0 }
  obtain ⟨hinactive, -, hstate, hactive⟩ := stage_inactive s.svc FwImage.empty 0 0
  obtain ⟨hi, -, hst, ha⟩ := logRec_firmware s1 11 0 0 s.svc.inactive.seq
  exact ⟨hst.trans hstate, hi.trans hinactive, ha.trans hactive⟩

theorem fwVerify_next (h : s.svc.fwState = 1) : ∃ s', exec .fwVerify s = .next s' ∧ s'.svc.fwState =
    if Config.sm2Checks s.svc.staged s.svc.inactive.sig = true ∧ s.svc.fwRollback ≤ s.svc.inactive.seq then 2 else 0 := by
  by_cases hok : Config.sm2Checks s.svc.staged s.svc.inactive.sig = true ∧ s.svc.fwRollback ≤ s.svc.inactive.seq
  · exact ⟨{ s with svc := { s.svc with fwState := 2 } }, by simp [exec, execFwVerify, h, hok], by rw [if_pos hok]⟩
  · have hstop : (Config.sm2Checks s.svc.staged s.svc.inactive.sig && decide (s.svc.fwRollback ≤ s.svc.inactive.seq)) = false := by
      rwa [← Bool.not_eq_true, Bool.and_eq_true, decide_eq_true_eq]
    refine ⟨s.abortFw, ?_, by rw [if_neg hok]; exact (abortFw_spec s).1⟩
    simp [exec, execFwVerify, h, hstop]

theorem fwCommit_next (h : s.svc.fwState = 3) : exec .fwCommit s = .next ((startSlices { s with
    hub := { s.hub with plinth := s.svc.shadow }
    svc := { s.svc with fwState := 0, fwActive := !s.svc.fwActive, fwRollback := max s.svc.fwRollback s.svc.inactive.seq }
      }).logRec 10 0 0 s.svc.inactive.seq).settleGran := by
  simp [exec, execFwCommit, h]

/-! ### The statement -/

/-- Settles O51: a clause per event, each by the lemma on it. -/
theorem serviceEventsAct : Obligations.ServiceEventsAct := by
  unfold Obligations.ServiceEventsAct
  intro s
  dsimp only
  refine ⟨fun kind unit launch data => ⟨?_, fun h => ?_, fun h => ?_⟩, fun unit hn hc => singleBitError_registers hc hn,
    fun unit hop => doubleBitError_slice hop, fun c is his hsl hr => ifetchParityError_next his hsl hr,
    fun c sup ix d a hr ha hread hc hn => ifetchRefetchComplete_good hr ha hread hc hn,
    fun c sup ix d a hr ha ok hbad => ifetchRefetchComplete_bad hr ha hbad,
    fun c hard hw hoff ht hpre => coreRetirement_free hw hoff ht hpre, fun c hard hw => coreRetirement_unasked hw, hbmRowSpare_next,
    fun st ch hst hch => ⟨hbmChannelSpare_first hst hch, hbmChannelSpare_again hst hch⟩,
    fun port half hp hn => laneFailure_next hp hn, fun port half n hp hlt hle hn => laneRestore_next hp hlt hle hn,
    portRetrainComplete_next, fun x hdue htj hpwr hflow => telemInterval_cool hdue htj hpwr hflow,
    fun x hdue hx => telemInterval_limit hdue hx, fun x hdue hhot htj hflow => telemInterval_hot hdue hhot htj hflow,
    fun x hx => thermalShutdown_limit hx, fwLoad_next, fwVerify_next, fun h => ?_, fwCommit_next, fun h => ?_, fun h => ?_⟩
  · obtain ⟨ptr, hptr⟩ := logRec_svc s kind unit launch data
    rw [hptr]
  · rw [logRec_of_full h]
    exact ⟨rfl, rfl⟩
  · rw [logRec_of_room h]
    exact ⟨rfl, rfl, rfl⟩
  · simp [exec, execFwShadowStart, h]
  · obtain ⟨hstate, hinactive, hactive⟩ := abortFw_spec s
    exact ⟨s.abortFw, by simp [exec, execFwAbort, h], hstate, hinactive, hactive⟩
  · simp [exec, execFwAbort, h]

end Sys2Proof.Service
end
